-- ==== Sys2Proof/Word.lean ====
section
/-! DEFINITION. Word types of the TBX-24 model: register words, bytes and the sparse-map shape of per-instance state. -/

namespace Sys2Proof

/-- A 32-bit register word (02, BAR0 registers). -/
abbrev W32 := BitVec 32
/-- A 64-bit local time or wide value (03). -/
abbrev W64 := BitVec 64
/-- One byte. -/
abbrev Byte := BitVec 8
/-- Per-instance state, sparse: keys strictly rising, no entry equal to what an unlisted key reads as. -/
abbrev NMap (α : Type) := List (Nat × α)

end Sys2Proof
end

