-- ==== Sys2Proof/Syntax.lean ====
section
/-! DEFINITION. The commands of the TBX-24: one constructor per row of the spec's table of operations and events, with the operands the owning chapter gives it. -/

namespace Sys2Proof

/-- How an access reaches a block: through a register by a master identity, or through an I/O port by a thread
(0-95 is thread t of engine e at 4e + t, 96 the policy core) (05, 10, 11, 15). -/
inductive Via where
  | reg (m : Fin 64)
  | port (t : Fin 97)
  deriving DecidableEq, Repr

/-- A BAR0 read: its offset and its size in bytes (02 R20). -/
structure ReadAt where
  off : Nat
  size : Nat
  deriving DecidableEq, Repr

/-- A message of an event's vector or a ring's (ring n is 320 + n), with the vector mask and the function mask that the host has set
in the MSI-X capability by then (02 R50, R450). -/
structure MsixAct where
  src : Fin 328
  mask : BitVec 32
  fn : Bool
  deriving DecidableEq, Repr

/-- Frame kind at the fabric (06 Table 6.2). -/
inductive FKind where
  | eth | can | star
  deriving DecidableEq, Repr

/-- A frame at a fabric ingress: port, source queue for F20-F26, kind, bytes (Ethernet from the destination address,
or a CAN or star record), full length when it is known at the first cell, ingress stamp (06 R137). -/
structure FabIn where
  port : Fin 32
  queue : Option (Fin 4096)
  kind : FKind
  bytes : List (BitVec 8)
  known : Option Nat
  stamp : BitVec 64
  deriving DecidableEq, Repr

/-- What a receiving MAC sees of a frame: its bytes up to the FCS field, the FCS as received, code and alignment errors,
stamp, whether it is a pre-emption fragment error, and whether it is a verify mPacket (07 Table 7.3, R189, R192). -/
structure EthRx where
  bytes : List (BitVec 8)
  fcs : BitVec 32
  symbolErr : Bool
  alignErr : Bool
  fragErr : Bool
  smdV : Bool
  stamp : BitVec 64
  deriving DecidableEq, Repr

/-- How a CAN transmission attempt ends (08 R221, R222, R228): `ackErr` says whether a dominant bit was seen during the error
flag, `stuffErr` whether the stuff bit lay in the arbitration field, which the error counters ask of ISO 11898-1 (R2). -/
inductive AttemptEnd where
  | sent | arbLost | bitErr | otherErr
  | ackErr (dominant : Bool)
  | stuffErr (arbitration : Bool)
  deriving DecidableEq, Repr

/-- How an attempt ends, and how many eights the dominant bits after its error flag add to the error counter (08 R221; 00 R2). -/
structure AttemptOver where
  how : AttemptEnd
  eights : Fin 32
  deriving DecidableEq, Repr

/-- An error seen in reception: a protocol exception or an error frame, and how many eights the dominant bits after the error flag
add (08 R209; 00 R2). -/
structure RxError where
  pexc : Bool
  eights : Fin 32
  deriving DecidableEq, Repr

/-- A classical frame seen by a wake detector (08 R233). -/
structure WakeFrame where
  id : BitVec 29
  ide : Bool
  dlc : BitVec 4
  data : BitVec 64
  deriving DecidableEq, Repr

/-- A node frame at a branch receiver: first transition and end in local time, 4-byte header, payload, tag bytes,
CRC result and whether start sequence and byte count are good (09 Table 9.3, R246). -/
structure StarRx where
  start : BitVec 64
  finish : BitVec 64
  header : BitVec 32
  payload : List (BitVec 8)
  tag : List (BitVec 8)
  crcOk : Bool
  wellFormed : Bool
  deriving DecidableEq, Repr

/-- A reference copy of the primary on the ISL, beside its time and matrix number: current mode, and the switch field with its target
mode and matrix cycle (09 Table 9.7, R261). -/
structure RefCopy where
  mode : Fin 8
  sw : Fin 4
  swMode : Fin 8
  target : BitVec 32
  deriving DecidableEq, Repr

/-- One adaptation of a period: rule, measured value, and the register write the framework makes (13 Table 13.16, 14 R378). -/
structure AdaptAct where
  code : BitVec 8
  rule : BitVec 8
  measured : BitVec 32
  target : BitVec 32
  writes : List (Nat × BitVec 32)
  deriving DecidableEq, Repr

/-- A peer asks an instance to open or close a connection, session, node, point or control block of a kind of Table 14.2, with
`size` members where the kind has a size (14 R375). -/
structure ConnReq where
  kind : Nat
  close : Bool
  size : Nat
  deriving DecidableEq, Repr

/-- What an instance says in a report period: the requests it has served and the words of its status block (14 R375, R379). -/
structure StatusIn where
  reqs : List ConnReq
  words : List (BitVec 32)
  deriving DecidableEq, Repr

/-- What boot reads from the flash for one slot: the SZF header and ciphertext, or a read error (17 R429). -/
structure SlotImage where
  bytes : List (BitVec 8)
  readError : Bool
  deriving DecidableEq, Repr

/-- A configuration set: table entries (table, index, words), bank owners as MEM_OWN holds them, event routes, and the
256 bytes of an envelope as words (02 R52, R452; 13 R371; 17 R431, Table 17.5). -/
structure ConfigSet where
  entries : List (Nat × Nat × List (BitVec 32))
  owners : List (Nat × BitVec 32)
  routes : List (Nat × BitVec 32)
  envelope : List (BitVec 32)
  deriving DecidableEq, Repr

/-- A placement entry (14 R376, R382): process image banks, map doorbell and its sender among them. -/
structure Placement where
  code : Nat
  inst : Nat
  engine : Nat
  engines : Nat
  pio : Nat
  bank : Nat
  banks : Nat
  doorbell : Nat
  sender : Nat
  deriving DecidableEq, Repr

/-- What boot finds in the flash (17 R427-R431): the two copies of the boot control record, the two slots, section 6 of the
image, and of the configuration store the stored set when it is valid, the placement table, the recorder's flash map
(ring base, ring size, boot base, counter base, staging bank) and the key slots whose blob fails to unwrap. -/
structure BootIn where
  ctlA : List (BitVec 8)
  ctlB : List (BitVec 8)
  slotA : SlotImage
  slotB : SlotImage
  sect6 : ConfigSet
  stored : Option ConfigSet
  placement : List Placement
  recMap : List (BitVec 32)
  badKeys : List Nat
  deriving DecidableEq, Repr

/-- The commands (spec/opcode_table.json, in its order). -/
inductive Instr where
  /-- SQ_TAIL_DOORBELL (R449). -/
  | sqTailDoorbell (m : Fin 64) (ring : Fin 8) (v : BitVec 32)
  /-- COMMAND_FETCH (R449). -/
  | commandFetch (ring : Fin 10) (words : List (BitVec 32))
  /-- RING_ENABLE (R449). -/
  | ringEnable (m : Fin 64) (ring : Fin 8) (v : BitVec 32)
  /-- RING_DISABLE (R459). -/
  | ringDisable (m : Fin 64) (ring : Fin 8) (v : BitVec 32)
  /-- CQ_HEAD_ADVANCE (R32). -/
  | cqHeadAdvance (m : Fin 64) (ring : Fin 8) (v : BitVec 32)
  /-- RING_PCIE_ERROR (R459). -/
  | ringPcieError (ring : Fin 8) (isWrite : Bool)
  /-- HIF_NOP (R34). -/
  | hifNop (ring : Fin 10) (slot : Nat)
  /-- SPI_WRITE_COMMAND (R34). -/
  | spiWriteCommand (words : List (BitVec 32))
  /-- SPI_READ_COMPLETION (R32). -/
  | spiReadCompletion
  /-- SPI_WRITE_REGISTER (R22). -/
  | spiWriteRegister (off : Nat) (v : BitVec 32)
  /-- SPI_READ_REGISTER (R22). -/
  | spiReadRegister (off : Nat)
  /-- INBAND_COMMAND_FRAME (R35). -/
  | inbandCommandFrame (port : Fin 16) (bytes : List (BitVec 8))
  /-- INBAND_SEQ_CLEAR (R36). -/
  | inbandSeqClear (m : Fin 64)
  /-- BAR2_ACCESS (R20). -/
  | bar2Access (m : Fin 64) (off : Nat) (len : Nat) (wdata : List (Option (BitVec 8)))
  /-- ACCERR_ID_READ (R28). -/
  | accerrIdRead (m : Fin 64)
  /-- REGISTER_WRITE (R5). -/
  | registerWrite (m : Fin 64) (off : Nat) (size : Nat) (v : BitVec 32)
  /-- COUNTER_READ_CLEAR (R5). -/
  | counterReadClear (m : Fin 64) (x : ReadAt)
  /-- CFG_STAGE (R37). -/
  | cfgStage (ring : Fin 10) (slot : Nat) (data : List (BitVec 32))
  /-- CFG_STAGE_COPY (R451). -/
  | cfgStageCopy (ring : Fin 10) (slot : Nat)
  /-- CFG_CHECK (R39). -/
  | cfgCheck (ring : Fin 10) (slot : Nat)
  /-- CFG_COMMIT (R41). -/
  | cfgCommit (ring : Fin 10) (slot : Nat)
  /-- SOLSTICE (R44). -/
  | solstice
  /-- CFG_ABORT (R47). -/
  | cfgAbort (ring : Fin 10) (slot : Nat)
  /-- MSIX_MESSAGE (R50). -/
  | msixMessage (x : MsixAct)
  /-- EVT_OUT_PULSE_END (R448). -/
  | evtOutPulseEnd (pin : Fin 4)
  /-- TIME_ADJUST_STEP (R67). -/
  | timeAdjustStep (ring : Fin 10) (slot : Nat)
  /-- TIME_ADJUST_SLEW (R69). -/
  | timeAdjustSlew (ring : Fin 10) (slot : Nat)
  /-- TIME_ADJUST_CANCEL (R70). -/
  | timeAdjustCancel (ring : Fin 10) (slot : Nat)
  /-- TIME_ADJ_CTRL_STEP (R67). -/
  | timeAdjCtrlStep (m : Fin 64) (v : BitVec 32)
  /-- TIME_ADJ_CTRL_SLEW (R69). -/
  | timeAdjCtrlSlew (m : Fin 64) (v : BitVec 32)
  /-- TIME_ADJ_CTRL_CANCEL (R70). -/
  | timeAdjCtrlCancel (m : Fin 64) (v : BitVec 32)
  /-- STEP_APPLY (R73). -/
  | stepApply
  /-- SLEW_END (R70). -/
  | slewEnd
  /-- INCR_FRAC_WRITE (R63). -/
  | incrFracWrite (m : Fin 64) (v : BitVec 32)
  /-- INCR_NS_WRITE (R62). -/
  | incrNsWrite (m : Fin 64) (v : BitVec 32)
  /-- TIME_NOW_READ (R65). -/
  | timeNowRead (m : Fin 64)
  /-- STAMP_QUEUE_POP (R80). -/
  | stampQueuePop (m : Fin 64) (tx : Bool)
  /-- PPS_IN_EDGE (R86). -/
  | ppsInEdge (stamp : BitVec 64)
  /-- PPS_IN_MISSING (R86). -/
  | ppsInMissing
  /-- EQX_IN_EDGE (R86). -/
  | eqxInEdge (stamp : BitVec 64)
  /-- PPS_OUT_PULSE (R85). -/
  | ppsOutPulse
  /-- TIME_PIN_PULSE_END (R85). -/
  | timePinPulseEnd (pin : Fin 5)
  /-- ALARM_ARM (R87). -/
  | alarmArm (m : Fin 64) (n : Fin 2)
  /-- ALARM_DISARM (R87). -/
  | alarmDisarm (m : Fin 64) (n : Fin 2)
  /-- ALARM_FIRE (R88). -/
  | alarmFire (n : Fin 2)
  /-- MEM_OWN_START (R101). -/
  | memOwnStart (m : Fin 64) (v : BitVec 32)
  /-- HANDOVER_DRAINED (R101). -/
  | handoverDrained (b : Fin 384)
  /-- HANDOVER_DONE (R101). -/
  | handoverDone (b : Fin 384)
  /-- MEM_HANDOVER (R106). -/
  | memHandover (ring : Fin 10) (slot : Nat)
  /-- MEM_TEST (R111). -/
  | memTest (ring : Fin 10) (slot : Nat)
  /-- MARCH_BANK_DONE (R114). -/
  | marchBankDone (b : Fin 384) (rows : List Nat) (cols : List Nat) (again : Bool)
  /-- MEM_ECC_UE_READ (R97). -/
  | memEccUeRead (m : Fin 64)
  /-- BANK_THAW_DONE (R107). -/
  | bankThawDone (b : Fin 384)
  /-- BANK_FROST_IDLE (R107). -/
  | bankFrostIdle (b : Fin 384)
  /-- MEM_PWR_REQ (R108). -/
  | memPwrReq (m : Fin 64) (v : BitVec 32)
  /-- MEM_QUOTA_WRITE (R59). -/
  | memQuotaWrite (m : Fin 64) (c : Fin 39) (v : BitVec 32)
  /-- ENQUEUE (R458). -/
  | enqueue (via : Via) (v : BitVec 32)
  /-- NOTICE_COALESCE_TIMEOUT (R124). -/
  | noticeCoalesceTimeout (q : Fin 4096)
  /-- DEQUEUE (R119). -/
  | dequeue (via : Via)
  /-- MARK (R127). -/
  | qmark (via : Via)
  /-- REWIND (R127). -/
  | rewind (via : Via)
  /-- RELEASE (R127). -/
  | release (via : Via)
  /-- FLUSH (R128). -/
  | flush (via : Via)
  /-- NOTICE_LIST_POP (R125). -/
  | noticeListPop (via : Via)
  /-- NOTICE_GROUP_POP (R125). -/
  | noticeGroupPop (m : Fin 64) (g : Fin 12)
  /-- QUEUE_ENABLE (R132). -/
  | queueEnable (m : Fin 64) (v : BitVec 32)
  /-- QUEUE_DISABLE (R132). -/
  | queueDisable (m : Fin 64) (v : BitVec 32)
  /-- QUEUE_STARTED (R132). -/
  | queueStarted (q : Fin 4096)
  /-- QM_Q_BIND_WRITE (R131). -/
  | qmQBindWrite (m : Fin 64) (v : BitVec 32)
  /-- QM_Q_LIMIT_WRITE (R59). -/
  | qmQLimitWrite (m : Fin 64) (v : BitVec 32)
  /-- FABRIC_FIRST_CELL (R137). -/
  | fabricFirstCell (f : FabIn)
  /-- FABRIC_LAST_CELL (R137). -/
  | fabricLastCell (fid : Nat) (len : Nat) (ok : Bool)
  /-- RED_IDLE_UPDATE (R156). -/
  | redIdleUpdate (eq : Fin 216)
  /-- RESEQUENCING_LOSS (R164). -/
  | resequencingLoss (fid : Nat)
  /-- AGE_SWEEP (R145). -/
  | ageSweep
  /-- MC_RESIDUE_AGED (R165). -/
  | mcResidueAged (fid : Nat)
  /-- FAB_ACT_READ (R174). -/
  | fabActRead (m : Fin 64)
  /-- FAB_ACT_APPLY (R174). -/
  | fabActApply (m : Fin 64)
  /-- CAN_ROUTER_FRAME (R170). -/
  | canRouterFrame (ch : Fin 32) (rec : List (BitVec 8)) (stamp : BitVec 64)
  /-- ETH_MODE_WRITE (R176). -/
  | ethModeWrite (m : Fin 64) (v : BitVec 32)
  /-- PORT_ENABLE (R177). -/
  | portEnable (m : Fin 64) (v : BitVec 32)
  /-- PORT_DISABLE (R177). -/
  | portDisable (m : Fin 64) (v : BitVec 32)
  /-- PORT_STARTED (R177). -/
  | portStarted (p : Fin 16)
  /-- PORT_STOPPED (R177). -/
  | portStopped (p : Fin 16)
  /-- LINK_CHANGE (R178). -/
  | linkChange (p : Fin 16) (up : Bool) (rate : Fin 8)
  /-- ETH_RX_FRAME (R180). -/
  | ethRxFrame (p : Fin 16) (rx : EthRx)
  /-- PFC_FRAME_RX (R193). -/
  | pfcFrameRx (p : Fin 16) (en : BitVec 8) (times : List (BitVec 16))
  /-- PAUSE_FRAME_RX (R193). -/
  | pauseFrameRx (p : Fin 16) (quanta : BitVec 16)
  /-- PAUSE_EXPIRED (R193). -/
  | pauseExpired (p : Fin 16) (c : Fin 8)
  /-- PFC_REFRESH (R194). -/
  | pfcRefresh (p : Fin 16)
  /-- GATE_ENTRY_CHANGE (R185). -/
  | gateEntryChange (p : Fin 16)
  /-- ETH_TX_START (R186). -/
  | ethTxStart (p : Fin 16)
  /-- ETH_TX_END (R186). -/
  | ethTxEnd (p : Fin 16)
  /-- TX_UNDERRUN (R202). -/
  | txUnderrun (p : Fin 16)
  /-- TX_THR_WRITE (R203). -/
  | txThrWrite (m : Fin 64) (v : BitVec 32)
  /-- PREEMPT_VERIFY_SEND (R189). -/
  | preemptVerifySend (p : Fin 16)
  /-- PREEMPT_RESPOND_RX (R189). -/
  | preemptRespondRx (p : Fin 16)
  /-- EEE_LPI_ENTER (R195). -/
  | eeeLpiEnter (p : Fin 16)
  /-- EEE_LPI_EXIT (R195). -/
  | eeeLpiExit (p : Fin 16)
  /-- PRP_ENTRY_FORGET (R197). -/
  | prpEntryForget (pair : Fin 6)
  /-- MDIO_WRITE (R5). -/
  | mdioWrite (m : Fin 64) (bus : Fin 2) (v : BitVec 32)
  /-- MDIO_READ (R5). -/
  | mdioRead (m : Fin 64) (bus : Fin 2) (v : BitVec 32)
  /-- MDIO_ADDRESS (R5). -/
  | mdioAddress (m : Fin 64) (bus : Fin 2) (v : BitVec 32)
  /-- MDIO_DONE (R5). -/
  | mdioDone (bus : Fin 2) (data : BitVec 16)
  /-- COUNTER64_LO_READ (R204). -/
  | counter64LoRead (m : Fin 64) (k : Fin 4)
  /-- CHANNEL_ENABLE (R206). -/
  | channelEnable (m : Fin 64) (v : BitVec 32)
  /-- CHANNEL_DISABLE (R206). -/
  | channelDisable (m : Fin 64) (v : BitVec 32)
  /-- CHANNEL_INTEGRATED (R206). -/
  | channelIntegrated (c : Fin 32)
  /-- CHANNEL_STOPPED (R206). -/
  | channelStopped (c : Fin 32)
  /-- CAN_RX_FRAME (R209). -/
  | canRxFrame (c : Fin 32) (rec : List (BitVec 8)) (stamp : BitVec 64)
  /-- HPB_POP (R211). -/
  | hpbPop (m : Fin 64)
  /-- CAN_TX_ARRIVE (R219). -/
  | canTxArrive (c : Fin 32) (rec : List (BitVec 8)) (cls : Fin 8)
  /-- CAN_TX_ATTEMPT (R221). -/
  | canTxAttempt (c : Fin 32) (stamp : BitVec 64)
  /-- CAN_ATTEMPT_END (R221). -/
  | canAttemptEnd (c : Fin 32) (x : AttemptOver)
  /-- BUS_OFF_RECOVER (R223). -/
  | busOffRecover (m : Fin 64) (v : BitVec 32)
  /-- RECOVERY_DONE (R223). -/
  | recoveryDone (c : Fin 32)
  /-- SCHEDULED_SLOT_RELEASE (R224). -/
  | scheduledSlotRelease (c : Fin 32)
  /-- TX_LOG_POP (R225). -/
  | txLogPop (m : Fin 64)
  /-- CANCEL_BY_TAG (R226). -/
  | cancelByTag (m : Fin 64) (tag : BitVec 8)
  /-- HEAD_ABORT (R226). -/
  | headAbort (m : Fin 64)
  /-- HEAD_ABORT_REQUEUE (R227). -/
  | headAbortRequeue (m : Fin 64)
  /-- BUS_SLEEP_REQUEST (R230). -/
  | busSleepRequest (m : Fin 64) (v : BitVec 32)
  /-- BUS_WAKE_REQUEST (R230). -/
  | busWakeRequest (m : Fin 64) (v : BitVec 32)
  /-- HOLD_EXPIRED (R231). -/
  | holdExpired (c : Fin 32)
  /-- WAKE_SETTLE_EXPIRED (R232). -/
  | wakeSettleExpired (c : Fin 32)
  /-- WAKE_UP_PATTERN_SENT (R232). -/
  | wakeUpPatternSent (c : Fin 32)
  /-- WAKE_UP_PATTERN_DETECT (R233). -/
  | wakeUpPatternDetect (c : Fin 8)
  /-- WAKE_UP_FRAME_MATCH (R233). -/
  | wakeUpFrameMatch (c : Fin 8) (fr : WakeFrame)
  /-- CAN_ACT_READ (R218). -/
  | canActRead (m : Fin 64)
  /-- CAN_ACT_APPLY (R218). -/
  | canActApply (m : Fin 64)
  /-- STAR_ENABLE (R253). -/
  | starEnable (m : Fin 64) (v : BitVec 32)
  /-- STAR_STARTED (R253). -/
  | starStarted
  /-- STAR_DISABLE (R254). -/
  | starDisable (m : Fin 64) (v : BitVec 32)
  /-- STAR_STOPPED (R254). -/
  | starStopped
  /-- CLAIM_SEND (R260). -/
  | claimSend
  /-- CLAIM_FRAME_RX (R260). -/
  | claimFrameRx (id : Fin 16) (running : Bool) (mc : BitVec 32) (now : BitVec 64)
  /-- CLAIM_DECISION (R260). -/
  | claimDecision
  /-- SECONDARY_ALIGN (R261). -/
  | secondaryAlign (islDelay : Nat) (refNow : BitVec 64) (mc : BitVec 32) (x : RefCopy) (start : BitVec 64)
  /-- RUN_START (R253). -/
  | runStart
  /-- BASIC_CYCLE_START (R257). -/
  | basicCycleStart
  /-- REFERENCE_FRAME_SEND (R238). -/
  | referenceFrameSend (n : Fin 24)
  /-- MODE_SWITCH_REQUEST (R255). -/
  | modeSwitchRequest (m : Fin 64) (v : BitVec 32)
  /-- GUARDIAN_OPEN (R246). -/
  | guardianOpen (n : Fin 24)
  /-- GUARDIAN_CLOSE (R246). -/
  | guardianClose (n : Fin 24)
  /-- STAR_FRAME_RX (R239). -/
  | starFrameRx (n : Fin 24) (fr : StarRx)
  /-- ARBITRATION_DECISION (R244). -/
  | arbitrationDecision
  /-- SLOT_BUFFER_WRITE (R241). -/
  | slotBufferWrite (rec : List (BitVec 8))
  /-- SLOT_SNAPSHOT (R241). -/
  | slotSnapshot (w : Fin 64)
  /-- DEVICE_FRAME_SEND (R241). -/
  | deviceFrameSend (w : Fin 64)
  /-- ECHO_REQUEST_SEND (R250). -/
  | echoRequestSend (n : Fin 24)
  /-- ECHO_RESPONSE_RX (R250). -/
  | echoResponseRx (n : Fin 24) (roundTrip : Nat) (turnaround : Nat) (valid : Bool)
  /-- EQUINOX (R258). -/
  | equinox
  /-- BRANCH_ENABLE (R251). -/
  | branchEnable (m : Fin 64) (v : BitVec 32)
  /-- BRANCH_DISABLE (R251). -/
  | branchDisable (m : Fin 64) (v : BitVec 32)
  /-- BRANCH_READMIT (R247). -/
  | branchReadmit (m : Fin 64) (v : BitVec 32)
  /-- BRANCH_REMEASURE (R251). -/
  | branchRemeasure (m : Fin 64) (v : BitVec 32)
  /-- BRANCH_QUAR_SET (R248). -/
  | branchQuarSet (m : Fin 64) (v : BitVec 32)
  /-- BRANCH_QUAR_CLEAR (R248). -/
  | branchQuarClear (m : Fin 64) (v : BitVec 32)
  /-- ISL_UP (R260). -/
  | islUp
  /-- ISL_DOWN (R262). -/
  | islDown
  /-- STAR_WAKE_PATTERN (R264). -/
  | starWakePattern (n : Fin 4)
  /-- PIO_FETCH (R272). -/
  | pioFetch (b : Fin 12) (s : Fin 4)
  /-- JUMP (R269). -/
  | pioJump (b : Fin 12) (sm : Fin 4)
  /-- AWAIT (R269). -/
  | pioAwait (b : Fin 12) (sm : Fin 4)
  /-- SHIN (R270). -/
  | pioShin (b : Fin 12) (sm : Fin 4)
  /-- SHOUT (R270). -/
  | pioShout (b : Fin 12) (sm : Fin 4)
  /-- TAKE (R269). -/
  | pioTake (b : Fin 12) (sm : Fin 4)
  /-- GIVE (R269). -/
  | pioGive (b : Fin 12) (sm : Fin 4)
  /-- COPY (R269). -/
  | pioCopy (b : Fin 12) (sm : Fin 4)
  /-- DRIVE (R269). -/
  | pioDrive (b : Fin 12) (sm : Fin 4)
  /-- SIGNAL (R269). -/
  | pioSignal (b : Fin 12) (sm : Fin 4)
  /-- PIO_NO_OPERATION (R269). -/
  | pioNoOperation (b : Fin 12) (sm : Fin 4)
  /-- PIO_HALT (R276). -/
  | pioHalt (m : Fin 64) (v : BitVec 32)
  /-- PIO_RESTART (R275). -/
  | pioRestart (m : Fin 64) (v : BitVec 32)
  /-- PIO_PHASE_RESTART (R276). -/
  | pioPhaseRestart (m : Fin 64) (v : BitVec 32)
  /-- PIO_START (R276). -/
  | pioStart (m : Fin 64) (v : BitVec 32)
  /-- PIO_GSTART_LO_WRITE (R276). -/
  | pioGstartLoWrite (m : Fin 64) (v : BitVec 32)
  /-- PIO_GSTART (R276). -/
  | pioGstart (m : Fin 64) (v : BitVec 32)
  /-- PIO_TX_FIFO_WRITE (R277). -/
  | pioTxFifoWrite (via : Via) (sm : Fin 4) (v : BitVec 32) (blocking : Bool)
  /-- PIO_RX_FIFO_READ (R277). -/
  | pioRxFifoRead (via : Via) (sm : Fin 4) (blocking : Bool)
  /-- PIO_FLAG_WRITE (R280). -/
  | pioFlagWrite (via : Via) (set : BitVec 8) (clear : BitVec 8)
  /-- IMEM_WRITE (R273). -/
  | imemWrite (via : Via) (i : Fin 64) (v : BitVec 32)
  /-- SM_FRAME_WRITE (R279). -/
  | smFrameWrite (via : Via) (sm : Fin 4) (v : BitVec 32)
  /-- ENG_LOAD (R304). -/
  | engLoad (ring : Fin 10) (slot : Nat) (data : List (BitVec 32)) (readError : Bool)
  /-- ENG_START (R305). -/
  | engStart (ring : Fin 10) (slot : Nat)
  /-- ENG_STOP (R306). -/
  | engStop (ring : Fin 10) (slot : Nat)
  /-- ENG_CTRL_START (R305). -/
  | engCtrlStart (m : Fin 64) (v : BitVec 32)
  /-- ENG_CTRL_STOP (R306). -/
  | engCtrlStop (m : Fin 64) (v : BitVec 32)
  /-- ENG_CTRL_STEP (R308). -/
  | engCtrlStep (m : Fin 64) (v : BitVec 32)
  /-- THREAD_STARTED (R285). -/
  | threadStarted (t : Fin 96)
  /-- THREAD_STOPPED (R285). -/
  | threadStopped (t : Fin 96)
  /-- BREAKPOINT (R308). -/
  | breakpoint (t : Fin 96)
  /-- MEMORY_OP_COMPLETE (R294). -/
  | memoryOpComplete (t : Fin 97) (k : Nat)
  /-- BUDGET_PERIOD_START (R286). -/
  | budgetPeriodStart
  /-- ENG_T_BUDGET_WRITE (R286). -/
  | engTBudgetWrite (m : Fin 64) (v : BitVec 32)
  /-- ENG_IMEM_DATA_WRITE (R288). -/
  | engImemDataWrite (m : Fin 64) (v : BitVec 32)
  /-- ENG_LMEM_DATA_ACCESS (R309). -/
  | engLmemDataAccess (m : Fin 64) (wr : Option (BitVec 32))
  /-- ENG_T_GDATA_WRITE (R308). -/
  | engTGdataWrite (m : Fin 64) (pc : Bool) (v : BitVec 32)
  /-- TIMEOUT_ARM (R300). -/
  | timeoutArm (t : Fin 97) (v : BitVec 32)
  /-- TIMEOUT_DISARM (R300). -/
  | timeoutDisarm (t : Fin 97)
  /-- WAIT_TIMEOUT (R300). -/
  | waitTimeout (t : Fin 97)
  /-- LOCAL_TIMER_START (R296). -/
  | localTimerStart (t : Fin 96) (v : BitVec 32)
  /-- LOCAL_TIMER_EXPIRY (R296). -/
  | localTimerExpiry (t : Fin 96)
  /-- WAITT_DONE (R297). -/
  | waittDone (t : Fin 97)
  /-- WAITE_DONE (R298). -/
  | waiteDone (t : Fin 97)
  /-- WAITQ_DONE (R299). -/
  | waitqDone (t : Fin 97)
  /-- CRC_INIT (R303). -/
  | crcInit (t : Fin 97) (v : BitVec 32)
  /-- CRC_FEED (R303). -/
  | crcFeed (t : Fin 97) (port : Fin 3) (v : BitVec 32)
  /-- ADD (R315). -/
  | add (t : Fin 97) (rd : Fin 32) (ra : Fin 32) (rb : Fin 32)
  /-- SUB (R315). -/
  | sub (t : Fin 97) (rd : Fin 32) (ra : Fin 32) (rb : Fin 32)
  /-- AND (R312). -/
  | andd (t : Fin 97) (rd : Fin 32) (ra : Fin 32) (rb : Fin 32)
  /-- OR (R312). -/
  | orr (t : Fin 97) (rd : Fin 32) (ra : Fin 32) (rb : Fin 32)
  /-- XOR (R312). -/
  | xor (t : Fin 97) (rd : Fin 32) (ra : Fin 32) (rb : Fin 32)
  /-- MIN (R312). -/
  | ezMin (t : Fin 97) (rd : Fin 32) (ra : Fin 32) (rb : Fin 32)
  /-- MAX (R312). -/
  | ezMax (t : Fin 97) (rd : Fin 32) (ra : Fin 32) (rb : Fin 32)
  /-- TDIF (R315). -/
  | tdif (t : Fin 97) (rd : Fin 32) (ra : Fin 32) (rb : Fin 32)
  /-- NEG (R315). -/
  | neg (t : Fin 97) (rd : Fin 32) (ra : Fin 32)
  /-- ABS (R315). -/
  | abs (t : Fin 97) (rd : Fin 32) (ra : Fin 32)
  /-- CLZ (R318). -/
  | clz (t : Fin 97) (rd : Fin 32) (ra : Fin 32)
  /-- POPC (R318). -/
  | popc (t : Fin 97) (rd : Fin 32) (ra : Fin 32)
  /-- SLL (R317). -/
  | sll (t : Fin 97) (rd : Fin 32) (ra : Fin 32) (rb : Fin 32)
  /-- SRL (R317). -/
  | srl (t : Fin 97) (rd : Fin 32) (ra : Fin 32) (rb : Fin 32)
  /-- SRA (R317). -/
  | sra (t : Fin 97) (rd : Fin 32) (ra : Fin 32) (rb : Fin 32)
  /-- ROR (R317). -/
  | ror (t : Fin 97) (rd : Fin 32) (ra : Fin 32) (rb : Fin 32)
  /-- SLLI (R317). -/
  | slli (t : Fin 97) (rd : Fin 32) (ra : Fin 32) (n : Fin 32)
  /-- SRLI (R317). -/
  | srli (t : Fin 97) (rd : Fin 32) (ra : Fin 32) (n : Fin 32)
  /-- SRAI (R317). -/
  | srai (t : Fin 97) (rd : Fin 32) (ra : Fin 32) (n : Fin 32)
  /-- RORI (R317). -/
  | rori (t : Fin 97) (rd : Fin 32) (ra : Fin 32) (n : Fin 32)
  /-- ADDI (R315). -/
  | addi (t : Fin 97) (rd : Fin 32) (ra : Fin 32) (imm : BitVec 16)
  /-- ANDI (R312). -/
  | andi (t : Fin 97) (rd : Fin 32) (ra : Fin 32) (imm : BitVec 16)
  /-- ORI (R312). -/
  | ori (t : Fin 97) (rd : Fin 32) (ra : Fin 32) (imm : BitVec 16)
  /-- XORI (R312). -/
  | xori (t : Fin 97) (rd : Fin 32) (ra : Fin 32) (imm : BitVec 16)
  /-- LUI (R312). -/
  | lui (t : Fin 97) (rd : Fin 32) (imm : BitVec 16)
  /-- BPERM (R320). -/
  | bperm (t : Fin 97) (rd : Fin 32) (ra : Fin 32) (imm : BitVec 16)
  /-- MUL (R313). -/
  | mul (t : Fin 97) (rd : Fin 32) (ra : Fin 32) (rb : Fin 32)
  /-- MULHS (R313). -/
  | mulhs (t : Fin 97) (rd : Fin 32) (ra : Fin 32) (rb : Fin 32)
  /-- MULHU (R313). -/
  | mulhu (t : Fin 97) (rd : Fin 32) (ra : Fin 32) (rb : Fin 32)
  /-- DIVS (R316). -/
  | divs (t : Fin 97) (rd : Fin 32) (ra : Fin 32) (rb : Fin 32)
  /-- DIVU (R316). -/
  | divu (t : Fin 97) (rd : Fin 32) (ra : Fin 32) (rb : Fin 32)
  /-- REMS (R316). -/
  | rems (t : Fin 97) (rd : Fin 32) (ra : Fin 32) (rb : Fin 32)
  /-- REMU (R316). -/
  | remu (t : Fin 97) (rd : Fin 32) (ra : Fin 32) (rb : Fin 32)
  /-- BFX (R319). -/
  | bfx (t : Fin 97) (rd : Fin 32) (ra : Fin 32) (pos : Fin 32) (len1 : Fin 32)
  /-- BFXS (R319). -/
  | bfxs (t : Fin 97) (rd : Fin 32) (ra : Fin 32) (pos : Fin 32) (len1 : Fin 32)
  /-- BFI (R319). -/
  | bfi (t : Fin 97) (rd : Fin 32) (ra : Fin 32) (pos : Fin 32) (len1 : Fin 32)
  /-- BEQ (R311). -/
  | beq (t : Fin 97) (ra : Fin 32) (rb : Fin 32) (off : BitVec 16)
  /-- BNE (R311). -/
  | bne (t : Fin 97) (ra : Fin 32) (rb : Fin 32) (off : BitVec 16)
  /-- BLT (R311). -/
  | blt (t : Fin 97) (ra : Fin 32) (rb : Fin 32) (off : BitVec 16)
  /-- BGE (R311). -/
  | bge (t : Fin 97) (ra : Fin 32) (rb : Fin 32) (off : BitVec 16)
  /-- BLTU (R311). -/
  | bltu (t : Fin 97) (ra : Fin 32) (rb : Fin 32) (off : BitVec 16)
  /-- BGEU (R311). -/
  | bgeu (t : Fin 97) (ra : Fin 32) (rb : Fin 32) (off : BitVec 16)
  /-- JMP (R311). -/
  | jmp (t : Fin 97) (off : BitVec 26)
  /-- CALL (R321). -/
  | call (t : Fin 97) (off : BitVec 26)
  /-- JR (R311). -/
  | jr (t : Fin 97) (ra : Fin 32)
  /-- CALLR (R321). -/
  | callr (t : Fin 97) (ra : Fin 32)
  /-- RET (R322). -/
  | ret (t : Fin 97)
  /-- LOOP (R324). -/
  | loop (t : Fin 97) (ra : Fin 32) (len : BitVec 16)
  /-- LOOPI (R324). -/
  | loopi (t : Fin 97) (count : BitVec 10) (len : BitVec 16)
  /-- LEAVE (R327). -/
  | leave (t : Fin 97)
  /-- LDB (R287). -/
  | ldb (t : Fin 97) (rd : Fin 32) (ra : Fin 32) (imm : BitVec 16)
  /-- LDBU (R287). -/
  | ldbu (t : Fin 97) (rd : Fin 32) (ra : Fin 32) (imm : BitVec 16)
  /-- LDH (R287). -/
  | ldh (t : Fin 97) (rd : Fin 32) (ra : Fin 32) (imm : BitVec 16)
  /-- LDHU (R287). -/
  | ldhu (t : Fin 97) (rd : Fin 32) (ra : Fin 32) (imm : BitVec 16)
  /-- LDW (R287). -/
  | ldw (t : Fin 97) (rd : Fin 32) (ra : Fin 32) (imm : BitVec 16)
  /-- STB (R291). -/
  | stb (t : Fin 97) (rs : Fin 32) (ra : Fin 32) (imm : BitVec 16)
  /-- STH (R291). -/
  | sth (t : Fin 97) (rs : Fin 32) (ra : Fin 32) (imm : BitVec 16)
  /-- STW (R291). -/
  | stw (t : Fin 97) (rs : Fin 32) (ra : Fin 32) (imm : BitVec 16)
  /-- AADD (R329). -/
  | aadd (t : Fin 97) (rd : Fin 32) (ra : Fin 32) (rb : Fin 32) (w : Bool)
  /-- ASWP (R329). -/
  | aswp (t : Fin 97) (rd : Fin 32) (ra : Fin 32) (rb : Fin 32) (w : Bool)
  /-- IN (R330). -/
  | inPort (t : Fin 97) (rd : Fin 32) (ra : Fin 32) (imm : BitVec 16)
  /-- OUT (R330). -/
  | outPort (t : Fin 97) (rs : Fin 32) (ra : Fin 32) (imm : BitVec 16)
  /-- IN_SPECIAL (R330). -/
  | inSpecial (t : Fin 97) (rd : Fin 32) (num : BitVec 16)
  /-- OUT_SPECIAL (R330). -/
  | outSpecial (t : Fin 97) (rs : Fin 32) (num : BitVec 16)
  /-- LDC (R331). -/
  | ldc (t : Fin 97) (rd : Fin 32) (ra : Fin 32) (imm : BitVec 16)
  /-- STC (R331). -/
  | stc (t : Fin 97) (rs : Fin 32) (ra : Fin 32) (imm : BitVec 16)
  /-- NOP (R312). -/
  | ezNop (t : Fin 97)
  /-- YIELD (R284). -/
  | yield (t : Fin 97)
  /-- HALT (R285). -/
  | halt (t : Fin 97)
  /-- WAITT (R297). -/
  | waitt (t : Fin 97) (ra : Fin 32)
  /-- WAITE (R298). -/
  | waite (t : Fin 97) (rd : Fin 32) (ra : Fin 32)
  /-- WAITQ (R299). -/
  | waitq (t : Fin 97) (rd : Fin 32)
  /-- SYS (R335). -/
  | sys (t : Fin 97) (code : BitVec 10)
  /-- ERET (R338). -/
  | eret (t : Fin 97)
  /-- ILLEGAL (R312). -/
  | illegal (t : Fin 97) (word : BitVec 32)
  /-- EVENT (R340). -/
  | event
  /-- LOCKSTEP_MISMATCH (R344). -/
  | lockstepMismatch
  /-- POL_ENABLE (R346). -/
  | polEnable (m : Fin 64) (v : BitVec 32)
  /-- POL_DISABLE (R346). -/
  | polDisable (m : Fin 64) (v : BitVec 32)
  /-- POL_LOAD (R347). -/
  | polLoad (ring : Fin 10) (slot : Nat) (data : List (BitVec 32))
  /-- POL_ENVELOPE (R371). -/
  | polEnvelope (ring : Fin 10) (slot : Nat) (data : List (BitVec 32))
  /-- POLICY_TIMER_EXPIRY (R349). -/
  | policyTimerExpiry
  /-- WDT4_KICK (R423). -/
  | wdt4Kick
  /-- WDT3_KICK (R423). -/
  | wdt3Kick (m : Fin 64)
  /-- WATCHDOG_EXPIRY (R423). -/
  | watchdogExpiry (level : Bool)
  /-- DECISION_RECORD (R378). -/
  | decisionRecord (v : BitVec 32)
  /-- POL_TBL_READ (R354). -/
  | polTblRead (m : Fin 64)
  /-- SIGNAL_SOURCE_FRAME (R352). -/
  | signalSourceFrame (r : Fin 8192) (n : Fin 24) (q : Fin 4096)
  /-- SIGNAL_CYCLIC_SEND (R352). -/
  | signalCyclicSend (r : Fin 8192)
  /-- SIGNAL_DEADLINE (R353). -/
  | signalDeadline (r : Fin 8192)
  /-- WAKE_RULE_APPLY (R355). -/
  | wakeRuleApply (trigger : Fin 8) (index : Nat)
  /-- ADAPTATION_PERIOD (R373). -/
  | adaptationPeriod (acts : List AdaptAct)
  /-- RECIRC_PACKET (R362). -/
  | recircPacket (q : Fin 4096)
  /-- CRYPTO_SUBMIT (R366). -/
  | cryptoSubmit (t : Fin 97) (addr : BitVec 32)
  /-- CRYPTO_COMPLETION_POP (R366). -/
  | cryptoCompletionPop (t : Fin 97)
  /-- TAG (R365). -/
  | tag (t : Fin 97) (k : Nat)
  /-- VERIFY (R360). -/
  | verify (t : Fin 97) (k : Nat)
  /-- CMAC (R363). -/
  | cmac (t : Fin 97) (k : Nat)
  /-- GCM_ENCRYPT (R363). -/
  | gcmEncrypt (t : Fin 97) (k : Nat)
  /-- GCM_DECRYPT (R363). -/
  | gcmDecrypt (t : Fin 97) (k : Nat)
  /-- SHA_256 (R363). -/
  | sha256 (t : Fin 97) (k : Nat)
  /-- HMAC_SHA_256 (R363). -/
  | hmacSha256 (t : Fin 97) (k : Nat)
  /-- KEY_UNWRAP (R367). -/
  | keyUnwrap (t : Fin 97) (k : Nat)
  /-- KEY_DERIVE (R367). -/
  | keyDerive (t : Fin 97) (k : Nat)
  /-- KEY_ERASE (R368). -/
  | keyErase (t : Fin 97) (k : Nat)
  /-- RANDOM (R363). -/
  | random (t : Fin 97) (k : Nat)
  /-- KEY_INSTALL (R367). -/
  | keyInstall (m : Fin 64) (v : BitVec 32)
  /-- KEY_CTRL_ERASE (R367). -/
  | keyCtrlErase (m : Fin 64) (v : BitVec 32)
  /-- PROV_LOCK_WRITE (R367). -/
  | provLockWrite (m : Fin 64) (v : BitVec 32)
  /-- STATUS_REPORT (R379). -/
  | statusReport (inst : Nat) (x : StatusIn)
  /-- MAP_SWITCH (R382). -/
  | mapSwitch (inst : Nat)
  /-- DOORBELL_POST (R387). -/
  | doorbellPost (via : Via) (ch : Fin 64) (v : BitVec 32)
  /-- DOORBELL_TAKE (R387). -/
  | doorbellTake (via : Via) (ch : Fin 64)
  /-- BLOCK_WORD_WRITE (R388). -/
  | blockWordWrite (via : Via) (w : Fin 16) (v : BitVec 32)
  /-- BLOCK_POST (R388). -/
  | blockPost (via : Via) (tmo : Nat)
  /-- BLOCK_TAKE (R388). -/
  | blockTake (via : Via)
  /-- MAILBOX_CANCEL (R391). -/
  | mailboxCancel (via : Via) (ch : Fin 80)
  /-- MAILBOX_QUERY (R388). -/
  | mailboxQuery (t : Fin 97) (ch : Fin 80)
  /-- MAILBOX_TIMEOUT (R390). -/
  | mailboxTimeout (ch : Fin 80)
  /-- MBX_BIND_WRITE (R384). -/
  | mbxBindWrite (m : Fin 64) (v : BitVec 32)
  /-- MBX_BIND_LOCK_WRITE (R385). -/
  | mbxBindLockWrite (m : Fin 64) (v : BitVec 32)
  /-- LOCK_READ (R394). -/
  | lockRead (via : Via) (k : Fin 32)
  /-- LOCK_RELEASE (R395). -/
  | lockRelease (via : Via) (k : Fin 32) (v : BitVec 32)
  /-- LOCK_FORCE (R397). -/
  | lockForce (m : Fin 64) (v : BitVec 32)
  /-- RECORD_BUILD (R402). -/
  | recordBuild
  /-- FLASH_PAGE_PROGRAM (R407). -/
  | flashPageProgram (ok : Bool)
  /-- SECTOR_ERASE_DONE (R405). -/
  | sectorEraseDone (ok : Bool)
  /-- COUNTER_PERSIST (R398). -/
  | counterPersist
  /-- PFW_N (R400). -/
  | pfwN
  /-- SOFTWARE_RECORD (R412). -/
  | softwareRecord (m : Fin 64) (v : BitVec 32)
  /-- REC_SNAPSHOT (R409). -/
  | recSnapshot (ring : Fin 10) (slot : Nat)
  /-- REC_RD_READ (R405). -/
  | recRdRead (m : Fin 64)
  /-- REC_ENABLE (R411). -/
  | recEnable (m : Fin 64) (v : BitVec 32)
  /-- REC_OPTIME_READ (R398). -/
  | recOptimeRead (m : Fin 64)
  /-- FW_WRITE (R432). -/
  | fwWrite (ring : Fin 10) (slot : Nat) (data : List (BitVec 32))
  /-- FW_ACTIVATE (R434). -/
  | fwActivate (ring : Fin 10) (slot : Nat)
  /-- FWU_CONFIRM (R436). -/
  | fwuConfirm (m : Fin 64) (v : BitVec 32)
  /-- FROST_REQUEST (R416). -/
  | frostRequest (m : Fin 64) (v : BitVec 32)
  /-- MIDWINTER_REQUEST (R419). -/
  | midwinterRequest (m : Fin 64) (v : BitVec 32)
  /-- WAKE_DETECT (R420). -/
  | wakeDetect (src : Fin 19)
  /-- THAW_COMPLETE (R418). -/
  | thawComplete
  /-- DOZE_ENTER (R414). -/
  | dozeEnter (d : Fin 28)
  /-- DOZE_EXIT (R414). -/
  | dozeExit (d : Fin 28)
  /-- RTC_ALARM (R421). -/
  | rtcAlarm
  /-- POWER_ON_RESET (R398). -/
  | powerOnReset (straps : BitVec 16)
  /-- RESET_N (R445). -/
  | resetN (straps : BitVec 16) (lowNs : Nat)
  /-- SW_DEVICE_RESET (R422). -/
  | swDeviceReset (m : Fin 64) (v : BitVec 32)
  /-- SW_LEVEL_RESTART (R422). -/
  | swLevelRestart (m : Fin 64) (v : BitVec 32)
  /-- SOFTWARE_LEVEL_RESTART (R424). -/
  | softwareLevelRestart (img : BootIn)
  /-- RESTART_COMPLETE (R424). -/
  | restartComplete
  /-- PCIE_HOT_RESET (R392). -/
  | pcieHotReset
  /-- COLD_BOOT (R431). -/
  | coldBoot (img : BootIn)
  /-- POWER_LOSS (R442). -/
  | powerLoss
  /-- COLLISION (R179). -/
  | collision (p : Fin 4) (late : Bool)
  /-- CAN_RX_ERROR (R209). -/
  | canRxError (c : Fin 32) (x : RxError)
  /-- FIO_PIN_EDGE (R269). -/
  | fioPinEdge (n : Fin 128) (level : Bool)
  /-- JTAG_TCK_EDGE (R439). -/
  | jtagTckEdge (rising : Bool) (tms : Bool) (tdi : Bool) (trstn : Bool)
  /-- FW_WRITE_DONE (R432). -/
  | fwWriteDone (ok : Bool)
  /-- WAKE_RULE_HOLD_EXPIRY (R355). -/
  | wakeRuleHoldExpiry (c : Fin 32)
  /-- PLL_LOCK_LOSS (R50). -/
  | pllLockLoss (pll : Fin 4)
  /-- REC_DISABLE (R411). -/
  | recDisable (m : Fin 64) (v : BitVec 32)
  deriving DecidableEq, Repr

end Sys2Proof
end

