-- ==== Sys2Proof/Decode.lean ====
section
/-! DEFINITION. The command that a table word spells. -/

namespace Sys2Proof

/-- The table of operations and events gives its rows no bits (spec/opcode_table.json: every row's fields are empty), so no
word spells a command. The 32-bit words of Eztiel instructions are decoded where a thread issues them (`ezDecode`). -/
def decodeTableWord (_nbits _w : Nat) : Option Instr := none

end Sys2Proof
end

