-- ==== Sys2Proof/Machine/Regs.lean ====
section
/-! DEFINITION. The registers of BAR0: their names, addresses, field types and writers (02 Table 2.1 and the register maps of
each chapter). -/

namespace Sys2Proof.Machine

/-- A register, or a register array, by the spec's own name. -/
inductive Reg where
  | GLB_ID | GLB_STAT | GLB_STRAP | GLB_RST_CAUSE | GLB_RST_CTRL | GLB_WDT_CFG
  | GLB_WDT3_KICK | GLB_RESTART_CFG | GLB_RESTART_STAT | GLB_OTP | CLK_PWR_STAT | CLK_PWR_REQ
  | CLK_WAKE_EN | CLK_WAKE_CAUSE | CLK_WAKEIN_CFG | CLK_RTC_S | CLK_RTC_ALARM | CLK_DOZE_DIS
  | CLK_DOM_RUN | CLK_PLL_STAT | HIF_INFO | HIF_INBAND_PORTS | HIF_INBAND_KEY | HIF_INBAND_SEQ
  | HIF_INBAND_CTRL | HIF_INBAND_REJ | HIF_SQ_BASE_LO | HIF_SQ_BASE_HI | HIF_CQ_BASE_LO | HIF_CQ_BASE_HI
  | HIF_SQ_TAIL | HIF_CQ_HEAD | HIF_RING_CTRL | HIF_RING_STAT | TIME_CTRL | TIME_STAT
  | TIME_NOW_LO | TIME_NOW_HI | TIME_NOW_FRAC | TIME_INCR_FRAC | TIME_INCR_NS | TIME_ADJ_OFS_LO
  | TIME_ADJ_OFS_HI | TIME_ADJ_INTV | TIME_ADJ_CTRL | TIME_ADJ_DONE_LO | TIME_ADJ_DONE_HI | TIME_PPSOUT_CFG
  | TIME_PPSOUT_OFS | TIME_PPSIN_LO | TIME_PPSIN_HI | TIME_PPSIN_GUARD | TIME_EQXIN_LO | TIME_EQXIN_HI
  | TIME_EQXOUT_CFG | TIME_ALARM_LO | TIME_ALARM_HI | TIME_ALARM_CTRL | TIME_PTPF | TIME_TXF
  | TIME_TX1S | TIME_TXV | TIME_RXS_RDY | TIME_RXS_W0 | TIME_RXS_W1 | TIME_RXS_W2
  | TIME_RXS_W3 | TIME_TXS_RDY | TIME_TXS_W0 | TIME_TXS_W1 | TIME_TXS_W2 | TIME_TXS_W3
  | TIME_RXS_OVF | TIME_TXS_OVF | TIME_INS_SKIP | TIME_LATC | MEM_CHSEL | MEM_INFO
  | MEM_TEST_STAT | MEM_FAILED | MEM_QUOTA | MEM_COUNT | MEM_OWN | MEM_OWN_STAT
  | MEM_BANK_CFG | MEM_PWR | MEM_CELLS | MEM_ECC_CE | MEM_ECC_UE | MEM_UE_WORD
  | MEM_LOST_WR | MEM_STALL_CNT | MEM_TEST_RES | QM_CHSEL | QM_INFO | QM_DESC_FREE
  | QM_NO_DESC | QM_NOTICE_NEXT | QM_LIMIT_SUM | QM_NGRP_NEXT | QM_Q_CTRL | QM_Q_STAT
  | QM_Q_BIND | QM_Q_LIMIT | QM_Q_USE | QM_Q_COAL | QM_Q_RXA | QM_Q_OP
  | QM_Q_OPSTAT | QM_Q_DEQ | QM_Q_D | QM_Q_E | QM_Q_DONE | QM_Q_DROP
  | QM_Q_POS | FAB_INFO | FAB_BUF_STAT | FAB_BUF_CELLS | FAB_BUF_FREE | FAB_BUF_SHARED
  | FAB_BUF_MARGIN | FAB_MC_AGE | FAB_EVT_HOLD | FAB_AGE_TIME | FAB_TRUNC | FAB_CT_BAD
  | FAB_CLS_MISS | FAB_LEARN_FAIL | FAB_RESEQ_ERR | FAB_MC_AGED | FAB_PORT_CFG | FAB_PCP_MAP
  | FAB_QSEL | FAB_Q_USE | FAB_Q_AVG | FAB_Q_DROP_RED | FAB_Q_DROP_BUF | FAB_Q_DROP_QM
  | FAB_Q_STAT | FAB_ACT_SEL | FAB_ACT_CTRL | FAB_ACT_W | FAB_SF_BLOCKED | FAB_IN_DROP
  | ETH_CHSEL | ETH_INFO | ETH_MDIO_CMD | ETH_MDIO_DATA | ETH_MODE | ETH_CTRL
  | ETH_STAT | ETH_MAXFRM | ETH_TX_THR | ETH_RSV_TRAP | ETH_PFC_CFG | ETH_PFC_STAT
  | ETH_EEE_CFG | ETH_PREEMPT_CFG | ETH_PREEMPT_STAT | ETH_PLCA_CFG | ETH_MACSEC_CTRL | ETH_MACSEC_WIN
  | ETH_SC_SEL | ETH_SC_CFG | ETH_SCI_LO | ETH_SCI_HI | ETH_SA | ETH_EVT_CAUSE
  | ETH_TXD | ETH_RX_OCT_LO | ETH_RX_OCT_HI | ETH_RX_FRM_LO | ETH_RX_FRM_HI | ETH_TX_OCT_LO
  | ETH_TX_OCT_HI | ETH_TX_FRM_LO | ETH_TX_FRM_HI | ETH_RX_FCS | ETH_RX_RUNT | ETH_RX_GIANT
  | ETH_RX_ALIGN | ETH_RX_SYMBOL | ETH_RX_VLAN | ETH_RX_FILTER | ETH_RX_MACSEC | ETH_RX_PAUSE
  | ETH_RX_FRAG_ERR | ETH_TX_UNDERRUN | ETH_TX_PAUSE | ETH_TX_DISCARD | ETH_TX_GATE_OVR | ETH_TX_PREEMPT
  | ETH_TX_COLL | ETH_RED_DUP | ETH_RED_FULL | CAN_CHSEL | CAN_INFO | CAN_PAD
  | CAN_ACT_SEL | CAN_ACT_CTRL | CAN_ACT_W | CAN_RT_SEL | CAN_RT_RATE | CAN_RT_QUAR
  | CAN_RT_HIT | CAN_CTRL | CAN_STAT | CAN_NBT | CAN_DBT | CAN_XBT
  | CAN_TDC | CAN_ERRC | CAN_RX_DEF | CAN_TX_STAT | CAN_TX_HEAD_AGE | CAN_TX_CMD
  | CAN_TX_CMD_STAT | CAN_TX_LOG | CAN_TX_LOG_STAMP | CAN_TX_LOG_LOST | CAN_HPB_POP | CAN_HPB_H
  | CAN_HPB_STAMP | CAN_HPB_D | CAN_SLEEP | CAN_HOLD | CAN_WAKE_TIM | CAN_WAKE_CFG
  | CAN_WAKE_STAT | CAN_WAKE_ID | CAN_WUFTX_ID | CAN_WUFTX_DLC | CAN_WUFTX_D | CAN_WUF
  | CAN_EVT_CAUSE | CAN_IDCOL | CAN_RX_OK | CAN_RX_ERR | CAN_RX_DROP | CAN_TX_OK
  | CAN_ARB_LOST | CAN_TX_ERR | CAN_TX_FULL_DROP | CAN_TX_BAD | CAN_TX_OFF_DROP | CAN_HOLD_DROP
  | CAN_HPB_OVF | CAN_IDCOL_CNT | CAN_BUSOFF_CNT | CAN_PEXC | CAN_SYNC_MISS | CAN_RT_MISS
  | CAN_SYNC_SKIP | STAR_CHSEL | STAR_INFO | STAR_CTRL | STAR_STAT | STAR_START_LO
  | STAR_START_HI | STAR_MC_NUM | STAR_MC_START_LO | STAR_MC_START_HI | STAR_BC | STAR_MODE_REQ
  | STAR_MODE_TARGET | STAR_MODE_STAT | STAR_ACK | STAR_ID | STAR_ISL_OFS | STAR_EQX_CAN
  | STAR_EQX_CANID | STAR_EQX_LAST_LO | STAR_EQX_LAST_HI | STAR_EQX_DIFF | STAR_CLAIM_CFG | STAR_WAKE_CFG
  | STAR_WAKE_STAT | STAR_ARB_LOST | STAR_SLOT_DROP | STAR_STALE_CNT | STAR_BR_CTRL | STAR_BR_STAT
  | STAR_BR_DELAY | STAR_BR_OFS | STAR_BR_CAUSE | STAR_BR_RX_OK | STAR_BR_RX_CRC | STAR_BR_VIOL_EARLY
  | STAR_BR_VIOL_LATE | STAR_BR_VIOL_OUTSIDE | STAR_BR_VIOL_SLOT | PIO_CHSEL | PIO_INFO | PIO_GSTART_LO
  | PIO_GSTART_HI | PIO_CTRL | PIO_STAT | PIO_FLAGS | PIO_FLAG_SET | PIO_EVTIN
  | PIO_FERR | PIO_IMEM | SM_RATE | SM_RING | SM_FRAME | SM_LANES
  | SM_PC | SM_STATE | SM_INSTR | SM_TXF | SM_RXF | SM_FLEVEL
  | SM_S | SM_C | PAD_INFO | PAD_FIO | PAD_FIO_IN | ENG_CHSEL
  | ENG_INFO | ENG_RUN | ENG_FAULT | ENG_BUDGET_PER | ENG_CTRL | ENG_STAT
  | ENG_TSEL | ENG_IMEM_ADDR | ENG_IMEM_DATA | ENG_LMEM_ADDR | ENG_LMEM_DATA | ENG_ECC
  | ENG_EVT_LINES | ENG_EVT_CAUSE | ENG_T_STAT | ENG_T_PC | ENG_T_FAULT | ENG_T_FADDR
  | ENG_T_BUDGET | ENG_T_USED | ENG_T_GSEL | ENG_T_GDATA | ENG_T_BREAK | POL_INFO
  | POL_CTRL | POL_STAT | POL_START_PC | POL_START_SP | POL_EPC | POL_IMEM_ADDR
  | POL_IMEM_DATA | POL_DMEM_ADDR | POL_DMEM_DATA | POL_ECC | POL_ENV_GEN | POL_ENV_TICK_LO
  | POL_ENV_TICK_HI | POL_ENV_SEL | POL_ENV_W | POL_ACT_OK | POL_ACT_REFUSED | POL_TBL_SEL
  | POL_TBL_CTRL | POL_TBL_W | CRY_INFO | CRY_PROV_LOCK | CRY_KEY_SEL | CRY_KEY_ATTR
  | CRY_KEY_DATA | CRY_KEY_CTRL | CRY_KEY_STAT | CRY_LOADED | CRY_REQ_CNT | CRY_AUTH_FAIL
  | CRY_STALE | CRY_REPLAY | CRY_RECIRC_DROP | CRY_FLOW_SEL | CRY_FLOW_STATE | CRY_FLOW_VALID
  | MBX_CHSEL | MBX_INFO | MBX_BIND_LOCK | MBX_FULL_LO | MBX_FULL_HI | MBX_FULL_BLK
  | MBX_UNB_ID | MBX_UNB_CNT | MBX_LOCK | MBX_LOCK_BROKEN | MBX_LOCK_FORCE | MBX_LOCK_OWNER
  | MBX_BIND | MBX_TMO | MBX_STAT | MBX_CMD | MBX_DB_DATA | MBX_BLK_W
  | REC_INFO | REC_CTRL | REC_STAT | REC_RING_BASE | REC_RING_SIZE | REC_BOOT_BASE
  | REC_CNT_BASE | REC_STAGE_BANK | REC_HEAD_SEQ | REC_TAIL_SEQ | REC_FLASH_SEQ | REC_STAGED
  | REC_LOST | REC_LOST_TOTAL | REC_FLASH_ERR | REC_OPTIME_S | REC_OPTIME_MS | REC_SW_D
  | REC_SW_CODE | REC_SW_STAT | REC_RD_SEQ | REC_RD_CTRL | REC_RD_W | FWU_STAT
  | FWU_CONFIRM | FWU_VER_A | FWU_VER_B | FWU_AREA | EVT_PEND | EVT_OUT_CTRL
  | EVT_ACCERR_ID | EVT_ACCERR_ADDR | EVT_ACCERR_CNT | EVT_ROUTE
  deriving DecidableEq, Repr

/-- Which identities may write a register (R454). -/
inductive Writers where
  | any | hostPol | host | hostPolDbg
  deriving DecidableEq, Repr

/-- Address, array length and stride, masks of the field types of Table 0.4, reset value, number of channels (0: none),
banked per master, writers. Write-only fields are in no mask. -/
structure RegDesc where
  off : Nat
  n : Nat
  st : Nat
  rw : W32
  w1c : W32
  w1s : W32
  rc : W32
  ro : W32
  reset : W32
  per : Nat
  banked : Bool
  by_ : Writers
  deriving DecidableEq, Repr

/-- The register maps (02 Tables 2.5, 2.15; 03 3.7; 04 4.7-4.9; 05 5.7; 06 6.16; 07 7.8; 08 8.10; 09 9.14; 10 10.7-10.9;
11 11.9; 13 13.18-13.19; 15 15.4; 16 16.5; 17 17.11-17.13). -/
def Reg.desc : Reg → RegDesc
  | .GLB_ID => ⟨4, 1, 4, 0, 0, 0, 0, 0xffffffff, 0x1c50024, 0, false, .hostPol⟩
  | .GLB_STAT => ⟨8, 1, 4, 0, 0, 0, 0, 0xf, 0, 0, false, .hostPol⟩
  | .GLB_STRAP => ⟨0xc, 1, 4, 0, 0, 0, 0, 0xf7, 0, 0, false, .hostPol⟩
  | .GLB_RST_CAUSE => ⟨0x10, 1, 4, 0, 0, 0, 0x3ff, 0, 0, 0, false, .hostPol⟩
  | .GLB_RST_CTRL => ⟨0x14, 1, 4, 0, 0, 0, 0, 0, 0, 0, false, .host⟩
  | .GLB_WDT_CFG => ⟨0x18, 1, 4, 0x3ff03ff, 0, 0, 0, 0, 0x140064, 0, false, .hostPol⟩
  | .GLB_WDT3_KICK => ⟨0x1c, 1, 4, 0, 0, 0, 0, 0, 0, 0, false, .hostPol⟩
  | .GLB_RESTART_CFG => ⟨0x20, 1, 4, 0xffff000f, 0, 0, 0, 0, 0x3c0003, 0, false, .hostPol⟩
  | .GLB_RESTART_STAT => ⟨0x24, 1, 4, 0, 0, 0, 0, 0x1f, 0, 0, false, .hostPol⟩
  | .GLB_OTP => ⟨0x28, 1, 4, 0, 0, 0, 0, 0xf7f, 0, 0, false, .hostPol⟩
  | .CLK_PWR_STAT => ⟨0x10004, 1, 4, 0, 0x100, 0, 0, 0xf007, 0, 0, false, .hostPol⟩
  | .CLK_PWR_REQ => ⟨0x10008, 1, 4, 0, 0, 0, 0, 0, 0, 0, false, .hostPol⟩
  | .CLK_WAKE_EN => ⟨0x1000c, 1, 4, 0x7ffff, 0, 0, 0, 0, 0, 0, false, .hostPol⟩
  | .CLK_WAKE_CAUSE => ⟨0x10010, 1, 4, 0, 0x7ffff, 0, 0, 0, 0, 0, false, .hostPol⟩
  | .CLK_WAKEIN_CFG => ⟨0x10014, 1, 4, 0x1000f, 0, 0, 0, 0, 0, 0, false, .hostPol⟩
  | .CLK_RTC_S => ⟨0x10018, 1, 4, 0xffffffff, 0, 0, 0, 0, 0, 0, false, .hostPol⟩
  | .CLK_RTC_ALARM => ⟨0x1001c, 1, 4, 0xffffffff, 0, 0, 0, 0, 0, 0, false, .hostPol⟩
  | .CLK_DOZE_DIS => ⟨0x10020, 1, 4, 0xfffffff, 0, 0, 0, 0, 0, 0, false, .hostPol⟩
  | .CLK_DOM_RUN => ⟨0x10024, 1, 4, 0, 0, 0, 0, 0xfffffff, 0, 0, false, .hostPol⟩
  | .CLK_PLL_STAT => ⟨0x10028, 1, 4, 0, 0, 0, 0, 0xf, 0xf, 0, false, .hostPol⟩
  | .HIF_INFO => ⟨0x20004, 1, 4, 0, 0, 0, 0, 0xffffffff, 0x2000808, 0, false, .hostPol⟩
  | .HIF_INBAND_PORTS => ⟨0x20010, 1, 4, 0xffff, 0, 0, 0, 0, 0, 0, false, .hostPol⟩
  | .HIF_INBAND_KEY => ⟨0x20014, 1, 4, 0xff, 0, 0, 0, 0, 0, 0, false, .hostPol⟩
  | .HIF_INBAND_SEQ => ⟨0x20018, 1, 4, 0, 0, 0, 0, 0xffffffff, 0, 0, false, .hostPol⟩
  | .HIF_INBAND_CTRL => ⟨0x2001c, 1, 4, 0, 1, 0, 0, 0, 0, 0, false, .hostPol⟩
  | .HIF_INBAND_REJ => ⟨0x20020, 1, 4, 0, 0, 0, 0xffff, 0, 0, 0, false, .hostPol⟩
  | .HIF_SQ_BASE_LO => ⟨0x20100, 8, 64, 0xfffff000, 0, 0, 0, 0, 0, 0, false, .any⟩
  | .HIF_SQ_BASE_HI => ⟨0x20104, 8, 64, 0xffffffff, 0, 0, 0, 0, 0, 0, false, .any⟩
  | .HIF_CQ_BASE_LO => ⟨0x20108, 8, 64, 0xfffff000, 0, 0, 0, 0, 0, 0, false, .any⟩
  | .HIF_CQ_BASE_HI => ⟨0x2010c, 8, 64, 0xffffffff, 0, 0, 0, 0, 0, 0, false, .any⟩
  | .HIF_SQ_TAIL => ⟨0x20110, 8, 64, 0xff, 0, 0, 0, 0, 0, 0, false, .any⟩
  | .HIF_CQ_HEAD => ⟨0x20114, 8, 64, 0xff, 0, 0, 0, 0, 0, 0, false, .any⟩
  | .HIF_RING_CTRL => ⟨0x20118, 8, 64, 0x3f, 0, 0, 0, 0, 0, 0, false, .any⟩
  | .HIF_RING_STAT => ⟨0x2011c, 8, 64, 0, 0, 0, 0, 0x3ff, 0, 0, false, .any⟩
  | .TIME_CTRL => ⟨0x40000, 1, 4, 0xf, 0, 0, 0, 0, 0, 0, false, .any⟩
  | .TIME_STAT => ⟨0x40004, 1, 4, 1, 2, 0, 0, 0xc, 0, 0, false, .any⟩
  | .TIME_NOW_LO => ⟨0x40010, 1, 4, 0, 0, 0, 0, 0xffffffff, 0, 0, false, .any⟩
  | .TIME_NOW_HI => ⟨0x40014, 1, 4, 0, 0, 0, 0, 0xffffffff, 0, 0, true, .any⟩
  | .TIME_NOW_FRAC => ⟨0x40018, 1, 4, 0, 0, 0, 0, 0xffffffff, 0, 0, true, .any⟩
  | .TIME_INCR_FRAC => ⟨0x40020, 1, 4, 0xffffffff, 0, 0, 0, 0, 0, 0, false, .any⟩
  | .TIME_INCR_NS => ⟨0x40024, 1, 4, 0xf, 0, 0, 0, 0, 4, 0, false, .any⟩
  | .TIME_ADJ_OFS_LO => ⟨0x40030, 1, 4, 0xffffffff, 0, 0, 0, 0, 0, 0, false, .any⟩
  | .TIME_ADJ_OFS_HI => ⟨0x40034, 1, 4, 0xffffffff, 0, 0, 0, 0, 0, 0, false, .any⟩
  | .TIME_ADJ_INTV => ⟨0x40038, 1, 4, 0xffffffff, 0, 0, 0, 0, 0x3e8, 0, false, .any⟩
  | .TIME_ADJ_CTRL => ⟨0x4003c, 1, 4, 0, 0x600, 0, 0, 0x100, 0, 0, false, .any⟩
  | .TIME_ADJ_DONE_LO => ⟨0x40040, 1, 4, 0, 0, 0, 0, 0xffffffff, 0, 0, false, .any⟩
  | .TIME_ADJ_DONE_HI => ⟨0x40044, 1, 4, 0, 0, 0, 0, 0xffffffff, 0, 0, false, .any⟩
  | .TIME_PPSOUT_CFG => ⟨0x40050, 1, 4, 0xfffff, 0, 0, 0, 0, 0x186a0, 0, false, .any⟩
  | .TIME_PPSOUT_OFS => ⟨0x40054, 1, 4, 0xffff, 0, 0, 0, 0, 0, 0, false, .any⟩
  | .TIME_PPSIN_LO => ⟨0x40058, 1, 4, 0, 0, 0, 0, 0xffffffff, 0, 0, false, .any⟩
  | .TIME_PPSIN_HI => ⟨0x4005c, 1, 4, 0, 0, 0, 0, 0xffffffff, 0, 0, false, .any⟩
  | .TIME_PPSIN_GUARD => ⟨0x40060, 1, 4, 0xfffff, 0, 0, 0xfff00000, 0, 0x384, 0, false, .any⟩
  | .TIME_EQXIN_LO => ⟨0x40070, 1, 4, 0, 0, 0, 0, 0xffffffff, 0, 0, false, .any⟩
  | .TIME_EQXIN_HI => ⟨0x40074, 1, 4, 0, 0, 0, 0, 0xffffffff, 0, 0, false, .any⟩
  | .TIME_EQXOUT_CFG => ⟨0x40080, 4, 4, 0xffff03ff, 0, 0, 0, 0, 0, 0, false, .any⟩
  | .TIME_ALARM_LO => ⟨0x400a0, 2, 8, 0xffffffff, 0, 0, 0, 0, 0, 0, false, .any⟩
  | .TIME_ALARM_HI => ⟨0x400a4, 2, 8, 0xffffffff, 0, 0, 0, 0, 0, 0, false, .any⟩
  | .TIME_ALARM_CTRL => ⟨0x400b0, 1, 4, 0, 0, 3, 0, 0, 0, 0, false, .any⟩
  | .TIME_PTPF => ⟨0x40100, 16, 4, 0xffff0007, 0, 0, 0, 0, 0, 0, false, .any⟩
  | .TIME_TXF => ⟨0x40140, 16, 4, 0xffff0007, 0, 0, 0, 0, 0, 0, false, .any⟩
  | .TIME_TX1S => ⟨0x40180, 16, 4, 0xffffffff, 0, 0, 0, 0, 0, 0, false, .any⟩
  | .TIME_TXV => ⟨0x401c0, 16, 4, 0xffffffff, 0, 0, 0, 0, 0, 0, false, .any⟩
  | .TIME_RXS_RDY => ⟨0x40200, 1, 4, 0, 0, 0, 0, 0xffff, 0, 0, false, .any⟩
  | .TIME_RXS_W0 => ⟨0x40204, 1, 4, 0, 0, 0, 0, 0xffffffff, 0, 0, false, .any⟩
  | .TIME_RXS_W1 => ⟨0x40208, 1, 4, 0, 0, 0, 0, 0xffffffff, 0, 0, true, .any⟩
  | .TIME_RXS_W2 => ⟨0x4020c, 1, 4, 0, 0, 0, 0, 0xffffffff, 0, 0, true, .any⟩
  | .TIME_RXS_W3 => ⟨0x40210, 1, 4, 0, 0, 0, 0, 0xffffffff, 0, 0, true, .any⟩
  | .TIME_TXS_RDY => ⟨0x40220, 1, 4, 0, 0, 0, 0, 0xffff, 0, 0, false, .any⟩
  | .TIME_TXS_W0 => ⟨0x40224, 1, 4, 0, 0, 0, 0, 0xffffffff, 0, 0, false, .any⟩
  | .TIME_TXS_W1 => ⟨0x40228, 1, 4, 0, 0, 0, 0, 0xffffffff, 0, 0, true, .any⟩
  | .TIME_TXS_W2 => ⟨0x4022c, 1, 4, 0, 0, 0, 0, 0xffffffff, 0, 0, true, .any⟩
  | .TIME_TXS_W3 => ⟨0x40230, 1, 4, 0, 0, 0, 0, 0xffffffff, 0, 0, true, .any⟩
  | .TIME_RXS_OVF => ⟨0x40240, 16, 4, 0, 0, 0, 0xffff, 0, 0, 0, false, .any⟩
  | .TIME_TXS_OVF => ⟨0x40280, 16, 4, 0, 0, 0, 0xffff, 0, 0, 0, false, .any⟩
  | .TIME_INS_SKIP => ⟨0x402c0, 16, 4, 0, 0, 0, 0xffff, 0, 0, 0, false, .any⟩
  | .TIME_LATC => ⟨0x40300, 16, 4, 0xffffffff, 0, 0, 0, 0, 0, 0, false, .any⟩
  | .MEM_CHSEL => ⟨0x50000, 1, 4, 0xfff, 0, 0, 0, 0, 0, 0, true, .any⟩
  | .MEM_INFO => ⟨0x50004, 1, 4, 0, 0, 0, 0, 0xffffffff, 0xc180100, 0, false, .any⟩
  | .MEM_TEST_STAT => ⟨0x50008, 1, 4, 0, 0, 0, 0, 0x10fff, 0, 0, false, .any⟩
  | .MEM_FAILED => ⟨0x50020, 12, 4, 0, 0, 0, 0, 0xffffffff, 0, 0, false, .any⟩
  | .MEM_QUOTA => ⟨0x50104, 39, 4, 0x1ff, 0, 0, 0, 0, 0x180, 0, false, .any⟩
  | .MEM_COUNT => ⟨0x50204, 39, 4, 0, 0, 0, 0, 0x800001ff, 0, 0, false, .any⟩
  | .MEM_OWN => ⟨0x51000, 1, 4, 0, 0, 0, 0, 0x3fff, 0, 384, false, .any⟩
  | .MEM_OWN_STAT => ⟨0x51004, 1, 4, 0, 0x10000, 0, 0, 0xff00fff3, 0, 384, false, .any⟩
  | .MEM_BANK_CFG => ⟨0x51008, 1, 4, 3, 0, 0, 0, 0, 0, 384, false, .any⟩
  | .MEM_PWR => ⟨0x5100c, 1, 4, 0xff03, 0x10000, 0, 0, 0x30, 0xa00, 384, false, .hostPol⟩
  | .MEM_CELLS => ⟨0x51010, 1, 4, 0, 0, 0, 0, 0x1fff, 0, 384, false, .any⟩
  | .MEM_ECC_CE => ⟨0x51014, 1, 4, 0, 0, 0, 0xffff, 0, 0, 384, false, .any⟩
  | .MEM_ECC_UE => ⟨0x51018, 1, 4, 0, 0, 0, 0xffff, 0, 0, 384, false, .any⟩
  | .MEM_UE_WORD => ⟨0x5101c, 1, 4, 0, 0, 0, 0, 0x80007fff, 0, 384, false, .any⟩
  | .MEM_LOST_WR => ⟨0x51020, 1, 4, 0, 0, 0, 0xffff, 0, 0, 384, false, .any⟩
  | .MEM_STALL_CNT => ⟨0x51024, 1, 4, 0, 0, 0, 0xffff, 0, 0, 384, false, .any⟩
  | .MEM_TEST_RES => ⟨0x51028, 1, 4, 0, 0, 0, 0, 0x7f7, 0, 384, false, .any⟩
  | .QM_CHSEL => ⟨0x60000, 1, 4, 0xfff, 0, 0, 0, 0, 0, 0, true, .any⟩
  | .QM_INFO => ⟨0x60004, 1, 4, 0, 0, 0, 0, 0xffffffff, 0x101000, 0, false, .any⟩
  | .QM_DESC_FREE => ⟨0x60008, 1, 4, 0, 0, 0, 0, 0x3ffff, 0x20000, 0, false, .any⟩
  | .QM_NO_DESC => ⟨0x6000c, 1, 4, 0, 0, 0, 0xffff, 0, 0, 0, false, .any⟩
  | .QM_NOTICE_NEXT => ⟨0x60010, 1, 4, 0, 0, 0, 0, 0xffffffff, 0, 0, false, .any⟩
  | .QM_LIMIT_SUM => ⟨0x60014, 1, 4, 0, 0, 0, 0, 0xbfffffff, 0, 0, false, .any⟩
  | .QM_NGRP_NEXT => ⟨0x60040, 12, 4, 0, 0, 0, 0, 0xffffffff, 0, 0, false, .any⟩
  | .QM_Q_CTRL => ⟨0x61000, 1, 4, 0xf7, 0, 0, 0, 0, 0, 4096, false, .any⟩
  | .QM_Q_STAT => ⟨0x61004, 1, 4, 0, 0x100, 0, 0, 0xff, 0, 4096, false, .any⟩
  | .QM_Q_BIND => ⟨0x61008, 1, 4, 0x7f7f, 0, 0, 0, 0, 0x7f7f, 4096, false, .hostPol⟩
  | .QM_Q_LIMIT => ⟨0x6100c, 1, 4, 0x3ffff, 0, 0, 0, 0, 0x400, 4096, false, .any⟩
  | .QM_Q_USE => ⟨0x61010, 1, 4, 0, 0, 0, 0, 0x3ffff, 0, 4096, false, .any⟩
  | .QM_Q_COAL => ⟨0x61014, 1, 4, 0x3fff003f, 0, 0, 0, 0, 0xa0000, 4096, false, .any⟩
  | .QM_Q_RXA => ⟨0x61018, 1, 4, 0x3ffff1ff, 0, 0, 0, 0, 0x6000000, 4096, false, .any⟩
  | .QM_Q_OP => ⟨0x6101c, 1, 4, 0, 0, 1, 0, 0, 0, 4096, false, .any⟩
  | .QM_Q_OPSTAT => ⟨0x61020, 1, 4, 0, 0, 0, 0, 0xf, 0, 4096, true, .any⟩
  | .QM_Q_DEQ => ⟨0x61024, 1, 4, 0, 0, 0, 0, 0xf, 0, 4096, false, .any⟩
  | .QM_Q_D => ⟨0x61028, 4, 4, 0, 0, 0, 0, 0xffffffff, 0, 4096, true, .any⟩
  | .QM_Q_E => ⟨0x61040, 4, 4, 0, 0, 0, 0, 0, 0, 4096, true, .any⟩
  | .QM_Q_DONE => ⟨0x61050, 1, 4, 0, 0, 0, 0, 0xffff, 0, 4096, false, .any⟩
  | .QM_Q_DROP => ⟨0x61054, 1, 4, 0, 0, 0, 0xffffffff, 0, 0, 4096, false, .any⟩
  | .QM_Q_POS => ⟨0x61058, 1, 4, 0, 0, 0, 0, 0xffffffff, 0, 4096, false, .any⟩
  | .FAB_INFO => ⟨0x80004, 1, 4, 0, 0, 0, 0, 0xffffffff, 0x820, 0, false, .hostPol⟩
  | .FAB_BUF_STAT => ⟨0x80008, 1, 4, 0, 0, 0, 0, 1, 0, 0, false, .hostPol⟩
  | .FAB_BUF_CELLS => ⟨0x80010, 1, 4, 0, 0, 0, 0, 0x1fffff, 0, 0, false, .hostPol⟩
  | .FAB_BUF_FREE => ⟨0x80014, 1, 4, 0, 0, 0, 0, 0x1fffff, 0, 0, false, .hostPol⟩
  | .FAB_BUF_SHARED => ⟨0x80018, 1, 4, 0, 0, 0, 0, 0x1fffff, 0, 0, false, .hostPol⟩
  | .FAB_BUF_MARGIN => ⟨0x8001c, 1, 4, 0xffff, 0, 0, 0, 0, 0x200, 0, false, .hostPol⟩
  | .FAB_MC_AGE => ⟨0x80020, 1, 4, 0xffffff, 0, 0, 0, 0, 0x2710, 0, false, .hostPol⟩
  | .FAB_EVT_HOLD => ⟨0x80024, 1, 4, 0xffff, 0, 0, 0, 0, 0x3e8, 0, false, .hostPol⟩
  | .FAB_AGE_TIME => ⟨0x80028, 1, 4, 0xffff, 0, 0, 0, 0, 0x12c, 0, false, .hostPol⟩
  | .FAB_TRUNC => ⟨0x80030, 1, 4, 0, 0, 0, 0xffff, 0, 0, 0, false, .hostPol⟩
  | .FAB_CT_BAD => ⟨0x80034, 1, 4, 0, 0, 0, 0xffff, 0, 0, 0, false, .hostPol⟩
  | .FAB_CLS_MISS => ⟨0x80038, 1, 4, 0, 0, 0, 0xffff, 0, 0, 0, false, .hostPol⟩
  | .FAB_LEARN_FAIL => ⟨0x8003c, 1, 4, 0, 0, 0, 0xffff, 0, 0, 0, false, .hostPol⟩
  | .FAB_RESEQ_ERR => ⟨0x80040, 1, 4, 0, 0, 0, 0xffff, 0, 0, 0, false, .hostPol⟩
  | .FAB_MC_AGED => ⟨0x80044, 1, 4, 0, 0, 0, 0xffff, 0, 0, 0, false, .hostPol⟩
  | .FAB_PORT_CFG => ⟨0x80100, 27, 4, 0xffffff, 0, 0, 0, 0, 0x1000, 0, false, .hostPol⟩
  | .FAB_PCP_MAP => ⟨0x80180, 16, 4, 0xffffff, 0, 0, 0, 0, 0xfac688, 0, false, .hostPol⟩
  | .FAB_QSEL => ⟨0x80200, 1, 4, 0xff, 0, 0, 0, 0, 0, 0, true, .any⟩
  | .FAB_Q_USE => ⟨0x80204, 1, 4, 0, 0, 0, 0, 0x1fffff, 0, 0, false, .hostPol⟩
  | .FAB_Q_AVG => ⟨0x80208, 1, 4, 0, 0, 0, 0, 0x1fffff, 0, 0, false, .hostPol⟩
  | .FAB_Q_DROP_RED => ⟨0x8020c, 1, 4, 0, 0, 0, 0xffffffff, 0, 0, 0, false, .hostPol⟩
  | .FAB_Q_DROP_BUF => ⟨0x80210, 1, 4, 0, 0, 0, 0xffffffff, 0, 0, 0, false, .hostPol⟩
  | .FAB_Q_DROP_QM => ⟨0x80214, 1, 4, 0, 0, 0, 0xffffffff, 0, 0, 0, false, .hostPol⟩
  | .FAB_Q_STAT => ⟨0x80218, 1, 4, 0, 0, 0, 0, 7, 0, 0, false, .hostPol⟩
  | .FAB_ACT_SEL => ⟨0x80300, 1, 4, 0xffffff, 0, 0, 0, 0, 0, 0, true, .any⟩
  | .FAB_ACT_CTRL => ⟨0x80304, 1, 4, 0, 0, 0, 0, 0x300, 0, 0, true, .hostPol⟩
  | .FAB_ACT_W => ⟨0x80320, 12, 4, 0xffffffff, 0, 0, 0, 0, 0, 0, true, .any⟩
  | .FAB_SF_BLOCKED => ⟨0x80400, 32, 4, 0, 0xffffffff, 0, 0, 0, 0, 0, false, .any⟩
  | .FAB_IN_DROP => ⟨0x80500, 108, 4, 0, 0, 0, 0xffffffff, 0, 0, 0, false, .hostPol⟩
  | .ETH_CHSEL => ⟨0xa0000, 1, 4, 0xfff, 0, 0, 0, 0, 0, 0, true, .any⟩
  | .ETH_INFO => ⟨0xa0004, 1, 4, 0, 0, 0, 0, 0xffffffff, 0x40c10, 0, false, .hostPol⟩
  | .ETH_MDIO_CMD => ⟨0xa0010, 2, 8, 0x73ff0000, 0, 0x80000000, 0, 0, 0, 0, false, .hostPol⟩
  | .ETH_MDIO_DATA => ⟨0xa0014, 2, 8, 0xffff, 0, 0, 0, 0, 0, 0, false, .hostPol⟩
  | .ETH_MODE => ⟨0xa1000, 1, 4, 0xff, 0, 0, 0, 0, 0, 16, false, .hostPol⟩
  | .ETH_CTRL => ⟨0xa1004, 1, 4, 3, 0, 0, 0, 0, 0, 16, false, .hostPol⟩
  | .ETH_STAT => ⟨0xa1008, 1, 4, 0, 0x100, 0, 0, 0xff, 0, 16, false, .hostPol⟩
  | .ETH_MAXFRM => ⟨0xa100c, 1, 4, 0x3fff, 0, 0, 0, 0, 0x5f2, 16, false, .hostPol⟩
  | .ETH_TX_THR => ⟨0xa1010, 1, 4, 0x3fff, 0, 0, 0, 0, 0x40, 16, false, .hostPol⟩
  | .ETH_RSV_TRAP => ⟨0xa1014, 1, 4, 0xffff, 0, 0, 0, 0, 0, 16, false, .hostPol⟩
  | .ETH_PFC_CFG => ⟨0xa1018, 1, 4, 0x7ffff, 0, 0, 0, 0, 0xffff, 16, false, .hostPol⟩
  | .ETH_PFC_STAT => ⟨0xa101c, 1, 4, 0, 0, 0, 0, 0xffff, 0, 16, false, .hostPol⟩
  | .ETH_EEE_CFG => ⟨0xa1020, 1, 4, 0xffffff01, 0, 0, 0, 0, 0, 16, false, .hostPol⟩
  | .ETH_PREEMPT_CFG => ⟨0xa1024, 1, 4, 0x7fff0f, 0, 0, 0, 0, 0xa0000, 16, false, .hostPol⟩
  | .ETH_PREEMPT_STAT => ⟨0xa1028, 1, 4, 0, 0, 0, 0, 0xf, 0, 16, false, .hostPol⟩
  | .ETH_PLCA_CFG => ⟨0xa102c, 1, 4, 0xfffffff, 0, 0, 0, 0, 0x2001ff, 16, false, .hostPol⟩
  | .ETH_MACSEC_CTRL => ⟨0xa1030, 1, 4, 0x7f, 0, 0, 0, 0, 0x48, 16, false, .hostPol⟩
  | .ETH_MACSEC_WIN => ⟨0xa1034, 1, 4, 0xffffffff, 0, 0, 0, 0, 0, 16, false, .hostPol⟩
  | .ETH_SC_SEL => ⟨0xa1038, 1, 4, 0x1f, 0, 0, 0, 0, 0, 16, true, .hostPol⟩
  | .ETH_SC_CFG => ⟨0xa103c, 1, 4, 0x1f, 0, 0, 0, 0, 0x10, 16, false, .hostPol⟩
  | .ETH_SCI_LO => ⟨0xa1040, 1, 4, 0xffffffff, 0, 0, 0, 0, 0, 16, false, .hostPol⟩
  | .ETH_SCI_HI => ⟨0xa1044, 1, 4, 0xffffffff, 0, 0, 0, 0, 0, 16, false, .hostPol⟩
  | .ETH_SA => ⟨0xa1050, 16, 4, 0xffffffff, 0, 0, 0, 0, 0, 16, false, .hostPol⟩
  | .ETH_EVT_CAUSE => ⟨0xa1090, 1, 4, 0, 0x3f, 0, 0, 0, 0, 16, false, .hostPol⟩
  | .ETH_TXD => ⟨0xa1094, 1, 4, 0, 0, 0, 0, 0xff, 0, 16, false, .hostPol⟩
  | .ETH_RX_OCT_LO => ⟨0xa1100, 1, 4, 0, 0, 0, 0xffffffff, 0, 0, 16, false, .hostPol⟩
  | .ETH_RX_OCT_HI => ⟨0xa1104, 1, 4, 0, 0, 0, 0, 0xffffffff, 0, 16, true, .hostPol⟩
  | .ETH_RX_FRM_LO => ⟨0xa1108, 1, 4, 0, 0, 0, 0xffffffff, 0, 0, 16, false, .hostPol⟩
  | .ETH_RX_FRM_HI => ⟨0xa110c, 1, 4, 0, 0, 0, 0, 0xffffffff, 0, 16, true, .hostPol⟩
  | .ETH_TX_OCT_LO => ⟨0xa1110, 1, 4, 0, 0, 0, 0xffffffff, 0, 0, 16, false, .hostPol⟩
  | .ETH_TX_OCT_HI => ⟨0xa1114, 1, 4, 0, 0, 0, 0, 0xffffffff, 0, 16, true, .hostPol⟩
  | .ETH_TX_FRM_LO => ⟨0xa1118, 1, 4, 0, 0, 0, 0xffffffff, 0, 0, 16, false, .hostPol⟩
  | .ETH_TX_FRM_HI => ⟨0xa111c, 1, 4, 0, 0, 0, 0, 0xffffffff, 0, 16, true, .hostPol⟩
  | .ETH_RX_FCS => ⟨0xa1120, 1, 4, 0, 0, 0, 0xffffffff, 0, 0, 16, false, .hostPol⟩
  | .ETH_RX_RUNT => ⟨0xa1124, 1, 4, 0, 0, 0, 0xffffffff, 0, 0, 16, false, .hostPol⟩
  | .ETH_RX_GIANT => ⟨0xa1128, 1, 4, 0, 0, 0, 0xffffffff, 0, 0, 16, false, .hostPol⟩
  | .ETH_RX_ALIGN => ⟨0xa112c, 1, 4, 0, 0, 0, 0xffffffff, 0, 0, 16, false, .hostPol⟩
  | .ETH_RX_SYMBOL => ⟨0xa1130, 1, 4, 0, 0, 0, 0xffffffff, 0, 0, 16, false, .hostPol⟩
  | .ETH_RX_VLAN => ⟨0xa1134, 1, 4, 0, 0, 0, 0xffffffff, 0, 0, 16, false, .hostPol⟩
  | .ETH_RX_FILTER => ⟨0xa1138, 1, 4, 0, 0, 0, 0xffffffff, 0, 0, 16, false, .hostPol⟩
  | .ETH_RX_MACSEC => ⟨0xa113c, 1, 4, 0, 0, 0, 0xffffffff, 0, 0, 16, false, .hostPol⟩
  | .ETH_RX_PAUSE => ⟨0xa1140, 1, 4, 0, 0, 0, 0xffffffff, 0, 0, 16, false, .hostPol⟩
  | .ETH_RX_FRAG_ERR => ⟨0xa1144, 1, 4, 0, 0, 0, 0xffffffff, 0, 0, 16, false, .hostPol⟩
  | .ETH_TX_UNDERRUN => ⟨0xa1148, 1, 4, 0, 0, 0, 0xffffffff, 0, 0, 16, false, .hostPol⟩
  | .ETH_TX_PAUSE => ⟨0xa114c, 1, 4, 0, 0, 0, 0xffffffff, 0, 0, 16, false, .hostPol⟩
  | .ETH_TX_DISCARD => ⟨0xa1150, 1, 4, 0, 0, 0, 0xffffffff, 0, 0, 16, false, .hostPol⟩
  | .ETH_TX_GATE_OVR => ⟨0xa1154, 1, 4, 0, 0, 0, 0xffffffff, 0, 0, 16, false, .hostPol⟩
  | .ETH_TX_PREEMPT => ⟨0xa1158, 1, 4, 0, 0, 0, 0xffffffff, 0, 0, 16, false, .hostPol⟩
  | .ETH_TX_COLL => ⟨0xa115c, 1, 4, 0, 0, 0, 0xffffffff, 0, 0, 16, false, .hostPol⟩
  | .ETH_RED_DUP => ⟨0xa1160, 1, 4, 0, 0, 0, 0xffffffff, 0, 0, 16, false, .hostPol⟩
  | .ETH_RED_FULL => ⟨0xa1164, 1, 4, 0, 0, 0, 0xffffffff, 0, 0, 16, false, .hostPol⟩
  | .CAN_CHSEL => ⟨0xb0000, 1, 4, 0xfff, 0, 0, 0, 0, 0, 0, true, .any⟩
  | .CAN_INFO => ⟨0xb0004, 1, 4, 0, 0, 0, 0, 0xffffffff, 0x820, 0, false, .hostPol⟩
  | .CAN_PAD => ⟨0xb0010, 1, 4, 0xff, 0, 0, 0, 0, 0xcc, 0, false, .hostPol⟩
  | .CAN_ACT_SEL => ⟨0xb0100, 1, 4, 0xff0fff, 0, 0, 0, 0, 0, 0, true, .hostPol⟩
  | .CAN_ACT_CTRL => ⟨0xb0104, 1, 4, 0, 0, 0, 0, 0x300, 0, 0, true, .hostPol⟩
  | .CAN_ACT_W => ⟨0xb0120, 8, 4, 0xffffffff, 0, 0, 0, 0, 0, 0, true, .hostPol⟩
  | .CAN_RT_SEL => ⟨0xb0200, 1, 4, 0xfff, 0, 0, 0, 0, 0, 0, true, .hostPol⟩
  | .CAN_RT_RATE => ⟨0xb0204, 1, 4, 0, 0, 0, 0xffffffff, 0, 0, 0, false, .hostPol⟩
  | .CAN_RT_QUAR => ⟨0xb0208, 1, 4, 0, 0, 0, 0xffffffff, 0, 0, 0, false, .hostPol⟩
  | .CAN_RT_HIT => ⟨0xb020c, 1, 4, 0, 0, 0, 0xffffffff, 0, 0, 0, false, .hostPol⟩
  | .CAN_CTRL => ⟨0xb1000, 1, 4, 0x1dff, 0, 0, 0, 0, 0x100, 32, false, .hostPol⟩
  | .CAN_STAT => ⟨0xb1004, 1, 4, 0, 0x100, 0, 0, 0xff, 0, 32, false, .hostPol⟩
  | .CAN_NBT => ⟨0xb1008, 1, 4, 0x7fffffff, 0, 0, 0, 0, 0xf1e7c03, 32, false, .hostPol⟩
  | .CAN_DBT => ⟨0xb100c, 1, 4, 0xf0f1f1f, 0, 0, 0, 0, 0x3030e00, 32, false, .hostPol⟩
  | .CAN_XBT => ⟨0xb1010, 1, 4, 0xf0f1f1f, 0, 0, 0, 0, 0x1010400, 32, false, .hostPol⟩
  | .CAN_TDC => ⟨0xb1014, 1, 4, 0x7f7f01, 0, 0, 0, 0, 0, 32, false, .hostPol⟩
  | .CAN_ERRC => ⟨0xb1018, 1, 4, 0, 0, 0, 0, 0xff01ff, 0, 32, false, .hostPol⟩
  | .CAN_RX_DEF => ⟨0xb101c, 1, 4, 0xfff1, 0, 0, 0, 0, 0, 32, false, .hostPol⟩
  | .CAN_TX_STAT => ⟨0xb1020, 1, 4, 0, 0, 0, 0, 0xff7f3f, 0, 32, false, .hostPol⟩
  | .CAN_TX_HEAD_AGE => ⟨0xb1024, 1, 4, 0, 0, 0, 0, 0xffffff, 0, 32, false, .hostPol⟩
  | .CAN_TX_CMD => ⟨0xb1028, 1, 4, 0, 0, 0, 0, 0, 0, 32, false, .hostPol⟩
  | .CAN_TX_CMD_STAT => ⟨0xb102c, 1, 4, 0, 0, 0, 0, 7, 0, 32, false, .hostPol⟩
  | .CAN_TX_LOG => ⟨0xb1030, 1, 4, 0, 0, 0, 0, 0xffffffff, 0, 32, false, .hostPol⟩
  | .CAN_TX_LOG_STAMP => ⟨0xb1034, 1, 4, 0, 0, 0, 0, 0xffffffff, 0, 32, true, .hostPol⟩
  | .CAN_TX_LOG_LOST => ⟨0xb1038, 1, 4, 0, 0, 0, 0xffffffff, 0, 0, 32, false, .hostPol⟩
  | .CAN_HPB_POP => ⟨0xb1040, 1, 4, 0, 0, 0, 0, 0xffffffff, 0, 32, false, .hostPol⟩
  | .CAN_HPB_H => ⟨0xb1044, 4, 4, 0, 0, 0, 0, 0xffffffff, 0, 32, true, .hostPol⟩
  | .CAN_HPB_STAMP => ⟨0xb1054, 1, 4, 0, 0, 0, 0, 0xffffffff, 0, 32, true, .hostPol⟩
  | .CAN_HPB_D => ⟨0xb1060, 16, 4, 0, 0, 0, 0, 0xffffffff, 0, 32, true, .hostPol⟩
  | .CAN_SLEEP => ⟨0xb1100, 1, 4, 0xc, 0, 0, 0, 0x10, 4, 32, false, .hostPol⟩
  | .CAN_HOLD => ⟨0xb1104, 1, 4, 0x7fffff, 0, 0, 0, 0, 0x400032, 32, false, .hostPol⟩
  | .CAN_WAKE_TIM => ⟨0xb1108, 1, 4, 0xfffff, 0, 0, 0, 0, 0x6032, 32, false, .hostPol⟩
  | .CAN_WAKE_CFG => ⟨0xb110c, 1, 4, 0xff0f0f, 0, 0, 0, 0, 0xa0400, 32, false, .hostPol⟩
  | .CAN_WAKE_STAT => ⟨0xb1110, 1, 4, 0, 0, 0, 0, 0x73, 0, 32, false, .hostPol⟩
  | .CAN_WAKE_ID => ⟨0xb1114, 1, 4, 0, 0, 0, 0, 0x3fffffff, 0, 32, false, .hostPol⟩
  | .CAN_WUFTX_ID => ⟨0xb1140, 1, 4, 0xbfffffff, 0, 0, 0, 0, 0, 32, false, .hostPol⟩
  | .CAN_WUFTX_DLC => ⟨0xb1144, 1, 4, 0xf, 0, 0, 0, 0, 0, 32, false, .hostPol⟩
  | .CAN_WUFTX_D => ⟨0xb1148, 2, 4, 0xffffffff, 0, 0, 0, 0, 0, 32, false, .hostPol⟩
  | .CAN_WUF => ⟨0xb1200, 64, 4, 0xffffffff, 0, 0, 0, 0, 0, 32, false, .hostPol⟩
  | .CAN_EVT_CAUSE => ⟨0xb1300, 1, 4, 0, 0x7ff, 0, 0, 0, 0, 32, false, .hostPol⟩
  | .CAN_IDCOL => ⟨0xb1304, 1, 4, 0, 0, 0, 0, 0xbfffffff, 0, 32, false, .hostPol⟩
  | .CAN_RX_OK => ⟨0xb1400, 1, 4, 0, 0, 0, 0xffffffff, 0, 0, 32, false, .hostPol⟩
  | .CAN_RX_ERR => ⟨0xb1404, 1, 4, 0, 0, 0, 0xffffffff, 0, 0, 32, false, .hostPol⟩
  | .CAN_RX_DROP => ⟨0xb1408, 1, 4, 0, 0, 0, 0xffffffff, 0, 0, 32, false, .hostPol⟩
  | .CAN_TX_OK => ⟨0xb140c, 1, 4, 0, 0, 0, 0xffffffff, 0, 0, 32, false, .hostPol⟩
  | .CAN_ARB_LOST => ⟨0xb1410, 1, 4, 0, 0, 0, 0xffffffff, 0, 0, 32, false, .hostPol⟩
  | .CAN_TX_ERR => ⟨0xb1414, 1, 4, 0, 0, 0, 0xffffffff, 0, 0, 32, false, .hostPol⟩
  | .CAN_TX_FULL_DROP => ⟨0xb1418, 1, 4, 0, 0, 0, 0xffffffff, 0, 0, 32, false, .hostPol⟩
  | .CAN_TX_BAD => ⟨0xb141c, 1, 4, 0, 0, 0, 0xffffffff, 0, 0, 32, false, .hostPol⟩
  | .CAN_TX_OFF_DROP => ⟨0xb1420, 1, 4, 0, 0, 0, 0xffffffff, 0, 0, 32, false, .hostPol⟩
  | .CAN_HOLD_DROP => ⟨0xb1424, 1, 4, 0, 0, 0, 0xffffffff, 0, 0, 32, false, .hostPol⟩
  | .CAN_HPB_OVF => ⟨0xb1428, 1, 4, 0, 0, 0, 0xffffffff, 0, 0, 32, false, .hostPol⟩
  | .CAN_IDCOL_CNT => ⟨0xb142c, 1, 4, 0, 0, 0, 0xffffffff, 0, 0, 32, false, .hostPol⟩
  | .CAN_BUSOFF_CNT => ⟨0xb1430, 1, 4, 0, 0, 0, 0xffffffff, 0, 0, 32, false, .hostPol⟩
  | .CAN_PEXC => ⟨0xb1434, 1, 4, 0, 0, 0, 0xffffffff, 0, 0, 32, false, .hostPol⟩
  | .CAN_SYNC_MISS => ⟨0xb1438, 1, 4, 0, 0, 0, 0xffffffff, 0, 0, 32, false, .hostPol⟩
  | .CAN_RT_MISS => ⟨0xb143c, 1, 4, 0, 0, 0, 0xffffffff, 0, 0, 32, false, .hostPol⟩
  | .CAN_SYNC_SKIP => ⟨0xb1440, 1, 4, 0, 0, 0, 0xffffffff, 0, 0, 32, false, .hostPol⟩
  | .STAR_CHSEL => ⟨0xc0000, 1, 4, 0xfff, 0, 0, 0, 0, 0, 0, true, .any⟩
  | .STAR_INFO => ⟨0xc0004, 1, 4, 0, 0, 0, 0, 0xffffffff, 0x80118, 0, false, .hostPol⟩
  | .STAR_CTRL => ⟨0xc0008, 1, 4, 0xffff, 0, 0, 0, 0, 0, 0, false, .hostPol⟩
  | .STAR_STAT => ⟨0xc000c, 1, 4, 0, 0x40000, 0, 0, 0x3737f, 0, 0, false, .hostPol⟩
  | .STAR_START_LO => ⟨0xc0010, 1, 4, 0xffffffff, 0, 0, 0, 0, 0, 0, false, .hostPol⟩
  | .STAR_START_HI => ⟨0xc0014, 1, 4, 0xffffffff, 0, 0, 0, 0, 0, 0, false, .hostPol⟩
  | .STAR_MC_NUM => ⟨0xc0018, 1, 4, 0, 0, 0, 0, 0xffffffff, 0, 0, false, .hostPol⟩
  | .STAR_MC_START_LO => ⟨0xc001c, 1, 4, 0, 0, 0, 0, 0xffffffff, 0, 0, false, .hostPol⟩
  | .STAR_MC_START_HI => ⟨0xc0020, 1, 4, 0, 0, 0, 0, 0xffffffff, 0, 0, false, .hostPol⟩
  | .STAR_BC => ⟨0xc0024, 1, 4, 0, 0, 0, 0, 0x3f, 0, 0, false, .hostPol⟩
  | .STAR_MODE_REQ => ⟨0xc0028, 1, 4, 7, 0, 0, 0, 0, 0, 0, false, .hostPol⟩
  | .STAR_MODE_TARGET => ⟨0xc002c, 1, 4, 0xffffffff, 0, 0, 0, 0, 0, 0, false, .hostPol⟩
  | .STAR_MODE_STAT => ⟨0xc0030, 1, 4, 0, 0, 0, 0, 0x707, 0, 0, false, .hostPol⟩
  | .STAR_ACK => ⟨0xc0034, 1, 4, 0, 0, 0, 0, 0xffffff, 0, 0, false, .hostPol⟩
  | .STAR_ID => ⟨0xc0038, 1, 4, 0, 0, 0, 0, 0x1f0f, 0, 0, false, .hostPol⟩
  | .STAR_ISL_OFS => ⟨0xc003c, 1, 4, 0, 0, 0, 0, 0xffffffff, 0, 0, false, .hostPol⟩
  | .STAR_EQX_CAN => ⟨0xc0040, 1, 4, 0xffffffff, 0, 0, 0, 0, 0, 0, false, .hostPol⟩
  | .STAR_EQX_CANID => ⟨0xc0044, 1, 4, 0xbfffffff, 0, 0, 0, 0, 0, 0, false, .hostPol⟩
  | .STAR_EQX_LAST_LO => ⟨0xc0048, 1, 4, 0, 0, 0, 0, 0xffffffff, 0, 0, false, .hostPol⟩
  | .STAR_EQX_LAST_HI => ⟨0xc004c, 1, 4, 0, 0, 0, 0, 0xffffffff, 0, 0, false, .hostPol⟩
  | .STAR_EQX_DIFF => ⟨0xc0050, 1, 4, 0, 0, 0, 0, 0xffffffff, 0, 0, false, .hostPol⟩
  | .STAR_CLAIM_CFG => ⟨0xc0054, 1, 4, 0xff, 0, 0, 0, 0, 2, 0, false, .hostPol⟩
  | .STAR_WAKE_CFG => ⟨0xc0060, 1, 4, 0xf, 0, 0, 0, 0, 0, 0, false, .hostPol⟩
  | .STAR_WAKE_STAT => ⟨0xc0064, 1, 4, 0, 0xf, 0, 0, 0, 0, 0, false, .hostPol⟩
  | .STAR_ARB_LOST => ⟨0xc0070, 1, 4, 0, 0, 0, 0xffffffff, 0, 0, 0, false, .hostPol⟩
  | .STAR_SLOT_DROP => ⟨0xc0074, 1, 4, 0, 0, 0, 0xffffffff, 0, 0, 0, false, .hostPol⟩
  | .STAR_STALE_CNT => ⟨0xc0078, 1, 4, 0, 0, 0, 0xffffffff, 0, 0, 0, false, .hostPol⟩
  | .STAR_BR_CTRL => ⟨0xc1000, 1, 4, 0xf13, 0, 0, 0, 0, 0x400, 25, false, .hostPol⟩
  | .STAR_BR_STAT => ⟨0xc1004, 1, 4, 0, 0, 0, 0, 0xf7, 0, 25, false, .hostPol⟩
  | .STAR_BR_DELAY => ⟨0xc1008, 1, 4, 0, 0, 0, 0, 0x8fff, 0, 25, false, .hostPol⟩
  | .STAR_BR_OFS => ⟨0xc100c, 1, 4, 0, 0, 0, 0, 0xffff, 0, 25, false, .hostPol⟩
  | .STAR_BR_CAUSE => ⟨0xc1010, 1, 4, 0, 0x3f, 0, 0, 0, 0, 25, false, .hostPol⟩
  | .STAR_BR_RX_OK => ⟨0xc1020, 1, 4, 0, 0, 0, 0xffffffff, 0, 0, 25, false, .hostPol⟩
  | .STAR_BR_RX_CRC => ⟨0xc1024, 1, 4, 0, 0, 0, 0xffffffff, 0, 0, 25, false, .hostPol⟩
  | .STAR_BR_VIOL_EARLY => ⟨0xc1028, 1, 4, 0, 0, 0, 0xffffffff, 0, 0, 25, false, .hostPol⟩
  | .STAR_BR_VIOL_LATE => ⟨0xc102c, 1, 4, 0, 0, 0, 0xffffffff, 0, 0, 25, false, .hostPol⟩
  | .STAR_BR_VIOL_OUTSIDE => ⟨0xc1030, 1, 4, 0, 0, 0, 0xffffffff, 0, 0, 25, false, .hostPol⟩
  | .STAR_BR_VIOL_SLOT => ⟨0xc1034, 1, 4, 0, 0, 0, 0xffffffff, 0, 0, 25, false, .hostPol⟩
  | .PIO_CHSEL => ⟨0xd0000, 1, 4, 0xfff, 0, 0, 0, 0, 0, 0, true, .any⟩
  | .PIO_INFO => ⟨0xd0004, 1, 4, 0, 0, 0, 0, 0xffffffff, 0x1840040c, 0, false, .hostPol⟩
  | .PIO_GSTART_LO => ⟨0xd0008, 1, 4, 0, 0, 0, 0, 0, 0, 0, false, .hostPol⟩
  | .PIO_GSTART_HI => ⟨0xd000c, 1, 4, 0, 0, 0, 0, 0, 0, 0, false, .hostPol⟩
  | .PIO_CTRL => ⟨0xd1000, 1, 4, 0, 0, 0, 0, 0, 0, 12, false, .hostPol⟩
  | .PIO_STAT => ⟨0xd1004, 1, 4, 0, 0, 0, 0, 0xff, 0, 12, false, .hostPol⟩
  | .PIO_FLAGS => ⟨0xd1008, 1, 4, 0, 0xff, 0, 0, 0, 0, 12, false, .hostPol⟩
  | .PIO_FLAG_SET => ⟨0xd100c, 1, 4, 0, 0, 0xff, 0, 0, 0, 12, false, .hostPol⟩
  | .PIO_EVTIN => ⟨0xd1010, 2, 4, 0x81ff81ff, 0, 0, 0, 0, 0, 12, false, .hostPol⟩
  | .PIO_FERR => ⟨0xd1018, 1, 4, 0, 0xffff, 0, 0, 0, 0, 12, false, .hostPol⟩
  | .PIO_IMEM => ⟨0xd1100, 64, 4, 0xffffff, 0, 0, 0, 0, 0, 12, false, .hostPol⟩
  | .SM_RATE => ⟨0xd1200, 4, 64, 0xffffffff, 0, 0, 0, 0, 0, 12, false, .hostPol⟩
  | .SM_RING => ⟨0xd1204, 4, 64, 0x3f3f3f, 0, 0, 0, 0, 0x3f00, 12, false, .hostPol⟩
  | .SM_FRAME => ⟨0xd1208, 4, 64, 0xff7fff, 0, 0, 0, 0, 0x441f1f, 12, false, .hostPol⟩
  | .SM_LANES => ⟨0xd120c, 4, 64, 0x1f7f, 0, 0, 0, 0, 0, 12, false, .hostPol⟩
  | .SM_PC => ⟨0xd1210, 4, 64, 0x3f, 0, 0, 0, 0, 0, 12, false, .hostPol⟩
  | .SM_STATE => ⟨0xd1214, 4, 64, 0, 0, 0, 0, 0x3ffffff, 0, 12, false, .hostPol⟩
  | .SM_INSTR => ⟨0xd1218, 4, 64, 0, 0, 0, 0, 0x1ffffff, 0, 12, false, .hostPol⟩
  | .SM_TXF => ⟨0xd121c, 4, 64, 0, 0, 0, 0, 0, 0, 12, false, .hostPol⟩
  | .SM_RXF => ⟨0xd1220, 4, 64, 0, 0, 0, 0, 0xffffffff, 0, 12, false, .hostPol⟩
  | .SM_FLEVEL => ⟨0xd1224, 4, 64, 0, 0, 0, 0, 0xff, 0, 12, false, .hostPol⟩
  | .SM_S => ⟨0xd1228, 4, 64, 0xffffffff, 0, 0, 0, 0, 0, 12, false, .hostPol⟩
  | .SM_C => ⟨0xd122c, 4, 64, 0xffffffff, 0, 0, 0, 0, 0, 12, false, .hostPol⟩
  | .PAD_INFO => ⟨0x150004, 1, 4, 0, 0, 0, 0, 0xffffffff, 0x80, 0, false, .hostPol⟩
  | .PAD_FIO => ⟨0x150100, 128, 4, 0xfff, 0, 0, 0, 0, 0xf, 0, false, .hostPol⟩
  | .PAD_FIO_IN => ⟨0x150300, 4, 4, 0, 0, 0, 0, 0xffffffff, 0, 0, false, .hostPol⟩
  | .ENG_CHSEL => ⟨0xe0000, 1, 4, 0xfff, 0, 0, 0, 0, 0, 0, true, .any⟩
  | .ENG_INFO => ⟨0xe0004, 1, 4, 0, 0, 0, 0, 0xffffffff, 0x20400418, 0, false, .hostPolDbg⟩
  | .ENG_RUN => ⟨0xe0008, 1, 4, 0, 0, 0, 0, 0xffffff, 0, 0, false, .hostPolDbg⟩
  | .ENG_FAULT => ⟨0xe000c, 1, 4, 0, 0, 0, 0, 0xffffff, 0, 0, false, .hostPolDbg⟩
  | .ENG_BUDGET_PER => ⟨0xe0010, 1, 4, 0x3ff, 0, 0, 0, 0, 0x64, 0, false, .hostPolDbg⟩
  | .ENG_CTRL => ⟨0xe1000, 1, 4, 0, 0, 0, 0, 0, 0, 24, false, .hostPolDbg⟩
  | .ENG_STAT => ⟨0xe1004, 1, 4, 0, 0x30000, 0, 0, 0xffff, 0, 24, false, .hostPolDbg⟩
  | .ENG_TSEL => ⟨0xe1008, 1, 4, 3, 0, 0, 0, 0, 0, 24, true, .hostPolDbg⟩
  | .ENG_IMEM_ADDR => ⟨0xe100c, 1, 4, 0xfffc, 0, 0, 0, 0, 0, 24, true, .hostPolDbg⟩
  | .ENG_IMEM_DATA => ⟨0xe1010, 1, 4, 0xffffffff, 0, 0, 0, 0, 0, 24, false, .hostPol⟩
  | .ENG_LMEM_ADDR => ⟨0xe1014, 1, 4, 0x1fffc, 0, 0, 0, 0, 0, 24, true, .hostPolDbg⟩
  | .ENG_LMEM_DATA => ⟨0xe1018, 1, 4, 0xffffffff, 0, 0, 0, 0, 0, 24, false, .hostPolDbg⟩
  | .ENG_ECC => ⟨0xe101c, 1, 4, 0, 0, 0, 0xffffffff, 0, 0, 24, false, .hostPolDbg⟩
  | .ENG_EVT_LINES => ⟨0xe1020, 1, 4, 0, 0, 0, 0, 0xffff, 0, 24, false, .hostPolDbg⟩
  | .ENG_EVT_CAUSE => ⟨0xe1024, 1, 4, 0, 0xffff, 0, 0, 0, 0, 24, false, .hostPolDbg⟩
  | .ENG_T_STAT => ⟨0xe1100, 1, 4, 0, 0, 0, 0, 0xf1f07ff, 0, 24, false, .hostPolDbg⟩
  | .ENG_T_PC => ⟨0xe1104, 1, 4, 0xfffc, 0, 0, 0, 0, 0, 24, false, .hostPolDbg⟩
  | .ENG_T_FAULT => ⟨0xe1108, 1, 4, 0, 0, 0, 0, 0xffff00ff, 0, 24, false, .hostPolDbg⟩
  | .ENG_T_FADDR => ⟨0xe110c, 1, 4, 0, 0, 0, 0, 0xffffffff, 0, 24, false, .hostPolDbg⟩
  | .ENG_T_BUDGET => ⟨0xe1110, 1, 4, 0xfffff, 0, 0, 0, 0, 0, 24, false, .hostPolDbg⟩
  | .ENG_T_USED => ⟨0xe1114, 1, 4, 0, 0, 0, 0, 0xfffff, 0, 24, false, .hostPolDbg⟩
  | .ENG_T_GSEL => ⟨0xe1118, 1, 4, 0x3f, 0, 0, 0, 0, 0, 24, true, .hostPolDbg⟩
  | .ENG_T_GDATA => ⟨0xe111c, 1, 4, 0xffffffff, 0, 0, 0, 0, 0, 24, false, .hostPolDbg⟩
  | .ENG_T_BREAK => ⟨0xe1120, 1, 4, 0xfffd, 0, 0, 0, 0, 0, 24, false, .hostPolDbg⟩
  | .POL_INFO => ⟨0xf0004, 1, 4, 0, 0, 0, 0, 0xffffffff, 0x408080, 0, false, .host⟩
  | .POL_CTRL => ⟨0xf0008, 1, 4, 1, 0, 0, 0, 0, 0, 0, false, .host⟩
  | .POL_STAT => ⟨0xf000c, 1, 4, 0, 0x30, 0, 0, 0xff0f, 0, 0, false, .host⟩
  | .POL_START_PC => ⟨0xf0010, 1, 4, 0x7fffc, 0, 0, 0, 0, 0, 0, false, .host⟩
  | .POL_START_SP => ⟨0xf0014, 1, 4, 0xffffffff, 0, 0, 0, 0, 0, 0, false, .host⟩
  | .POL_EPC => ⟨0xf0018, 1, 4, 0, 0, 0, 0, 0xffffffff, 0, 0, false, .host⟩
  | .POL_IMEM_ADDR => ⟨0xf0020, 1, 4, 0x7fffc, 0, 0, 0, 0, 0, 0, true, .host⟩
  | .POL_IMEM_DATA => ⟨0xf0024, 1, 4, 0xffffffff, 0, 0, 0, 0, 0, 0, false, .host⟩
  | .POL_DMEM_ADDR => ⟨0xf0028, 1, 4, 0x1ffffc, 0, 0, 0, 0, 0, 0, true, .host⟩
  | .POL_DMEM_DATA => ⟨0xf002c, 1, 4, 0xffffffff, 0, 0, 0, 0, 0, 0, false, .host⟩
  | .POL_ECC => ⟨0xf0040, 1, 4, 0, 0, 0, 0xffffffff, 0, 0, 0, false, .host⟩
  | .POL_ENV_GEN => ⟨0xf0050, 1, 4, 0, 0, 0, 0, 0xffffffff, 0, 0, false, .host⟩
  | .POL_ENV_TICK_LO => ⟨0xf0054, 1, 4, 0, 0, 0, 0, 0xffffffff, 0, 0, false, .host⟩
  | .POL_ENV_TICK_HI => ⟨0xf0058, 1, 4, 0, 0, 0, 0, 0xffffffff, 0, 0, false, .host⟩
  | .POL_ENV_SEL => ⟨0xf0060, 1, 4, 0xf, 0, 0, 0, 0, 0, 0, true, .hostPol⟩
  | .POL_ENV_W => ⟨0xf0064, 4, 4, 0, 0, 0, 0, 0xffffffff, 0, 0, false, .host⟩
  | .POL_ACT_OK => ⟨0xf0080, 1, 4, 0, 0, 0, 0xffffffff, 0, 0, 0, false, .host⟩
  | .POL_ACT_REFUSED => ⟨0xf0084, 1, 4, 0, 0, 0, 0xffffffff, 0, 0, 0, false, .host⟩
  | .POL_TBL_SEL => ⟨0xf0090, 1, 4, 0x1ff1fff, 0, 0, 0, 0, 0, 0, true, .hostPol⟩
  | .POL_TBL_CTRL => ⟨0xf0094, 1, 4, 0, 0, 0, 0, 0x300, 0, 0, true, .hostPol⟩
  | .POL_TBL_W => ⟨0xf00a0, 8, 4, 0, 0, 0, 0, 0xffffffff, 0, 0, true, .host⟩
  | .CRY_INFO => ⟨0x100004, 1, 4, 0, 0, 0, 0, 0xffffffff, 0x200100, 0, false, .host⟩
  | .CRY_PROV_LOCK => ⟨0x100008, 1, 4, 0, 0, 0, 0, 1, 0, 0, false, .host⟩
  | .CRY_KEY_SEL => ⟨0x100010, 1, 4, 0xff, 0, 0, 0, 0, 0, 0, true, .hostPol⟩
  | .CRY_KEY_ATTR => ⟨0x100014, 1, 4, 0x10fff, 0, 0, 0, 0x80000000, 0, 0, false, .host⟩
  | .CRY_KEY_DATA => ⟨0x100020, 8, 4, 0, 0, 0, 0, 0, 0, 0, false, .host⟩
  | .CRY_KEY_CTRL => ⟨0x100040, 1, 4, 0, 0, 0, 0, 0, 0, 0, false, .hostPol⟩
  | .CRY_KEY_STAT => ⟨0x100044, 1, 4, 0, 0, 0, 0, 7, 0, 0, true, .host⟩
  | .CRY_LOADED => ⟨0x100050, 8, 4, 0, 0, 0, 0, 0xffffffff, 0, 0, false, .host⟩
  | .CRY_REQ_CNT => ⟨0x100080, 1, 4, 0, 0, 0, 0xffffffff, 0, 0, 0, false, .host⟩
  | .CRY_AUTH_FAIL => ⟨0x100084, 1, 4, 0, 0, 0, 0xffffffff, 0, 0, 0, false, .host⟩
  | .CRY_STALE => ⟨0x100088, 1, 4, 0, 0, 0, 0xffffffff, 0, 0, 0, false, .host⟩
  | .CRY_REPLAY => ⟨0x10008c, 1, 4, 0, 0, 0, 0xffffffff, 0, 0, 0, false, .host⟩
  | .CRY_RECIRC_DROP => ⟨0x100090, 1, 4, 0, 0, 0, 0xffffffff, 0, 0, 0, false, .host⟩
  | .CRY_FLOW_SEL => ⟨0x100100, 1, 4, 0x1fff, 0, 0, 0, 0, 0, 0, true, .hostPol⟩
  | .CRY_FLOW_STATE => ⟨0x100104, 1, 4, 0xffffffff, 0, 0, 0, 0, 0, 0, false, .hostPol⟩
  | .CRY_FLOW_VALID => ⟨0x100108, 1, 4, 1, 0, 0, 0, 0, 0, 0, false, .hostPol⟩
  | .MBX_CHSEL => ⟨0x110000, 1, 4, 0xfff, 0, 0, 0, 0, 0, 0, true, .any⟩
  | .MBX_INFO => ⟨0x110004, 1, 4, 0, 0, 0, 0, 0xffffffff, 0x201040, 0, false, .hostPol⟩
  | .MBX_BIND_LOCK => ⟨0x110008, 1, 4, 0, 0, 0, 0, 1, 0, 0, false, .hostPol⟩
  | .MBX_FULL_LO => ⟨0x110010, 1, 4, 0, 0, 0, 0, 0xffffffff, 0, 0, false, .hostPol⟩
  | .MBX_FULL_HI => ⟨0x110014, 1, 4, 0, 0, 0, 0, 0xffffffff, 0, 0, false, .hostPol⟩
  | .MBX_FULL_BLK => ⟨0x110018, 1, 4, 0, 0, 0, 0, 0xffff, 0, 0, false, .hostPol⟩
  | .MBX_UNB_ID => ⟨0x110020, 1, 4, 0, 0, 0, 0xbf0000ff, 0, 0, 0, false, .hostPol⟩
  | .MBX_UNB_CNT => ⟨0x110024, 1, 4, 0, 0, 0, 0xffff, 0, 0, 0, false, .hostPol⟩
  | .MBX_LOCK => ⟨0x110100, 32, 4, 0xff, 0, 0, 0, 0, 0, 0, false, .any⟩
  | .MBX_LOCK_BROKEN => ⟨0x110180, 1, 4, 0, 0xffffffff, 0, 0, 0, 0, 0, false, .hostPol⟩
  | .MBX_LOCK_FORCE => ⟨0x110184, 1, 4, 0, 0, 0, 0, 0, 0, 0, false, .host⟩
  | .MBX_LOCK_OWNER => ⟨0x110200, 32, 4, 0, 0, 0, 0, 0xbf, 0, 0, false, .hostPol⟩
  | .MBX_BIND => ⟨0x111000, 1, 4, 0x80003f3f, 0, 0, 0, 0, 0, 80, false, .hostPol⟩
  | .MBX_TMO => ⟨0x111004, 1, 4, 0xfffff, 0, 0, 0, 0, 0x3e8, 80, false, .hostPol⟩
  | .MBX_STAT => ⟨0x111008, 1, 4, 0, 0x102, 0, 0, 0xfd, 0, 80, false, .hostPol⟩
  | .MBX_CMD => ⟨0x11100c, 1, 4, 0, 0, 0, 0, 0, 0, 80, false, .hostPol⟩
  | .MBX_DB_DATA => ⟨0x111010, 1, 4, 0xffffffff, 0, 0, 0, 0, 0, 80, false, .hostPol⟩
  | .MBX_BLK_W => ⟨0x111040, 16, 4, 0xffffffff, 0, 0, 0, 0, 0, 80, false, .hostPol⟩
  | .REC_INFO => ⟨0x120004, 1, 4, 0, 0, 0, 0, 0xffffffff, 0x202020, 0, false, .hostPol⟩
  | .REC_CTRL => ⟨0x120008, 1, 4, 1, 0, 0, 0, 0, 0, 0, false, .hostPol⟩
  | .REC_STAT => ⟨0x12000c, 1, 4, 0, 0x20, 0, 0, 0x1f, 0, 0, false, .hostPol⟩
  | .REC_RING_BASE => ⟨0x120010, 1, 4, 0xffff0000, 0, 0, 0, 0, 0, 0, false, .hostPol⟩
  | .REC_RING_SIZE => ⟨0x120014, 1, 4, 0x7ff, 0, 0, 0, 0, 0x10, 0, false, .hostPol⟩
  | .REC_BOOT_BASE => ⟨0x120018, 1, 4, 0xffff0000, 0, 0, 0, 0, 0, 0, false, .hostPol⟩
  | .REC_CNT_BASE => ⟨0x12001c, 1, 4, 0xffffe000, 0, 0, 0, 0, 0, 0, false, .hostPol⟩
  | .REC_STAGE_BANK => ⟨0x120020, 1, 4, 0x1ff, 0, 0, 0, 0, 0, 0, false, .hostPol⟩
  | .REC_HEAD_SEQ => ⟨0x120024, 1, 4, 0, 0, 0, 0, 0xffffffff, 0, 0, false, .hostPol⟩
  | .REC_TAIL_SEQ => ⟨0x120028, 1, 4, 0, 0, 0, 0, 0xffffffff, 0, 0, false, .hostPol⟩
  | .REC_FLASH_SEQ => ⟨0x12002c, 1, 4, 0, 0, 0, 0, 0xffffffff, 0, 0, false, .hostPol⟩
  | .REC_STAGED => ⟨0x120030, 1, 4, 0, 0, 0, 0, 0x3f3fff, 0, 0, false, .hostPol⟩
  | .REC_LOST => ⟨0x120034, 1, 4, 0, 0, 0, 0, 0xffffffff, 0, 0, false, .hostPol⟩
  | .REC_LOST_TOTAL => ⟨0x120038, 1, 4, 0, 0, 0, 0xffffffff, 0, 0, 0, false, .hostPol⟩
  | .REC_FLASH_ERR => ⟨0x12003c, 1, 4, 0, 0, 0, 0xffff, 0, 0, 0, false, .hostPol⟩
  | .REC_OPTIME_S => ⟨0x120040, 1, 4, 0, 0, 0, 0, 0xffffffff, 0, 0, false, .hostPol⟩
  | .REC_OPTIME_MS => ⟨0x120044, 1, 4, 0, 0, 0, 0, 0xffffffff, 0, 0, true, .hostPol⟩
  | .REC_SW_D => ⟨0x120050, 3, 4, 0xffffffff, 0, 0, 0, 0, 0, 0, true, .hostPol⟩
  | .REC_SW_CODE => ⟨0x12005c, 1, 4, 0, 0, 0, 0, 0, 0, 0, false, .hostPol⟩
  | .REC_SW_STAT => ⟨0x120060, 1, 4, 0, 0, 0, 0, 3, 0, 0, true, .hostPol⟩
  | .REC_RD_SEQ => ⟨0x120070, 1, 4, 0xffffffff, 0, 0, 0, 0, 0, 0, true, .hostPol⟩
  | .REC_RD_CTRL => ⟨0x120074, 1, 4, 0, 0, 0, 0, 0x300, 0, 0, true, .hostPol⟩
  | .REC_RD_W => ⟨0x120080, 8, 4, 0, 0, 0, 0, 0xffffffff, 0, 0, true, .hostPol⟩
  | .FWU_STAT => ⟨0x130004, 1, 4, 0, 0, 0, 0, 0xffff, 0, 0, false, .hostPol⟩
  | .FWU_CONFIRM => ⟨0x130008, 1, 4, 0, 0, 0, 0, 0, 0, 0, false, .host⟩
  | .FWU_VER_A => ⟨0x13000c, 1, 4, 0, 0, 0, 0, 0xffffffff, 0, 0, false, .hostPol⟩
  | .FWU_VER_B => ⟨0x130010, 1, 4, 0, 0, 0, 0, 0xffffffff, 0, 0, false, .hostPol⟩
  | .FWU_AREA => ⟨0x130014, 1, 4, 0, 0, 0, 0, 0x7f01ff, 0, 0, false, .hostPol⟩
  | .EVT_PEND => ⟨0x140100, 10, 4, 0, 0xffffffff, 0, 0, 0, 0, 0, false, .any⟩
  | .EVT_OUT_CTRL => ⟨0x140200, 1, 4, 0xff, 0, 0, 0, 0, 0x19, 0, false, .any⟩
  | .EVT_ACCERR_ID => ⟨0x140300, 1, 4, 0, 0, 0, 0xbf030000, 0, 0, 0, false, .any⟩
  | .EVT_ACCERR_ADDR => ⟨0x140304, 1, 4, 0, 0, 0, 0, 0xffffffff, 0, 0, false, .any⟩
  | .EVT_ACCERR_CNT => ⟨0x140308, 1, 4, 0, 0, 0, 0xffff, 0, 0, 0, false, .any⟩
  | .EVT_ROUTE => ⟨0x141000, 320, 4, 0xfffffff, 0, 0, 0, 0, 0, 0, false, .any⟩

/-- Registers of the address map, part 0. -/
def regList0 : List Reg :=
  [.GLB_ID, .GLB_STAT, .GLB_STRAP, .GLB_RST_CAUSE, .GLB_RST_CTRL, .GLB_WDT_CFG,
   .GLB_WDT3_KICK, .GLB_RESTART_CFG, .GLB_RESTART_STAT, .GLB_OTP, .CLK_PWR_STAT, .CLK_PWR_REQ,
   .CLK_WAKE_EN, .CLK_WAKE_CAUSE, .CLK_WAKEIN_CFG, .CLK_RTC_S, .CLK_RTC_ALARM, .CLK_DOZE_DIS,
   .CLK_DOM_RUN, .CLK_PLL_STAT, .HIF_INFO, .HIF_INBAND_PORTS, .HIF_INBAND_KEY, .HIF_INBAND_SEQ,
   .HIF_INBAND_CTRL, .HIF_INBAND_REJ, .HIF_SQ_BASE_LO, .HIF_SQ_BASE_HI, .HIF_CQ_BASE_LO, .HIF_CQ_BASE_HI,
   .HIF_SQ_TAIL, .HIF_CQ_HEAD, .HIF_RING_CTRL, .HIF_RING_STAT, .TIME_CTRL, .TIME_STAT,
   .TIME_NOW_LO, .TIME_NOW_HI, .TIME_NOW_FRAC, .TIME_INCR_FRAC, .TIME_INCR_NS, .TIME_ADJ_OFS_LO,
   .TIME_ADJ_OFS_HI, .TIME_ADJ_INTV, .TIME_ADJ_CTRL, .TIME_ADJ_DONE_LO, .TIME_ADJ_DONE_HI, .TIME_PPSOUT_CFG,
   .TIME_PPSOUT_OFS, .TIME_PPSIN_LO, .TIME_PPSIN_HI, .TIME_PPSIN_GUARD, .TIME_EQXIN_LO, .TIME_EQXIN_HI,
   .TIME_EQXOUT_CFG, .TIME_ALARM_LO, .TIME_ALARM_HI, .TIME_ALARM_CTRL, .TIME_PTPF, .TIME_TXF]

/-- Registers of the address map, part 1. -/
def regList1 : List Reg :=
  [.TIME_TX1S, .TIME_TXV, .TIME_RXS_RDY, .TIME_RXS_W0, .TIME_RXS_W1, .TIME_RXS_W2,
   .TIME_RXS_W3, .TIME_TXS_RDY, .TIME_TXS_W0, .TIME_TXS_W1, .TIME_TXS_W2, .TIME_TXS_W3,
   .TIME_RXS_OVF, .TIME_TXS_OVF, .TIME_INS_SKIP, .TIME_LATC, .MEM_CHSEL, .MEM_INFO,
   .MEM_TEST_STAT, .MEM_FAILED, .MEM_QUOTA, .MEM_COUNT, .MEM_OWN, .MEM_OWN_STAT,
   .MEM_BANK_CFG, .MEM_PWR, .MEM_CELLS, .MEM_ECC_CE, .MEM_ECC_UE, .MEM_UE_WORD,
   .MEM_LOST_WR, .MEM_STALL_CNT, .MEM_TEST_RES, .QM_CHSEL, .QM_INFO, .QM_DESC_FREE,
   .QM_NO_DESC, .QM_NOTICE_NEXT, .QM_LIMIT_SUM, .QM_NGRP_NEXT, .QM_Q_CTRL, .QM_Q_STAT,
   .QM_Q_BIND, .QM_Q_LIMIT, .QM_Q_USE, .QM_Q_COAL, .QM_Q_RXA, .QM_Q_OP,
   .QM_Q_OPSTAT, .QM_Q_DEQ, .QM_Q_D, .QM_Q_E, .QM_Q_DONE, .QM_Q_DROP,
   .QM_Q_POS, .FAB_INFO, .FAB_BUF_STAT, .FAB_BUF_CELLS, .FAB_BUF_FREE, .FAB_BUF_SHARED]

/-- Registers of the address map, part 2. -/
def regList2 : List Reg :=
  [.FAB_BUF_MARGIN, .FAB_MC_AGE, .FAB_EVT_HOLD, .FAB_AGE_TIME, .FAB_TRUNC, .FAB_CT_BAD,
   .FAB_CLS_MISS, .FAB_LEARN_FAIL, .FAB_RESEQ_ERR, .FAB_MC_AGED, .FAB_PORT_CFG, .FAB_PCP_MAP,
   .FAB_QSEL, .FAB_Q_USE, .FAB_Q_AVG, .FAB_Q_DROP_RED, .FAB_Q_DROP_BUF, .FAB_Q_DROP_QM,
   .FAB_Q_STAT, .FAB_ACT_SEL, .FAB_ACT_CTRL, .FAB_ACT_W, .FAB_SF_BLOCKED, .FAB_IN_DROP,
   .ETH_CHSEL, .ETH_INFO, .ETH_MDIO_CMD, .ETH_MDIO_DATA, .ETH_MODE, .ETH_CTRL,
   .ETH_STAT, .ETH_MAXFRM, .ETH_TX_THR, .ETH_RSV_TRAP, .ETH_PFC_CFG, .ETH_PFC_STAT,
   .ETH_EEE_CFG, .ETH_PREEMPT_CFG, .ETH_PREEMPT_STAT, .ETH_PLCA_CFG, .ETH_MACSEC_CTRL, .ETH_MACSEC_WIN,
   .ETH_SC_SEL, .ETH_SC_CFG, .ETH_SCI_LO, .ETH_SCI_HI, .ETH_SA, .ETH_EVT_CAUSE,
   .ETH_TXD, .ETH_RX_OCT_LO, .ETH_RX_OCT_HI, .ETH_RX_FRM_LO, .ETH_RX_FRM_HI, .ETH_TX_OCT_LO,
   .ETH_TX_OCT_HI, .ETH_TX_FRM_LO, .ETH_TX_FRM_HI, .ETH_RX_FCS, .ETH_RX_RUNT, .ETH_RX_GIANT]

/-- Registers of the address map, part 3. -/
def regList3 : List Reg :=
  [.ETH_RX_ALIGN, .ETH_RX_SYMBOL, .ETH_RX_VLAN, .ETH_RX_FILTER, .ETH_RX_MACSEC, .ETH_RX_PAUSE,
   .ETH_RX_FRAG_ERR, .ETH_TX_UNDERRUN, .ETH_TX_PAUSE, .ETH_TX_DISCARD, .ETH_TX_GATE_OVR, .ETH_TX_PREEMPT,
   .ETH_TX_COLL, .ETH_RED_DUP, .ETH_RED_FULL, .CAN_CHSEL, .CAN_INFO, .CAN_PAD,
   .CAN_ACT_SEL, .CAN_ACT_CTRL, .CAN_ACT_W, .CAN_RT_SEL, .CAN_RT_RATE, .CAN_RT_QUAR,
   .CAN_RT_HIT, .CAN_CTRL, .CAN_STAT, .CAN_NBT, .CAN_DBT, .CAN_XBT,
   .CAN_TDC, .CAN_ERRC, .CAN_RX_DEF, .CAN_TX_STAT, .CAN_TX_HEAD_AGE, .CAN_TX_CMD,
   .CAN_TX_CMD_STAT, .CAN_TX_LOG, .CAN_TX_LOG_STAMP, .CAN_TX_LOG_LOST, .CAN_HPB_POP, .CAN_HPB_H,
   .CAN_HPB_STAMP, .CAN_HPB_D, .CAN_SLEEP, .CAN_HOLD, .CAN_WAKE_TIM, .CAN_WAKE_CFG,
   .CAN_WAKE_STAT, .CAN_WAKE_ID, .CAN_WUFTX_ID, .CAN_WUFTX_DLC, .CAN_WUFTX_D, .CAN_WUF,
   .CAN_EVT_CAUSE, .CAN_IDCOL, .CAN_RX_OK, .CAN_RX_ERR, .CAN_RX_DROP, .CAN_TX_OK]

/-- Registers of the address map, part 4. -/
def regList4 : List Reg :=
  [.CAN_ARB_LOST, .CAN_TX_ERR, .CAN_TX_FULL_DROP, .CAN_TX_BAD, .CAN_TX_OFF_DROP, .CAN_HOLD_DROP,
   .CAN_HPB_OVF, .CAN_IDCOL_CNT, .CAN_BUSOFF_CNT, .CAN_PEXC, .CAN_SYNC_MISS, .CAN_RT_MISS,
   .CAN_SYNC_SKIP, .STAR_CHSEL, .STAR_INFO, .STAR_CTRL, .STAR_STAT, .STAR_START_LO,
   .STAR_START_HI, .STAR_MC_NUM, .STAR_MC_START_LO, .STAR_MC_START_HI, .STAR_BC, .STAR_MODE_REQ,
   .STAR_MODE_TARGET, .STAR_MODE_STAT, .STAR_ACK, .STAR_ID, .STAR_ISL_OFS, .STAR_EQX_CAN,
   .STAR_EQX_CANID, .STAR_EQX_LAST_LO, .STAR_EQX_LAST_HI, .STAR_EQX_DIFF, .STAR_CLAIM_CFG, .STAR_WAKE_CFG,
   .STAR_WAKE_STAT, .STAR_ARB_LOST, .STAR_SLOT_DROP, .STAR_STALE_CNT, .STAR_BR_CTRL, .STAR_BR_STAT,
   .STAR_BR_DELAY, .STAR_BR_OFS, .STAR_BR_CAUSE, .STAR_BR_RX_OK, .STAR_BR_RX_CRC, .STAR_BR_VIOL_EARLY,
   .STAR_BR_VIOL_LATE, .STAR_BR_VIOL_OUTSIDE, .STAR_BR_VIOL_SLOT, .PIO_CHSEL, .PIO_INFO, .PIO_GSTART_LO,
   .PIO_GSTART_HI, .PIO_CTRL, .PIO_STAT, .PIO_FLAGS, .PIO_FLAG_SET, .PIO_EVTIN]

/-- Registers of the address map, part 5. -/
def regList5 : List Reg :=
  [.PIO_FERR, .PIO_IMEM, .SM_RATE, .SM_RING, .SM_FRAME, .SM_LANES,
   .SM_PC, .SM_STATE, .SM_INSTR, .SM_TXF, .SM_RXF, .SM_FLEVEL,
   .SM_S, .SM_C, .PAD_INFO, .PAD_FIO, .PAD_FIO_IN, .ENG_CHSEL,
   .ENG_INFO, .ENG_RUN, .ENG_FAULT, .ENG_BUDGET_PER, .ENG_CTRL, .ENG_STAT,
   .ENG_TSEL, .ENG_IMEM_ADDR, .ENG_IMEM_DATA, .ENG_LMEM_ADDR, .ENG_LMEM_DATA, .ENG_ECC,
   .ENG_EVT_LINES, .ENG_EVT_CAUSE, .ENG_T_STAT, .ENG_T_PC, .ENG_T_FAULT, .ENG_T_FADDR,
   .ENG_T_BUDGET, .ENG_T_USED, .ENG_T_GSEL, .ENG_T_GDATA, .ENG_T_BREAK, .POL_INFO,
   .POL_CTRL, .POL_STAT, .POL_START_PC, .POL_START_SP, .POL_EPC, .POL_IMEM_ADDR,
   .POL_IMEM_DATA, .POL_DMEM_ADDR, .POL_DMEM_DATA, .POL_ECC, .POL_ENV_GEN, .POL_ENV_TICK_LO,
   .POL_ENV_TICK_HI, .POL_ENV_SEL, .POL_ENV_W, .POL_ACT_OK, .POL_ACT_REFUSED, .POL_TBL_SEL]

/-- Registers of the address map, part 6. -/
def regList6 : List Reg :=
  [.POL_TBL_CTRL, .POL_TBL_W, .CRY_INFO, .CRY_PROV_LOCK, .CRY_KEY_SEL, .CRY_KEY_ATTR,
   .CRY_KEY_DATA, .CRY_KEY_CTRL, .CRY_KEY_STAT, .CRY_LOADED, .CRY_REQ_CNT, .CRY_AUTH_FAIL,
   .CRY_STALE, .CRY_REPLAY, .CRY_RECIRC_DROP, .CRY_FLOW_SEL, .CRY_FLOW_STATE, .CRY_FLOW_VALID,
   .MBX_CHSEL, .MBX_INFO, .MBX_BIND_LOCK, .MBX_FULL_LO, .MBX_FULL_HI, .MBX_FULL_BLK,
   .MBX_UNB_ID, .MBX_UNB_CNT, .MBX_LOCK, .MBX_LOCK_BROKEN, .MBX_LOCK_FORCE, .MBX_LOCK_OWNER,
   .MBX_BIND, .MBX_TMO, .MBX_STAT, .MBX_CMD, .MBX_DB_DATA, .MBX_BLK_W,
   .REC_INFO, .REC_CTRL, .REC_STAT, .REC_RING_BASE, .REC_RING_SIZE, .REC_BOOT_BASE,
   .REC_CNT_BASE, .REC_STAGE_BANK, .REC_HEAD_SEQ, .REC_TAIL_SEQ, .REC_FLASH_SEQ, .REC_STAGED,
   .REC_LOST, .REC_LOST_TOTAL, .REC_FLASH_ERR, .REC_OPTIME_S, .REC_OPTIME_MS, .REC_SW_D,
   .REC_SW_CODE, .REC_SW_STAT, .REC_RD_SEQ, .REC_RD_CTRL, .REC_RD_W, .FWU_STAT]

/-- Registers of the address map, part 7. -/
def regList7 : List Reg :=
  [.FWU_CONFIRM, .FWU_VER_A, .FWU_VER_B, .FWU_AREA, .EVT_PEND, .EVT_OUT_CTRL,
   .EVT_ACCERR_ID, .EVT_ACCERR_ADDR, .EVT_ACCERR_CNT, .EVT_ROUTE]

/-- Every register. -/
def allRegs : List Reg :=
  regList0 ++ regList1 ++ regList2 ++ regList3 ++ regList4 ++ regList5 ++ regList6 ++ regList7

/-- The register and array index at a BAR0 offset (R20). -/
def regAt (off : Nat) : Option (Reg × Nat) :=
  allRegs.findSome? fun r =>
    let d := r.desc
    if d.off ≤ off ∧ (off - d.off) % d.st = 0 ∧ (off - d.off) / d.st < d.n then some (r, (off - d.off) / d.st) else none

/-- The block of a register: its base address over 0x1_0000 (02 Table 2.1). -/
def Reg.block (r : Reg) : Nat := r.desc.off / 0x10000

/-- The channel-select register of a block (R24, Table 2.3). -/
def chselOf (block : Nat) : Option Reg :=
  match block with
  | 5 => some .MEM_CHSEL | 6 => some .QM_CHSEL | 10 => some .ETH_CHSEL | 11 => some .CAN_CHSEL
  | 12 => some .STAR_CHSEL | 13 => some .PIO_CHSEL | 14 => some .ENG_CHSEL | 17 => some .MBX_CHSEL
  | _ => none

/-- Where the register file keeps element `i` of `r` for channel or master part `c`: no two registers share a key. -/
def regKey (r : Reg) (i c : Nat) : Nat := (c * 1024 + i) * 1024 + r.ctorIdx

end Sys2Proof.Machine
end

