-- ==== Sys2Proof/Machine/State.lean ====
section
/-! DEFINITION. The state of the TBX-24: plain data, one structure per block, and the machine right after a power-on reset. -/

namespace Sys2Proof.Machine

/-- Reasons a command can stop with a fault. The spec stops the device nowhere, so no meaning raises one. -/
inductive Fault where
  /-- Raised by no command: kept so that the type has a member. Safe. -/
  | none
  deriving DecidableEq, Repr

/-- Reasons a command can be refused. -/
inductive Refusal where
  /-- A command whose meaning is not modelled. Raised by no arm of a finished model. Safe: the run stops. -/
  | notModelled (mnemonic : String)
  deriving DecidableEq, Repr

/-- What leaves the device: the model's own record of its outputs, newest first in `State.outbox` (log 4). -/
inductive Out where
  /-- A value returned to a reading master (02). -/
  | readData (m : Nat) (v : W32)
  /-- Bytes returned by a BAR2 read (02 R20). -/
  | readBytes (m : Nat) (v : List Byte)
  /-- A completion written to completion ring `ring` (02 Table 2.7). -/
  | completion (ring : Nat) (w0 w1 : W32) (result : W64)
  /-- Bytes written to host memory by a command (16 REC_SNAPSHOT). -/
  | hostWrite (addr : Nat) (bytes : List Byte)
  /-- An MSI-X message (02 R50, R450). -/
  | msix (vec : Nat) (src : Nat)
  /-- A level change of a pin: EVT_OUT0-3 are 0-3, TDO 9, WAKE_OUT_N 10. -/
  | pin (n : Nat) (level : Bool)
  /-- An edge of PPS_OUT (4) or EQX_OUT0-3 (5-8): level and local time in ns (03 R85). -/
  | timePin (n : Nat) (level : Bool) (at_ : W64)
  /-- A frame leaving an Ethernet port; `bad` means inverted FCS (07 R181). -/
  | eth (port : Nat) (bytes : List Byte) (bad : Bool)
  /-- A PFC frame: enabled priorities and time (07 R194). -/
  | pfc (port : Nat) (prios : BitVec 8) (time : BitVec 16)
  /-- A pre-emption verify (true) or respond (false) frame (07 R189). -/
  | verify (port : Nat) (isVerify : Bool)
  /-- An MDIO frame (07 Table 7.9). -/
  | mdio (bus : Nat) (cmd : W32) (data : BitVec 16)
  /-- A CAN frame record completing on a bus (08). -/
  | can (ch : Nat) (bytes : List Byte)
  /-- A wake-up pattern driven on a CAN bus (08 R232). -/
  | canWup (ch : Nat)
  /-- A frame sent or repeated on a branch, 24 for the ISL: record bytes, first transition in local time (09). -/
  | star (branch : Nat) (bytes : List Byte) (start : W64)
  /-- A frame cut by H H on every branch (09 R239, R246). -/
  | starCut (branch : Nat)
  /-- The wake pattern on a branch (09 R253). -/
  | starWake (branch : Nat)
  /-- A record delivered into the fabric at port `port`, possibly ended bad (06, 09 R240). -/
  | fabric (port : Nat) (bytes : List Byte) (bad : Bool)
  /-- An in-band completion frame (02 R36). -/
  | inband (port : Nat) (bytes : List Byte)
  /-- A record programmed into flash (16). -/
  | flash (seq : W32)
  /-- Bytes that FW_WRITE programs at an offset of the inactive slot, the slot erased first when `erase` (17 R432). -/
  | fwWrite (slot : Bool) (erase : Bool) (offset : Nat) (bytes : List Byte)
  /-- The boot control record written: seq, active, trial, trial_fail (17 R434, R436). -/
  | bootCtl (seq : W32) (active trial : Bool) (fail : BitVec 4)
  /-- A PDU that an engine's gateway runtime puts into a queue (13 R352). -/
  | pdu (queue : Nat) (bytes : List Byte)
  /-- A status report that the framework sends on the report queue (14 R379). -/
  | report (words : List W32)
  deriving DecidableEq, Repr

/-- A host command from its fetch to its completion (02 Table 2.6, R31). -/
structure Cmd where
  slot : Nat
  tag : Nat
  fence : Bool
  opcode : Byte
  words : List W32
  started : Bool
  /-- In-band commands: the port and the header bytes that the completion frame answers (Table 2.16). -/
  reply : List Byte
  deriving DecidableEq, Repr

/-- Names an outstanding command: ring, slot, tag and opcode. -/
structure CmdRef where
  ring : Nat
  slot : Nat
  tag : Nat
  opcode : Byte
  deriving DecidableEq, Repr

/-- A completion (02 Table 2.7). -/
structure Compl where
  opcode : Byte
  status : Byte
  tag : Nat
  slot : Nat
  result : W64
  reply : List Byte
  deriving DecidableEq, Repr

/-- Ring pair n: 0-7 PCIe, 8 SPI, 9 in-band (02 R29-R33, R449, R459). `held`: completions not yet written, oldest first;
`unread`: the completions on die that the SPI host has not read. -/
structure Ring where
  fetch : BitVec 8
  write : BitVec 8
  phase : Bool
  cqFull : Bool
  stopped : Bool
  inflight : List Cmd
  held : List Compl
  unread : List Compl
  deriving DecidableEq, Repr

/-- An armed commit (02 R40-R47): its command (none: the framework's own commit of the stored set, R452), its instant or
matrix-cycle number, the switch tick once switched, and whether a restart interval began while it was armed (R15). -/
structure Armed where
  cmd : Option CmdRef
  instant : Option W64
  mc : Option W32
  switched : Option W64
  stale : Bool
  deriving DecidableEq, Repr

/-- Staging and Solstice (02 R37-R48, R452). A table entry is its list of words, trailing zero words dropped. -/
structure CfgSt where
  active : NMap (List W32)
  shadow : NMap (List W32)
  stager : Option Nat
  check : Option W64
  armed : Option Armed
  deriving DecidableEq, Repr

/-- Who asked for an adjustment of the clock (03 R67-R71). -/
inductive AdjSrc where
  | cmd (c : CmdRef)
  | regs
  deriving DecidableEq, Repr

/-- A slew: who asked for it, its signed offset, its ticks in all and the ticks done (03 R69). -/
structure Slew where
  src : AdjSrc
  offset : Int
  total : Nat
  done : Nat
  deriving DecidableEq, Repr

/-- A stamp queue entry (03 Table 3.4). -/
structure Stamp where
  seqId : BitVec 16
  domain : BitVec 8
  msgType : BitVec 4
  ns : W64
  deriving DecidableEq, Repr

/-- Time base (03); `cancelled`: slews whose cancel is accepted, which end at the next tick, with who cancelled them (R70);
`ppsAt`: the local time up to which PPS_OUT's edges have come. -/
structure TimeSt where
  now : W64
  frac : W32
  incr : BitVec 36
  step : Option (AdjSrc × Int)
  slew : Option Slew
  cancelled : List (Slew × AdjSrc)
  alarm0 : Option W64
  alarm1 : Option W64
  rxs : NMap (List Stamp)
  txs : NMap (List Stamp)
  ppsLast : Option W64
  ppsBase : W64
  ppsMissFired : Bool
  eqxLast : Option W64
  ppsAt : W64
  ppsOutEnd : Option W64
  eqxOutEnd : NMap W64
  deriving DecidableEq, Repr

/-- One EVT_OUT pin (02 R448): tick at which the next pulse rises and the sources merged into it (`any_`: it was a pending
pulse, which every firing joins), tick at which the pulse that is high ends, and whether a further pulse is pending. -/
structure EvtPin where
  rise : Option Nat
  sources : List Nat
  any_ : Bool
  stop : Option Nat
  pend : Bool
  deriving DecidableEq, Repr

/-- Event router (02 R50-R52, R448). `msixPend`: the messages that wait, source (320 + n: completion ring n) and vector. -/
structure EvtSt where
  pins : NMap EvtPin
  msixPend : List (Nat × Nat)
  msixMask : W32
  msixFnMask : Bool
  engLatch : NMap (BitVec 16)
  polLatch : W64
  deriving DecidableEq, Repr

/-- A pending handover of a bank, with the tick at which its present step began (04 R101). -/
structure Handover where
  owner : BitVec 8
  del0 : BitVec 3
  del1 : BitVec 3
  scrub : Bool
  drained : Bool
  since : Nat
  deriving DecidableEq, Repr

/-- One shared-memory bank (04); `lastAccess`: the tick of its last access, or of the begin of its thaw. -/
structure Bank where
  owner : BitVec 8
  del0 : BitVec 3
  del1 : BitVec 3
  failed : Bool
  pwr : BitVec 2
  thawing : Bool
  pend : Option Handover
  underTest : Bool
  lastAccess : W64
  deriving DecidableEq, Repr

/-- A march test in progress (04 R111-R113): its MEM_TEST, or none for the test that the boot strap asks for (17 R426). -/
structure MemTest where
  cmd : Option CmdRef
  destructive : Bool
  left : List Nat
  passed : Nat
  repaired : Nat
  failed : Nat
  deriving DecidableEq, Repr

/-- A port's access to a bank in the present memory cycle (04 R92-R95): its word, whether it writes, as an atomic, the word's
bytes and error marks before it, and the thread that made it. -/
structure PortUse where
  word : Nat
  writes : Bool
  atomic : Bool
  before : List Byte
  single : Bool
  poison : Bool
  thread : Option Nat
  deriving DecidableEq, Repr

/-- The accesses of a bank's two ports in the present memory cycle (04 R92). -/
structure BankCycle where
  portA : Option PortUse
  portB : Option PortUse
  deriving DecidableEq, Repr

/-- A BAR2 access that waits for a thaw (04 R107): identity, offset, length read, data written. -/
structure Bar2Op where
  m : Nat
  off : Nat
  len : Nat
  wdata : List (Option Byte)
  deriving DecidableEq, Repr

/-- Shared memory: word error marks by word number, banks, commands in progress, the banks' present memory cycle, the bank in
FROST that the act in hand has met (none between acts), the BAR2 accesses that wait (04). -/
structure MemSt where
  single : List Nat
  poison : List Nat
  banks : NMap Bank
  handovers : List (CmdRef × List Nat × Nat)
  test : Option MemTest
  repairMap : List W32
  cycle : NMap BankCycle
  stall : Option Nat
  bar2 : List Bar2Op
  deriving DecidableEq, Repr

/-- Cause of a discard (05 R457). -/
inductive DiscardCause where
  | noDesc | flush | restart
  deriving DecidableEq, Repr

/-- A queue (05): held descriptors oldest first; positions count descriptors since reset, `base` is the oldest held. -/
structure Queue where
  descs : List (BitVec 128)
  base : Nat
  read : Nat
  vis : Nat
  mark : Option Nat
  openBy : Option (Nat × Nat)
  discard : List (Nat × Nat × DiscardCause)
  pend : List (Nat × W64)
  rxWrite : Nat
  rxUsed : Nat
  deriving DecidableEq, Repr

/-- Queue manager (05). -/
structure QmSt where
  queues : NMap Queue
  engList : NMap (List Nat)
  polList : List Nat
  groups : NMap (List Nat)
  deriving DecidableEq, Repr

/-- Where a copy of a frame goes (06 Table 6.4). -/
inductive Dest where
  | eth (p : Nat)
  | star
  | can (ch : Nat)
  | queue (q : Nat)
  deriving DecidableEq, Repr

/-- What a redundancy pair puts on a frame (07 R196): the pair, its mode and network identifier when the frame was classified, the
sequence number. -/
structure RedTag where
  pair : Nat
  mode : Nat
  net : Nat
  seq : BitVec 16
  deriving DecidableEq, Repr

/-- A frame in the fabric: what was decided at its first cell (06 R137) and how it stands; `untag` is the untag mask of its VLAN,
`cells` counts its cells per bank, `multi` marks a ready-first multicast, `whole` that its last cell has come, `badAt` the
destinations that lost a cell of it, `full` the destinations that its last cell has reached, `cut` the ports it cuts through to,
`red` the redundancy pairs that send it with the sequence number of each. -/
structure Flight where
  id : Nat
  inPort : Nat
  kind : FKind
  bytes : List Byte
  stamp : W64
  tc : Nat
  colour : Nat
  ptag : BitVec 16
  vid : BitVec 12
  untag : BitVec 16
  dests : List Dest
  cells : List (Nat × Nat)
  multi : Bool
  whole : Bool
  bad : Bool
  badAt : List Dest
  full : List Dest
  cut : List Nat
  red : List RedTag
  asIs : Bool
  born : W64
  deriving DecidableEq, Repr

/-- A frame that comes in at a port, from its first cell to its last: its first 64 bytes, the counter of order 7 or
8 of Table 7.3 that it failed at its first cell (07 R180), whether it only goes on to the other port of an HSR pair (07 R198), and what its last cell needs of the entries that governed
it: stream filter and word 0 of that filter, meter, colour (06 R137, R174). -/
structure Arrival where
  id : Nat
  port : Nat
  kind : FKind
  head : List Byte
  dropped : Option Reg
  onward : Bool
  tc : Nat
  colour : Nat
  filter : Option (Nat × W32)
  meter : Option Nat
  deriving DecidableEq, Repr

/-- A cell in the switch core (06 R163, R164): its frame, destination and index in the frame, input and output, the stream whose
cells keep their order, its number in that stream, and whether it belongs to a ready-first multicast. -/
structure Cell where
  flight : Nat
  dest : Dest
  idx : Nat
  input : Nat
  output : Nat
  stream : Nat
  num : Nat
  multi : Bool
  deriving DecidableEq, Repr

/-- The switch core (06 R163, R164): cells that wait at their inputs, oldest first; cells at the intermediates; the numbers given
and released by stream; cells held by the resequencers since a slot; cells discarded. -/
structure SwitchCore where
  inputs : List Cell
  middle : List (Nat × Cell)
  given : NMap Nat
  released : NMap Nat
  held : List (Nat × Cell)
  lost : List Cell
  deriving DecidableEq, Repr

/-- An egress queue port x 8 + class: RED average with 16 fraction bits, waiting flights in order, over_quota (06 R156, R161). -/
structure EgressQ where
  avg : Nat
  waiting : List Nat
  overQuota : Bool
  deriving DecidableEq, Repr

/-- A meter's buckets, in 10^-6 byte units as kbit/s x ns / 8, and the time they were last filled (06 R153). -/
structure Meter where
  tcb : Int
  teb : Int
  last : W64
  deriving DecidableEq, Repr

/-- Switch fabric (06). `rxWait`: frames, with their queues, that wait to be written into a receive area (05 R133; 04 R107);
`rateWin`: frames that passed in the rate-limit windows of a CAN route, by window (08 R214). -/
structure FabSt where
  flights : List Flight
  arrivals : List Arrival
  nextId : Nat
  core : SwitchCore
  rxWait : List (Nat × Nat)
  egress : NMap EgressQ
  meters : NMap Meter
  lastFire : NMap W64
  pauseReq : NMap (BitVec 8)
  rateWin : NMap (List (Nat × Nat))
  deriving DecidableEq, Repr

/-- A frame leaving a port: flight, class, tick at which its current fragment started, whether it is preemptable, fragments
already sent, whether it was ended bad, its bytes on the medium without FCS, bytes sent in earlier fragments (07). -/
structure Leaving where
  flight : Nat
  cls : Nat
  start : Nat
  preemptable : Bool
  fragments : Nat
  bad : Bool
  bytes : List Byte
  sent : Nat
  deriving DecidableEq, Repr

/-- A MAC control frame that waits for the next frame boundary (07 R188): PFC for ingress classes with its time and the tick in
which it arose (R194), pre-emption verify and respond frames (R189). -/
inductive Control where
  | pfc (classes : BitVec 8) (time : BitVec 16) (tick : Nat)
  | verify
  | respond
  deriving DecidableEq, Repr

/-- An Ethernet port (07): what its registers do not hold. `busy`: the tick from which the medium takes a new frame; `pfcNext`:
by class, when a held request is sent again; `retry`: the flight that a collision sent back and its collisions (R179); `opp`:
frames that may still start in the present transmit opportunity (R186);
`stopAt`: when the port last began to stop (R177). -/
structure Port where
  leaving : Option Leaving
  remainder : Option Leaving
  gates : BitVec 8
  hold : Bool
  pausedUntil : NMap W64
  pfcSent : BitVec 8
  pfcNext : NMap W64
  control : List Control
  busy : Nat
  lpi : Bool
  lpiReady : W64
  emptySince : W64
  verifySent : Nat
  verifyNext : W64
  retry : Option (Nat × Nat)
  opp : Option Nat
  stopAt : W64
  deriving DecidableEq, Repr

/-- A PRP or HSR pair (07 R196, R197): sequence number and duplicate table (source, sequence, time), oldest first. -/
structure RedPair where
  seq : BitVec 16
  dups : List (BitVec 48 × BitVec 16 × W64)
  deriving DecidableEq, Repr

/-- Ethernet block (07). Secure-channel words are keyed port * 1024 + channel * 32 + word (SC_CFG, SCI, SAs). -/
structure EthSt where
  ports : NMap Port
  pairs : NMap RedPair
  secure : NMap W32
  ctrHi : NMap W32
  deriving DecidableEq, Repr

/-- An entry of a transmit FIFO or hold list: record, tag, arrival, egress class, SOF of the last attempt,
and the flight whose cells hold it (08 R219, R220). -/
structure CanTx where
  record : List Byte
  tag : BitVec 8
  arrived : W64
  cls : Nat
  lastSof : W32
  flight : Nat
  deriving DecidableEq, Repr

/-- A transmission attempt in progress: of the scheduled slot or the FIFO head, its SOF stamp, a late cancel, whether that asked for
a requeue, and its issuers (08 R221, R226, R227). -/
structure Attempt where
  slot : Bool
  sof : W64
  cancelled : Bool
  requeue : Bool
  askers : List Nat
  deriving DecidableEq, Repr

/-- A CAN channel (08): what its registers do not hold. -/
structure Chan where
  fifo : List CanTx
  hold : List CanTx
  sched : Option CanTx
  release : Option (List Byte × W64)
  attempt : Option Attempt
  headSince : W64
  nextTag : BitVec 8
  idColRun : Nat
  log : List (Bool × BitVec 3 × BitVec 8 × W32)
  hpb : List (List Byte × W32)
  tec : Nat
  recv : Nat
  wakeStep : Nat
  wakeAt : W64
  wakeLocal : Bool
  lastFrame : W64
  deriving DecidableEq, Repr

/-- CAN block (08). `cmdStat` is keyed channel * 64 + master. -/
structure CanSt where
  chans : NMap Chan
  cmdStat : NMap (BitVec 3)
  rtRate : NMap W32
  rtQuar : NMap W32
  rtHit : NMap W32
  deriving DecidableEq, Repr

/-- A star branch (09 R246-R251): echo values (twice the delay, ns), discarded sets, last measured offset and its reference,
correction due, marks of this cycle, the change due at the next T_bc (0 none, 1 back, 2 readmit, 3 active, 4 listen), the
basic cycles (absolute, plus 1) of the last echo request and reference sent, and whether a response is awaited. -/
structure Branch where
  echoes : List Int
  badSets : Nat
  lastMeas : Option (Int × W64)
  corr : Option (Int × Int)
  lost : Bool
  outside : Bool
  guardOpen : Bool
  due : Nat
  echoBc : Nat
  echoWait : Bool
  refBc : Nat
  deriving DecidableEq, Repr

/-- A device slot buffer (09 R241, R242): record and the absolute basic cycle of its last write in this run. -/
structure SlotBuf where
  record : List Byte
  written : Nat
  deriving DecidableEq, Repr

/-- A frame considered in an arbitrating window (09 R244): window, branch, start, end, CRC result, whether
it is a valid frame but for its CRC, record. -/
structure ArbFrame where
  win : Nat
  branch : Nat
  start : W64
  finish : W64
  crcOk : Bool
  whole : Bool
  record : List Byte
  deriving DecidableEq, Repr

/-- The Rewick star (09): latched header and windows, start of the basic cycle, its absolute number in the run, branches,
slot buffers, snapshots by window, windows already snapped or decided, the switch in progress, the committed
mode with its matrix cycle, the matrix cycle of the last
accepted request, the reference frame of an absolute basic cycle, the peer, the alignment of a SECONDARY, whether the wake
patterns ahead of the run have been sent (R253). -/
structure StarSt where
  latch : List (List W32)
  tbc : W64
  absBc : Nat
  branches : NMap Branch
  slots : NMap SlotBuf
  snaps : NMap (List Byte)
  snapped : List Nat
  swLive : Bool
  swMode : Nat
  swTarget : W32
  committed : Option (Nat × W32)
  lastReq : Option W32
  refFrame : Option (Nat × List Byte)
  peer : Option (BitVec 4 × Bool × W32 × W64)
  align : Option (W32 × Nat × W64)
  waitSince : W64
  claimSince : W64
  arb : List ArbFrame
  arbDone : List Nat
  eqxDone : Bool
  eqxSeen : Bool
  wakeSent : Bool
  deriving DecidableEq, Repr

/-- A PIO machine (10). -/
structure Sm where
  running : Bool
  stall : BitVec 3
  pc : BitVec 6
  s : W32
  c0 : BitVec 16
  c1 : BitVec 16
  tw : W32
  tRem : Nat
  rw : W32
  rFill : Nat
  latch : Option (BitVec 24)
  step : Nat
  hold : Nat
  phase : W32
  txf : List W32
  rxf : List W32
  evt : BitVec 4
  began : Bool
  edge : Bool
  deriving DecidableEq, Repr

/-- A PIO block: output values and directions of the 128 pins, one bit each, its flags, and the flags as the PIO clock cycle found
them (10 R265, R280). -/
structure PioBlock where
  out : BitVec 128
  dir : BitVec 128
  flags : BitVec 8
  seen : BitVec 8
  deriving DecidableEq, Repr

/-- Programmable I/O (10). Machines are keyed block * 4 + machine, instruction words block * 64 + address. External pin levels, the
two stages of the input synchroniser, and the words written in this cycle to transmit FIFOs: identity, machine, word (R277). -/
structure PioSt where
  blocks : NMap PioBlock
  sms : NMap Sm
  imem : NMap (BitVec 24)
  gstartLo : W32
  pinIn : BitVec 128
  pinSync : BitVec 128
  pinSeen : BitVec 128
  txIn : List (Nat × Nat × W32)
  deriving DecidableEq, Repr

/-- Kinds of data-memory operation (11 R290). -/
inductive OpKind where
  | load | store | add | swap
  deriving DecidableEq, Repr

/-- A data-memory operation in flight (11 R289-R294): width in bytes, destination register, store data, link pop. -/
structure MemOp where
  kind : OpKind
  addr : W32
  width : Nat
  sgn : Bool
  dest : Nat
  data : W64
  isPop : Bool
  pc : W32
  deriving DecidableEq, Repr

/-- What a thread waits for (11 R282, R292, R297-R299, 12 R322). -/
inductive Wait where
  | none
  | waitt (at_ : W32)
  | waite (mask : W64) (rd : Nat)
  | waitq (rd : Nat)
  | io (isIn : Bool) (port : BitVec 16) (reg : Nat) (v : W32)
  | pop
  deriving DecidableEq, Repr

/-- A hardware loop context (12 Table 12.10). -/
structure LoopCtx where
  start : W32
  stop : W32
  count : W32
  deriving DecidableEq, Repr

/-- A crypto request taken or waiting: its block words and, once done, its status (13 R364-R366). -/
structure CryReq where
  id : Nat
  words : List W32
  badBlock : Bool
  deriving DecidableEq, Repr

/-- An Eztiel thread: an engine thread or the policy core (11, 12). -/
structure Thread where
  g : NMap W32
  lk : W32
  lvalid : Bool
  sdepth : Nat
  ldepth : Nat
  loops : List LoopCtx
  faultCode : BitVec 8
  dz : Bool
  ov : Bool
  pc : W32
  fb : BitVec 4
  wait : Wait
  yield_ : List Nat
  halted : Bool
  faulted : Bool
  broke : Bool
  overQuota : Bool
  stepping : Bool
  skipBreak : Bool
  used : Nat
  ops : List MemOp
  moreFaults : Nat
  faultPc : W32
  faultAddr : W32
  timeHi : W32
  timeout : Option W32
  tmrPeriod : W32
  tmrNext : Option W32
  tmrCount : Nat
  mstat : BitVec 2
  qsel : BitVec 12
  qE : List W32
  qD : List W32
  qStat : BitVec 4
  blkSel : BitVec 4
  mbxStat : BitVec 4
  mbxCh : Option Nat
  crcPoly : W32
  crcReg : W32
  crcCfg : W32
  crcXor : W32
  cry : List CryReq
  cryDone : List (BitVec 8 × BitVec 8)
  deriving DecidableEq, Repr

/-- Protocol engines (11): threads keyed 4e + t; poisoned words by word number of `Stores`; single-bit errors of the engines' and
the policy core's memories by `eccKey`. -/
structure EngSt where
  threads : NMap Thread
  imemPoison : List Nat
  lmemPoison : List Nat
  single : List Nat
  lastIssue : NMap Nat
  periodStart : W64
  starting : List (CmdRef × List Nat)
  stopping : List (CmdRef × List Nat)
  nextReq : Nat
  deriving DecidableEq, Repr

/-- An MPU region (12 Table 12.17). -/
structure MpuRegion where
  base : W32
  limit : W32
  attr : BitVec 6
  deriving DecidableEq, Repr

/-- A signal route's run-time state (13 R352, R353): a source frame has come (`placed`), the field holds subst. -/
structure SigRt where
  value : W32
  placed : Bool
  substituted : Bool
  stamp : W64
  deriving DecidableEq, Repr

/-- Policy core and gateway (12, 13, 14); `bcSeen`: the T_bc at which the synchronised timer last expired; `sigPrev`: the
switches that changed signal routes, and the routes before each, newest first (R354); `gwCount`: short_src and substituted of each engine's gateway runtime;
`stats`: the framework's 64-bit totals, by register key (R374); `conns`: connections that an instance holds of a kind, key
16 x instance + kind, `refused`: its refusals (14 R375). -/
structure PolSt where
  th : Thread
  mode : BitVec 6
  epc : W32
  ecause : W32
  eval : W32
  vbase : W32
  sscratch : W32
  mpuSel : BitVec 4
  mpu : NMap MpuRegion
  excEn : W64
  tmrPeriod : W32
  tmrNext : Option W32
  bcSync : Bool
  bcSeen : Option W64
  decision : List W32
  poison : List Nat
  loadCmd : Option CmdRef
  envelope : NMap (List W32)
  rate : NMap (Nat × Nat)
  lastCheck : W32
  sig : NMap SigRt
  wakeHold : NMap (Nat × W64)
  placement : List Placement
  mapSel : NMap Nat
  reports : NMap (List W32)
  periods : Nat
  templates : NMap (List Byte)
  sigPrev : List (W64 × NMap (List W32))
  gwCount : NMap (Nat × Nat)
  stats : NMap Nat
  conns : NMap Nat
  refused : NMap Nat
  deriving DecidableEq, Repr

/-- A key slot (13 R367): type, usage, users, persist as CRY_KEY_ATTR holds them. -/
structure KeySlot where
  loaded : Bool
  attr : W32
  key : BitVec 256
  deriving DecidableEq, Repr

/-- Crypto and key store (13). `stored`: the slots with persist set as the configuration store keeps them, from a device reset
until boot unwraps them (R367). -/
structure CrySt where
  slots : NMap KeySlot
  flows : NMap (Option W32)
  keyData : NMap W32
  provWritten : Bool
  rngFailed : Bool
  stored : NMap KeySlot
  deriving DecidableEq, Repr

/-- A mailbox channel: doorbells 0-63, block channels 64-79 (15). -/
structure MbxCh where
  words : List W32
  full : Bool
  timeout : Bool
  stale : Bool
  orphan : Bool
  due : Option W64
  deriving DecidableEq, Repr

/-- Mailboxes and locks (15). `stat` is keyed channel * 64 + master. -/
structure MbxSt where
  chans : NMap MbxCh
  locks : NMap (Option Nat)
  stat : NMap (BitVec 4)
  bindLockWritten : Bool
  deriving DecidableEq, Repr

/-- A capture FIFO entry: code, source master, sw, sync, operating time, data (16 R401). -/
structure RecEntry where
  code : BitVec 16
  source : BitVec 8
  sw : Bool
  sync : Bool
  opS : W32
  opMs : BitVec 10
  data : List Byte
  deriving DecidableEq, Repr

/-- Event recorder (16). `fresh`, `lostNow`: captures of the present tick, the last in `fifo`, and losses in it (R401, R404);
`buildAt`: the ns at which the builder is free. Records are kept whole, in sequence order: staged, in flash with the sector of
each, and of the boot slots. `page`: the flash page, from the ring's base, that the writer programs next; `erased`: the sector of that page, at its
first page, is erased; `retry`: a program or erase failed once; `flush`: a page is programmed though it is not full. -/
structure RecSt where
  fifo : List RecEntry
  fresh : Nat
  lost : Nat
  lostNow : Nat
  firstLost : BitVec 16
  lastLost : BitVec 16
  lastLostAt : Option W64
  nextSeq : W32
  staged : List (List W32)
  inFlash : List (Nat × List W32)
  bootSlots : NMap (List (List W32))
  cycleRecs : Nat
  buildAt : Nat
  opS : W32
  opMs : BitVec 10
  cycle : BitVec 22
  persistedS : W32
  persistedCycle : BitVec 22
  erasing : Bool
  erased : Bool
  page : Nat
  badSectors : List Nat
  retry : Bool
  flush : Bool
  deriving DecidableEq, Repr

/-- Device power state (17 R413, Table 17.12). -/
inductive PwrState where
  | run | entering | frost | thaw | enteringMidwinter | midwinter | off
  deriving DecidableEq, Repr

/-- Boot control record (17 Table 17.6). -/
structure BootCtl where
  seq : W32
  active : Bool
  trial : Bool
  trialFail : BitVec 4
  slotA : W32
  slotB : W32
  slotMib : Nat
  areaBank : Nat
  areaCount : Nat
  deriving DecidableEq, Repr

/-- Power, reset, boot and update (17); JTAG TAP (18). `booted`: boot has run since the last device reset; `sections`: the
sections 3 to 5 of the loaded image (type, destination, bytes) until the framework has loaded them; `wakePend`: a wake was
detected while Midwinter is being entered, `causeDue`: the rules of the wake cause are due (13 R355), `devReset`: the last
reset was a device reset, not a power-on reset (R436). `restarting`: the restart interval of 01 R15; `restartPending`: step 1 or 2
of a restart is under way, `restartLoaded`: step 3. `storedSet`: the stored set that the framework has to stage, check and commit;
`placePending`: the instances are to be started after it; `starting`: placed instances whose banks are being handed over;
`marched`: the march that BOOTMODE 1 asks for has begun; `tdo`: what TDO shifts out. -/
structure PwrSt where
  st : PwrState
  restarting : Bool
  restartPending : Bool
  restartCmd : Option CmdRef
  restartFail : Option (BitVec 8)
  restartOther : Bool
  restartLoaded : Bool
  held : Bool
  restartTimes : List W64
  wdt3At : Option W64
  wdt4At : Option W64
  ctl : BootCtl
  otp : BitVec 7
  revoked : BitVec 4
  imageRollback : BitVec 7
  fwWrite : Option CmdRef
  booted : Bool
  recovery : Bool
  lastReason : BitVec 8
  sections : List (Nat × Nat × List Byte)
  wakePend : Bool
  causeDue : Bool
  devReset : Bool
  placePending : Bool
  storedSet : Option ConfigSet
  starting : List Nat
  marched : Bool
  dozing : BitVec 28
  strapBoot : BitVec 3
  strapStar : BitVec 4
  rtcFrac : Nat
  tap : BitVec 4
  tapIr : BitVec 4
  tapDr : BitVec 128
  tapIrShift : BitVec 4
  tdo : Option Bool
  deriving DecidableEq, Repr

/-- The byte-addressed memories, each in canonical form (`Memory.wf`); an unlisted byte reads as 0.
Shared memory holds bank b at b * 0x40000; engine e's instruction memory is at e * 0x10000, its local memory at e * 0x20000;
then the policy core's two memories (04, 11, 12). -/
structure Stores where
  shared : List Host.Cell
  engI : List Host.Cell
  engL : List Host.Cell
  polI : List Host.Cell
  polD : List Host.Cell
  deriving DecidableEq, Repr

/-- Who uses a shared-memory bank: a thread or a BAR2 access by identity on port B, or hardware on port A (04 R89, 02 R21). -/
inductive Agent where
  | thread (t : Nat)
  | bar2 (m : Nat)
  | fabric | qm | crypto | recorder
  deriving DecidableEq, Repr

/-- The whole machine. -/
structure State where
  /-- Every register, keyed by `regKey` (Table 0.4 types); unlisted registers hold their reset value. -/
  regs : NMap W32
  stores : Stores
  time : TimeSt
  evt : EvtSt
  rings : NMap Ring
  cfg : CfgSt
  mem : MemSt
  qm : QmSt
  fab : FabSt
  eth : EthSt
  can : CanSt
  star : StarSt
  pio : PioSt
  eng : EngSt
  pol : PolSt
  cry : CrySt
  mbx : MbxSt
  recorder : RecSt
  pwr : PwrSt
  /-- 250 MHz time-base ticks since the power-on reset: the model's own (02 R448). -/
  ticks : Nat
  /-- Index of the next free value: the model's own (log 3). -/
  freeCtr : Nat
  /-- What left the device, newest first: the model's own (log 4). -/
  outbox : List Out
  /-- Commands that wait, first in first out. -/
  pending : List Instr
  deriving DecidableEq, Repr

/-- A ring pair after reset (02 R459: both indices 0; phase 1 on the first pass). -/
def Ring.empty : Ring := ⟨0, 0, true, false, false, [], [], []⟩

/-- A cleared thread (11 R305, R307). -/
def Thread.clear : Thread :=
  { g := [], lk := 0, lvalid := false, sdepth := 0, ldepth := 0, loops := [⟨0, 0, 0⟩, ⟨0, 0, 0⟩, ⟨0, 0, 0⟩],
    faultCode := 0, dz := false, ov := false, pc := 0, fb := 0, wait := .none, yield_ := [], halted := false,
    faulted := false, broke := false, overQuota := false, stepping := false, skipBreak := false, used := 0, ops := [],
    moreFaults := 0, faultPc := 0, faultAddr := 0, timeHi := 0, timeout := none, tmrPeriod := 0,
    tmrNext := none, tmrCount := 0, mstat := 0, qsel := 0, qE := [0, 0, 0, 0], qD := [0, 0, 0, 0], qStat := 0,
    blkSel := 0, mbxStat := 0, mbxCh := none, crcPoly := 0, crcReg := 0, crcCfg := 0, crcXor := 0, cry := [],
    cryDone := [] }

/-- Registers after a power-on reset that differ from their column: the por cause, and source 0 pending (17 Table 17.4). -/
def resetRegs : NMap W32 := [(regKey .GLB_RST_CAUSE 0 0, 1), (regKey .EVT_PEND 0 0, 1)]

/-- The first record of a power cycle (16 R399): operating time resumed at `p`. -/
def powerOnEntry (p : W32) : RecEntry :=
  ⟨0x0201, 0xFF, false, false, p, 0, [p.setWidth 8, (p >>> 8).setWidth 8, (p >>> 16).setWidth 8, (p >>> 24).setWidth 8, 0, 0, 0, 0, 0, 0, 0, 0]⟩

/-- The machine right after a power-on reset, before boot loads an image (17 Table 17.5). Tables, envelope and bank owners
come with COLD_BOOT; until then they are empty and the banks are owned as the model names (logs 8, 9). -/
def State.reset : State :=
  { regs := resetRegs
    stores := ⟨[], [], [], [], []⟩
    time := { now := 0, frac := 0, incr := 0x400000000, step := none, slew := none, cancelled := [], alarm0 := none, alarm1 := none,
              rxs := [], txs := [], ppsLast := none, ppsBase := 0, ppsMissFired := false, eqxLast := none,
              ppsAt := 0, ppsOutEnd := none, eqxOutEnd := [] }
    evt := { pins := [], msixPend := [], msixMask := 0, msixFnMask := false, engLatch := [], polLatch := 0 }
    rings := []
    cfg := { active := [], shadow := [], stager := none, check := none, armed := none }
    mem := { single := [], poison := [], banks := [], handovers := [], test := none, repairMap := [], cycle := [], stall := none, bar2 := [] }
    qm := { queues := [], engList := [], polList := [], groups := [] }
    fab := { flights := [], arrivals := [], nextId := 0, core := ⟨[], [], [], [], [], []⟩, rxWait := [], egress := [], meters := [], lastFire := [], pauseReq := [], rateWin := [] }
    eth := { ports := [], pairs := [], secure := [], ctrHi := [] }
    can := { chans := [], cmdStat := [], rtRate := [], rtQuar := [], rtHit := [] }
    star := { latch := [], tbc := 0, absBc := 0, branches := [], slots := [], snaps := [], snapped := [], swLive := false,
              swMode := 0, swTarget := 0, committed := none, lastReq := none, refFrame := none, peer := none, align := none,
              waitSince := 0, claimSince := 0, arb := [], arbDone := [], eqxDone := false, eqxSeen := false, wakeSent := false }
    pio := { blocks := [], sms := [], imem := [], gstartLo := 0, pinIn := 0, pinSync := 0, pinSeen := 0, txIn := [] }
    eng := { threads := [], imemPoison := [], lmemPoison := [], single := [], lastIssue := [],
             periodStart := 0, starting := [], stopping := [], nextReq := 0 }
    pol := { th := Thread.clear, mode := 3, epc := 0, ecause := 0, eval := 0, vbase := 0, sscratch := 0, mpuSel := 0,
             mpu := [], excEn := 0, tmrPeriod := 0, tmrNext := none, bcSync := false, bcSeen := none, decision := [0, 0, 0],
             poison := [], loadCmd := none, envelope := [], rate := [], lastCheck := 0,
             sig := [], wakeHold := [], placement := [], mapSel := [], reports := [], periods := 0, templates := [],
             sigPrev := [], gwCount := [], stats := [], conns := [], refused := [] }
    cry := { slots := [], flows := [], keyData := [], provWritten := false, rngFailed := false, stored := [] }
    mbx := { chans := [], locks := [], stat := [], bindLockWritten := false }
    recorder := { fifo := [powerOnEntry 0], fresh := 0, lost := 0, lostNow := 0, buildAt := 0, firstLost := 0, lastLost := 0, lastLostAt := none, nextSeq := 0, staged := [],
                  inFlash := [], bootSlots := [], cycleRecs := 0, opS := 0, opMs := 0, cycle := 1, persistedS := 0,
                  persistedCycle := 1, erasing := false, erased := false, page := 0, badSectors := [], retry := false,
                  flush := false }
    pwr := { st := .run, restarting := false, restartPending := false, restartCmd := none, restartFail := none, restartOther := false,
             restartLoaded := false, held := false, restartTimes := [], wdt3At := none, wdt4At := none,
             ctl := ⟨0, false, false, 0, 0x01000000, 0x02000000, 16, 360, 24⟩, otp := 0, revoked := 0,
             imageRollback := 0, fwWrite := none, booted := false, recovery := false, lastReason := 0, sections := [],
             wakePend := false, causeDue := false, devReset := false, placePending := false, storedSet := none, starting := [], marched := false,
             dozing := 0, strapBoot := 0, strapStar := 0, rtcFrac := 0, tap := 15, tapIr := 1, tapDr := 0,
             tapIrShift := 0, tdo := none }
    ticks := 0
    freeCtr := 0
    outbox := []
    pending := [] }

end Sys2Proof.Machine
end

