-- ==== Sys2Proof/Machine/Base.lean ====
section
/-! DEFINITION. Sparse maps, bytes, fields of a word, byte-addressed memories. -/

namespace Sys2Proof.Machine

/-! ### Sparse maps in canonical form -/

section maps
variable {α : Type}

/-- The entry listed for a key. -/
def nmFind : NMap α → Nat → Option α
  | [], _ => none
  | (i, a) :: r, k => if i = k then some a else nmFind r k

/-- What a key reads as: its entry, or the default `d`. -/
def nmGet (d : α) (m : NMap α) (k : Nat) : α := (nmFind m k).getD d

/-- The map without a key. -/
def nmErase : NMap α → Nat → NMap α
  | [], _ => []
  | (i, a) :: r, k => if i = k then nmErase r k else (i, a) :: nmErase r k

/-- The map with an entry put at its place. -/
def nmPut : NMap α → Nat → α → NMap α
  | [], k, v => [(k, v)]
  | (i, a) :: r, k, v =>
    if k < i then (k, v) :: (i, a) :: r else if k = i then (k, v) :: r else (i, a) :: nmPut r k v

/-- A write: the default is never listed. -/
def nmSet [DecidableEq α] (d : α) (m : NMap α) (k : Nat) (v : α) : NMap α :=
  if v = d then nmErase m k else nmPut m k v

/-- The canonical form above a lower bound: keys strictly rising, no entry equal to the default. -/
def nmWfFrom [DecidableEq α] (d : α) : Nat → NMap α → Bool
  | _, [] => true
  | lo, (k, v) :: r => decide (lo ≤ k) && decide (v ≠ d) && nmWfFrom d (k + 1) r

/-- The canonical form. -/
def nmWf [DecidableEq α] (d : α) (m : NMap α) : Bool := nmWfFrom d 0 m

end maps

/-! ### Bytes -/

/-- `n` bytes of a number, least significant first. -/
def leBytes : Nat → Nat → List Byte
  | 0, _ => []
  | n + 1, v => BitVec.ofNat 8 v :: leBytes n (v / 256)

/-- `n` bytes of a number, most significant first. -/
def beBytes (n v : Nat) : List Byte := (leBytes n v).reverse

/-- The number that bytes spell, least significant first. -/
def ofLe : List Byte → Nat
  | [] => 0
  | b :: r => b.toNat + 256 * ofLe r

/-- The number that bytes spell, most significant first. -/
def ofBe (l : List Byte) : Nat := ofLe l.reverse

/-- Byte `i`, 0 beyond the end. -/
def byteAt (l : List Byte) (i : Nat) : Byte := l.getD i 0

/-- `n` bytes from `i`. -/
def slice (l : List Byte) (i n : Nat) : List Byte := (l.drop i).take n

/-- The list with `n` bytes from `i` replaced. -/
def splice (l : List Byte) (i : Nat) (b : List Byte) : List Byte := l.take i ++ b ++ l.drop (i + b.length)

/-- Little-endian words of a byte list. -/
def wordsOfBytes : Nat → List Byte → List W32
  | 0, _ => []
  | n + 1, l => BitVec.ofNat 32 (ofLe (l.take 4)) :: wordsOfBytes n (l.drop 4)

/-- Bytes of a word list, little-endian words. -/
def bytesOfWords (l : List W32) : List Byte := l.flatMap fun w => leBytes 4 w.toNat

/-- Word `i` of a list, 0 beyond the end. -/
def wordAt (l : List W32) (i : Nat) : W32 := l.getD i 0

/-- A word list without its trailing zero words. -/
def trimZeros (l : List W32) : List W32 := (l.reverse.dropWhile (· = 0)).reverse

/-! ### Fields of a word -/

/-- Field [hi:lo] as a number. -/
def fld (v : W32) (hi lo : Nat) : Nat := v.toNat / 2 ^ lo % 2 ^ (hi + 1 - lo)

/-- Bit `n`. -/
def bit (v : W32) (n : Nat) : Bool := v.getLsbD n

/-- The mask of field [hi:lo]. -/
def maskOf (hi lo : Nat) : W32 := BitVec.ofNat 32 ((2 ^ (hi + 1 - lo) - 1) * 2 ^ lo)

/-- A word with field [hi:lo] set to `x`. -/
def putFld (v : W32) (hi lo x : Nat) : W32 :=
  (v &&& ~~~maskOf hi lo) ||| (BitVec.ofNat 32 (x % 2 ^ (hi + 1 - lo) * 2 ^ lo))

/-- Bit `n` alone. -/
def oneBit (n : Nat) : W32 := BitVec.ofNat 32 (2 ^ n)

/-- A condition as a bit. -/
def ofBool (b : Bool) : Nat := if b then 1 else 0

/-- A signed 16-bit field of a word at `lo`. -/
def sfld16 (v : W32) (lo : Nat) : Int := (BitVec.ofNat 16 (v.toNat / 2 ^ lo)).toInt

/-- R55: `a` is at or after `b` on the low 32 bits of time. -/
def atOrAfter (a b : W32) : Bool := decide (0 ≤ (a - b).toInt)

/-! ### Byte-addressed memories -/

/-- The canonical form of a memory: addresses strictly rising, no byte listed that reads as an unlisted one does. -/
def Memory.wf (m : List Host.Cell) : Bool := nmWf 0 m

/-- A byte; an unlisted one is 0. -/
def memRead (m : List Host.Cell) (a : Nat) : Byte := nmGet 0 m a

/-- A byte write. -/
def memWrite (m : List Host.Cell) (a : Nat) (v : Byte) : List Host.Cell := nmSet 0 m a v

/-- `n` bytes from `a`. -/
def memReadN (m : List Host.Cell) : Nat → Nat → List Byte
  | _, 0 => []
  | a, n + 1 => memRead m a :: memReadN m (a + 1) n

/-- Bytes from `a` on. -/
def memWriteN (m : List Host.Cell) : Nat → List Byte → List Host.Cell
  | _, [] => m
  | a, b :: r => memWriteN (memWrite m a b) (a + 1) r

/-- The memory with `[lo, hi)` zeroed. -/
def memClear (m : List Host.Cell) (lo hi : Nat) : List Host.Cell := m.filter fun c => c.1 < lo || hi ≤ c.1

end Sys2Proof.Machine
end

