-- ==== Sys2Proof/Machine/Cipher.lean ====
section
/-! DEFINITION. The algorithms that the spec names and their standards define: AES, CMAC, GCM, SHA-256, HMAC, key unwrap
(13 Table 13.10). -/

namespace Sys2Proof.Machine

/-! ### AES (FIPS 197) -/

/-- The substitution box. -/
def sbox : List Byte :=
  [0x63, 0x7C, 0x77, 0x7B, 0xF2, 0x6B, 0x6F, 0xC5, 0x30, 0x01, 0x67, 0x2B, 0xFE, 0xD7, 0xAB, 0x76] ++
  [0xCA, 0x82, 0xC9, 0x7D, 0xFA, 0x59, 0x47, 0xF0, 0xAD, 0xD4, 0xA2, 0xAF, 0x9C, 0xA4, 0x72, 0xC0] ++
  [0xB7, 0xFD, 0x93, 0x26, 0x36, 0x3F, 0xF7, 0xCC, 0x34, 0xA5, 0xE5, 0xF1, 0x71, 0xD8, 0x31, 0x15] ++
  [0x04, 0xC7, 0x23, 0xC3, 0x18, 0x96, 0x05, 0x9A, 0x07, 0x12, 0x80, 0xE2, 0xEB, 0x27, 0xB2, 0x75] ++
  [0x09, 0x83, 0x2C, 0x1A, 0x1B, 0x6E, 0x5A, 0xA0, 0x52, 0x3B, 0xD6, 0xB3, 0x29, 0xE3, 0x2F, 0x84] ++
  [0x53, 0xD1, 0x00, 0xED, 0x20, 0xFC, 0xB1, 0x5B, 0x6A, 0xCB, 0xBE, 0x39, 0x4A, 0x4C, 0x58, 0xCF] ++
  [0xD0, 0xEF, 0xAA, 0xFB, 0x43, 0x4D, 0x33, 0x85, 0x45, 0xF9, 0x02, 0x7F, 0x50, 0x3C, 0x9F, 0xA8] ++
  [0x51, 0xA3, 0x40, 0x8F, 0x92, 0x9D, 0x38, 0xF5, 0xBC, 0xB6, 0xDA, 0x21, 0x10, 0xFF, 0xF3, 0xD2] ++
  [0xCD, 0x0C, 0x13, 0xEC, 0x5F, 0x97, 0x44, 0x17, 0xC4, 0xA7, 0x7E, 0x3D, 0x64, 0x5D, 0x19, 0x73] ++
  [0x60, 0x81, 0x4F, 0xDC, 0x22, 0x2A, 0x90, 0x88, 0x46, 0xEE, 0xB8, 0x14, 0xDE, 0x5E, 0x0B, 0xDB] ++
  [0xE0, 0x32, 0x3A, 0x0A, 0x49, 0x06, 0x24, 0x5C, 0xC2, 0xD3, 0xAC, 0x62, 0x91, 0x95, 0xE4, 0x79] ++
  [0xE7, 0xC8, 0x37, 0x6D, 0x8D, 0xD5, 0x4E, 0xA9, 0x6C, 0x56, 0xF4, 0xEA, 0x65, 0x7A, 0xAE, 0x08] ++
  [0xBA, 0x78, 0x25, 0x2E, 0x1C, 0xA6, 0xB4, 0xC6, 0xE8, 0xDD, 0x74, 0x1F, 0x4B, 0xBD, 0x8B, 0x8A] ++
  [0x70, 0x3E, 0xB5, 0x66, 0x48, 0x03, 0xF6, 0x0E, 0x61, 0x35, 0x57, 0xB9, 0x86, 0xC1, 0x1D, 0x9E] ++
  [0xE1, 0xF8, 0x98, 0x11, 0x69, 0xD9, 0x8E, 0x94, 0x9B, 0x1E, 0x87, 0xE9, 0xCE, 0x55, 0x28, 0xDF] ++
  [0x8C, 0xA1, 0x89, 0x0D, 0xBF, 0xE6, 0x42, 0x68, 0x41, 0x99, 0x2D, 0x0F, 0xB0, 0x54, 0xBB, 0x16]

/-- SubBytes of one byte. -/
def subByte (b : Byte) : Byte := sbox.getD b.toNat 0

/-- Its inverse. -/
def invSubByte (b : Byte) : Byte := BitVec.ofNat 8 (sbox.findIdx (· = b))

/-- Multiplication by x. -/
def xtime (b : Byte) : Byte := (b <<< 1) ^^^ (if b.getLsbD 7 then 0x1B else 0)

/-- Multiplication by a constant below 16. -/
def gmul (k : Nat) (b : Byte) : Byte :=
  let b2 := xtime b
  let b4 := xtime b2
  let b8 := xtime b4
  (if k % 2 = 1 then b else 0) ^^^ (if k / 2 % 2 = 1 then b2 else 0) ^^^ (if k / 4 % 2 = 1 then b4 else 0) ^^^ (if k / 8 % 2 = 1 then b8 else 0)

/-- Bytes combined by exclusive or. -/
def xorBytes (a b : List Byte) : List Byte := List.zipWith (· ^^^ ·) a b

/-- The round constant of round `n`. -/
def rcon : Nat → Byte
  | 0 => 0x8D
  | n + 1 => xtime (rcon n)

/-- `n` more words of the key schedule. -/
def expandKey (nk : Nat) : Nat → List (List Byte) → List (List Byte)
  | 0, ws => ws
  | n + 1, ws =>
    let i := ws.length
    let t := ws.getD (i - 1) []
    let t := if i % nk = 0 then xorBytes ((t.drop 1 ++ t.take 1).map subByte) [rcon (i / nk), 0, 0, 0]
             else if 6 < nk && i % nk = 4 then t.map subByte else t
    expandKey nk n (ws ++ [xorBytes (ws.getD (i - nk) []) t])

/-- The bytes in groups of four. -/
def quads : Nat → List Byte → List (List Byte)
  | 0, _ => []
  | n + 1, l => l.take 4 :: quads n (l.drop 4)

/-- The round keys of a key of 16 or 32 bytes. -/
def roundKeys (key : List Byte) : List (List Byte) :=
  let nk := key.length / 4
  let ws := expandKey nk (4 * (nk + 7) - nk) (quads nk key)
  (List.range (nk + 7)).map fun r => ((ws.drop (4 * r)).take 4).flatten

/-- ShiftRows, `dir` 1; its inverse, `dir` 3. -/
def shiftRows (dir : Nat) (st : List Byte) : List Byte :=
  (List.range 16).map fun i => st.getD (i % 4 + 4 * ((i / 4 + dir * (i % 4)) % 4)) 0

/-- MixColumns with the first row of its matrix. -/
def mixColumns (m : List Nat) (st : List Byte) : List Byte :=
  (List.range 16).map fun i =>
    (List.range 4).foldl (fun a k => a ^^^ gmul (m.getD ((k + 4 - i % 4) % 4) 0) (st.getD (i / 4 * 4 + k) 0)) 0

/-- Encryption of one block. -/
def aesEncrypt (key block : List Byte) : List Byte :=
  let ks := roundKeys key
  let n := ks.length - 1
  let st := (List.range (n - 1)).foldl (fun st r =>
    xorBytes (mixColumns [2, 3, 1, 1] (shiftRows 1 (st.map subByte))) (ks.getD (r + 1) [])) (xorBytes block (ks.getD 0 []))
  xorBytes (shiftRows 1 (st.map subByte)) (ks.getD n [])

/-- Decryption of one block. -/
def aesDecrypt (key block : List Byte) : List Byte :=
  let ks := roundKeys key
  let n := ks.length - 1
  let st := (List.range (n - 1)).foldl (fun st r =>
    mixColumns [14, 11, 13, 9] (xorBytes ((shiftRows 3 st).map invSubByte) (ks.getD (n - 1 - r) []))) (xorBytes block (ks.getD n []))
  xorBytes ((shiftRows 3 st).map invSubByte) (ks.getD 0 [])

/-! ### CMAC (RFC 4493) -/

/-- Doubling of a subkey. -/
def cmacDouble (l : List Byte) : List Byte :=
  let n := ofBe l
  beBytes 16 (Nat.xor (n * 2 % 2 ^ 128) (if 2 ^ 127 ≤ n then 0x87 else 0))

/-- The full blocks of a message before its last one, chained. -/
def cmacChain (key : List Byte) : Nat → List Byte → List Byte → List Byte × List Byte
  | 0, x, m => (x, m)
  | n + 1, x, m => if m.length ≤ 16 then (x, m) else cmacChain key n (aesEncrypt key (xorBytes x (m.take 16))) (m.drop 16)

/-- CMAC of a message, 16 bytes. -/
def cmacOf (key m : List Byte) : List Byte :=
  let k1 := cmacDouble (aesEncrypt key (List.replicate 16 0))
  let (x, tail) := cmacChain key (m.length / 16 + 1) (List.replicate 16 0) m
  let last := if tail.length = 16 then xorBytes tail k1
    else xorBytes (tail ++ [0x80] ++ List.replicate (15 - tail.length) 0) (cmacDouble k1)
  aesEncrypt key (xorBytes x last)

/-! ### GCM (NIST SP 800-38D) -/

/-- Multiplication in the field of GHASH, most significant bit first. -/
def ghashMul (x y : Nat) : Nat :=
  ((List.range 128).foldl (fun (z, v) i =>
    (if x / 2 ^ (127 - i) % 2 = 1 then Nat.xor z v else z,
     if v % 2 = 1 then Nat.xor (v / 2) (0xE1 * 2 ^ 120) else v / 2)) (0, y)).1

/-- GHASH over a byte string that is padded to blocks. -/
def ghash (h : Nat) : Nat → Nat → List Byte → Nat
  | 0, y, _ => y
  | n + 1, y, l => if l.isEmpty then y else ghash h n (ghashMul (Nat.xor y (ofBe (l.take 16 ++ List.replicate (16 - l.length) 0))) h) (l.drop 16)

/-- Counter mode from a counter value. -/
def gctr (key iv : List Byte) : Nat → Nat → List Byte → List Byte
  | 0, _, _ => []
  | n + 1, c, l => if l.isEmpty then [] else xorBytes (l.take 16) (aesEncrypt key (iv ++ beBytes 4 c)) ++ gctr key iv n (c + 1) (l.drop 16)

/-- A byte string padded to whole blocks. -/
def pad16 (l : List Byte) : List Byte := l ++ List.replicate ((16 - l.length % 16) % 16) 0

/-- The tag of GCM over additional data and ciphertext. -/
def gcmTag (key iv aad ct : List Byte) : List Byte :=
  let h := ofBe (aesEncrypt key (List.replicate 16 0))
  let l := pad16 aad ++ pad16 ct ++ beBytes 8 (aad.length * 8) ++ beBytes 8 (ct.length * 8)
  xorBytes (beBytes 16 (ghash h (l.length / 16 + 1) 0 l)) (aesEncrypt key (iv ++ beBytes 4 1))

/-- GCM's counter mode over a text with a 12-byte IV. -/
def gcmText (key iv text : List Byte) : List Byte := gctr key iv (text.length / 16 + 1) 2 text

/-! ### SHA-256 (FIPS 180-4) and HMAC -/

/-- The round constants. -/
def shaK : List W32 :=
  [0x428A2F98, 0x71374491, 0xB5C0FBCF, 0xE9B5DBA5, 0x3956C25B, 0x59F111F1, 0x923F82A4, 0xAB1C5ED5] ++
  [0xD807AA98, 0x12835B01, 0x243185BE, 0x550C7DC3, 0x72BE5D74, 0x80DEB1FE, 0x9BDC06A7, 0xC19BF174] ++
  [0xE49B69C1, 0xEFBE4786, 0x0FC19DC6, 0x240CA1CC, 0x2DE92C6F, 0x4A7484AA, 0x5CB0A9DC, 0x76F988DA] ++
  [0x983E5152, 0xA831C66D, 0xB00327C8, 0xBF597FC7, 0xC6E00BF3, 0xD5A79147, 0x06CA6351, 0x14292967] ++
  [0x27B70A85, 0x2E1B2138, 0x4D2C6DFC, 0x53380D13, 0x650A7354, 0x766A0ABB, 0x81C2C92E, 0x92722C85] ++
  [0xA2BFE8A1, 0xA81A664B, 0xC24B8B70, 0xC76C51A3, 0xD192E819, 0xD6990624, 0xF40E3585, 0x106AA070] ++
  [0x19A4C116, 0x1E376C08, 0x2748774C, 0x34B0BCB5, 0x391C0CB3, 0x4ED8AA4A, 0x5B9CCA4F, 0x682E6FF3] ++
  [0x748F82EE, 0x78A5636F, 0x84C87814, 0x8CC70208, 0x90BEFFFA, 0xA4506CEB, 0xBEF9A3F7, 0xC67178F2]

/-- The message schedule of a block, extended by `n` words. -/
def shaExtend : Nat → List W32 → List W32
  | 0, w => w
  | n + 1, w =>
    let t := w.length
    let a := w.getD (t - 15) 0
    let b := w.getD (t - 2) 0
    let s0 := a.rotateRight 7 ^^^ a.rotateRight 18 ^^^ (a >>> 3)
    let s1 := b.rotateRight 17 ^^^ b.rotateRight 19 ^^^ (b >>> 10)
    shaExtend n (w ++ [w.getD (t - 16) 0 + s0 + w.getD (t - 7) 0 + s1])

/-- One round on the eight working variables. -/
def shaRound (v : List W32) (k : W32) : List W32 :=
  let x (i : Nat) : W32 := v.getD i 0
  let s1 := (x 4).rotateRight 6 ^^^ (x 4).rotateRight 11 ^^^ (x 4).rotateRight 25
  let ch := (x 4 &&& x 5) ^^^ (~~~(x 4) &&& x 6)
  let t1 := x 7 + s1 + ch + k
  let s0 := (x 0).rotateRight 2 ^^^ (x 0).rotateRight 13 ^^^ (x 0).rotateRight 22
  let maj := (x 0 &&& x 1) ^^^ (x 0 &&& x 2) ^^^ (x 1 &&& x 2)
  [t1 + s0 + maj, x 0, x 1, x 2, x 3 + t1, x 4, x 5, x 6]

/-- The compression of one block of 64 bytes. -/
def shaBlock (h : List W32) (b : List Byte) : List W32 :=
  let w := shaExtend 48 ((quads 16 b).map fun q => BitVec.ofNat 32 (ofBe q))
  List.zipWith (· + ·) h ((List.zipWith (· + ·) shaK w).foldl shaRound h)

/-- Blocks of a padded message. -/
def shaBlocks : Nat → List W32 → List Byte → List W32
  | 0, h, _ => h
  | n + 1, h, l => if l.isEmpty then h else shaBlocks n (shaBlock h (l.take 64)) (l.drop 64)

/-- SHA-256 of a message, 32 bytes. -/
def sha256Of (m : List Byte) : List Byte :=
  let padded := m ++ [0x80] ++ List.replicate ((119 - m.length % 64) % 64) 0 ++ beBytes 8 (m.length * 8)
  (shaBlocks (padded.length / 64) [0x6A09E667, 0xBB67AE85, 0x3C6EF372, 0xA54FF53A, 0x510E527F, 0x9B05688C, 0x1F83D9AB, 0x5BE0CD19] padded).flatMap fun w => beBytes 4 w.toNat

/-- HMAC-SHA-256 of a message under a key of at most 64 bytes. -/
def hmacOf (key m : List Byte) : List Byte :=
  let k := key ++ List.replicate (64 - key.length) 0
  sha256Of (k.map (· ^^^ 0x5C) ++ sha256Of (k.map (· ^^^ 0x36) ++ m))

/-! ### Key unwrap (RFC 3394) and derivation -/

/-- One inverse step of the wrapping on the halves `a` and `r`. -/
def unwrapStep (key : List Byte) (n : Nat) (ar : List Byte × List (List Byte)) (t : Nat) : List Byte × List (List Byte) :=
  let i := (t - 1) % n
  let b := aesDecrypt key (xorBytes ar.1 (beBytes 8 t) ++ ar.2.getD i [])
  (b.take 8, ar.2.set i (b.drop 8))

/-- The key in a wrapped blob of 8 (n + 1) bytes, when its integrity value is right. -/
def keyUnwrapOf (key blob : List Byte) : Option (List Byte) :=
  let n := blob.length / 8 - 1
  if blob.length % 8 ≠ 0 || n < 2 then none
  else
    let r := (List.range n).map fun i => slice blob (8 * (i + 1)) 8
    let (a, r) := ((List.range (6 * n)).map fun k => 6 * n - k).foldl (unwrapStep key n) (blob.take 8, r)
    if a = List.replicate 8 0xA6 then some r.flatten else none

/-- Counter-mode derivation with CMAC: `n` blocks of 16 bytes. -/
def cmacDerive (key fixed : List Byte) (n : Nat) : List Byte :=
  (List.range n).flatMap fun i => cmacOf key (BitVec.ofNat 8 (i + 1) :: fixed)

end Sys2Proof.Machine
end

