-- ==== Sys2Proof/Config.lean ====
section
/-! DEFINITION. Free values: what the spec lets be any value. None has a body, so no proof can use a particular value (log 3). -/

namespace Sys2Proof

/-- RED's uniform random number, one per draw (06 R157). -/
opaque Config.rnd16 : Nat → BitVec 16
/-- Output bytes of the random source (13 Table 13.10, operation 11). -/
opaque Config.drbg : Nat → BitVec 8
/-- ETH_TXD, transmit delay of a port in a mode (07 Table 7.8 gives no number). -/
opaque Config.txd : Nat → BitVec 8 → BitVec 8
/-- The salt of a secure association of GCM-AES-XPN-256, which no register gives: port and key (07 R199). -/
opaque Config.xpnSalt : Nat → BitVec 256 → BitVec 96
/-- Whether an address is one of the node's own on an HSR pair: the spec gives the node no address register (07 R198). -/
opaque Config.hsrOwn : Nat → BitVec 48 → Bool
/-- The fused SHA-384 hash of the signer key at a key index (17 R429 step 2). -/
opaque Config.fusedHash : Nat → BitVec 384
/-- The device-type key (17 R429 step 4). -/
opaque Config.deviceKey : BitVec 256
/-- Whether a low pulse on RESET_N of a length from 100 ns up to 1 us resets the device (18 R445 says neither). -/
opaque Config.resetPulse : Nat → Bool
/-- Where, in units of 16 KiB of the shared memory, an engine keeps the PDU of a template that it puts into a queue (13 R352). -/
opaque Config.pduPlace : Nat → Nat → Nat
/-- Where, in units of 64 bytes of its first bank, an instance keeps its status block (14 R379). -/
opaque Config.statusPlace : Nat → Nat
/-- A word that the spec leaves undefined in a result. -/
opaque Config.freeWord : Nat → BitVec 32

end Sys2Proof
end

