-- ==== Sys2Proof/Machine/Keys.lean ====
section
/-! DEFINITION. Key slots: their attributes, their key bytes, who may use them (13 R367, Table 13.12). -/

namespace Sys2Proof.Machine

/-- Completion statuses (13 Table 13.12). -/
abbrev crOk : Nat := 0
abbrev crAuthFail : Nat := 1
abbrev crStale : Nat := 2
abbrev crReplay : Nat := 3
abbrev crKeyEmpty : Nat := 4
abbrev crKeyUsage : Nat := 5
abbrev crAccess : Nat := 6
abbrev crBadReq : Nat := 7
abbrev crNotPermitted : Nat := 8
abbrev crPoisoned : Nat := 9

/-! ### Key slots -/

/-- Key slot `k`. -/
def slotOf (s : State) (k : Nat) : KeySlot := nmGet ⟨false, 0, 0⟩ s.cry.slots k

/-- Key slot `k` set. -/
def setSlot (k : Nat) (v : KeySlot) (s : State) : State := { s with cry := { s.cry with slots := nmSet ⟨false, 0, 0⟩ s.cry.slots k v } }

/-- Bytes of a key type: 16 for AES-128, else 32. -/
def typeLen (ty : Nat) : Nat := if ty = 1 then 16 else 32

/-- The key bytes of a slot. -/
def keyBytes (k : KeySlot) : List Byte := leBytes (typeLen (fld k.attr 1 0)) k.key.toNat

/-- A slot serves a use: type among `types`, usage bit, user bit of its attributes (R367). -/
def keyStatus (k : KeySlot) (types : List Nat) (usage user : Nat) : Nat :=
  if !k.loaded then crKeyEmpty
  else if fld k.attr 1 0 ∈ types && bit k.attr usage && bit k.attr user then crOk
  else crKeyUsage

/-- Bits of CRY_KEY_ATTR: usages and users. -/
abbrev useTag : Nat := 2
abbrev useMacsec : Nat := 3
abbrev useGcm : Nat := 4
abbrev useHmac : Nat := 5
abbrev useWrap : Nat := 6
abbrev useDerive : Nat := 7
abbrev useInband : Nat := 8
abbrev userEng : Nat := 9
abbrev userPol : Nat := 10
abbrev userHw : Nat := 11

end Sys2Proof.Machine
end

