-- ==== Sys2Proof/Machine/Ops.lean ====
section
/-! DEFINITION. The named operations that the meanings share: registers and their access rules, events, the recorder's
capture, function blocks, the policy envelope, and command rings. -/

namespace Sys2Proof.Machine

/-- What a meaning answers. -/
abbrev Res := Host.Outcome State Fault Refusal

/-! ### The register file -/

/-- What a register holds (element `i`, channel or master part `c`). -/
def rd (s : State) (r : Reg) (i c : Nat) : W32 := nmGet r.desc.reset s.regs (regKey r i c)

/-- A register set by the device. -/
def wr (r : Reg) (i c : Nat) (v : W32) (s : State) : State :=
  { s with regs := nmSet r.desc.reset s.regs (regKey r i c) v }

/-- Bits set in a register. -/
def setB (r : Reg) (i c : Nat) (m : W32) (s : State) : State := wr r i c (rd s r i c ||| m) s

/-- Bits cleared in a register. -/
def clrB (r : Reg) (i c : Nat) (m : W32) (s : State) : State := wr r i c (rd s r i c &&& ~~~m) s

/-- Field [hi:lo] of a register set. -/
def setF (r : Reg) (i c hi lo x : Nat) (s : State) : State := wr r i c (putFld (rd s r i c) hi lo x) s

/-- A saturating counter. -/
def bump (r : Reg) (i c n max : Nat) (s : State) : State :=
  wr r i c (BitVec.ofNat 32 (min max ((rd s r i c).toNat + n))) s

/-- A 16-bit counter counts one. -/
def count16 (r : Reg) (i c : Nat) (s : State) : State := bump r i c 1 0xFFFF s

/-- A 32-bit counter counts one. -/
def count32 (r : Reg) (i c : Nat) (s : State) : State := bump r i c 1 0xFFFFFFFF s

/-- The device speaks. -/
def say (o : Out) (s : State) : State := { s with outbox := o :: s.outbox }

/-! ### The recorder's capture FIFO (16) -/

/-- The place of a capture among those of its tick: sources ascending, then software records by master (R401). -/
def capKey (e : RecEntry) : Nat := if e.sw then 2 ^ 16 + e.source.toNat else e.code.toNat

/-- A capture takes its place among those of its tick. -/
def capInsert (e : RecEntry) (l : List RecEntry) : List RecEntry :=
  l.takeWhile (fun x => capKey x ≤ capKey e) ++ e :: l.dropWhile (fun x => capKey x ≤ capKey e)

/-- A lost capture: the first and the last of a tick go by their sources (R403, R404). -/
def recLose (code : BitVec 16) (r : RecSt) : RecSt :=
  { r with lost := r.lost + 1, lostNow := r.lostNow + 1,
           lastLost := if r.lostNow = 0 || r.lastLost.toNat < code.toNat then code else r.lastLost,
           firstLost := if r.lost = 0 || (r.lost = r.lostNow && code.toNat < r.firstLost.toNat) then code else r.firstLost }

/-- A firing or a software record reaches the 32-entry capture FIFO in the order of its tick; with no entry left the last in
that order is lost (R401, R403, R404). -/
def recCapture (code : BitVec 16) (source : Byte) (sw : Bool) (data : List Byte) (s : State) : State :=
  let r := s.recorder
  let n := r.fifo.length - r.fresh
  let l := capInsert ⟨code, source, sw, bit (rd s .TIME_STAT 0 0) 0, r.opS, r.opMs, data⟩ (r.fifo.drop n)
  if r.fifo.length < 32 then { s with recorder := { r with fifo := r.fifo.take n ++ l, fresh := r.fresh + 1 } }
  else
    count32 .REC_LOST_TOTAL 0 0
      { s with recorder := recLose ((l.getLast?.map (·.code)).getD code) { r with fifo := r.fifo.take n ++ l.dropLast } }

/-! ### The event router (02 R50-R52, R448) -/

/-- A firing of `src` reaches EVT_OUT pin `k` (R448). DEDUCED: firings of several sources whose edges fall on one tick share
one pulse (log 20). -/
def evtPulse (k src : Nat) (s : State) : State :=
  let p := nmGet ⟨none, [], false, none, false⟩ s.evt.pins k
  let edge := s.ticks + 2
  let q : EvtPin :=
    if p.pend then p
    else match p.rise with
      | some t => if p.any_ || src ∈ p.sources || edge ≤ t then { p with sources := src :: p.sources } else { p with pend := true }
      | none =>
        match p.stop with
        | some e => if edge ≤ e then { p with pend := true } else { p with rise := some edge, sources := [src], any_ := false }
        | none => { p with rise := some edge, sources := [src], any_ := false }
  { s with evt := { s.evt with pins := nmSet ⟨none, [], false, none, false⟩ s.evt.pins k q } }

/-- Engine event line: the latch sets and the engine's copy in ENG_EVT_LINES follows (R298). -/
def engLine (e l : Nat) (s : State) : State :=
  { s with evt := { s.evt with engLatch := nmSet 0 s.evt.engLatch e (nmGet 0 s.evt.engLatch e ||| BitVec.ofNat 16 (2 ^ l)) } }

/-- Policy-core event line. -/
def polLine (l : Nat) (s : State) : State :=
  { s with evt := { s.evt with polLatch := s.evt.polLatch ||| BitVec.ofNat 64 (2 ^ l) } }

/-- A vector is masked, by itself or with the function (R50, R450). -/
def msixMasked (s : State) (vec : Nat) : Bool := s.evt.msixFnMask || bit s.evt.msixMask vec

/-- A message waits for its vector: a masked vector keeps one, a firing of a source merges into the one that waits for the same
vector, and every completion of a ring (source 320 + n) sends its own (R50, R450). -/
def msixQueue (src vec : Nat) (s : State) : State :=
  if s.evt.msixPend.any fun e => e.2 = vec && (msixMasked s vec || (e.1 = src && decide (src < 320))) then s
  else { s with evt := { s.evt with msixPend := s.evt.msixPend ++ [(src, vec)] } }

/-- EVT_OUT pins named by a route entry. -/
def evtOuts (e : W32) (src : Nat) (s : State) : State :=
  [0, 1, 2, 3].foldl (fun s k => if bit e (24 + k) then evtPulse k src s else s) s

/-- A PIO machine after a device reset (10 R283, Table 10.8). -/
def smInit : Sm :=
  { running := false, stall := 0, pc := 0, s := 0, c0 := 0, c1 := 0, tw := 0, tRem := 0, rw := 0, rFill := 0, latch := none,
    step := 0, hold := 0, phase := 0, txf := [], rxf := [], evt := 0, began := false, edge := false }

/-- Machine `m` of block `b`. -/
def smOf (s : State) (b m : Nat) : Sm := nmGet smInit s.pio.sms (4 * b + m)

/-- Machine `m` of block `b` set. -/
def setSm (b m : Nat) (k : Sm) (s : State) : State := { s with pio := { s.pio with sms := nmSet smInit s.pio.sms (4 * b + m) k } }

/-- Input `k` of block `b` is enabled and follows source `src` (10 Table 10.7). -/
def pioFollows (s : State) (b k src : Nat) : Bool :=
  let v := rd s .PIO_EVTIN (k / 2) b
  let at_ := k % 2 * 16
  bit v (at_ + 15) && fld v (at_ + 8) at_ = src

/-- A firing sets the event-input latches of every machine whose block follows it (10 R281). -/
def pioInputs (src : Nat) (s : State) : State :=
  (List.range 48).foldl (fun s bk =>
    let b := bk / 4
    if pioFollows s b (bk % 4) src then
      [0, 1, 2, 3].foldl (fun s m => setSm b m { smOf s b m with evt := (smOf s b m).evt ||| BitVec.ofNat 4 (2 ^ (bk % 4)) } s) s
    else s) s

/-- Source `src` fires with record data `data`: its pending bit, PIO inputs and every enabled destination (R50, R51, R281, R372). -/
def raiseD (src : Nat) (data : List Byte) (s : State) : State :=
  let s := pioInputs src (setB .EVT_PEND (src / 32) 0 (oneBit (src % 32)) s)
  let e := rd s .EVT_ROUTE src 0
  let s := if bit e 23 || (266 ≤ src && src ≤ 268) then recCapture (BitVec.ofNat 16 src) 0xFF false data s else s
  let s := if bit e 22 && fld e 17 13 < 24 then engLine (fld e 17 13) (fld e 21 18) s else s
  let s := if bit e 12 then polLine (fld e 11 6) s else s
  let s := if bit e 5 then msixQueue src (fld e 4 0) s else s
  evtOuts e src s

/-- Record data of a firing without data of its own: its local time (Table 16.2). -/
def stampData (s : State) : List Byte := leBytes 12 s.time.now.toNat

/-- Source `src` fires. -/
def raise (src : Nat) (s : State) : State := raiseD src (stampData s) s

/-- Source `src` fires when `b` holds. -/
def raiseIf (b : Bool) (src : Nat) (s : State) : State := if b then raise src s else s

/-! ### Function blocks (R56-R58): state in [1:0], pending request in [3:2] -/

/-- An enable. -/
def fbEnable (f : BitVec 4) : BitVec 4 :=
  match f.toNat % 4, f.toNat / 4 with
  | 0, _ => 1
  | 3, 0 => 7
  | k, 2 => BitVec.ofNat 4 k
  | _, _ => f

/-- A disable. -/
def fbDisable (f : BitVec 4) : BitVec 4 :=
  match f.toNat % 4, f.toNat / 4 with
  | 2, _ => 3
  | 1, 0 => 9
  | k, 1 => BitVec.ofNat 4 k
  | _, _ => f

/-- STARTING ends: ON, or STOPPING when a disable is pending. -/
def fbStarted (f : BitVec 4) : BitVec 4 := if f = 9 then 3 else if f = 1 then 2 else f

/-- STOPPING ends: OFF, or STARTING when an enable is pending. -/
def fbStopped (f : BitVec 4) : BitVec 4 := if f = 7 then 1 else if f = 3 then 0 else f

/-- The real state: OFF 0, STARTING 1, ON 2, STOPPING 3. -/
def fbState (f : BitVec 4) : Nat := f.toNat % 4

/-- The function-block field of a status register. -/
def fbOf (s : State) (r : Reg) (c : Nat) : BitVec 4 := BitVec.ofNat 4 (rd s r 0 c).toNat

/-- The function-block field set. -/
def fbPut (r : Reg) (c : Nat) (f : BitVec 4) (s : State) : State := setF r 0 c 3 0 f.toNat s

/-- A block is ON. -/
def isOn (s : State) (r : Reg) (c : Nat) : Bool := fbState (fbOf s r c) = 2

/-- A block is OFF. -/
def isOff (s : State) (r : Reg) (c : Nat) : Bool := fbState (fbOf s r c) = 0

/-- The enable bit of a control register acts on the block's status (R56-R58). -/
def fbWrite (stat : Reg) (c : Nat) (en : Bool) (s : State) : State :=
  fbPut stat c (if en then fbEnable (fbOf s stat c) else fbDisable (fbOf s stat c)) s

/-! ### Access rules of the register space (R20-R28, R454) -/

/-- Identities that reach the register space (R22). -/
def admitted (m : Nat) : Bool := m ≤ 3 || m = 6 || (32 ≤ m && m ≤ 35)

/-- Identities that write a register (R454). -/
def mayWrite (w : Writers) (m : Nat) : Bool :=
  match w with
  | .any => true
  | .hostPol => m ≤ 3
  | .host => m ≤ 2
  | .hostPolDbg => m ≤ 3 || (32 ≤ m && m ≤ 35)

/-- An access error: source 24 and the EVT_ACCERR registers (R28). -/
def accessErr (m space off : Nat) (s : State) : State :=
  let s := raise 24 s
  if bit (rd s .EVT_ACCERR_ID 0 0) 31 then count16 .EVT_ACCERR_CNT 0 0 s
  else wr .EVT_ACCERR_ADDR 0 0 (BitVec.ofNat 32 off)
    (wr .EVT_ACCERR_ID 0 0 (BitVec.ofNat 32 (2 ^ 31 + m % 64 * 2 ^ 24 + space % 4 * 2 ^ 16)) s)

/-- The channel that a master's channel select names for a register's block (R24, R25). -/
def chanOf (r : Reg) (m : Nat) (s : State) : Nat :=
  match chselOf r.block with
  | some q => (rd s q 0 m).toNat
  | none => 0

/-- The part of the register file that an access by `m` names: channel, master copy, or both; the queue latches have one
copy per master shared by all queues (05 section 5.6, R126). -/
def partOf (r : Reg) (m : Nat) (s : State) : Nat :=
  if r.desc.per = 0 then (if r.desc.banked then m else 0)
  else if r = .QM_Q_D || r = .QM_Q_E || r = .QM_Q_OPSTAT then m
  else if r.desc.banked then chanOf r m s * 64 + m else chanOf r m s

/-- BAR0 offset of a register element. -/
def regOff (r : Reg) (i : Nat) : Nat := r.desc.off + i * r.desc.st

/-- Why a register access is refused: identity, channel select, writer (R22, R26, R454). -/
def regBad (isWr : Bool) (m : Nat) (r : Reg) (s : State) : Bool :=
  !admitted m || (r.desc.per ≠ 0 && r.desc.per ≤ chanOf r m s) || (isWr && !mayWrite r.desc.by_ m)

/-! ### Shared-memory banks: owners (04 R98, log 9) -/

/-- A bank at reset: fabric banks 0-127, policy banks with the crypto delegate 360-383, else no owner. -/
def bankReset (b : Nat) : Bank :=
  { owner := if b < 128 then 1 else if 360 ≤ b then 2 else 0, del0 := if 360 ≤ b then 3 else 0, del1 := 0, failed := false,
    pwr := 0, thawing := false, pend := none, underTest := false, lastAccess := 0 }

/-- Bank `b`. -/
def bankOf (s : State) (b : Nat) : Bank := nmGet (bankReset b) s.mem.banks b

/-- Bank `b` set. -/
def setBank (b : Nat) (k : Bank) (s : State) : State :=
  { s with mem := { s.mem with banks := nmSet (bankReset b) s.mem.banks b k } }

/-- The owner a bank counts for: the requested one from an accepted start on (R105). -/
def countedOwner (k : Bank) : BitVec 8 :=
  match k.pend with
  | some h => h.owner
  | none => k.owner

/-- Banks counted for an owner (MEM_COUNT). -/
def banksOf (s : State) (o : BitVec 8) : Nat := ((List.range 384).filter fun b => countedOwner (bankOf s b) = o).length

/-! ### The policy envelope (13 R369-R372) -/

/-- Word `w` of the envelope entry of action `a`. -/
def envW (s : State) (a w : Nat) : W32 := wordAt (nmGet [] s.pol.envelope a) w

/-- A value against bounds [lo, hi], a move toward the range from outside being accepted (R370). -/
def inBound (lo hi cur new : Nat) : Bool :=
  (lo ≤ new && new ≤ hi) || (cur < lo && cur < new && new ≤ hi) || (hi < cur && new < cur && lo ≤ new)

/-- An index against the range [lo, hi] of action `a`. -/
def inRange (s : State) (a k : Nat) : Bool := (envW s a 1).toNat ≤ k && k ≤ (envW s a 2).toNat

/-- The action that governs a register write of the policy core, whether it lies in scope, and whether in bounds
(Table 13.14). -/
def governs (r : Reg) (c : Nat) (v : W32) (s : State) : Nat × Bool × Bool :=
  let own := fld v 23 16
  match r with
  | .ETH_TX_THR => (5, bit (envW s 5 3) c, inBound (envW s 5 1).toNat 0x3FFF (fld (rd s r 0 c) 13 0) (fld v 13 0))
  | .STAR_BR_CTRL =>
    if fld v 1 0 = fld (rd s r 0 c) 1 0 && fld v 3 2 = 0 then (14, bit (envW s 14 3) r.block, true)
    else (6, c < 24 && bit (envW s 6 3) c, true)
  | .STAR_MODE_REQ =>
    if bit v 31 then
      (7, bit (envW s 7 3) (fld v 2 0), match s.star.lastReq with
        | some n => decide ((envW s 7 1).toNat ≤ (rd s .STAR_MC_NUM 0 0 - n).toNat)
        | none => true)
    else (14, bit (envW s 14 3) r.block, true)
  | .CAN_SLEEP => (8, bit (envW s 8 3) c, true)
  | .CAN_CTRL =>
    if bit v 0 = bit (rd s r 0 c) 0 then (14, bit (envW s 14 3) r.block, true) else (8, bit (envW s 8 3) c, true)
  | .MEM_OWN =>
    let old := countedOwner (bankOf s c)
    if old = 1 || own = 1 then
      let n := banksOf s 1
      let n' := n - ofBool (old = 1) + ofBool (own = 1)
      (9, true, inBound (envW s 9 1).toNat (envW s 9 2).toNat n n')
    else (10, inRange s 10 c, true)
  | .MEM_PWR => (10, inRange s 10 c && (fld v 1 0 ≠ 2 || bit (envW s 10 3) 0), true)
  | .QM_Q_CTRL | .QM_Q_BIND | .QM_Q_LIMIT | .QM_Q_COAL | .QM_Q_RXA => (11, inRange s 11 c, true)
  | .CRY_KEY_CTRL => (12, inRange s 12 (fld (rd s .CRY_KEY_SEL 0 3) 7 0), true)
  | _ =>
    if r.block = 14 then (13, r.desc.per = 0 || bit (envW s 13 3) c, true)
    else (14, bit (envW s 14 3) r.block, true)

/-- Accepted actions of code `a` in the current second of local time. -/
def rateUsed (s : State) (a : Nat) : Nat :=
  let (sec, n) := nmGet (0, 0) s.pol.rate a
  if sec = s.time.now.toNat / 1000000000 then n else 0

/-- The envelope's answer: the first failing reason (R369). -/
def envCheck (a : Nat) (scope bound : Bool) (s : State) : Option Nat :=
  if !bit (envW s a 0) 0 then some 1
  else if !scope then some 2
  else if !bound then some 3
  else if fld (envW s a 0) 15 8 ≠ 0 && fld (envW s a 0) 15 8 ≤ rateUsed s a then some 4
  else none

/-- The record data of sources 266 and 267 (Table 13.15). -/
def govData (a why tbl idx : Nat) (w : W32) : List Byte :=
  [BitVec.ofNat 8 a, BitVec.ofNat 8 why, BitVec.ofNat 8 tbl, 0] ++ leBytes 4 idx ++ leBytes 4 w.toNat

/-- A governed write is refused: source 266, port 0x720 (R369, R372). -/
def govRefuse (a why tbl idx : Nat) (w : W32) (s : State) : State :=
  raiseD 266 (govData a why tbl idx w)
    (count32 .POL_ACT_REFUSED 0 0 { s with pol := { s.pol with lastCheck := BitVec.ofNat 32 (a + why * 256) } })

/-- A governed write is accepted: source 267, counted in its second (R369, R372). -/
def govAccept (a tbl idx : Nat) (w : W32) (s : State) : State :=
  raiseD 267 (govData a 0 tbl idx w)
    (count32 .POL_ACT_OK 0 0
      { s with pol := { s.pol with lastCheck := BitVec.ofNat 32 a,
                                   rate := nmSet (0, 0) s.pol.rate a (s.time.now.toNat / 1000000000, rateUsed s a + 1) } })

/-- The device serves accesses: it is in RUN (17 Table 17.1). -/
def running (s : State) : Bool := s.pwr.st = .run

/-- A register write by `m` as far as R22, R26 and R454 go: a refused access raises the access error. -/
def withReg (m : Nat) (r : Reg) (i : Nat) (k : State → State) (s : State) : State :=
  if !running s then s
  else if regBad true m r s then accessErr m 0 (regOff r i) s
  else k s

/-- A write of the policy core is checked against the envelope; `onRefuse` is the block's own refusal status (R369). -/
def withPolicy (m : Nat) (r : Reg) (i : Nat) (v : W32) (onRefuse k : State → State) (s : State) : State :=
  if m = 3 && !r.desc.banked then
    let (a, scope, bound) := governs r (partOf r m s) v s
    match envCheck a scope bound s with
    | some why => onRefuse (govRefuse a why r.block (regOff r i % 0x10000) v s)
    | none => k (govAccept a r.block (regOff r i % 0x10000) v s)
  else k s

/-- A register write by `m`: both checks. -/
def withWrite (m : Nat) (r : Reg) (i : Nat) (v : W32) (k : State → State) (s : State) : State :=
  withReg m r i (withPolicy m r i v id k) s

/-- A register read by `m`: a refused one returns 0 and raises the access error (R22, R26). -/
def withRead (m : Nat) (r : Reg) (i : Nat) (k : State → State) (s : State) : State :=
  if !running s then s
  else if regBad false m r s then say (.readData m 0) (accessErr m 0 (regOff r i) s)
  else k s

/-- A field write by the types of Table 0.4 (R5-R7). -/
def plainWrite (r : Reg) (i c : Nat) (v : W32) (s : State) : State :=
  let d := r.desc
  wr r i c (((rd s r i c &&& ~~~d.rw) ||| (v &&& d.rw) ||| (v &&& d.w1s)) &&& ~~~(v &&& d.w1c)) s

/-- A read returns `v` to `m`. -/
def reply (m : Nat) (v : W32) (s : State) : State := say (.readData m v) s

/-- A read's value and state as its effect: the value returns to `m`. -/
def replyOf (m : Nat) (r : W32 × State) : State := reply m r.1 r.2

/-- Two registers hold the halves of a 64-bit value. -/
def wr64 (lo hi : Reg) (i c v : Nat) (s : State) : State :=
  wr hi i c (BitVec.ofNat 32 (v / 2 ^ 32)) (wr lo i c (BitVec.ofNat 32 v) s)

/-- The 64-bit value of two registers. -/
def rd64 (s : State) (lo hi : Reg) (i c : Nat) : Nat := (rd s lo i c).toNat + (rd s hi i c).toNat * 2 ^ 32

/-- The local time in ns. -/
def now (s : State) : Nat := s.time.now.toNat

/-- `ns` nanoseconds of local time have passed since `t`; after a backward step the clock is waited for (03 R73). -/
def elapsed (s : State) (t : W64) (ns : Nat) : Bool := decide ((ns : Int) ≤ (s.time.now - t).toInt)

/-! ### Command rings (02) -/

/-- Ring `n`. -/
def ringOf (s : State) (n : Nat) : Ring := nmGet Ring.empty s.rings n

/-- Ring `n` set. -/
def setRing (n : Nat) (r : Ring) (s : State) : State := { s with rings := nmSet Ring.empty s.rings n r }

/-- Entries of ring `n`: 256 in host memory, 16 on die. -/
def ringSize (n : Nat) : Nat := if n < 8 then 256 else 16

/-- The issuer of ring `n` (Table 2.2). -/
def ringMaster (n : Nat) : Nat := if n < 8 then 0 else n - 7

/-- Ring pair `n` operates (R449, R459); the on-die pairs always do. -/
def ringLive (s : State) (n : Nat) : Bool :=
  8 ≤ n || (bit (rd s .HIF_RING_CTRL n 0) 0 && !(ringOf s n).stopped)

/-- Completion ring `n` is full (R33). -/
def cqFull (s : State) (n : Nat) : Bool :=
  let r := ringOf s n
  if n < 8 then decide ((r.write.toNat + 1) % 256 = fld (rd s .HIF_CQ_HEAD n 0) 7 0) else decide (15 ≤ r.unread.length)

/-- An in-band completion frame (R36, Table 2.16): `rep` holds the port, the key slot, the addresses with any VLAN tag, and
the command frame's seq. -/
def inbandFrame (s : State) (rep entry : List Byte) : List Byte :=
  let seq := rep.drop (rep.length - 4)
  let body := (rep.take (rep.length - 4)).drop 2 ++ [0x88, 0xB5, 0x5A, 0x02, 1, 0] ++ seq ++ entry
  let l := body ++ (cmacOf (keyBytes (slotOf s (byteAt rep 1).toNat)) body).take 8
  l ++ List.replicate (60 - l.length) 0

/-- Words 0 and 1 of a completion (Table 2.7); the pairs on die have no ring number. -/
def complWords (n : Nat) (phase : Bool) (c : Compl) : W32 × W32 :=
  (BitVec.ofNat 32 (c.opcode.toNat * 2 ^ 24 + c.status.toNat * 2 ^ 16 + c.tag),
   BitVec.ofNat 32 (ofBool phase * 2 ^ 31 + (if n < 8 then n else 0) * 2 ^ 8 + c.slot % 256))

/-- The write index of ring `n` moves on; the phase turns as it wraps. -/
def ringWrote (n : Nat) (r : Ring) : Ring :=
  { r with write := BitVec.ofNat 8 ((r.write.toNat + 1) % ringSize n),
           phase := if r.write.toNat + 1 = ringSize n then !r.phase else r.phase }

/-- A completion reaches the host (R30, Table 2.7): its place and phase, its vector (R450) and source 25 + n; a commit
leaves its armed state with its completion (R47). -/
def emitCompl (n : Nat) (c : Compl) (s : State) : State :=
  let r := ringOf s n
  let (w0, w1) := complWords n r.phase c
  let s := { s with cfg := { s.cfg with armed := s.cfg.armed.filter fun a => a.cmd ≠ some ⟨n, c.slot, c.tag, c.opcode⟩ } }
  if n < 8 then
    let s := setRing n (ringWrote n r) s
    raise (25 + n) (msixQueue (320 + n) (fld (rd s .HIF_RING_CTRL n 0) 5 1) (say (.completion n w0 w1 c.result) s))
  else if n = 8 then setRing n { ringWrote n r with unread := r.unread ++ [c] } s
  else
    setRing n (ringWrote n r) (say (.inband (byteAt c.reply 0).toNat
      (inbandFrame s c.reply (leBytes 4 w0.toNat ++ leBytes 4 w1.toNat ++ leBytes 8 c.result.toNat))) s)

/-- Held completions are written in order while the ring has room (R32, R449, R459). -/
def flushCompl : Nat → Nat → State → State
  | 0, _, s => s
  | fuel + 1, n, s =>
    if ringLive s n && !cqFull s n then
      match (ringOf s n).held with
      | [] => s
      | c :: rest => flushCompl fuel n (emitCompl n c (setRing n { ringOf s n with held := rest } s))
    else s

/-- cq_full of ring `n` is shown (R32). -/
def ringShow (n : Nat) (s : State) : State := setRing n { ringOf s n with cqFull := cqFull s n } s

/-- Writes what can be written of ring `n`, and shows cq_full (R32). -/
def pumpRing (n : Nat) (s : State) : State := ringShow n (flushCompl ((ringOf s n).held.length + 1) n s)

/-- Statuses of Table 2.9. -/
abbrev stOk : Nat := 0
abbrev stCheckFailed : Nat := 1
abbrev stBusy : Nat := 2
abbrev stAccess : Nat := 3
abbrev stTagInUse : Nat := 4
abbrev stBadOpcode : Nat := 5
abbrev stBadParam : Nat := 6
abbrev stRestarting : Nat := 7
abbrev stNotChecked : Nat := 8
abbrev stTooEarly : Nat := 9
abbrev stAborted : Nat := 10
abbrev stTooLate : Nat := 11
abbrev stFailed : Nat := 12

/-- A completion joins its ring (R30-R32); a CFG_COMMIT that ends other than OK fires source 35 (R453). A pair on die takes it
at once, and the next tick writes it to host memory (log 20). -/
def postCompl (n : Nat) (c : Compl) (s : State) : State :=
  let s := setRing n { ringOf s n with held := (ringOf s n).held ++ [c] } s
  let s := raiseIf (c.opcode = 0x12 && c.status ≠ 0) 35 s
  if n < 8 then s else pumpRing n s

/-- The oldest command of a slot that has not started. -/
def findCmd (s : State) (ring slot : Nat) : Option Cmd :=
  (ringOf s ring).inflight.find? fun c => c.slot = slot && !c.started

/-- Command `c` of its ring completes with a status and a result. -/
def complete (c : CmdRef) (status : Nat) (result : W64) (s : State) : State :=
  let r := ringOf s c.ring
  let rep := ((r.inflight.find? fun d => d.slot = c.slot && d.tag = c.tag).map (·.reply)).getD []
  let s := setRing c.ring { r with inflight := r.inflight.filter fun d => !(d.slot = c.slot && d.tag = c.tag) } s
  postCompl c.ring ⟨c.opcode, BitVec.ofNat 8 status, c.tag, c.slot, result, rep⟩ s

/-- A software-level restart is in its restart interval (R15). -/
def inRestart (s : State) : Bool := s.pwr.restarting

/-- In recovery every command but FW_WRITE and FW_ACTIVATE ends BUSY (17 R426); the configuration commands of a restart
interval end RESTARTING before that (R15, R34). -/
def recoveryStop (opcode : Byte) (s : State) : Option Nat :=
  if !s.pwr.recovery || opcode = 0x40 || opcode = 0x41 then none
  else if inRestart s && 0x10 ≤ opcode.toNat && opcode.toNat ≤ 0x13 then
    (if opcode = 0x13 && s.cfg.armed.isSome then none else some stRestarting)
  else some stBusy

/-- The command of a ring starts: it waits there with this opcode, not yet started, its fence satisfied (R29; DEDUCED, log 20:
with every earlier command complete and no completion of the ring waiting to be written). `bad` is its BAD_PARAM check (R34). -/
def startCmd (ring slot : Nat) (opcode : Byte) (bad : List W32 → Bool) (k : CmdRef → List W32 → State → State) (s : State) : State :=
  if !running s then s
  else
    let r := ringOf s ring
    match findCmd s ring slot with
    | none => s
    | some c =>
      let first := (r.inflight.head?.map (·.tag)) = some c.tag && r.held.isEmpty
      if c.opcode ≠ opcode || (c.fence && !first) then s
      else
        let ref : CmdRef := ⟨ring, slot, c.tag, opcode⟩
        let s := setRing ring { r with inflight := r.inflight.map fun d => if d.tag = c.tag then { d with started := true } else d } s
        if bad c.words then complete ref stBadParam 0 s
        else
          match recoveryStop opcode s with
          | some st => complete ref st 0 s
          | none => k ref c.words s

/-- Byte `i` of a command (Table 2.6: 64 bytes as 16 little-endian words). -/
def cmdByte (w : List W32) (i : Nat) : Nat := (wordAt w (i / 4)).toNat / 256 ^ (i % 4) % 256

/-- A 64-bit parameter at byte `i` of a command. -/
def cmd64 (w : List W32) (i : Nat) : Nat := (wordAt w (i / 4)).toNat + (wordAt w (i / 4 + 1)).toNat * 2 ^ 32

/-- The Rewick star is in its running phase (09 Table 9.15). -/
def starRunning (s : State) : Bool := fld (rd s .STAR_STAT 0 0) 6 4 = 4

/-- The star runs as CFG_COMMIT means it: in its running phase and ON (R41, R42; 09, Running the star). -/
def starOnRunning (s : State) : Bool := starRunning s && isOn s .STAR_STAT 0

/-- The basic-cycle length of the latched mode, in ns (09 Table 9.5, R257). -/
def bcLen (s : State) : Nat := fld (wordAt (s.star.latch.getD 0 []) 0) 23 0

/-- The start of the current matrix cycle. -/
def mcStart (s : State) : Nat := (rd s .STAR_MC_START_LO 0 0).toNat + (rd s .STAR_MC_START_HI 0 0).toNat * 2 ^ 32

/-- Thread `t`: 0-95 is thread t mod 4 of engine t / 4, 96 the policy core. -/
def thOf (s : State) (t : Nat) : Thread := if t = 96 then s.pol.th else nmGet Thread.clear s.eng.threads t

/-- Thread `t` set. -/
def setTh (t : Nat) (h : Thread) (s : State) : State :=
  if t = 96 then { s with pol := { s.pol with th := h } }
  else { s with eng := { s.eng with threads := nmSet Thread.clear s.eng.threads t h } }

/-- The identity of a thread (Table 2.2). -/
def thMaster (t : Nat) : Nat := if t = 96 then 3 else 8 + t / 4

/-- The identity behind an access. -/
def viaMaster (v : Via) : Nat :=
  match v with
  | .reg m => m
  | .port t => thMaster t

/-- A word of the policy core's data memory in `PolSt.poison`, after the words of its instruction memory. -/
def polDWord (a : Nat) : Nat := 0x20000 + a / 4

/-- The word of an address in `EngSt.single`: instruction or data memory of an engine or of the policy core. -/
def eccKey (t : Nat) (instr : Bool) (a : Nat) : Nat :=
  if t = 96 then 2 ^ 21 + (if instr then a / 4 else polDWord a)
  else if instr then (t / 4 * 0x10000 + a) / 4 else 2 ^ 20 + (t / 4 * 0x20000 + a) / 4

/-- Words `k` to `k + n - 1` hold no single-bit error any more. -/
def singleEnd (k n : Nat) (s : State) : State :=
  { s with eng := { s.eng with single := s.eng.single.filter fun w => w < k || k + n ≤ w } }

/-- A read of `n` bytes corrects the single-bit errors that it meets in place, and counts them in ENG_ECC or POL_ECC (Tables 11.9,
13.18). -/
def eccCorrect (t : Nat) (instr : Bool) (a n : Nat) (s : State) : State :=
  let k := eccKey t instr a
  let m := (a + n - 1) / 4 - a / 4 + 1
  let hit := (s.eng.single.filter fun w => k ≤ w && w < k + m).length
  if hit = 0 then s
  else
    let r := if t = 96 then Reg.POL_ECC else Reg.ENG_ECC
    let c := if t = 96 then 0 else t / 4
    setF r 0 c 15 0 (min 0xFFFF (fld (rd s r 0 c) 15 0 + hit)) (singleEnd k m s)

end Sys2Proof.Machine
end

