-- ==== Sys2Proof/Machine/Hif.lean ====
section
/-! DEFINITION. Host interface: rings, fetches, completions, access-error registers, event deliveries (02). -/

namespace Sys2Proof.Machine

/-- A write of HIF_RING_CTRL: 0 to enable clears stopped; from 1 on the ring operates (R449, R459). -/
def ringCtrlWrite (ring : Nat) (v : W32) (s : State) : State :=
  let s := plainWrite .HIF_RING_CTRL ring 0 v s
  if bit v 0 then s else setRing ring { ringOf s ring with stopped := false } s

/-- The opcodes of Table 2.8. -/
def opcodes : List Nat :=
  [0x00, 0x10, 0x11, 0x12, 0x13, 0x20, 0x21, 0x30, 0x31, 0x32, 0x38, 0x39, 0x40, 0x41, 0x50, 0x60]

/-- A tag is outstanding: in flight or with its completion held, over all PCIe rings or in the ring's own space (R31). -/
def tagOut (s : State) (ring tag : Nat) : Bool :=
  (if ring < 8 then List.range 8 else [ring]).any fun n =>
    (ringOf s n).inflight.any (·.tag = tag) || (ringOf s n).held.any (·.tag = tag)

/-- A command is taken into its ring: TAG_IN_USE, BAD_OPCODE and, on die, a tag above 15 complete at once (R31, R34). -/
def takeCmd (ring slot : Nat) (words : List W32) (rep : List Byte) (s : State) : State :=
  let w0 := wordAt words 0
  let tag := fld w0 24 16
  let op := BitVec.ofNat 8 (fld w0 7 0)
  if tagOut s ring tag then postCompl ring ⟨op, BitVec.ofNat 8 stTagInUse, tag, slot, 0, rep⟩ s
  else if op.toNat ∉ opcodes then postCompl ring ⟨op, BitVec.ofNat 8 stBadOpcode, tag, slot, 0, rep⟩ s
  else if 8 ≤ ring && 16 ≤ tag then postCompl ring ⟨op, BitVec.ofNat 8 stBadParam, tag, slot, 0, rep⟩ s
  else
    let r := ringOf s ring
    setRing ring { r with inflight := r.inflight ++ [⟨slot, tag, bit w0 8, op, words, false, rep⟩] } s

/-- SQ_TAIL_DOORBELL (R449). -/
def execSqTailDoorbell (m : Fin 64) (ring : Fin 8) (v : W32) (s : State) : Res :=
  .next (withWrite m .HIF_SQ_TAIL ring v (plainWrite .HIF_SQ_TAIL ring 0 v) s)

/-- A command of a PCIe ring can be fetched (R32, R33, R449, R459). -/
def canFetch (s : State) (ring : Nat) : Bool :=
  running s && ring < 8 && ringLive s ring && !cqFull s ring &&
    (ringOf s ring).fetch.toNat ≠ fld (rd s .HIF_SQ_TAIL ring 0) 7 0

/-- COMMAND_FETCH (R29, R31, R34, R449): the entry at the fetch index arrives with its 16 words. -/
def execCommandFetch (ring : Fin 10) (words : List W32) (s : State) : Res :=
  .next (if canFetch s ring then
    let r := ringOf s ring
    takeCmd ring r.fetch.toNat words [] (setRing ring { r with fetch := r.fetch + 1 } s)
  else s)

/-- RING_ENABLE (R449): the write of 1 to enable. -/
def execRingEnable (m : Fin 64) (ring : Fin 8) (v : W32) (s : State) : Res :=
  .next (if bit v 0 then withWrite m .HIF_RING_CTRL ring v (ringCtrlWrite ring v) s else s)

/-- RING_DISABLE (R459): the write of 0 to enable. -/
def execRingDisable (m : Fin 64) (ring : Fin 8) (v : W32) (s : State) : Res :=
  .next (if bit v 0 then s else withWrite m .HIF_RING_CTRL ring v (ringCtrlWrite ring v) s)

/-- A write of HIF_CQ_HEAD releases a full ring (R32). -/
def cqHeadWrite (ring : Nat) (v : W32) (s : State) : State := ringShow ring (plainWrite .HIF_CQ_HEAD ring 0 v s)

/-- CQ_HEAD_ADVANCE (R32). -/
def execCqHeadAdvance (m : Fin 64) (ring : Fin 8) (v : W32) (s : State) : Res :=
  .next (withWrite m .HIF_CQ_HEAD ring v (cqHeadWrite ring v) s)

/-- RING_PCIE_ERROR (R459): a fetch, or the write of the oldest completion that waits, ends in an error: that completion stays
held, first, and nothing of it has left the device. -/
def execRingPcieError (ring : Fin 8) (isWrite : Bool) (s : State) : Res :=
  .next <|
    let r := ringOf s ring
    if isWrite && r.held.isEmpty then s else setRing ring { r with stopped := true } s

/-- No parameter is out of range. -/
def noBad (_ : List W32) : Bool := false

/-- HIF_NOP (R34, Table 2.8). -/
def execHifNop (ring : Fin 10) (slot : Nat) (s : State) : Res :=
  .next (startCmd ring slot 0x00 noBad (fun c _ s => complete c stOk 0 s) s)

/-- Commands of an on-die ring whose completions have not left it. -/
def dieUsed (s : State) (ring : Nat) : Nat :=
  let r := ringOf s ring
  r.inflight.length + r.held.length + r.unread.length

/-- SPI_WRITE_COMMAND (R34): taken while the pair of 16 entries has room for its completion. DESIGN CHOICE: with 15 commands
or completions on die the command is dropped with no completion (log 19). -/
def execSpiWriteCommand (words : List W32) (s : State) : Res :=
  .next (if running s && dieUsed s 8 < 15 then
    let r := ringOf s 8
    takeCmd 8 (r.fetch.toNat % 16) words [] (setRing 8 { r with fetch := BitVec.ofNat 8 ((r.fetch.toNat + 1) % 16) } s)
  else s)

/-- SPI_READ_COMPLETION (R32): the oldest completion is returned and consumed. -/
def execSpiReadCompletion (s : State) : Res :=
  .next (if running s then
    match (ringOf s 8).unread with
    | [] => s
    | c :: rest =>
      let r := ringOf s 8
      let (w0, w1) := complWords 8 (if r.unread.length ≤ r.write.toNat then r.phase else !r.phase) c
      pumpRing 8 (setRing 8 { r with unread := rest } (say (.completion 8 w0 w1 c.result) s))
  else s)

/-! ### In-band management (R35, R36, Table 2.16) -/

/-- Where the EtherType of a frame stands: one VLAN tag moves it by 4. -/
def inbandTypeAt (l : List Byte) : Nat := if ofBe (slice l 12 2) = 0x8100 then 16 else 12

/-- A frame carries in-band commands. -/
def isInband (l : List Byte) : Bool :=
  ofBe (slice l (inbandTypeAt l) 2) = 0x88B5 && ofBe (slice l (inbandTypeAt l + 2) 2) = 0x5A01

/-- The seq of an in-band frame. -/
def inbandSeq (l : List Byte) : W32 := BitVec.ofNat 32 (ofBe (slice l (inbandTypeAt l + 6) 4))

/-- The device accepts an in-band command frame on port `p` (R35, R36). -/
def inbandOk (s : State) (p : Nat) (l : List Byte) : Bool :=
  let o := inbandTypeAt l
  let n := (byteAt l (o + 4)).toNat
  let e := o + 10 + 64 * n
  let k := slotOf s (fld (rd s .HIF_INBAND_KEY 0 0) 7 0)
  bit (rd s .HIF_INBAND_PORTS 0 0) p && 1 ≤ n && n ≤ 8 && l.length = e + 8 && keyStatus k [1] useInband userHw = crOk &&
    (cmacOf (keyBytes k) (l.take e)).take 8 = l.drop e &&
    (!bit (rd s .HIF_INBAND_CTRL 0 0) 0 || 0 < (inbandSeq l - rd s .HIF_INBAND_SEQ 0 0).toInt)

/-- The submission index of the next in-band command: the first of the 16 entries, from the fetch index, that holds no
outstanding command. -/
def inbandSlot (s : State) : Nat :=
  let f := (ringOf s 9).fetch.toNat
  ((((List.range 16).map fun k => (f + k) % 16).find? fun x => (ringOf s 9).inflight.all (·.slot ≠ x)).getD (f % 16))

/-- One command of an accepted frame enters the in-band ring pair (R34). -/
def inbandTake (words : List W32) (rep : List Byte) (s : State) : State :=
  let x := inbandSlot s
  takeCmd 9 x words rep (setRing 9 { ringOf s 9 with fetch := BitVec.ofNat 8 ((x + 1) % 16) } s)

/-- An in-band command frame arrives on port `p` (R35, R36). -/
def inbandRx (p : Nat) (l : List Byte) (s : State) : State :=
  if inbandOk s p l then
    let o := inbandTypeAt l
    let rep := [BitVec.ofNat 8 p, BitVec.ofNat 8 (fld (rd s .HIF_INBAND_KEY 0 0) 7 0)] ++ slice l 6 6 ++ slice l 0 6 ++
      slice l 12 (o - 12) ++ slice l (o + 6) 4
    let s := setB .HIF_INBAND_CTRL 0 0 1 (wr .HIF_INBAND_SEQ 0 0 (inbandSeq l) s)
    (List.range (byteAt l (o + 4)).toNat).foldl
      (fun s k => inbandTake ((List.range 16).map fun w => BitVec.ofNat 32 (ofLe (slice l (o + 10 + 64 * k + 4 * w) 4))) rep s) s
  else raise 36 (count16 .HIF_INBAND_REJ 0 0 s)

/-- INBAND_COMMAND_FRAME (R35, R36): a frame with EtherType 0x88B5 and sub-type 0x5A01 arrives on a port. -/
def execInbandCommandFrame (port : Fin 16) (bytes : List Byte) (s : State) : Res :=
  .next (if running s && isInband bytes then inbandRx port bytes s else s)

/-- INBAND_SEQ_CLEAR (R36). -/
def execInbandSeqClear (m : Fin 64) (s : State) : Res :=
  .next (withWrite m .HIF_INBAND_CTRL 0 1 (plainWrite .HIF_INBAND_CTRL 0 0 1) s)

/-- ACCERR_ID_READ (R28). -/
def execAccerrIdRead (m : Fin 64) (s : State) : Res :=
  .next (withRead m .EVT_ACCERR_ID 0 (fun s => reply m (rd s .EVT_ACCERR_ID 0 0) (wr .EVT_ACCERR_ID 0 0 0 s)) s)

/-- The messages that wait while `s` masks vectors: a masked vector keeps its first (R50). -/
def msixKept (s : State) (l : List (Nat × Nat)) : List (Nat × Nat) :=
  l.foldl (fun l e => if msixMasked s e.2 && l.any (·.2 = e.2) then l else l ++ [e]) []

/-- The host's MSI-X table gives the vectors' masks and the function's (R50, R450). -/
def msixMaskSet (mask : W32) (fn : Bool) (s : State) : State :=
  let s := { s with evt := { s.evt with msixMask := mask, msixFnMask := fn } }
  { s with evt := { s.evt with msixPend := msixKept s s.evt.msixPend } }

/-- The oldest message of a source (ring n is 320 + n) that no mask holds is written (R50, R450). -/
def msixWrite (src : Nat) (s : State) : State :=
  match s.evt.msixPend.find? fun e => e.1 = src && !msixMasked s e.2 with
  | none => s
  | some e =>
    if running s then say (.msix e.2 src) { s with evt := { s.evt with msixPend := s.evt.msixPend.erase e } } else s

/-- MSIX_MESSAGE (R50, R450): the masks as the host has set them by now, and the message of a source. -/
def execMsixMessage (x : MsixAct) (s : State) : Res := .next (msixWrite x.src (msixMaskSet x.mask x.fn s))

/-- EVT_OUT_PULSE_END (R448): the pulse ends; a pending pulse rises one tick later. -/
def execEvtOutPulseEnd (pin : Fin 4) (s : State) : Res :=
  .next <|
    let p := nmGet ⟨none, [], false, none, false⟩ s.evt.pins pin
    match p.stop with
    | none => s
    | some e =>
      if s.ticks < e then s
      else
        let q : EvtPin :=
          if p.pend && p.rise.isNone then { p with stop := none, pend := false, rise := some (e + 1), sources := [], any_ := true }
          else { p with stop := none }
        say (.pin pin false) { s with evt := { s.evt with pins := nmSet ⟨none, [], false, none, false⟩ s.evt.pins pin q } }

/-- The pulses of the EVT_OUT pins that rise at this tick (R448). -/
def evtRise (pin : Nat) (s : State) : State :=
  let p := nmGet ⟨none, [], false, none, false⟩ s.evt.pins pin
  match p.rise with
  | some t =>
    if s.ticks < t then s
    else
      let width := max 1 (fld (rd s .EVT_OUT_CTRL 0 0) 7 0)
      say (.pin pin true)
        { s with evt := { s.evt with pins := nmSet ⟨none, [], false, none, false⟩ s.evt.pins pin
                                                   { p with rise := none, sources := [], any_ := false, stop := some (t + width) } } }
  | none => s

end Sys2Proof.Machine
end

