-- ==== Sys2Proof/Machine/Cfg.lean ====
section
/-! DEFINITION. Staging and Solstice: CFG_STAGE, CFG_COMMIT, CFG_ABORT (02 R37-R48, R451-R453). -/

namespace Sys2Proof.Machine

/-- Entries of a Solstice table (02 Table 2.10 and the owning chapters). -/
def tblCount (id : Nat) : Nat :=
  match id with
  | 1 => 8192 | 2 => 6144 | 3 => 768 | 4 => 16 | 5 => 384 | 6 => 65536 | 7 => 10240 | 8 => 4096 | 9 => 4096 | 10 => 4112
  | 11 => 6 | 12 => 520 | 13 => 8192 | 14 => 256 | 15 => 64 | _ => 0

/-- Words of an entry of a Solstice table. -/
def tblWords (id : Nat) : Nat :=
  match id with
  | 1 => 10 | 2 => 4 | 3 => 4 | 4 => 8 | 5 => 4 | 6 => 4 | 7 => 4 | 8 => 8 | 9 => 4 | 10 => 4 | 11 => 4 | 12 => 4
  | 13 => 8 | 14 => 8 | 15 => 4 | _ => 0

/-- Key of an entry in a set. -/
def tblKey (id i : Nat) : Nat := id * 131072 + i

/-- An entry of the active set; unlisted entries are all zero. -/
def tbl (s : State) (id i : Nat) : List W32 := nmGet [] s.cfg.active (tblKey id i)

/-- Word `w` of an entry of the active set. -/
def tblW (s : State) (id i w : Nat) : W32 := wordAt (tbl s id i) w

/-- An entry put into a set. -/
def putEntry (id i : Nat) (e : List W32) (set : NMap (List W32)) : NMap (List W32) := nmSet [] set (tblKey id i) (trimZeros e)

/-- `n` consecutive entries put into a set from the words of host memory. -/
def putEntries (id : Nat) : Nat → Nat → List W32 → NMap (List W32) → NMap (List W32)
  | _, 0, _, set => set
  | i, n + 1, ws, set => putEntries id (i + 1) n (ws.drop (tblWords id)) (putEntry id i (ws.take (tblWords id)) set)

/-- An active-set entry written in place by an adaptation (R49). -/
def setActive (id i : Nat) (e : List W32) (s : State) : State :=
  { s with cfg := { s.cfg with active := putEntry id i e s.cfg.active } }

/-- A staged change belongs to another identity, or a commit is armed (R37, R43). -/
def stageBusy (ring : Nat) (s : State) : Bool :=
  s.cfg.armed.isSome || (match s.cfg.stager with | some m => m ≠ ringMaster ring | none => false)

/-- The shadow set is written: the first stage records the stager, and the check is no longer valid (R37, R38). -/
def stageWrite (ring : Nat) (shadow : NMap (List W32)) (s : State) : State :=
  { s with cfg := { s.cfg with shadow := shadow, check := none, stager := some (s.cfg.stager.getD (ringMaster ring)) } }

/-- The checks that CFG_STAGE, CFG_CHECK and CFG_COMMIT share after BAD_PARAM (R15, R34, R37, R43). -/
def cfgGate (c : CmdRef) (k : State → State) (s : State) : State :=
  if inRestart s then complete c stRestarting 0 s
  else if stageBusy c.ring s then complete c stBusy 0 s
  else k s

/-- Operation 0 of CFG_STAGE: its parameters lie in range (R451). -/
def stageOk (w : List W32) : Bool :=
  let id := cmdByte w 8
  let first := (wordAt w 3).toNat
  let count := (wordAt w 4).toNat
  1 ≤ id && id ≤ 15 && cmdByte w 9 = 0 && 1 ≤ count && first + count ≤ tblCount id && cmd64 w 24 % 8 = 0

/-- CFG_STAGE operation 0 (R37, R451). -/
def execCfgStage (ring : Fin 10) (slot : Nat) (data : List W32) (s : State) : Res :=
  .next (match findCmd s ring slot with
    | none => s
    | some d =>
      if cmdByte d.words 9 = 1 then s
      else startCmd ring slot 0x10 (fun w => !stageOk w) (fun c w => cfgGate c (fun s =>
          complete c stOk 0
            (stageWrite ring (putEntries (cmdByte w 8) (wordAt w 3).toNat (wordAt w 4).toNat data s.cfg.shadow) s))) s)

/-- CFG_STAGE operation 1 (R451): the active set is copied into the shadow set. -/
def execCfgStageCopy (ring : Fin 10) (slot : Nat) (s : State) : Res :=
  .next (match findCmd s ring slot with
    | none => s
    | some d =>
      if cmdByte d.words 9 ≠ 1 then s
      else startCmd ring slot 0x10 noBad (fun c _ s =>
        cfgGate c (fun s => complete c stOk 0 (stageWrite ring s.cfg.active s)) s) s)

/-- The next microsecond of R40: the first whole microsecond at or after the command's arrival and the check plus 20 us.
DEDUCED: a command arrives when its row starts it (log 20). -/
def nextMicro (s : State) (check : Nat) : Nat := (max (now s) (check + 20000) + 999) / 1000 * 1000

/-- A commit is armed (R40). -/
def arm (c : Option CmdRef) (instant : Option W64) (mc : Option W32) (s : State) : State :=
  { s with cfg := { s.cfg with armed := some ⟨c, instant, mc, none, false⟩ } }

/-- CFG_COMMIT after BAD_PARAM, RESTARTING and BUSY: NOT_CHECKED, star not running, cycle not later, TOO_EARLY (R41). -/
def commitRun (c : CmdRef) (w : List W32) (s : State) : State :=
  match s.cfg.check with
  | none => complete c stNotChecked 0 s
  | some t =>
    let form := cmdByte w 8
    if form = 1 then
      if cmd64 w 16 < t.toNat + 20000 then complete c stTooEarly 0 s else arm (some c) (some (BitVec.ofNat 64 (cmd64 w 16))) none s
    else if form = 2 then
      let k := wordAt w 4
      let cur := rd s .STAR_MC_NUM 0 0
      if !starOnRunning s then complete c stBadParam 0 s
      else if k.toNat ≤ cur.toNat then complete c stBadParam 0 s
      else if k.toNat = cur.toNat + 1 && decide (mcStart s + 64 * bcLen s < t.toNat + 20000) then complete c stTooEarly 0 s
      else arm (some c) none (some k) s
    else arm (some c) (some (BitVec.ofNat 64 (nextMicro s t.toNat))) none s

/-- CFG_COMMIT (R40, R41, R43). -/
def execCfgCommit (ring : Fin 10) (slot : Nat) (s : State) : Res :=
  .next (startCmd ring slot 0x12 (fun w => !(1 ≤ cmdByte w 8 && cmdByte w 8 ≤ 3) || (cmdByte w 8 = 2 && wordAt w 5 ≠ 0))
    (fun c w => cfgGate c (commitRun c w)) s)

/-- A commit ends: its command completes. The framework's own has none (R452). -/
def commitEnd (c : Option CmdRef) (status : Nat) (result : W64) (s : State) : State :=
  match c with
  | some c => complete c status result s
  | none => s

/-- The armed commit ends without switching (R15, R42, R47). -/
def disarm (status : Nat) (s : State) : State :=
  match s.cfg.armed with
  | none => s
  | some a =>
    let s := { s with cfg := { s.cfg with armed := none, check := if a.stale || inRestart s then none else s.cfg.check } }
    commitEnd a.cmd status 0 s

/-- The instant of an armed commit has come (R42, R44). -/
def commitDue (s : State) (a : Armed) : Bool :=
  a.switched.isNone &&
    (match a.instant, a.mc with
     | some t, _ => decide (t.toNat ≤ now s)
     | none, some k => starRunning s && decide (k.toNat ≤ (rd s .STAR_MC_NUM 0 0).toNat)
     | none, none => false)

/-- CFG_ABORT (R15, R47, R48). -/
def execCfgAbort (ring : Fin 10) (slot : Nat) (s : State) : Res :=
  .next (startCmd ring slot 0x13 noBad (fun c _ s =>
    match s.cfg.armed with
    | some a => if a.switched.isSome then complete c stTooLate 0 s else complete c stOk 0 (disarm stAborted s)
    | none =>
      if inRestart s then complete c stRestarting 0 s
      else complete c stOk 0 { s with cfg := { s.cfg with shadow := s.cfg.active, stager := none, check := none } }) s)

end Sys2Proof.Machine
end

