-- ==== Sys2Proof/Machine/Frame.lean ====
section
/-! DEFINITION. What the blocks read from frames: Ethernet headers, CAN and star records, CRCs; and an Ethernet port's rate,
gates and pauses (07, 08 Table 8.3, 09 Table 9.3). -/

namespace Sys2Proof.Machine

/-! ### CRCs -/

/-- One bit of a CRC shifted left. -/
def crcStepL (w poly : Nat) (crc : Nat) (b : Bool) : Nat :=
  let top := crc / 2 ^ (w - 1) % 2 = 1
  let sh := crc * 2 % 2 ^ w
  if top != b then Nat.xor sh poly else sh

/-- The bits of a byte, most significant first. -/
def bitsMsb (b : Byte) : List Bool := [7, 6, 5, 4, 3, 2, 1, 0].map fun i => b.getLsbD i

/-- CRC-16 with polynomial 0x1021, initial value 0xFFFF, most significant bit first (06, 16). -/
def crc16 (l : List Byte) : Nat := (l.flatMap bitsMsb).foldl (crcStepL 16 0x1021) 0xFFFF

/-- One bit of the reflected CRC-32 of IEEE 802.3. -/
def crc32Step (crc : Nat) (b : Bool) : Nat :=
  let t := crc % 2 = 1
  if t != b then Nat.xor (crc / 2) 0xEDB88320 else crc / 2

/-- The bits of a byte, least significant first. -/
def bitsLsb (b : Byte) : List Bool := [0, 1, 2, 3, 4, 5, 6, 7].map fun i => b.getLsbD i

/-- The CRC-32 of IEEE 802.3 over a frame. -/
def crc32 (l : List Byte) : Nat := Nat.xor ((l.flatMap bitsLsb).foldl crc32Step 0xFFFFFFFF) 0xFFFFFFFF

/-! ### Ethernet frames, from the destination address, without FCS -/

/-- Destination address, first byte most significant. -/
def ethDst (l : List Byte) : Nat := ofBe (slice l 0 6)
/-- Source address. -/
def ethSrc (l : List Byte) : Nat := ofBe (slice l 6 6)
/-- A tag with TPID 0x8100 is present (R184). -/
def ethTagged (l : List Byte) : Bool := ofBe (slice l 12 2) = 0x8100
/-- The tag's 16 bits. -/
def ethTci (l : List Byte) : Nat := if ethTagged l then ofBe (slice l 14 2) else 0
/-- PCP, 0 when untagged. -/
def ethPcp (l : List Byte) : Nat := ethTci l / 8192
/-- DEI. -/
def ethDei (l : List Byte) : Bool := ethTci l / 4096 % 2 = 1
/-- Where the EtherType stands after at most one tag. -/
def ethTypeAt (l : List Byte) : Nat := if ethTagged l then 16 else 12
/-- EtherType after at most one tag. -/
def ethType (l : List Byte) : Nat := ofBe (slice l (ethTypeAt l) 2)
/-- VID: the tag's, or the port's pvid. -/
def ethVid (l : List Byte) (pvid : Nat) : Nat := if ethTagged l then ethTci l % 4096 else pvid
/-- Where the payload begins. -/
def ethL3 (l : List Byte) : Nat := ethTypeAt l + 2
/-- IPv4 or IPv6 DSCP, or 0. -/
def ethDscp (l : List Byte) : Nat :=
  let a := ethL3 l
  if ethType l = 0x0800 then (byteAt l (a + 1)).toNat / 4
  else if ethType l = 0x86DD then ofBe (slice l a 2) / 64 % 64
  else 0
/-- IPv4 protocol or IPv6 next header, or 0. -/
def ethProto (l : List Byte) : Nat :=
  let a := ethL3 l
  if ethType l = 0x0800 then (byteAt l (a + 9)).toNat else if ethType l = 0x86DD then (byteAt l (a + 6)).toNat else 0
/-- Where the UDP or TCP header begins. -/
def ethL4 (l : List Byte) : Nat :=
  if ethType l = 0x0800 then ethL3 l + (byteAt l (ethL3 l)).toNat % 16 * 4 else ethL3 l + 40
/-- TCP or UDP destination port, or 0. -/
def ethDport (l : List Byte) : Nat := if ethProto l = 6 ∨ ethProto l = 17 then ofBe (slice l (ethL4 l + 2) 2) else 0

/-- A PTP frame under an encapsulation mask (l2, udp4, udp6): where its PTP message begins (03). -/
def ptpAt (mask : Nat) (l : List Byte) : Option Nat :=
  if mask % 2 = 1 && ethType l = 0x88F7 then some (ethL3 l)
  else if mask / 2 % 2 = 1 && ethType l = 0x0800 && ethProto l = 17 && ethDport l = 319 then some (ethL4 l + 8)
  else if mask / 4 % 2 = 1 && ethType l = 0x86DD && ethProto l = 17 && ethDport l = 319 then some (ethL4 l + 8)
  else none

/-- A stamp entry for a PTP message at `a` (Table 3.4). -/
def ptpStamp (l : List Byte) (a : Nat) (ns : W64) : Stamp :=
  ⟨BitVec.ofNat 16 (ofBe (slice l (a + 30) 2)), byteAt l (a + 4), BitVec.ofNat 4 (byteAt l a).toNat, ns⟩

/-! ### CAN records (Table 8.3) -/

/-- Header word `w`. -/
def canW (l : List Byte) (w : Nat) : W32 := BitVec.ofNat 32 (ofLe (slice l (4 * w) 4))
/-- Identifier. -/
def canId (l : List Byte) : Nat := fld (canW l 0) 28 0
/-- Extended identifier. -/
def canIde (l : List Byte) : Bool := bit (canW l 0) 29
/-- Remote frame. -/
def canRtr (l : List Byte) : Bool := bit (canW l 0) 30
/-- Receiving channel. -/
def canChan (l : List Byte) : Nat := fld (canW l 1) 4 0
/-- Format: 0 classical, 1 FD, 2 XL. -/
def canFmt (l : List Byte) : Nat := fld (canW l 1) 6 5
/-- Data bytes. -/
def canLen (l : List Byte) : Nat := fld (canW l 1) 27 16
/-- Data. -/
def canData (l : List Byte) : List Byte := slice l 16 (canLen l)

/-! ### Star records (Table 9.3) -/

/-- Slot identifier. -/
def starSlot (l : List Byte) : Nat := (byteAt l 0).toNat * 4 + (byteAt l 1).toNat / 64
/-- Cycle count. -/
def starCycle (l : List Byte) : Nat := (byteAt l 1).toNat % 64
/-- Payload length. -/
def starLen (l : List Byte) : Nat := (byteAt l 2).toNat

/-! ### Ethernet ports: rate, gates, pauses -/

/-- A port after reset: every gate open. -/
def portReset : Port :=
  { leaving := none, remainder := none, gates := 0xFF, hold := false, pausedUntil := [], pfcSent := 0, pfcNext := [],
    control := [], busy := 0, lpi := false, lpiReady := 0, emptySince := 0, verifySent := 0, verifyNext := 0, retry := none,
    opp := none, stopAt := 0 }

/-- Port `p`. -/
def portOf (s : State) (p : Nat) : Port := nmGet portReset s.eth.ports p

/-- Port `p` set. -/
def setPort (p : Nat) (k : Port) (s : State) : State := { s with eth := { s.eth with ports := nmSet portReset s.eth.ports p k } }

/-- Link up and port ON (R178). -/
def portUp (s : State) (p : Nat) : Bool := isOn s .ETH_STAT p && bit (rd s .ETH_STAT 0 p) 4

/-- Bit time in tenths of ns by the rate in force (Table 7.9). -/
def bitTenths (s : State) (p : Nat) : Nat :=
  match fld (rd s .ETH_STAT 0 p) 7 5 with
  | 0 => 1 | 1 => 2 | 2 => 4 | 3 => 10 | 4 => 100 | _ => 1000

/-- The gate control list governs the port. -/
def gclOn (s : State) (p : Nat) : Bool := bit (tblW s 10 (4096 + p) 2) 31 && bit (tblW s 10 (4096 + p) 2) 30

/-- Intervals and gate words of the list of port `p`. -/
def gclEntries (s : State) (p : Nat) : List (Nat × W32) :=
  (List.range (fld (tblW s 10 (4096 + p) 2) 7 0 + 1)).map fun k =>
    (fld (tblW s 10 (p * 256 + k) 0) 29 0, tblW s 10 (p * 256 + k) 1)

/-- The offset of local time `t` in a cycle with a phase (R150, R185). -/
def cycleAt (t cycle phase : Nat) : Nat := (((t : Int) - phase) % (cycle : Int)).toNat

/-- The list from the entry that covers an offset on: what is left of that entry, then the following ones. -/
def listFrom : List (Nat × W32) → Nat → List (Nat × W32) × List (Nat × W32)
  | [], _ => ([], [])
  | (d, g) :: r, ofs =>
    if ofs < d then ((d - ofs, g) :: r, []) else let (a, b) := listFrom r (ofs - d); (a, (d, g) :: b)

/-- The entries of port `p` from local time `t` on, once around. -/
def gclFrom (s : State) (p t : Nat) : List (Nat × W32) :=
  let (a, b) := listFrom (gclEntries s p) (cycleAt t (fld (tblW s 10 (4096 + p) 0) 29 0) (fld (tblW s 10 (4096 + p) 1) 29 0))
  a ++ b

/-- Gates and hold that the list shows at the current local time (R185). -/
def gclNow (s : State) (p : Nat) : BitVec 8 × Bool :=
  if !gclOn s p then (0xFF, false)
  else
    match gclFrom s p (now s) with
    | [] => (0xFF, false)
    | (_, g) :: _ => (BitVec.ofNat 8 g.toNat, bit g 8)

/-- ns until the first later entry that closes gate `c`; none when it stays open through a cycle (R186). -/
def closeIn (c : Nat) : List (Nat × W32) → Nat → Option Nat
  | [], _ => none
  | (d, g) :: r, t => if bit g c then closeIn c r (t + d) else some t

/-- ns until gate `c` of port `p` closes. -/
def gateClose (s : State) (p c : Nat) : Option Nat := if gclOn s p then closeIn c (gclFrom s p (now s)) 0 else none

/-- Class `c` of port `p` is paused (R193). -/
def classPaused (s : State) (p c : Nat) : Bool :=
  match nmFind (portOf s p).pausedUntil c with
  | some t => decide (now s < t.toNat)
  | none => false

/-- MACsec store-first on an egress (R167, R201). -/
def storeFirst (s : State) (p : Nat) : Bool := p < 12 && bit (rd s .ETH_MACSEC_CTRL 0 p) 4

/-- A cause bit of a port sets, and its status event fires (Table 7.9). -/
def ethCause (p n : Nat) (s : State) : State :=
  if bit (rd s .ETH_EVT_CAUSE 0 p) n then s else raise (96 + 2 * p) (setB .ETH_EVT_CAUSE 0 p (oneBit n) s)

end Sys2Proof.Machine
end

