-- ==== Sys2Proof/Machine/Mem.lean ====
section
/-! DEFINITION. Shared memory banks: accesses, ECC, handover, power, march tests and repair (04). -/

namespace Sys2Proof.Machine

/-! ### Bank accesses (R89-R98, R107) -/

/-- The stores set. -/
def setShared (c : List Host.Cell) (s : State) : State := { s with stores := { s.stores with shared := c } }

/-- The owner code that a processor master acts as (Table 4.1). -/
def ownerCode (m : Nat) : BitVec 8 :=
  if m ≤ 2 then 3 else if m = 3 then 2 else if 8 ≤ m ∧ m ≤ 31 then BitVec.ofNat 8 (m + 8) else 0

/-- R89: an agent may access a bank: as owner on the owner's port, or as delegate on port A. BAR2 reaches host-owned banks
alone, whatever identity its access carries (02 R21). -/
def mayAccess (k : Bank) (a : Agent) : Bool :=
  match a with
  | .thread t => k.owner = ownerCode (thMaster t)
  | .bar2 _ => k.owner = 3
  | .fabric => k.owner = 1 || k.del0 = 1 || k.del1 = 1
  | .qm => k.del0 = 2 || k.del1 = 2
  | .crypto => k.owner = 5 || k.del0 = 3 || k.del1 = 3
  | .recorder => k.owner = 4 || k.del0 = 4 || k.del1 = 4

/-- The identity latched for an agent's access error (R28); the fabric and the queue manager have none of their own. -/
def agentId (a : Agent) : Nat :=
  match a with
  | .thread t => thMaster t
  | .bar2 m => m
  | .fabric => 7
  | .qm => 7
  | .crypto => 5
  | .recorder => 4

/-- Statuses of a bank access (Table 4.2). -/
abbrev memOk : Nat := 0
abbrev memFailed : Nat := 1
abbrev memOff : Nat := 2
abbrev memTest : Nat := 3
abbrev memPending : Nat := 4
abbrev memAccess : Nat := 5
abbrev memPoisoned : Nat := 6
abbrev memLost : Nat := 7

/-- The status of an access before its data is met (Table 4.2, orders 1 to 5). -/
def bankStatus (k : Bank) (a : Agent) : Nat :=
  if k.failed then memFailed
  else if k.pwr = 2 then memOff
  else if k.underTest then memTest
  else if k.pend.isSome then memPending
  else if !mayAccess k a then memAccess
  else memOk

/-- The present tick as a bank keeps it. -/
def tickWord (s : State) : W64 := BitVec.ofNat 64 s.ticks

/-- An access reaches a bank: one in FROST begins its thaw, with source 47; a thaw under way goes on (R107). -/
def bankTouch (b : Nat) (s : State) : State :=
  let k := bankOf s b
  if k.thawing then s
  else if k.pwr = 1 then
    raise 47 (count16 .MEM_STALL_CNT 0 b (setBank b { k with thawing := true, lastAccess := tickWord s } s))
  else setBank b { k with lastAccess := tickWord s } s

/-- A bank that would serve the agent lies in FROST, or thaws: the access waits (R107). -/
def bankAsleep (ag : Agent) (s : State) (b : Nat) : Bool := (bankOf s b).pwr = 1 && bankStatus (bankOf s b) ag = memOk

/-- An act has met a bank that sleeps: the first one is kept. -/
def stallAt (b : Nat) (s : State) : State := { s with mem := { s.mem with stall := some (s.mem.stall.getD b) } }

/-- An act that uses banks: when it meets one that sleeps, the thaw begins and the act waits, nothing of it done (R107). -/
def unlessAsleep (f : State → State) (s : State) : State :=
  let t := f s
  match t.mem.stall with
  | some b => bankTouch b s
  | none => t

/-- An act that waits for no one: each thaw that it meets passes within it. -/
def throughThaw (f : State → State) : Nat → State → State
  | 0, s => s
  | fuel + 1, s =>
    let t := f s
    match t.mem.stall with
    | some b =>
      let s := bankTouch b s
      throughThaw f fuel (setBank b { bankOf s b with pwr := 0, thawing := false } s)
    | none => t

/-! ### Same-word collisions (R92-R95)

DESIGN CHOICE (log 17): the accesses of a bank between two ticks pair up in its memory cycles in the order in which they come,
each port's next access beginning the next cycle. -/

/-- The agent uses port B. -/
def onPortB (ag : Agent) : Bool :=
  match ag with
  | .thread _ | .bar2 _ => true
  | _ => false

/-- The present memory cycle of a bank. -/
def cycleOf (s : State) (b : Nat) : BankCycle := nmGet ⟨none, none⟩ s.mem.cycle b

/-- That cycle set. -/
def setCycle (b : Nat) (c : BankCycle) (s : State) : State := { s with mem := { s.mem with cycle := nmSet ⟨none, none⟩ s.mem.cycle b c } }

/-- An agent's port begins an access: its second one in a cycle begins the next cycle. -/
def cycleEnter (ag : Agent) (b : Nat) (s : State) : State :=
  let c := cycleOf s b
  if (if onPortB ag then c.portB else c.portA).isSome then setCycle b ⟨none, none⟩ s else s

/-- The other port's write of word `w` in this cycle. -/
def otherWrite (ag : Agent) (w : Nat) (s : State) : Option PortUse :=
  let c := cycleOf s (w / 32768)
  (if onPortB ag then c.portA else c.portB).filter fun u => u.word = w && u.writes

/-- An access as the cycle keeps it, the word standing as in `s`. -/
def portUse (ag : Agent) (w : Nat) (writes atomic : Bool) (s : State) : PortUse :=
  { word := w, writes := writes, atomic := atomic, before := memReadN s.stores.shared (8 * w) 8, single := decide (w ∈ s.mem.single),
    poison := decide (w ∈ s.mem.poison), thread := match ag with
      | .thread t => some t
      | _ => none }

/-- The access joins the cycle. -/
def cycleJoin (ag : Agent) (u : PortUse) (s : State) : State :=
  let b := u.word / 32768
  setCycle b (if onPortB ag then { cycleOf s b with portB := some u } else { cycleOf s b with portA := some u }) s

/-- A word stands as before the write that lost a collision. -/
def wordBack (u : PortUse) (s : State) : State :=
  let put (l : List Nat) (on : Bool) : List Nat := (l.filter (· ≠ u.word)) ++ (if on then [u.word] else [])
  setShared (memWriteN s.stores.shared (8 * u.word) u.before)
    { s with mem := { s.mem with single := put s.mem.single u.single, poison := put s.mem.poison u.poison } }

/-- A port B write is lost: counted, source 42, and lost_write in the MSTAT of the thread that made it (R92, 11 R293). -/
def lostWrite (b : Nat) (t : Option Nat) (s : State) : State :=
  let s := raise 42 (count16 .MEM_LOST_WR 0 b s)
  match t with
  | some t => setTh t { thOf s t with mstat := (thOf s t).mstat ||| 1 } s
  | none => s

/-- A corrected single-bit error: written back, counted, source 40 (R96). -/
def eccSingle (w : Nat) (s : State) : State :=
  raise 40 (count16 .MEM_ECC_CE 0 (w / 32768) { s with mem := { s.mem with single := s.mem.single.filter (· ≠ w) } })

/-- An uncorrectable word is met: counted, source 41, its index latched (R97). -/
def eccPoison (w : Nat) (s : State) : State :=
  let b := w / 32768
  let s := count16 .MEM_ECC_UE 0 b s
  let s := if bit (rd s .MEM_UE_WORD 0 b) 31 then s else wr .MEM_UE_WORD 0 b (BitVec.ofNat 32 (2 ^ 31 + w % 32768)) s
  raise 41 s

/-- A read of `n` bytes at `a` within one 64-bit word: status and bytes; a word that the other port writes in the same cycle reads
as before (R93). -/
def shRead (ag : Agent) (a n : Nat) (s : State) : Nat × List Byte × State :=
  let b := a / 0x40000
  let st := bankStatus (bankOf s b) ag
  if st = memAccess then (st, List.replicate n 0, accessErr (agentId ag) 1 a s)
  else if st ≠ memOk then (st, List.replicate n 0, s)
  else if bankAsleep ag s b then (memOk, List.replicate n 0, stallAt b s)
  else
    let w := a / 8
    let s := cycleEnter ag b (bankTouch b s)
    let u := (otherWrite ag w s).getD (portUse ag w false false s)
    let s := cycleJoin ag (portUse ag w false false s) s
    if u.poison then (memPoisoned, List.replicate n 0, eccPoison w s)
    else (memOk, slice u.before (a % 8) n, if u.single then eccSingle w s else s)

/-- A write that no collision discards: a full one replaces a poisoned word, a partial one is merged (R97, R98). -/
def shPut (ag : Agent) (a : Nat) (bs : List (Option Byte)) (atomic : Bool) (s : State) : Nat × State :=
  let w := a / 8
  let full := bs.length = 8 && bs.all (·.isSome)
  let u := portUse ag w true atomic s
  let s := cycleJoin ag u s
  if !full && u.poison then (memPoisoned, eccPoison w s)
  else
    let s := if full && !atomic then { s with mem := { s.mem with poison := s.mem.poison.filter (· ≠ w), single := s.mem.single.filter (· ≠ w) } }
             else if u.single then eccSingle w s
             else s
    (memOk, setShared ((List.range bs.length).foldl (fun c i =>
      match bs.getD i none with
      | some v => memWrite c (a + i) v
      | none => c) s.stores.shared) s)

/-- A write of bytes at `a` within one 64-bit word; `none` bytes are not enabled. Of two writes of one word in one cycle port A's
takes effect and port B's is lost, whichever came first in the queue (R92). -/
def shWriteMask (ag : Agent) (a : Nat) (bs : List (Option Byte)) (s : State) : Nat × State :=
  let b := a / 0x40000
  let w := a / 8
  let st := bankStatus (bankOf s b) ag
  if st = memAccess then (st, accessErr (agentId ag) 1 a s)
  else if st ≠ memOk then (st, s)
  else if bankAsleep ag s b then (memOk, stallAt b s)
  else
    let s := cycleEnter ag b (bankTouch b s)
    match otherWrite ag w s with
    | none => shPut ag a bs false s
    | some u =>
      if !onPortB ag then shPut ag a bs false (lostWrite b u.thread (wordBack u s))
      else
        let me := portUse ag w false false s
        let s := cycleJoin ag me s
        if u.poison && bs.any (·.isNone) then (memPoisoned, eccPoison w s) else (memLost, lostWrite b me.thread s)

/-- An atomic of `n` bytes at `a`: status, old value, and the word with `f` applied, in one cycle (R94). A misaligned one is
ACCESS_ERROR (Table 4.2). In one cycle with an atomic of the other port the second acts on the first one's result; in one with a
write of port A, port B's write half is lost, the old value being that before the cycle (R95). No agent of port A issues
atomics. -/
def shAtomic (ag : Agent) (a n : Nat) (f : List Byte → List Byte) (s : State) : Nat × List Byte × State :=
  let b := a / 0x40000
  let w := a / 8
  let st := bankStatus (bankOf s b) ag
  if st = memAccess || (st = memOk && a % n ≠ 0) then (memAccess, List.replicate n 0, accessErr (agentId ag) 1 a s)
  else if st ≠ memOk then (st, List.replicate n 0, s)
  else if bankAsleep ag s b then (memOk, List.replicate n 0, stallAt b s)
  else
    let s := cycleEnter ag b (bankTouch b s)
    let go (s : State) : Nat × List Byte × State :=
      let u := portUse ag w true true s
      if u.poison then (memPoisoned, List.replicate n 0, eccPoison w (cycleJoin ag u s))
      else
        let old := slice u.before (a % 8) n
        let (st, s) := shPut ag a ((f old).map some) true s
        (st, old, s)
    match otherWrite ag w s with
    | none => go s
    | some u =>
      if u.atomic then go s
      else if !onPortB ag then go (lostWrite b u.thread (wordBack u s))
      else
        let me := portUse ag w false true s
        let s := cycleJoin ag me s
        if u.poison then (memPoisoned, List.replicate n 0, eccPoison w s)
        else (memLost, slice u.before (a % 8) n, lostWrite b me.thread (if u.single then eccSingle w s else s))

/-- A write of bytes at `a` within one 64-bit word. -/
def shWrite (ag : Agent) (a : Nat) (bs : List Byte) (s : State) : Nat × State := shWriteMask ag a (bs.map some) s

/-- The 64-bit words of a run of bytes, as address and length. -/
def wordRuns : Nat → Nat → Nat → List (Nat × Nat)
  | 0, _, _ => []
  | fuel + 1, a, n =>
    if n = 0 then []
    else
      let k := min n (8 - a % 8)
      (a, k) :: wordRuns fuel (a + k) (n - k)

/-- A run of bytes is read word by word; the first status other than OK ends it, and is answered. -/
def shReadRun (ag : Agent) (a n : Nat) (s : State) : Nat × List Byte × State :=
  (wordRuns (n + 1) a n).foldl (fun (st, l, s) (w, k) =>
    if st ≠ memOk then (st, l ++ List.replicate k 0, s)
    else
      let (st, d, s) := shRead ag w k s
      (st, l ++ d, s)) (memOk, [], s)

/-- A run of bytes is written word by word; the first status other than OK and LOST_WRITE ends it, and is answered. -/
def shWriteRun (ag : Agent) (a : Nat) (bs : List Byte) (s : State) : Nat × State :=
  (wordRuns (bs.length + 1) a bs.length).foldl (fun (st, s) (w, k) =>
    if st ≠ memOk && st ≠ memLost then (st, s) else shWrite ag w (slice bs (w - a) k) s) (memOk, s)

/-- End of the mapped part of BAR2 (R20). -/
def bar2End : Nat := 0x6000000

/-- A BAR2 read, word by word, each on its own (R20, R21). -/
def bar2Read (m off len : Nat) (s : State) : State :=
  let mapped := min (off + len) bar2End - min off bar2End
  let (l, s) := (wordRuns (mapped + 1) off mapped).foldl (fun (l, s) (w, k) =>
    let (_, d, s) := shRead (.bar2 m) w k s
    (l ++ d, s)) (([] : List Byte), s)
  let s := if bar2End < off + len then accessErr m 1 (max off bar2End) s else s
  say (.readBytes m (l ++ List.replicate (len - mapped) 0)) s

/-- A BAR2 write, word by word, each on its own (R20, R21). -/
def bar2Write (m off : Nat) (d : List (Option Byte)) (s : State) : State :=
  let mapped := min (off + d.length) bar2End - min off bar2End
  let s := (wordRuns (mapped + 1) off mapped).foldl (fun s (w, k) =>
    (shWriteMask (.bar2 m) w ((d.drop (w - off)).take k) s).2) s
  if bar2End < off + d.length then accessErr m 1 (max off bar2End) s else s

/-- A BAR2 access: a read of `len` bytes when no data is written. -/
def bar2Run (o : Bar2Op) (s : State) : State := if o.wdata.isEmpty then bar2Read o.m o.off o.len s else bar2Write o.m o.off o.wdata s

/-- The BAR2 accesses that wait go on in their order, as far as no bank is asleep (R107). -/
def bar2Pump : Nat → State → State
  | 0, s => s
  | fuel + 1, s =>
    match s.mem.bar2 with
    | [] => s
    | o :: rest =>
      let t := bar2Run o { s with mem := { s.mem with bar2 := rest } }
      match t.mem.stall with
      | some b => bankTouch b s
      | none => bar2Pump fuel t

/-- BAR2_ACCESS (R20, R21): it waits behind those that wait for a thaw (DESIGN CHOICE: in their order, log 5). -/
def execBar2Access (m : Fin 64) (off len : Nat) (wdata : List (Option Byte)) (s : State) : Res :=
  .next (if running s then
    let l := s.mem.bar2 ++ [⟨m, off, len, wdata⟩]
    bar2Pump (l.length + 1) { s with mem := { s.mem with bar2 := l } }
  else s)

/-! ### Handover (R99-R106) -/

/-- The quota register's element of an owner code (Table 4.7). -/
def quotaIdx (o : BitVec 8) : Nat := o.toNat - 1

/-- over_quota of every owner clears when its use is at the limit or below (R59). -/
def refreshQuota (s : State) : State :=
  (List.range 39).foldl (fun s c =>
    if bit (rd s .MEM_COUNT c 0) 31 && decide (banksOf s (BitVec.ofNat 8 (c + 1)) ≤ fld (rd s .MEM_QUOTA c 0) 8 0) then
      clrB .MEM_COUNT c 0 0x80000000 s
    else s) s

/-- An owner code of Table 4.1. -/
def ownerValid (o : Nat) : Bool := o ≤ 5 || (0x10 ≤ o && o ≤ 0x27)

/-- Banks counted for owner `o` once the banks `bs` are the new owner's (R105, R106). -/
def banksAfter (s : State) (bs : List Nat) (new o : BitVec 8) : Nat :=
  ((List.range 384).filter fun b => (if b ∈ bs then new else countedOwner (bankOf s b)) = o).length

/-- Why a bank of the set `bs` may not be handed to an owner with delegates: the first reason of Table 4.3 that applies, checks 7
and 8 taken over the whole set (R100, R106). -/
def handoverReason (m : Nat) (bs : List Nat) (own d0 d1 : Nat) (multi : Bool) (s : State) (b : Nat) : Option Nat :=
  let k := bankOf s b
  let old := countedOwner k
  let new := BitVec.ofNat 8 own
  let fab' := banksAfter s bs new 1
  if !(m = 3 || (m ≤ 2 && k.owner = 3)) then some 2
  else if !ownerValid own || 5 ≤ d0 || 5 ≤ d1 then some 7
  else if k.failed && own ≠ 0 then some 5
  else if k.underTest then some 4
  else if rd s .MEM_CELLS 0 b ≠ 0 || k.thawing || (multi && k.pend.isSome) then some 1
  else if old ≠ new && (old = 1 || new = 1) && !(32 ≤ fab' && fab' ≤ 320) then some 6
  else if old ≠ new && own ≠ 0 && fld (rd s .MEM_QUOTA (quotaIdx new) 0) 8 0 < banksAfter s bs new new then some 3
  else none

/-- MEM_OWN_STAT with a requester, a reason and a state. -/
def ownStat (b m reason st : Nat) (s : State) : State :=
  setF .MEM_OWN_STAT 0 b 31 24 m (setF .MEM_OWN_STAT 0 b 7 4 reason (setF .MEM_OWN_STAT 0 b 1 0 st s))

/-- A refused start (R100). -/
def handoverRefuse (m b reason : Nat) (s : State) : State := raise 43 (ownStat b m reason 3 s)

/-- An accepted start: PENDING, the requested set recorded, scrub unless only delegates change (R101, R104). -/
def handoverAccept (m b own d0 d1 : Nat) (force : Bool) (s : State) : State :=
  let k := bankOf s b
  let scrub := k.owner ≠ BitVec.ofNat 8 own && (force || bit (rd s .MEM_BANK_CFG 0 b) 0 || k.pwr = 2)
  refreshQuota (ownStat b m 0 1
    (setBank b { k with pend := some ⟨BitVec.ofNat 8 own, BitVec.ofNat 3 d0, BitVec.ofNat 3 d1, scrub, false, s.ticks⟩ } s))

/-- A write of MEM_OWN with start set (R99-R103): ignored while PENDING. -/
def memOwnWrite (m : Nat) (v : W32) (s : State) : State :=
  withReg m .MEM_OWN 0 (fun s =>
    let b := chanOf .MEM_OWN m s
    if !bit v 31 then s
    else if fld (rd s .MEM_OWN_STAT 0 b) 1 0 = 1 then setB .MEM_OWN_STAT 0 b 0x10000 s
    else if !(m = 3 || (m ≤ 2 && (bankOf s b).owner = 3)) then handoverRefuse m b 2 s
    else
      withPolicy m .MEM_OWN 0 v (handoverRefuse m b 8) (fun s =>
        match handoverReason m [b] (fld v 23 16) (fld v 26 24) (fld v 29 27) false s b with
        | some why => handoverRefuse m b why s
        | none => handoverAccept m b (fld v 23 16) (fld v 26 24) (fld v 29 27) false s) s) s

/-- MEM_OWN_START (R99-R103). -/
def execMemOwnStart (m : Fin 64) (v : W32) (s : State) : Res := .next (memOwnWrite m v s)

/-- HANDOVER_DRAINED (R101 step 2). -/
def execHandoverDrained (b : Fin 384) (s : State) : Res :=
  .next (match (bankOf s b).pend with
    | some h => if h.drained then s else setBank b { bankOf s b with pend := some { h with drained := true, since := s.ticks } } s
    | none => s)

/-- A bank's contents become zero with valid check bits. -/
def scrubBank (b : Nat) (s : State) : State :=
  setShared (memClear s.stores.shared (b * 0x40000) ((b + 1) * 0x40000))
    { s with mem := { s.mem with poison := s.mem.poison.filter (· / 32768 ≠ b), single := s.mem.single.filter (· / 32768 ≠ b) } }

/-- The MEM_HANDOVER that a bank belongs to loses it, and completes with its last bank (R106). -/
def handoverCount (b : Nat) (s : State) : State :=
  s.mem.handovers.foldl (fun s (c, left, n) =>
    if b ∈ left then
      let left := left.filter (· ≠ b)
      let others := s.mem.handovers.filter fun h => h.1 ≠ c
      if left.isEmpty then complete c stOk (BitVec.ofNat 64 n) { s with mem := { s.mem with handovers := others } }
      else { s with mem := { s.mem with handovers := (c, left, n) :: others } }
    else s) s

/-- HANDOVER_DONE (R101 steps 3 and 4, R104): scrub, new owner and delegates, DONE, source 43. -/
def execHandoverDone (b : Fin 384) (s : State) : Res :=
  .next (match (bankOf s b).pend with
    | none => s
    | some h =>
      if !h.drained then s
      else
        let k := bankOf s b
        let s := if h.scrub then scrubBank b s else s
        let on := k.pwr = 2 && h.owner ≠ 0 && h.owner ≠ k.owner
        let s := setBank b { k with owner := h.owner, del0 := h.del0, del1 := h.del1, pend := none, pwr := if on then 0 else k.pwr } s
        let s := if on then setF .MEM_PWR 0 b 1 0 0 s else s
        let s := setF .MEM_OWN_STAT 0 b 15 8 k.owner.toNat (setF .MEM_OWN_STAT 0 b 1 0 2 s)
        handoverCount b (raise 43 s))

/-- The banks of a 384-bit mask in bytes 8-55 of a command, ascending. -/
def maskBanks (w : List W32) : List Nat := (List.range 384).filter fun b => bit (wordAt w (2 + b / 32)) (b % 32)

/-- A bank mask with no bit set (R106, R111). -/
def maskBad (w : List W32) : Bool := (maskBanks w).isEmpty

/-- A failing bank and its reason as a result. DEDUCED: bit 8, which the two fields share, holds the OR of both (R106, R111;
log 18). -/
def bankFail (b why : Nat) : W64 := BitVec.ofNat 64 b ||| BitVec.ofNat 64 (why * 256)

/-- MEM_HANDOVER (R106): all checks first, then every bank. -/
def execMemHandover (ring : Fin 10) (slot : Nat) (s : State) : Res :=
  .next (startCmd ring slot 0x20 maskBad (fun c w s =>
    let banks := maskBanks w
    let m := ringMaster ring
    let own := cmdByte w 56
    let d0 := cmdByte w 57
    let d1 := cmdByte w 58
    match banks.findSome? fun b => (handoverReason m banks own d0 d1 true s b).map fun why => (b, why) with
    | some (b, why) => complete c stFailed (bankFail b why) s
    | none =>
      let t := banks.foldl (fun s b => handoverAccept m b own d0 d1 (cmdByte w 59 % 2 = 1) s) s
      { t with mem := { t.mem with handovers := (c, banks, banks.length) :: t.mem.handovers } }) s)

/-! ### March tests and repair (R111-R115) -/

/-- Why a bank is not eligible for a test (R111). -/
def testReason (m : Nat) (destructive : Bool) (b : Nat) (s : State) : Option Nat :=
  let k := bankOf s b
  if rd s .MEM_CELLS 0 b ≠ 0 || k.pend.isSome then some 1
  else if k.pwr = 2 then some 9
  else if destructive && !(k.owner = 0 || k.owner = ownerCode m) then some 2
  else none

/-- A march takes a bank: a FROST bank is thawed before its test (R112). -/
def testTake (b : Nat) (s : State) : State :=
  setF .MEM_TEST_RES 0 b 2 2 1 (setBank b { bankOf s b with underTest := true, pwr := 0, thawing := false } s)

/-- The first selected bank of each cluster. -/
def clusterHeads (l : List Nat) : List Nat :=
  (List.range 12).filterMap fun k => l.find? fun b => b / 32 = k

/-- MEM_TEST (R111, R112). -/
def execMemTest (ring : Fin 10) (slot : Nat) (s : State) : Res :=
  .next (startCmd ring slot 0x21 (fun w => maskBad w || !(cmdByte w 56 = 1 || cmdByte w 56 = 2)) (fun c w s =>
    let banks := maskBanks w
    let alg := cmdByte w 56
    if s.mem.test.isSome then complete c stBusy 0 s
    else
      match banks.findSome? fun b => (testReason (ringMaster ring) (alg = 1) b s).map fun why => (b, why) with
      | some (b, why) => complete c stFailed (bankFail b why) s
      | none =>
        (clusterHeads banks).foldl (fun s b => testTake b s)
          { s with mem := { s.mem with test := some ⟨some c, alg = 1, banks, 0, 0, 0⟩ } }) s)

/-- A field repair map entry (Table 4.6). -/
def repairEntry (b kind index spare : Nat) : W32 :=
  BitVec.ofNat 32 (b * 2 ^ 23 + kind * 2 ^ 21 + index * 2 ^ 10 + spare * 2 ^ 7)

/-- Spares of a kind that the field repair map holds for bank `b`: rows 0, column groups 1 (R114). -/
def sparesUsed (s : State) (b kind : Nat) : Nat :=
  (s.mem.repairMap.filter fun e => fld e 31 23 = b && fld e 22 21 = kind).length

/-- New assignments are appended to the field repair map, each with source 44 (R114). -/
def repairAdd (es : List W32) (s : State) : State :=
  es.foldl (fun s e => raise 44 { s with mem := { s.mem with repairMap := s.mem.repairMap ++ [e] } }) s

/-- The counts of a test that is over; its MEM_TEST completes with them (R113). -/
def testEnd (t : MemTest) (s : State) : State :=
  match t.cmd with
  | some c => complete c stOk (BitVec.ofNat 64 (t.passed + t.repaired * 2 ^ 16 + t.failed * 2 ^ 32)) s
  | none => s

/-- MARCH_BANK_DONE (R112-R115): `rows` and `cols` fail in bank `b`; `again`: the repeat march passes. -/
def execMarchBankDone (b : Fin 384) (rows cols : List Nat) (again : Bool) (s : State) : Res :=
  .next (match s.mem.test with
    | none => s
    | some t =>
      if b.val ∉ t.left || !(bankOf s b).underTest then s
      else
        let k := bankOf s b
        let r0 := sparesUsed s b 0
        let c0 := sparesUsed s b 1
        let clean := rows.isEmpty && cols.isEmpty
        let fixed := !clean && decide (r0 + rows.length ≤ 8) && decide (c0 + cols.length ≤ 4) && again
        let back : BitVec 2 := if fld (rd s .MEM_PWR 0 b) 1 0 = 1 then 1 else 0
        let s := if t.destructive then scrubBank b s else s
        let s :=
          if clean then setF .MEM_TEST_RES 0 b 1 0 1 s
          else if fixed then
            let es := (rows.zipIdx.map fun (x, i) => repairEntry b 0 x (r0 + i)) ++ (cols.zipIdx.map fun (x, i) => repairEntry b 1 x (c0 + i))
            setF .MEM_TEST_RES 0 b 1 0 2 (repairAdd es s)
          else
            raise 45 (setF .MEM_TEST_RES 0 b 1 0 3 { s with mem := { s.mem with repairMap := s.mem.repairMap ++ [repairEntry b 2 0 0] } })
        let failed := if clean then k.failed else if fixed then k.failed && !t.destructive else true
        let s := setF .MEM_TEST_RES 0 b 2 2 0 (setBank b { k with underTest := false, failed := failed, pwr := back } s)
        let left := t.left.filter (· ≠ b.val)
        let t : MemTest :=
          { t with left := left, passed := t.passed + ofBool clean, repaired := t.repaired + ofBool fixed,
                   failed := t.failed + ofBool (!clean && !fixed) }
        if left.isEmpty then
          testEnd t (raise 44 { s with mem := { s.mem with test := none } })
        else
          let s := { s with mem := { s.mem with test := some t } }
          match left.find? fun x => x / 32 = b.val / 32 with
          | some x => testTake x s
          | none => s)

/-! ### Registers and power (R59, R97, R107, R108) -/

/-- A read of MEM_ECC_UE also clears MEM_UE_WORD.valid (Table 4.9). -/
def eccUeRead (b : Nat) (s : State) : W32 × State :=
  (rd s .MEM_ECC_UE 0 b, clrB .MEM_UE_WORD 0 b 0x80000000 (wr .MEM_ECC_UE 0 b 0 s))

/-- MEM_ECC_UE_READ (R97). -/
def execMemEccUeRead (m : Fin 64) (s : State) : Res :=
  .next (withRead m .MEM_ECC_UE 0 (fun s => replyOf m (eccUeRead (chanOf .MEM_ECC_UE m s) s)) s)

/-- BANK_THAW_DONE (R107). -/
def execBankThawDone (b : Fin 384) (s : State) : Res :=
  .next (let k := bankOf s b
    if k.thawing then setBank b { k with pwr := 0, thawing := false } s else s)

/-- The idle time of a bank whose req is FROST has passed; cells held keep a bank awake (R107; DESIGN CHOICE, log 5). -/
def frostIdleDue (b : Nat) (s : State) : Bool :=
  let k := bankOf s b
  running s && k.pwr = 0 && !k.underTest && k.pend.isNone && fld (rd s .MEM_PWR 0 b) 1 0 = 1 &&
    rd s .MEM_CELLS 0 b = 0 && decide (k.lastAccess.toNat + max 1 (fld (rd s .MEM_PWR 0 b) 15 8) * 250 ≤ s.ticks)

/-- BANK_FROST_IDLE (R107). -/
def execBankFrostIdle (b : Fin 384) (s : State) : Res :=
  .next (if frostIdleDue b s then setBank b { bankOf s b with pwr := 1 } s else s)

/-- A request for a power state of bank `b` is refused (R108, Table 4.9). -/
def pwrRefused (b req : Nat) (s : State) : Bool :=
  let k := bankOf s b
  req = 3 || (req = 2 && k.owner ≠ 0) || (req ≠ 0 && rd s .MEM_CELLS 0 b ≠ 0) || k.pend.isSome || k.underTest

/-- The bank takes the state its req names: OFF loses its contents, FROST to ON goes through the thaw. -/
def pwrTake (b req : Nat) (s : State) : State :=
  let k := bankOf s b
  match req with
  | 0 => if k.pwr = 1 then setBank b { k with thawing := true, lastAccess := tickWord s } s else setBank b { k with pwr := 0 } s
  | 1 => setBank b { k with pwr := if k.pwr = 2 then 2 else 1, thawing := false } s
  | _ => setBank b { k with pwr := 2, thawing := false } (scrubBank b s)

/-- A write of MEM_PWR: by the policy core, or by the host for a bank it owns (R108). -/
def memPwrWrite (m : Nat) (v : W32) (s : State) : State :=
  withReg m .MEM_PWR 0 (fun s =>
    let b := chanOf .MEM_PWR m s
    if m ≤ 2 && (bankOf s b).owner ≠ 3 then accessErr m 0 (regOff .MEM_PWR 0) s
    else
      withPolicy m .MEM_PWR 0 v id (fun s =>
        let req := fld v 1 0
        let s := if bit v 16 then clrB .MEM_PWR 0 b 0x10000 s else s
        let s := setF .MEM_PWR 0 b 15 8 (fld v 15 8) s
        if pwrRefused b req s then setB .MEM_PWR 0 b 0x10000 s
        else pwrTake b req (setF .MEM_PWR 0 b 1 0 req s)) s) s

/-- MEM_PWR_REQ (R108). -/
def execMemPwrReq (m : Fin 64) (v : W32) (s : State) : Res := .next (memPwrWrite m v s)

/-- A quota written below the use sets over_quota and fires source 46 (R59). -/
def memQuotaWrite (c : Nat) (v : W32) (s : State) : State :=
  let s := plainWrite .MEM_QUOTA c 0 v s
  if fld v 8 0 < banksOf s (BitVec.ofNat 8 (c + 1)) then raise 46 (setB .MEM_COUNT c 0 0x80000000 s) else refreshQuota s

/-- MEM_QUOTA_WRITE (R59): element `c` is owner code `c + 1`. -/
def execMemQuotaWrite (m : Fin 64) (c : Fin 39) (v : W32) (s : State) : Res :=
  .next (withWrite m .MEM_QUOTA c v (memQuotaWrite c v) s)

end Sys2Proof.Machine
end

