-- ==== Sys2Proof/Machine/Qm.lean ====
section
/-! DEFINITION. The queue manager: descriptors, packets, notices, RELEASE and FLUSH modes, enable (05). -/

namespace Sys2Proof.Machine

/-- An empty queue. -/
def queueEmpty : Queue :=
  { descs := [], base := 0, read := 0, vis := 0, mark := none, openBy := none, discard := [], pend := [], rxWrite := 0, rxUsed := 0 }

/-- Queue `q`. -/
def queueOf (s : State) (q : Nat) : Queue := nmGet queueEmpty s.qm.queues q

/-- Queue `q` set. -/
def setQueue (q : Nat) (k : Queue) (s : State) : State := { s with qm := { s.qm with queues := nmSet queueEmpty s.qm.queues q k } }

/-! ### Descriptors (Table 5.1) -/

/-- Word `w` of a descriptor. -/
def dWord (d : BitVec 128) (w : Nat) : W32 := BitVec.ofNat 32 (d.toNat / 2 ^ (32 * w))

/-- A descriptor of four words. -/
def mkDesc (w : List W32) : BitVec 128 :=
  BitVec.ofNat 128 ((wordAt w 0).toNat + (wordAt w 1).toNat * 2 ^ 32 + (wordAt w 2).toNat * 2 ^ 64 + (wordAt w 3).toNat * 2 ^ 96)

/-- first. -/
def dFirst (d : BitVec 128) : Bool := d.getLsbD 63
/-- last. -/
def dLast (d : BitVec 128) : Bool := d.getLsbD 62
/-- bad. -/
def dBad (d : BitVec 128) : Bool := d.getLsbD 37
/-- bank. -/
def dBank (d : BitVec 128) : Nat := fld (dWord d 0) 26 18
/-- offset. -/
def dOffset (d : BitVec 128) : Nat := fld (dWord d 0) 17 0
/-- length. -/
def dLen (d : BitVec 128) : Nat := fld (dWord d 1) 29 16
/-- A descriptor with last and bad set (R121, R133). -/
def dEndBad (d : BitVec 128) : BitVec 128 := d ||| BitVec.ofNat 128 (2 ^ 62 + 2 ^ 37)
/-- A descriptor with src_port written by the queue manager, reserved bits clear (R116, R117). -/
def dSrc (d : BitVec 128) (port : Nat) : BitVec 128 :=
  mkDesc [dWord d 0 &&& 0x07FFFFFF, putFld (dWord d 1 &&& 0xFFFFFFE0) 10 6 port, dWord d 2, dWord d 3]

/-- The fabric attachment port of a producer that is no fabric port (R116, Table 6.1). -/
def attachPort (m : Nat) : Nat := if 8 ≤ m ∧ m ≤ 31 then 20 + (m - 8) / 6 else if m = 3 then 24 else 25

/-! ### Settings -/

/-- A code of QM_Q_BIND that names someone (R131). -/
def boundCode (c : Nat) : Bool := c ≤ 35 || (0x54 ≤ c && c ≤ 0x5A)
/-- The producer code. -/
def qProducer (s : State) (q : Nat) : Nat := fld (rd s .QM_Q_BIND 0 q) 6 0
/-- The consumer code. -/
def qConsumer (s : State) (q : Nat) : Nat := fld (rd s .QM_Q_BIND 0 q) 14 8
/-- FLUSH mode. -/
def qFlushMode (s : State) (q : Nat) : Bool := bit (rd s .QM_Q_CTRL 0 q) 1
/-- The depth limit. -/
def qLimit (s : State) (q : Nat) : Nat := min 131072 (fld (rd s .QM_Q_LIMIT 0 q) 17 0)
/-- The use in descriptors, in either mode (Table 5.2). -/
def qUse (s : State) (q : Nat) : Nat := (queueOf s q).descs.length
/-- Free entries of the descriptor RAM. -/
def descFree (s : State) : Nat := 131072 - (s.qm.queues.map fun e => e.2.descs.length).sum
/-- A bit of QM_Q_STAT. -/
def qStatBit (s : State) (q n : Nat) : Bool := bit (rd s .QM_Q_STAT 0 q) n

/-- A queue after its use fell: over_quota clears at the limit or below, and STOPPING ends at use 0 (R59, R132). -/
def qSettle (q : Nat) (s : State) : State :=
  let s := if qStatBit s q 4 && decide (qUse s q ≤ qLimit s q) then clrB .QM_Q_STAT 0 q 0x10 s else s
  if fbState (fbOf s .QM_Q_STAT q) = 3 && qUse s q = 0 then fbPut .QM_Q_STAT q (fbStopped (fbOf s .QM_Q_STAT q)) s else s

/-! ### Notices (R124, R125) -/

/-- A list gains a queue at its end, once. -/
def listAdd (q : Nat) (l : List Nat) : List Nat := if q ∈ l then l else l ++ [q]

/-- The queue enters its consumer's list or its group (R125). -/
def noticeDeliver (q : Nat) (s : State) : State :=
  let c := qConsumer s q
  let ctrl := rd s .QM_Q_CTRL 0 q
  let g := fld ctrl 7 4
  if bit ctrl 2 || c ≤ 2 then
    if g ≤ 11 then raise (52 + g) { s with qm := { s.qm with groups := nmSet [] s.qm.groups g (listAdd q (nmGet [] s.qm.groups g)) } }
    else s
  else if c = 3 then { s with qm := { s.qm with polList := listAdd q s.qm.polList } }
  else if 8 ≤ c && c ≤ 31 then
    { s with qm := { s.qm with engList := nmSet [] s.qm.engList (c - 8) (listAdd q (nmGet [] s.qm.engList (c - 8))) } }
  else s

/-- The notice-pending bit sets; one already set merges (R125). -/
def noticeSet (q : Nat) (s : State) : State :=
  if qStatBit s q 7 then s else noticeDeliver q (setB .QM_Q_STAT 0 q 0x80 s)

/-- A notice: the pending count returns to 0 (R124). -/
def notice (q : Nat) (s : State) : State := noticeSet q (setQueue q { queueOf s q with pend := [] } s)

/-- The notice-pending bit clears and the queue leaves every list and group (R125). -/
def noticeClear (q : Nat) (s : State) : State :=
  clrB .QM_Q_STAT 0 q 0x80
    { s with qm := { s.qm with
        polList := s.qm.polList.filter (· ≠ q)
        engList := (List.range 24).foldl (fun m e => nmSet [] m e ((nmGet [] m e).filter (· ≠ q))) s.qm.engList
        groups := (List.range 12).foldl (fun m g => nmSet [] m g ((nmGet [] m g).filter (· ≠ q))) s.qm.groups } }

/-- The coalescing count. -/
def coalCount (s : State) (q : Nat) : Nat := fld (rd s .QM_Q_COAL 0 q) 5 0 + 1
/-- The coalescing time in ns. -/
def coalTime (s : State) (q : Nat) : Nat := min 10000 (max 1 (fld (rd s .QM_Q_COAL 0 q) 29 16)) * 100

/-- The coalescing time of the oldest pending packet has passed (R124). -/
def coalDue (s : State) (q : Nat) : Bool :=
  match (queueOf s q).pend with
  | [] => false
  | (_, t) :: _ => elapsed s t (coalTime s q)

/-- NOTICE_COALESCE_TIMEOUT (R124). -/
def execNoticeCoalesceTimeout (q : Fin 4096) (s : State) : Res := .next (if running s && coalDue s q then notice q s else s)

/-- The open packet of a queue completes: it becomes visible and the notice rules run (R119, R124). -/
def packetDone (q : Nat) (s : State) : State :=
  let k := queueOf s q
  let s := setQueue q { k with vis := k.base + k.descs.length, openBy := none, pend := k.pend ++ [(k.vis, s.time.now)] } s
  if k.read = k.vis || decide (coalCount s q ≤ k.pend.length + 1) then notice q s else s

/-! ### Enqueue (R116-R122, R457, R458) -/

abbrev qOk : Nat := 0
abbrev qEmpty : Nat := 1
abbrev qFlushed : Nat := 2
abbrev qWrongMode : Nat := 3
abbrev qNotBound : Nat := 4
abbrev qRefused : Nat := 5
abbrev qNoDesc : Nat := 6
abbrev qBadDesc : Nat := 7
abbrev qOpen : Nat := 8
abbrev qOff : Nat := 9

/-- A refused enqueue: counted, source 51; NO_DESC also in QM_NO_DESC (R122). -/
def qRefuse (q st : Nat) (s : State) : Nat × State :=
  let c := rd s .QM_Q_DROP 0 q
  let s := wr .QM_Q_DROP 0 q (putFld c 15 0 (min 0xFFFF (fld c 15 0 + 1))) s
  let s := if st = qNoDesc then count16 .QM_NO_DESC 0 0 s else s
  (st, raise 51 s)

/-- Freed or discarded descriptors are counted in QM_Q_DROP.flushed (R128). -/
def qCountFlushed (q n : Nat) (s : State) : State :=
  let c := rd s .QM_Q_DROP 0 q
  wr .QM_Q_DROP 0 q (putFld c 31 16 (min 0xFFFF (fld c 31 16 + n))) s

/-- The descriptor is one that no queue takes (R117). -/
def descBad (d : BitVec 128) : Bool := 383 < dBank d || 262144 < dOffset d + dLen d || dLen d = 0

/-- A queue's discard entries of one producer thread removed. -/
def undiscard (p th : Nat) (k : Queue) : Queue := { k with discard := k.discard.filter fun e => !(e.1 = p && e.2.1 = th) }

/-- A descriptor in discard is dropped with the status of its cause; last ends the discard (R457). -/
def qDrop (q p th : Nat) (cause : DiscardCause) (lst : Bool) (s : State) : Nat × State :=
  let s := if lst then setQueue q (undiscard p th (queueOf s q)) s else s
  match cause with
  | .noDesc => qRefuse q qNoDesc s
  | .flush => (qOk, qCountFlushed q 1 s)
  | .restart => (qOk, s)

/-- The descriptor joins the queue; with last the packet completes. -/
def qAppend (q p th : Nat) (d : BitVec 128) (s : State) : Nat × State :=
  let k := queueOf s q
  let s := setQueue q { k with descs := k.descs ++ [d], openBy := some (p, th) } s
  (qOk, if dLast d then packetDone q s else s)

/-- A later descriptor meets a full descriptor RAM: the packet ends bad, and its thread is in discard (R121, R457). -/
def qCloseBad (q p th : Nat) (lst : Bool) (s : State) : Nat × State :=
  let k := queueOf s q
  let k := { k with descs := k.descs.dropLast ++ (k.descs.getLast?.map dEndBad).toList,
                    discard := if lst then k.discard else k.discard ++ [(p, th, .noDesc)] }
  qRefuse q qNoDesc (packetDone q (setQueue q k s))

/-- Producer code `p`, thread `th`, enqueues `d` into queue `q` in the order of R458. -/
def qEnqueue (q p th : Nat) (d : BitVec 128) (s : State) : Nat × State :=
  let k := queueOf s q
  let own := k.openBy = some (p, th)
  let dis := k.discard.find? fun e => e.1 = p && e.2.1 = th
  if !boundCode (qProducer s q) || qProducer s q ≠ p then qRefuse q qNotBound s
  else if k.openBy.isSome && !own then qRefuse q qOpen (setQueue q (undiscard p th k) s)
  else if dis.isSome && !dFirst d then qDrop q p th ((dis.map (·.2.2)).getD .restart) (dLast d) s
  else
    let s := setQueue q (undiscard p th k) s
    if descBad d || (!dFirst d && !own) || (dFirst d && own) then qRefuse q qBadDesc s
    else if dFirst d then
      if !isOn s .QM_Q_STAT q then qRefuse q qOff s
      else if qLimit s q ≤ qUse s q then qRefuse q qRefused s
      else if descFree s = 0 then qRefuse q qNoDesc s
      else qAppend q p th d s
    else if descFree s = 0 then qCloseBad q p th (dLast d) s
    else qAppend q p th d s

/-- The queue that an access names: the master's channel select, or the thread's QSEL. -/
def viaQueue (v : Via) (s : State) : Nat :=
  match v with
  | .reg m => chanOf .QM_Q_E m s
  | .port t => (thOf s t).qsel.toNat

/-- The thread number of a producer or consumer within its identity. -/
def viaThread (v : Via) : Nat :=
  match v with
  | .reg _ => 0
  | .port t => if t.val = 96 then 0 else t % 4

/-- The status of the last enqueue, MARK, REWIND, RELEASE or flush (R126). -/
def putOpStat (v : Via) (st : Nat) (s : State) : State :=
  match v with
  | .reg m => wr .QM_Q_OPSTAT 0 m (BitVec.ofNat 32 st) s
  | .port t => setTh t { thOf s t with qStat := BitVec.ofNat 4 st } s

/-- An engine or processor enqueues: src_port is its attachment port (R116). -/
def viaEnqueue (v : Via) (ws : List W32) (s : State) : State :=
  let p := viaMaster v
  let (st, s) := qEnqueue (viaQueue v s) p (viaThread v) (dSrc (mkDesc ws) (attachPort p)) s
  putOpStat v st s

/-- The write of enqueue word 3 (QM_Q_E3 or port 0x10B) with the words held before it. -/
def enqueueWord3 (via : Via) (v : W32) (s : State) : State :=
  match via with
  | .reg m =>
    let s := wr .QM_Q_E 3 m v s
    viaEnqueue via [rd s .QM_Q_E 0 m, rd s .QM_Q_E 1 m, rd s .QM_Q_E 2 m, v] s
  | .port t =>
    let h := thOf s t
    let s := setTh t { h with qE := h.qE.take 3 ++ [v] } s
    viaEnqueue via ((h.qE.take 3) ++ [v]) s

/-- ENQUEUE (R458). -/
def execEnqueue (via : Via) (v : W32) (s : State) : Res :=
  .next (match via with
    | .reg m => withWrite m .QM_Q_E 3 v (enqueueWord3 via v) s
    | .port _ => enqueueWord3 via v s)

/-! ### Consumer operations (R119, R126-R130) -/

/-- Packets freed are counted for a fabric consumer (R134). -/
def qDone (q n : Nat) (s : State) : State :=
  if 0x54 ≤ qConsumer s q && qConsumer s q ≤ 0x5A then
    wr .QM_Q_DONE 0 q (BitVec.ofNat 32 (((rd s .QM_Q_DONE 0 q).toNat + n) % 65536)) s
  else s

/-- Receive-area space of freed descriptors returns to a fabric producer (R133). -/
def qFreeRx (ds : List (BitVec 128)) (k : Queue) : Queue := { k with rxUsed := k.rxUsed - (ds.map dLen).sum }

/-- The oldest descriptors up to position `p` are freed. -/
def qFreeTo (q p : Nat) (s : State) : State :=
  let k := queueOf s q
  let n := p - k.base
  let k' := qFreeRx (k.descs.take n) { k with descs := k.descs.drop n, base := k.base + n }
  qSettle q (setQueue q { k' with mark := k'.mark.map (max k'.base ·) } s)

/-- Consumer code `c` dequeues from `q`: status and descriptor (R119, R129, Table 5.2). -/
def qDequeue (q c : Nat) (s : State) : Nat × BitVec 128 × State :=
  let k := queueOf s q
  if !boundCode (qConsumer s q) || qConsumer s q ≠ c then (qNotBound, 0, s)
  else if qStatBit s q 5 then (qFlushed, 0, clrB .QM_Q_STAT 0 q 0x20 s)
  else if k.vis ≤ k.read then (qEmpty, 0, s)
  else
    let d := k.descs.getD (k.read - k.base) 0
    let s := setQueue q { k with read := k.read + 1, pend := k.pend.filter fun e => k.read < e.1 } s
    let s := if qFlushMode s q then qFreeTo q (k.read + 1) (if dLast d then qDone q 1 s else s) else s
    (qOk, d, if coalDue s q then notice q s else s)

/-- A dequeue with its latches: QM_Q_D or the thread's words hold the descriptor; the status is what is read. -/
def viaDequeue (via : Via) (s : State) : Nat × State :=
  let (st, d, s) := qDequeue (viaQueue via s) (viaMaster via) s
  if st ≠ qOk then (st, s)
  else
    (st, match via with
      | .reg m => [0, 1, 2, 3].foldl (fun s w => wr .QM_Q_D w m (dWord d w) s) s
      | .port t => setTh t { thOf s t with qD := [dWord d 0, dWord d 1, dWord d 2, dWord d 3] } s)

/-- The read of QM_Q_DEQ or port 0x101. -/
def dequeueRead (via : Via) (s : State) : State :=
  let (st, s) := viaDequeue via s
  reply (viaMaster via) (BitVec.ofNat 32 st) s

/-- DEQUEUE (R119). -/
def execDequeue (via : Via) (s : State) : Res :=
  .next (match via with
    | .reg m => withRead m .QM_Q_DEQ 0 (dequeueRead via) s
    | .port _ => dequeueRead via s)

/-- WRONG_MODE has no other effect and fires source 50 (R126). -/
def qWrong (s : State) : Nat × State := (qWrongMode, raise 50 s)

/-- An operation of the consumer in RELEASE mode (R126). -/
def qConsumerOp (q c : Nat) (k : State → State) (s : State) : Nat × State :=
  if !boundCode (qConsumer s q) || qConsumer s q ≠ c then (qNotBound, s)
  else if qFlushMode s q then qWrong s
  else (qOk, k s)

/-- MARK records the read position. -/
def qMark (q c : Nat) (s : State) : Nat × State :=
  qConsumerOp q c (fun s => setQueue q { queueOf s q with mark := some (queueOf s q).read } s) s

/-- REWIND moves the read position back to the mark, or to the oldest unreleased descriptor (R127). -/
def qRewind (q c : Nat) (s : State) : Nat × State :=
  qConsumerOp q c (fun s => let k := queueOf s q; setQueue q { k with read := k.mark.getD k.base } s) s

/-- RELEASE frees every descriptor before the read position (R127). -/
def qRelease (q c : Nat) (s : State) : Nat × State :=
  qConsumerOp q c (fun s => qFreeTo q (queueOf s q).read s) s

/-- The flush bit: by the consumer, the policy core or the host, in FLUSH mode (R126, R128). -/
def qFlush (q m : Nat) (s : State) : Nat × State :=
  if !((boundCode (qConsumer s q) && qConsumer s q = m) || m ≤ 3) then (qNotBound, s)
  else if !qFlushMode s q then qWrong s
  else
    let k := queueOf s q
    let n := k.descs.length
    let packets := (k.descs.filter dLast).length + ofBool k.openBy.isSome
    let k' := qFreeRx k.descs
      { k with descs := [], base := k.base + n, read := k.base + n, vis := k.base + n, openBy := none, mark := none, pend := [],
               discard := k.discard ++ (k.openBy.map fun o => (o.1, o.2, DiscardCause.flush)).toList }
    let s := noticeClear q (qDone q packets (qCountFlushed q n (setQueue q k' s)))
    (qOk, raise 49 (qSettle q (setB .QM_Q_STAT 0 q 0x20 s)))

/-- A queue operation through QM_Q_OP or ports 0x110-0x113, its status latched (R126). -/
def viaOp (via : Via) (op : Nat → Nat → State → Nat × State) (s : State) : State :=
  let (st, s) := op (viaQueue via s) (viaMaster via) s
  putOpStat via st s

/-- An operation through a register needs a served write of QM_Q_OP. -/
def viaOpWrite (via : Via) (n : Nat) (op : Nat → Nat → State → Nat × State) (s : State) : State :=
  match via with
  | .reg m => withWrite m .QM_Q_OP 0 (oneBit n) (viaOp via op) s
  | .port _ => viaOp via op s

/-- MARK (R127). -/
def execQmark (via : Via) (s : State) : Res := .next (viaOpWrite via 1 qMark s)

/-- REWIND (R127). -/
def execRewind (via : Via) (s : State) : Res := .next (viaOpWrite via 2 qRewind s)

/-- RELEASE (R127). -/
def execRelease (via : Via) (s : State) : Res := .next (viaOpWrite via 3 qRelease s)

/-- FLUSH (R128). -/
def execFlush (via : Via) (s : State) : Res := .next (viaOpWrite via 0 qFlush s)

/-- A write of QM_Q_OP: the operations named, in the order of R130. -/
def qOpWrite (m : Nat) (v : W32) (s : State) : State :=
  let via : Via := .reg (Fin.ofNat 64 m)
  let s := if bit v 0 then viaOp via qFlush s else s
  let s := if bit v 1 then viaOp via qMark s else s
  let s := if bit v 2 then viaOp via qRewind s else s
  if bit v 3 then viaOp via qRelease s else s

/-! ### Notice lists (R125) -/

/-- The value of a popped list: valid and the queue, or 0. -/
def popValue (l : List Nat) : W32 :=
  match l with
  | [] => 0
  | q :: _ => BitVec.ofNat 32 (2 ^ 31 + q)

/-- The popped queue's notice-pending bit clears. -/
def popClear (l : List Nat) (s : State) : State :=
  match l with
  | [] => s
  | q :: _ => clrB .QM_Q_STAT 0 q 0x80 s

/-- A pop of the policy core's notice list. -/
def popPol (s : State) : W32 × State :=
  let l := s.qm.polList
  (popValue l, popClear l { s with qm := { s.qm with polList := l.drop 1 } })

/-- A pop of an engine's notice list. -/
def popEng (e : Nat) (s : State) : W32 × State :=
  let l := nmGet [] s.qm.engList e
  (popValue l, popClear l { s with qm := { s.qm with engList := nmSet [] s.qm.engList e (l.drop 1) } })

/-- A pop of a notice group. -/
def popGroup (g : Nat) (s : State) : W32 × State :=
  let l := nmGet [] s.qm.groups g
  (popValue l, popClear l { s with qm := { s.qm with groups := nmSet [] s.qm.groups g (l.drop 1) } })

/-- NOTICE_LIST_POP (R125): QM_NOTICE_NEXT pops the policy core's list, port 0x118 the engine's. -/
def execNoticeListPop (via : Via) (s : State) : Res :=
  .next (match via with
    | .reg m => withRead m .QM_NOTICE_NEXT 0 (fun s => let (v, s) := popPol s; reply m v s) s
    | .port t => let (v, s) := if t.val = 96 then popPol s else popEng (t / 4) s; reply (thMaster t) v s)

/-- NOTICE_GROUP_POP (R125). -/
def execNoticeGroupPop (m : Fin 64) (g : Fin 12) (s : State) : Res :=
  .next (withRead m .QM_NGRP_NEXT g (fun s => let (v, s) := popGroup g s; reply m v s) s)

/-! ### Binding and enable (R131, R132, R455) -/

/-- An enable of the queue has no effect: an unbound side, or a fabric consumer in RELEASE mode (R132). -/
def qEnableBad (s : State) (q : Nat) : Bool :=
  !boundCode (qProducer s q) || !boundCode (qConsumer s q) || (0x54 ≤ qConsumer s q && !qFlushMode s q)

/-- A write of QM_Q_CTRL: mode, nroute and ngrp only while OFF, else bind_err, a change of mode ending the mark (R127); then the enable (R131, R132, R455). -/
def qCtrlWrite (q : Nat) (v : W32) (s : State) : State :=
  let old := rd s .QM_Q_CTRL 0 q
  let s :=
    if isOff s .QM_Q_STAT q then
      let s := wr .QM_Q_CTRL 0 q (v &&& 0xF7) s
      if bit old 1 = bit v 1 then s else setQueue q { queueOf s q with mark := none } s
    else
      let s := wr .QM_Q_CTRL 0 q (putFld old 0 0 (ofBool (bit v 0))) s
      if (old ^^^ v) &&& 0xF6 = 0 then s else setB .QM_Q_STAT 0 q 0x100 s
  if bit v 0 && qEnableBad s q then
    setB .QM_Q_STAT 0 q 0x100 (wr .QM_Q_CTRL 0 q (putFld (rd s .QM_Q_CTRL 0 q) 0 0 (fld old 0 0)) s)
  else qSettle q (fbWrite .QM_Q_STAT q (bit v 0) s)

/-- QUEUE_ENABLE (R132). -/
def execQueueEnable (m : Fin 64) (v : W32) (s : State) : Res :=
  .next (if bit v 0 then withWrite m .QM_Q_CTRL 0 v (fun s => qCtrlWrite (chanOf .QM_Q_CTRL m s) v s) s else s)

/-- QUEUE_DISABLE (R132). -/
def execQueueDisable (m : Fin 64) (v : W32) (s : State) : Res :=
  .next (if bit v 0 then s else withWrite m .QM_Q_CTRL 0 v (fun s => qCtrlWrite (chanOf .QM_Q_CTRL m s) v s) s)

/-- QUEUE_STARTED (R132). -/
def execQueueStarted (q : Fin 4096) (s : State) : Res :=
  .next (if running s && fbState (fbOf s .QM_Q_STAT q) = 1 then
    qSettle q (fbPut .QM_Q_STAT q (fbStarted (fbOf s .QM_Q_STAT q)) s)
  else s)

/-- A write of QM_Q_BIND: only while OFF; a change in another state sets bind_err (R131, R455). -/
def qBindWrite (q : Nat) (v : W32) (s : State) : State :=
  if isOff s .QM_Q_STAT q then plainWrite .QM_Q_BIND 0 q v s
  else if (rd s .QM_Q_BIND 0 q ^^^ v) &&& 0x7F7F = 0 then s
  else setB .QM_Q_STAT 0 q 0x100 s

/-- QM_Q_BIND_WRITE (R131). -/
def execQmQBindWrite (m : Fin 64) (v : W32) (s : State) : Res :=
  .next (withWrite m .QM_Q_BIND 0 v (fun s => qBindWrite (chanOf .QM_Q_BIND m s) v s) s)

/-- A write of QM_Q_LIMIT: below the use it sets over_quota and fires source 48 (R59, R122). -/
def qLimitWrite (q : Nat) (v : W32) (s : State) : State :=
  let s := plainWrite .QM_Q_LIMIT 0 q v s
  if qLimit s q < qUse s q then raise 48 (setB .QM_Q_STAT 0 q 0x10 s) else qSettle q s

/-- QM_Q_LIMIT_WRITE (R59). -/
def execQmQLimitWrite (m : Fin 64) (v : W32) (s : State) : Res :=
  .next (withWrite m .QM_Q_LIMIT 0 v (fun s => qLimitWrite (chanOf .QM_Q_LIMIT m s) v s) s)

/-! ### Software-level restart (R135) -/

/-- A producer or consumer code of levels 3 and 4. -/
def restarted (c : Nat) : Bool := c = 3 || (8 ≤ c && c ≤ 31)

/-- A queue at a software-level restart. -/
def qRestart (q : Nat) (s : State) : State :=
  let k := queueOf s q
  let k :=
    match k.openBy with
    | some o =>
      if restarted o.1 then
        { k with descs := k.descs.take (k.vis - k.base), openBy := none, discard := k.discard ++ [(o.1, o.2, DiscardCause.restart)] }
      else k
    | none => k
  let s := setQueue q k s
  let s :=
    if !restarted (qConsumer s q) then s
    else if !qFlushMode s q then setQueue q { k with mark := none, read := k.base } s
    else
      let rest := (k.descs.takeWhile fun d => !dFirst d).length
      qFreeTo q (k.base + rest) (setQueue q { k with read := k.base + rest } s)
  let s := qSettle q s
  if (queueOf s q).read < (queueOf s q).vis then noticeSet q s else s

/-- Every queue at a software-level restart, ascending (R135). -/
def qmRestart (s : State) : State := (s.qm.queues.map (·.1)).foldl (fun s q => qRestart q s) s

end Sys2Proof.Machine
end

