-- ==== Sys2Proof/Machine/Fab.lean ====
section
/-! DEFINITION. The switch fabric: classifier, stream filters, meters, forwarding, learning, RED and admission, buffer,
active-set writes (06). -/

namespace Sys2Proof.Machine

/-- The fabric set. -/
def setFab (f : FabSt) (s : State) : State := { s with fab := f }

/-! ### Counters and events -/

/-- Sources that fire on drops (Table 6.15). -/
def dropSource (src : Nat) : Bool := src ≤ 72 || src = 74 || src = 78 || (82 ≤ src && src ≤ 84)

/-- A FAB source fires; one that fires on drops at most once per FAB_EVT_HOLD microseconds. -/
def fabEvent (src : Nat) (s : State) : State :=
  let hold := fld (rd s .FAB_EVT_HOLD 0 0) 15 0 * 1000
  let held := match nmFind s.fab.lastFire src with
    | some t => !elapsed s t hold
    | none => false
  if dropSource src && held then s
  else raise src (setFab { s.fab with lastFire := nmPut s.fab.lastFire src s.time.now } s)

/-- Word `k` of FAB_IN_DROP of port `p` counts a drop of a frame of class `c` (R138). -/
def inDrop (p k c : Nat) (s : State) : State := fabEvent (64 + c) (count32 .FAB_IN_DROP (4 * p + k) 0 s)

/-! ### Buffer (R109, R158-R162) -/

/-- A bank takes new cells: owned by the fabric, ON, without alloc_hold. -/
def bankTakes (s : State) (b : Nat) : Bool :=
  let k := bankOf s b
  k.owner = 1 && k.pend.isNone && k.pwr = 0 && !k.failed && !k.underTest && !bit (rd s .MEM_BANK_CFG 0 b) 1

/-- The banks of the buffer. -/
def bufBanks (s : State) : List Nat := (List.range 384).filter (bankTakes s)

/-- B, in cells. -/
def bufCells (s : State) : Nat := 4096 * (bufBanks s).length

/-- Free cells. -/
def bufFree (s : State) : Nat := ((bufBanks s).map fun b => 4096 - (rd s .MEM_CELLS 0 b).toNat).sum

/-- `n` cells from the lowest banks that have them: what was placed where. -/
def placeCells (s : State) : List Nat → Nat → List (Nat × Nat)
  | [], _ => []
  | b :: r, n =>
    if n = 0 then []
    else
      let k := min n (4096 - (rd s .MEM_CELLS 0 b).toNat)
      if k = 0 then placeCells s r n else (b, k) :: placeCells s r (n - k)

/-- MEM_CELLS counts placed cells; writing them is an access of their banks (04 R107). -/
def addCells (l : List (Nat × Nat)) (s : State) : State :=
  l.foldl (fun s (b, k) => bankTouch b (wr .MEM_CELLS 0 b (BitVec.ofNat 32 ((rd s .MEM_CELLS 0 b).toNat + k)) s)) s

/-- MEM_CELLS forgets freed cells; reading them was an access of their banks. -/
def subCells (l : List (Nat × Nat)) (s : State) : State :=
  l.foldl (fun s (b, k) => bankTouch b (wr .MEM_CELLS 0 b (BitVec.ofNat 32 ((rd s .MEM_CELLS 0 b).toNat - k)) s)) s

/-- The fabric port of a destination. -/
def destPort (s : State) (d : Dest) : Nat :=
  match d with
  | .eth p => p
  | .star => 18
  | .can c => if c < 16 then 16 else 17
  | .queue q => qProducer s q - 0x54 + 20

/-- Cells of a flight. -/
def flightCells (f : Flight) : Nat := (f.cells.map (·.2)).sum

/-- The egress queues that wait for a flight. -/
def flightQueues (s : State) (f : Flight) : List Nat := (f.dests.map fun d => destPort s d * 8 + f.tc).dedup

/-- Use of an egress queue in cells (R160). -/
def eqUse (s : State) (eq : Nat) : Nat :=
  ((s.fab.flights.filter fun f => eq ∈ flightQueues s f).map flightCells).sum

/-- The buffer entry of an egress queue is valid. -/
def eqValid (s : State) (eq : Nat) : Bool := bit (tblW s 5 eq 2) 31
/-- Its reserve. -/
def eqReserve (s : State) (eq : Nat) : Nat := if eqValid s eq then fld (tblW s 5 eq 0) 20 0 else 0
/-- Its cap: none without a valid entry or at 0x1F_FFFF. -/
def eqCap (s : State) (eq : Nat) : Option Nat :=
  if eqValid s eq && fld (tblW s 5 eq 1) 20 0 ≠ 0x1FFFFF then some (fld (tblW s 5 eq 1) 20 0) else none
/-- Its alpha exponent k. -/
def eqAlpha (s : State) (eq : Nat) : Nat := if eqValid s eq then fld (tblW s 5 eq 2) 3 0 else 6
/-- Its RED profile. -/
def eqRed (s : State) (eq : Nat) : Option Nat :=
  let r := fld (tblW s 5 eq 2) 8 4
  if eqValid s eq && r < 16 && bit (tblW s 4 r 6) 31 then some r else none

/-- The sum of the reserves of table 0x05. -/
def reserveSum (s : State) : Nat := ((List.range 216).map (eqReserve s)).sum
/-- The margin in cells. -/
def bufMargin (s : State) : Nat := fld (rd s .FAB_BUF_MARGIN 0 0) 15 0
/-- The shared pool S. -/
def bufShared (s : State) : Nat := bufCells s - reserveSum s - bufMargin s
/-- The free part of S. -/
def sharedFree (s : State) : Nat := bufShared s - ((List.range 216).map fun q => eqUse s q - eqReserve s q).sum

/-- An egress queue's run-time state. -/
def egressOf (s : State) (eq : Nat) : EgressQ := nmGet ⟨0, [], false⟩ s.fab.egress eq

/-- An egress queue set. -/
def setEgress (eq : Nat) (q : EgressQ) (s : State) : State :=
  setFab { s.fab with egress := nmSet ⟨0, [], false⟩ s.fab.egress eq q } s

/-- over_quota of one egress queue clears when its use is at the cap or below (R59). -/
def eqSettle (eq : Nat) (s : State) : State :=
  let q := egressOf s eq
  match eqCap s eq with
  | some c => if q.overQuota && decide (eqUse s eq ≤ c) then setEgress eq { q with overQuota := false } s else s
  | none => if q.overQuota then setEgress eq { q with overQuota := false } s else s

/-- The transmit queues of an Ethernet port are empty, and it sends nothing. -/
def portEmpty (s : State) (p : Nat) : Bool :=
  (portOf s p).leaving.isNone && (portOf s p).remainder.isNone && (portOf s p).control.isEmpty &&
    (List.range 8).all fun c => (egressOf s (p * 8 + c)).waiting.isEmpty

/-- A frame has gone from an Ethernet port: when it was the last, the idle time begins (07 R195). -/
def noteEmpty (p : Nat) (s : State) : State :=
  if portEmpty s p then setPort p { portOf s p with emptySince := s.time.now } s else s

/-- A cap has been written: below the use it sets over_quota and fires source 76 (R59, R161). -/
def capWritten (eq : Nat) (s : State) : State :=
  match eqCap s eq with
  | some c =>
    if decide (c < eqUse s eq) && !(egressOf s eq).overQuota then fabEvent 76 (setEgress eq { egressOf s eq with overQuota := true } s)
    else eqSettle eq s
  | none => eqSettle eq s

/-- reserve_short follows the buffer, the reserves and the margin (R161); source 76 when it sets. -/
def reserveScan (s : State) : State :=
  let short := decide (bufCells s < reserveSum s + bufMargin s)
  if short = bit (rd s .FAB_BUF_STAT 0 0) 0 then s
  else if short then fabEvent 76 (wr .FAB_BUF_STAT 0 0 1 s) else wr .FAB_BUF_STAT 0 0 0 s

/-- Cells of an ingress port's class in the buffer. -/
def ingressCells (s : State) (p c : Nat) : Nat :=
  ((s.fab.flights.filter fun f => f.inPort = p && f.tc = c).map flightCells).sum

/-- The priorities that FAB_PCP_MAP of a port maps to a class. -/
def pcpOf (s : State) (p c : Nat) : List Nat :=
  (List.range 8).filter fun n => fld (rd s .FAB_PCP_MAP p 0) (3 * n + 2) (3 * n) = c

/-- A PFC frame joins the control frames of a port: one with a time shares the frame of a request of the same tick (07 R194). -/
def pfcJoin (c : Nat) (time : BitVec 16) (tick : Nat) : List Control → List Control
  | [] => [.pfc (BitVec.ofNat 8 (2 ^ c)) time tick]
  | .pfc cs t k :: r =>
    if t = time && k = tick && time ≠ 0 then .pfc (cs ||| BitVec.ofNat 8 (2 ^ c)) t k :: r else .pfc cs t k :: pfcJoin c time tick r
  | x :: r => x :: pfcJoin c time tick r

/-- Port `p` is to send a PFC frame for a class at its next frame boundary (07 R188, R194); while the request holds, the next one
is due after half its time. -/
def pfcSend (p c time : Nat) (s : State) : State :=
  if 12 ≤ p || !bit (rd s .ETH_PFC_CFG 0 p) 17 || !portUp s p then s
  else
    let k := portOf s p
    let half := fld (rd s .ETH_PFC_CFG 0 p) 15 0 * 512 * bitTenths s p / 20
    setPort p { k with control := pfcJoin c (BitVec.ofNat 16 time) s.ticks k.control,
                       pfcNext := if time = 0 then nmErase k.pfcNext c else nmPut k.pfcNext c (s.time.now + BitVec.ofNat 64 half) } s

/-- The pause request of an ingress class follows xoff and xon (R162); source 85 when one begins. A class without a valid entry
has no request. -/
def pauseScan (p c : Nat) (s : State) : State :=
  let e := 256 + p * 8 + c
  let req := nmGet 0 s.fab.pauseReq p
  let n := ingressCells s p c
  let valid := bit (tblW s 5 e 2) 31
  if 16 ≤ p then s
  else if valid && !req.getLsbD c && decide (fld (tblW s 5 e 0) 20 0 ≤ n) then
    pfcSend p c (fld (rd s .ETH_PFC_CFG 0 p) 15 0)
      (fabEvent 85 (setFab { s.fab with pauseReq := nmSet 0 s.fab.pauseReq p (req ||| BitVec.ofNat 8 (2 ^ c)) } s))
  else if req.getLsbD c && (!valid || decide (n ≤ fld (tblW s 5 e 1) 20 0)) then
    pfcSend p c 0 (setFab { s.fab with pauseReq := nmSet 0 s.fab.pauseReq p (req &&& ~~~BitVec.ofNat 8 (2 ^ c)) } s)
  else s

/-- The entries of table 0x05 have changed: caps, reserves, pauses (R59, R161, R162). -/
def bufferWritten (s : State) : State :=
  let s := reserveScan ((List.range 216).foldl (fun s eq => capWritten eq s) s)
  (List.range 128).foldl (fun s k => pauseScan (k / 8) (k % 8) s) s

/-! ### Flights -/

/-- The flights named `id` changed. -/
def mapFlights (id : Nat) (f : Flight → Flight) (s : State) : State :=
  setFab { s.fab with flights := s.fab.flights.map fun g => if g.id = id then f g else g } s

/-- The arrivals named `id` changed. -/
def mapArrival (id : Nat) (f : Arrival → Arrival) (s : State) : State :=
  setFab { s.fab with arrivals := s.fab.arrivals.map fun a => if a.id = id then f a else a } s

/-- A frame's first cell has come: it is known until its last. -/
def arrive (p : Nat) (kind : FKind) (l : List Byte) (s : State) : State :=
  setFab { s.fab with nextId := s.fab.nextId + 1,
                      arrivals := s.fab.arrivals ++ [⟨s.fab.nextId, p, kind, l.take 64, none, false, 0, 3, none, none⟩] } s

/-- The arrival `id` failed a check of its port at its first cell, which counter `r` counts (07 R180). -/
def arrivalDropped (id : Nat) (r : Reg) (s : State) : State := mapArrival id (fun a => { a with dropped := some r }) s

/-! ### The switch core: cells enter (R163, R164) -/

/-- The stream of a cell: input and output, and for a ready-first multicast its class, as its frames keep no order against
unicast ones and wait for their class to be ready (R164, R166). -/
def streamOf (input output : Nat) (multi : Bool) (tc : Nat) : Nat := (input * 32 + output) * 16 + (if multi then 8 + tc else 0)

/-- Cell `idx` of a frame waits at its input for destination `d`, numbered (R164). -/
def coreEnter (f : Flight) (idx : Nat) (d : Dest) (s : State) : State :=
  let k := s.fab.core
  let out := destPort s d
  let st := streamOf f.inPort out f.multi f.tc
  let n := nmGet 0 k.given st
  setFab { s.fab with core := { k with inputs := k.inputs ++ [⟨f.id, d, idx, f.inPort, out, st, n, f.multi⟩], given := nmSet 0 k.given st (n + 1) } } s

/-- The core has a cell of a frame for a destination, or has lost one and not yet noticed. -/
def coreHas (s : State) (id : Nat) (d : Dest) : Bool :=
  let k := s.fab.core
  (k.inputs ++ k.middle.map (·.2) ++ k.held.map (·.2) ++ k.lost).any fun c => c.flight = id && c.dest = d

/-- A flight leaves the buffer. -/
def dropFlight (f : Flight) (s : State) : State :=
  let s := subCells f.cells (setFab { s.fab with flights := s.fab.flights.filter (· ≠ f) } s)
  pauseScan f.inPort f.tc ((flightQueues s f).foldl (fun s eq => eqSettle eq s) s)

/-- A destination of the flights named `id` is served; a flight with none left leaves the buffer (R160, R165). -/
def serveDest (id : Nat) (d : Dest) (s : State) : State :=
  (s.fab.flights.filter fun f => f.id = id && d ∈ f.dests).foldl (fun s f =>
    let g := { f with dests := f.dests.filter (· ≠ d) }
    if g.dests.isEmpty then dropFlight f s
    else
      let s := setFab { s.fab with flights := s.fab.flights.map fun h => if h = f then g else h } s
      eqSettle (destPort s d * 8 + f.tc) s) s

/-! ### Classifier (R140, R141, Tables 6.2, 6.3) -/

/-- The classifier key as a number; fields past the end of the first cell read 0 (R140). -/
def clsKey (port : Nat) (kind : FKind) (l : List Byte) (pvid : Nat) : Nat :=
  let c := l.take 64 ++ List.replicate 64 0
  match kind with
  | .eth =>
    port + ofBool (ethTagged c) * 2 ^ 7 + ethVid c pvid * 2 ^ 8 + ethPcp c * 2 ^ 20 + ethType c * 2 ^ 23 +
      ethDst c * 2 ^ 39 + ethDscp c * 2 ^ 87 + ethProto c * 2 ^ 93 + ethDport c * 2 ^ 101
  | .can => port + 2 ^ 5 + canId c * 2 ^ 39 + canChan c * 2 ^ 68 + canFmt c * 2 ^ 73
  | .star => port + 2 * 2 ^ 5 + starSlot c * 2 ^ 39 + starCycle c * 2 ^ 49

/-- Words 0-3 or 4-7 of an entry as a number. -/
def entry128 (e : List W32) (at_ : Nat) : Nat :=
  (wordAt e at_).toNat + (wordAt e (at_ + 1)).toNat * 2 ^ 32 + (wordAt e (at_ + 2)).toNat * 2 ^ 64 + (wordAt e (at_ + 3)).toNat * 2 ^ 96

/-- A classifier entry matches a key under its mask. -/
def clsMatch (e : List W32) (key : Nat) : Bool :=
  bit (wordAt e 9) 31 && Nat.land (Nat.xor key (entry128 e 0)) (entry128 e 4) = 0

/-- The matching entry of lowest index (R140). -/
def classify (s : State) (key : Nat) : Option (List W32) :=
  (s.cfg.active.find? fun e => tblKey 1 0 ≤ e.1 && e.1 < tblKey 2 0 && clsMatch e.2 key).map (·.2)

/-- The class of a frame that no entry sets (R141). -/
def defaultTc (s : State) (p : Nat) (kind : FKind) (l : List Byte) (queueTc : Option Nat) : Nat :=
  match queueTc with
  | some t => t
  | none =>
    match kind with
    | .eth => fld (rd s .FAB_PCP_MAP (p % 16) 0) (3 * ethPcp l + 2) (3 * ethPcp l)
    | _ => fld (rd s .FAB_PORT_CFG p 0) 10 8

/-! ### Stream filters (R150-R152) -/

/-- Stream gate `g` is open at a time; a gate that is not valid is open. -/
def sgOpen (s : State) (g : Nat) (t : Nat) : Bool :=
  let h := tbl s 2 (1024 + g)
  if !bit (wordAt h 2) 31 then true
  else
    let es := (List.range (fld (wordAt h 2) 5 0 + 1)).map fun k => (fld (tblW s 2 (2048 + 64 * g + k) 0) 29 0, tblW s 2 (2048 + 64 * g + k) 0)
    match (listFrom es (cycleAt t (fld (wordAt h 0) 29 0) (fld (wordAt h 1) 29 0))).1 with
    | [] => false
    | (_, w) :: _ => bit w 30

/-- Filter `f` is blocked. -/
def sfBlocked (s : State) (f : Nat) : Bool := bit (rd s .FAB_SF_BLOCKED (f / 32) 0) (f % 32)

/-- An oversize frame of filter `f` with word `w`: counted, source 74, and with block_oversize the filter blocks with source 75
(R152), unless its entry has been rewritten meanwhile. -/
def sfOversize (p f c : Nat) (w : W32) (s : State) : State :=
  let s := fabEvent 74 (inDrop p 0 c s)
  if bit w 14 && decide (tblW s 2 f 0 = w) then fabEvent 75 (setB .FAB_SF_BLOCKED (f / 32) 0 (oneBit (f % 32)) s) else s

/-- A length exceeds the limit of a filter. -/
def sfExceeds (w : W32) (n : Nat) : Bool := fld w 13 0 ≠ 0 && fld w 13 0 < n

/-! ### Meters (R153-R155): buckets in units of 1/8000000 byte -/

/-- One byte in bucket units: kbit/s times ns. -/
def byteUnits : Int := 8000000

/-- The profile entry of meter instance `k`. -/
def meterProfile (s : State) (k : Nat) : List W32 := tbl s 3 (512 + fld (tblW s 3 k 0) 7 0)

/-- The buckets of instance `k` filled up to now; they start full (R153), and content above a burst is kept (R155). -/
def meterNow (s : State) (k : Nat) : Meter :=
  let e := meterProfile s k
  let cap : Int := fld (wordAt e 1) 19 0 * byteUnits
  let ecap : Int := fld (wordAt e 3) 19 0 * byteUnits
  match nmFind s.fab.meters k with
  | none => ⟨cap, ecap, s.time.now⟩
  | some m =>
    let dt : Int := max 0 (s.time.now - m.last).toInt
    let c := m.tcb + fld (wordAt e 0) 23 0 * dt
    let tcb := max m.tcb (min cap c)
    let spill := if bit (wordAt e 3) 30 then c - tcb else 0
    let x := m.teb + fld (wordAt e 2) 23 0 * dt + spill
    ⟨tcb, max m.teb (min ecap x), s.time.now⟩

/-- Instance `k` set, with meter_oq in its active entry and source 86 when that bit sets (R155). -/
def setMeter (k : Nat) (m : Meter) (s : State) : State :=
  let e := meterProfile s k
  let oq := decide ((fld (wordAt e 1) 19 0 : Int) * byteUnits < m.tcb) || decide ((fld (wordAt e 3) 19 0 : Int) * byteUnits < m.teb)
  let was := bit (tblW s 3 k 0) 16
  let s := setFab { s.fab with meters := nmPut s.fab.meters k m } s
  if oq = was then s
  else
    let w := putFld (tblW s 3 k 0) 16 16 (ofBool oq)
    let s := setActive 3 k (w :: (tbl s 3 k).drop 1) s
    if oq then fabEvent 86 s else s

/-- The colour of a frame at its first cell: 0 green, 1 yellow, 2 red. -/
def meterColour (s : State) (k : Nat) (yellowIn : Bool) : Nat :=
  let m := meterNow s k
  if 0 < m.tcb && !(yellowIn && bit (tblW s 3 k 0) 8) then 0 else if 0 < m.teb then 1 else 2

/-- The charge of a frame's length at its last cell. -/
def meterCharge (k colour len : Nat) (s : State) : State :=
  let m := meterNow s k
  let n : Int := len * byteUnits
  setMeter k (if colour = 0 then { m with tcb := m.tcb - n } else if colour = 1 then { m with teb := m.teb - n } else m) s

/-! ### Forwarding (R142-R149) -/

/-- The bucket of a MAC/VLAN key. -/
def macBucket (vid mac : Nat) : Nat :=
  crc16 ([BitVec.ofNat 8 (vid / 256), BitVec.ofNat 8 vid] ++ beBytes 6 mac) % 16384

/-- An entry of table 0x06 holds a key. -/
def macIs (e : List W32) (vid mac : Nat) : Bool :=
  bit (wordAt e 3) 31 && (wordAt e 0).toNat + fld (wordAt e 1) 15 0 * 2 ^ 32 = mac && fld (wordAt e 1) 27 16 = vid

/-- The index of a key in table 0x06. -/
def macFind (s : State) (vid mac : Nat) : Option Nat :=
  let b := macBucket vid mac
  [b * 4, b * 4 + 1, b * 4 + 2, b * 4 + 3].find? fun i => macIs (tbl s 6 i) vid mac

/-- The VLAN entry of a VID. -/
def vlanEntry (s : State) (vid : Nat) : List W32 := tbl s 7 (6144 + vid)

/-- A port is a member of a valid VLAN entry (R148). -/
def vlanMember (s : State) (vid p : Nat) : Bool := bit (wordAt (vlanEntry s vid) 1) 31 && bit (wordAt (vlanEntry s vid) 0) p

/-- The MAC/VLAN lookup: destination code, the flood destination on a miss. -/
def macLookup (s : State) (vid mac : Nat) : Option Nat :=
  match macFind s vid mac with
  | some i => some (fld (tblW s 6 i 2) 15 0)
  | none => if bit (wordAt (vlanEntry s vid) 1) 31 then some (fld (wordAt (vlanEntry s vid) 1) 15 0) else none

/-- How a frame is copied: to one destination, as a ready-first multicast, or as one unicast frame for each (Table 6.7). -/
inductive CopyMode where
  | single | readyFirst | inputCopy
  deriving DecidableEq, Repr

/-- The destinations of a destination code, and how they are served (Tables 6.4, 6.7, R149). -/
def codeDests (s : State) (code inPort : Nat) : List Dest × CopyMode :=
  if code < 0x1000 then ([.queue code], .single)
  else if code ≤ 0x100F then ([.eth (code - 0x1000)], .single)
  else if code = 0x1012 then ([.star], .single)
  else if 0x1100 ≤ code ∧ code ≤ 0x111F then ([.can (code - 0x1100)], .single)
  else if 0x2000 ≤ code ∧ code ≤ 0x23FF then
    let e := tbl s 7 (5120 + (code - 0x2000))
    if !bit (wordAt e 0) 31 then ([], .single)
    else
      let ports := (List.range 16).filter fun p => bit (wordAt e 0) p && p ≠ inPort
      let chans := (List.range 32).filter fun c => bit (wordAt e 1) c
      let qs := (if bit (wordAt e 2) 12 then [fld (wordAt e 2) 11 0] else []) ++ (if bit (wordAt e 2) 28 then [fld (wordAt e 2) 27 16] else [])
      (ports.map .eth ++ (if bit (wordAt e 0) 18 then [.star] else []) ++ chans.map .can ++ qs.map .queue, if bit (wordAt e 0) 30 then .inputCopy else .readyFirst)
  else ([], .single)

/-- The code that stands for "look up" resolved by kind (Table 6.5); CAN destinations come from the filter or route. -/
def lookup (s : State) (f : FabIn) (vid : Nat) : Option Nat :=
  match f.queue with
  | some q =>
    let e := tbl s 7 (1024 + q)
    if !bit (wordAt e 0) 31 then none
    else if fld (wordAt e 0) 15 0 = 0xFFFE then
      (if fld (wordAt e 0) 17 16 = 0 then macLookup s vid (ethDst f.bytes) else none)
    else some (fld (wordAt e 0) 15 0)
  | none =>
    match f.kind with
    | .eth => macLookup s vid (ethDst f.bytes)
    | .star =>
      let e := tbl s 7 (starSlot f.bytes)
      if bit (wordAt e 0) 31 then some (fld (wordAt e 0) 15 0) else none
    | .can => none

/-- A destination can take a frame of this kind: its medium's format, and for Ethernet the VLAN's members (R142, R148). -/
def destTakes (s : State) (kind : FKind) (vid : Nat) (d : Dest) : Bool :=
  match d with
  | .eth p => kind = .eth && vlanMember s vid p
  | .star => kind = .star
  | .can _ => kind = .can
  | .queue q => 0x54 ≤ qProducer s q && qProducer s q ≤ 0x5A

/-! ### Learning (R144-R147) -/

/-- A table 0x06 entry. -/
def macEntry (vid mac port : Nat) : List W32 :=
  [BitVec.ofNat 32 mac, BitVec.ofNat 32 (mac / 2 ^ 32 + vid * 2 ^ 16), BitVec.ofNat 32 (0x1000 + port + 2 ^ 16 + 2 ^ 17), 0x80000000]

/-- An address seen as source has hit set (Table 6.6). On a port that learns, an address without an entry is learned (R144), and
a learned entry follows its port. -/
def learn (p vid mac : Nat) (s : State) : State :=
  let on := bit (rd s .FAB_PORT_CFG p 0) 11
  if inRestart s then s
  else
    match macFind s vid mac with
    | some i =>
      let e := tbl s 6 i
      let w := wordAt e 2 ||| 0x20000
      let w := if on && bit w 16 then putFld w 15 0 (0x1000 + p) else w
      setActive 6 i [wordAt e 0, wordAt e 1, w, wordAt e 3] s
    | none =>
      if !on then s
      else
        let b := macBucket vid mac
        match [b * 4, b * 4 + 1, b * 4 + 2, b * 4 + 3].find? fun i => !bit (tblW s 6 i 3) 31 with
        | some i => setActive 6 i (macEntry vid mac p) s
        | none => fabEvent 81 (count16 .FAB_LEARN_FAIL 0 0 s)

/-- AGE_SWEEP (R145, R147). -/
def execAgeSweep (s : State) : Res :=
  .next (if fld (rd s .FAB_AGE_TIME 0 0) 15 0 = 0 || inRestart s || !running s then s
  else
    (s.cfg.active.filter fun e => tblKey 6 0 ≤ e.1 && e.1 < tblKey 7 0).foldl (fun s e =>
      let i := e.1 - tblKey 6 0
      let w := wordAt e.2 2
      if bit (wordAt e.2 3) 31 && bit w 16 then
        if bit w 17 then setActive 6 i [wordAt e.2 0, wordAt e.2 1, w &&& 0xFFFDFFFF, wordAt e.2 3] s else setActive 6 i [] s
      else s) s)

/-! ### RED and admission (R156-R158) -/

/-- The RED average after an update with use `q` in cells (R156). -/
def redAvg (avg q n : Nat) : Nat := ((avg : Int) + ((q * 65536 : Int) - avg) / 2 ^ n).toNat

/-- The drop probability times 65536 (R157). -/
def redP (prof : List W32) (colour avg : Nat) : Nat :=
  let c := if colour = 1 then 1 else if colour = 2 then 2 else 0
  let lo := fld (wordAt prof (2 * c)) 20 0 * 65536
  let hi := fld (wordAt prof (2 * c + 1)) 20 0 * 65536
  let maxp := fld (wordAt prof 6) (9 * c + 8) (9 * c)
  if avg < lo then 0 else if hi ≤ avg then 65536 else maxp * 256 * (avg - lo) / (hi - lo)

/-- One egress queue's admission of a frame: RED, cap, reserve or shared pool, a free cell (R156-R158, R161, R178). -/
def takeAt (d : Dest) (tc colour : Nat) (s : State) : Bool × State :=
  let eq := destPort s d * 8 + tc
  let use := eqUse s eq
  let up := match d with
    | .eth p => portUp s p
    | _ => true
  let refuse (s : State) : Bool × State := (false, fabEvent (64 + tc) (count32 .FAB_Q_DROP_BUF 0 eq s))
  if !up then refuse s
  else
    let (red, s) := match eqRed s eq with
      | none => (false, s)
      | some r =>
        let prof := tbl s 4 r
        let avg := redAvg (egressOf s eq).avg use (fld (wordAt prof 6) 30 27)
        let draw := (Config.rnd16 s.freeCtr).toNat
        (decide (draw < redP prof colour avg), { setEgress eq { egressOf s eq with avg := avg } s with freeCtr := s.freeCtr + 1 })
    if red then (false, fabEvent 72 (fabEvent (64 + tc) (count32 .FAB_Q_DROP_RED 0 eq s)))
    else
      let capOk := match eqCap s eq with
        | some c => decide (use < c)
        | none => true
      let room := decide (use < eqReserve s eq) || decide ((use - eqReserve s eq) * 64 < 2 ^ eqAlpha s eq * sharedFree s)
      if capOk && room && decide (0 < bufFree s) then (true, s) else refuse s

/-- RED_IDLE_UPDATE (R156): every 1.024 us while the queue is empty. -/
def execRedIdleUpdate (eq : Fin 216) (s : State) : Res :=
  .next (match eqRed s eq with
    | none => s
    | some r =>
      if running s && eqUse s eq = 0 then
        setEgress eq { egressOf s eq with avg := redAvg (egressOf s eq).avg 0 (fld (tblW s 4 r 6) 30 27) } s
      else s)

/-! ### The first cell (R137, R138) -/

/-- An agent takes one packet from a queue as consumer `c`: its bytes, whether it is bad, its first descriptor (R11, R116). A FLUSHED
answer is the dequeue that clears it (R129). -/
def takePacket (ag : Agent) : Nat → Nat → Nat → List Byte → Bool → Option (BitVec 128) → State → Option (List Byte × Bool × BitVec 128) × State
  | 0, _, _, _, _, _, s => (none, s)
  | fuel + 1, q, c, acc, bad, head, s =>
    match qDequeue q c s with
    | (st, d, s) =>
      if st ≠ qOk then (none, s)
      else
        let (rst, l, s) := shReadRun ag (dBank d * 0x40000 + dOffset d) (dLen d) s
        let bad := bad || dBad d || decide (rst ≠ memOk)
        let head := some (head.getD d)
        if dLast d then (some (acc ++ l, bad, head.getD d), s) else takePacket ag fuel q c (acc ++ l) bad head s

/-- An admitted frame enters the buffer and the core with its first cell, one flight for all destinations or one for each
(R158-R160). -/
def enterBuffer (f : Flight) (copies : Bool) (s : State) : State :=
  let flights := if copies then f.dests.map fun d => { f with dests := [d] } else [f]
  let s := flights.foldl (fun s g =>
    let cells := placeCells s (bufBanks s) 1
    let s := addCells cells (setFab { s.fab with flights := s.fab.flights ++ [{ g with cells := cells }] } s)
    g.dests.foldl (fun s d => coreEnter g 0 d s) s) s
  pauseScan f.inPort f.tc s

/-- Admission at every destination, in order. -/
def admitAll (tc colour : Nat) : List Dest → State → List Dest × State
  | [], s => ([], s)
  | d :: r, s =>
    let (ok, s) := takeAt d tc colour s
    let (ds, s) := admitAll tc colour r s
    (if ok then d :: ds else ds, s)

/-- The redundancy mode of pair `k`: 0 none, 1 PRP, 2 HSR (07 Table 7.6). -/
def pairMode (s : State) (k : Nat) : Nat := if bit (tblW s 11 k 0) 31 then fld (tblW s 11 k 0) 1 0 else 0

/-- Pair `k`'s run-time state. -/
def pairOf (s : State) (k : Nat) : RedPair := nmGet ⟨0, []⟩ s.eth.pairs k

/-- Pair `k` set. -/
def setPair (k : Nat) (r : RedPair) (s : State) : State := { s with eth := { s.eth with pairs := nmSet ⟨0, []⟩ s.eth.pairs k r } }

/-- A frame matches a receive or transmit PTP filter of port `p` (03 Table 3.3). -/
def ptpOn (s : State) (p : Nat) (l : List Byte) : Bool :=
  (ptpAt (fld (rd s .TIME_PTPF p 0) 2 0) l).isSome || (ptpAt (fld (rd s .TIME_TXF p 0) 2 0) l).isSome

/-- A frame is duplicated at the lower port of a pair: no PTP frame of the pair's ports, no frame that holds an HSR tag (07 R79,
R196). -/
def pairSends (s : State) (p : Nat) (l : List Byte) : Bool :=
  p < 12 && p % 2 = 0 && (pairMode s (p / 2) = 1 || pairMode s (p / 2) = 2) && !ptpOn s p l && !ptpOn s (p + 1) l && ethType l ≠ 0x892F

/-- Destinations with the second copies of redundancy pairs, and what each pair puts on the frame (07 R196). -/
def pairDests (kind : FKind) (l : List Byte) : List Dest → State → List Dest × List RedTag × State
  | [], s => ([], [], s)
  | d :: r, s =>
    match d with
    | .eth p =>
      if kind = .eth && pairSends s p l then
        let k := pairOf s (p / 2)
        let (ds, red, s) := pairDests kind l r (setPair (p / 2) { k with seq := k.seq + 1 } s)
        (.eth p :: .eth (p + 1) :: ds, ⟨p / 2, pairMode s (p / 2), fld (tblW s 11 (p / 2) 2) 3 0, k.seq⟩ :: red, s)
      else let (ds, red, s) := pairDests kind l r s; (d :: ds, red, s)
    | _ => let (ds, red, s) := pairDests kind l r s; (d :: ds, red, s)

/-- The untag mask of a VLAN (Table 6.7). -/
def untagMask (s : State) (vid : Nat) : BitVec 16 := BitVec.ofNat 16 (fld (wordAt (vlanEntry s vid) 0) 31 16)

/-- The destinations that a frame asks for, and how they are served (R142-R149): a frame that a CAN filter or route sends has
those that it chose. -/
def destsFor (f : FabIn) (code vid : Nat) (pre : Option (List Dest)) (s : State) : List Dest × CopyMode :=
  if code = 0xFFFF then ([], .single)
  else if code = 0xFFFE then
    (if f.queue.isNone && f.kind = .can then (pre.getD [], .single)
     else match lookup s f vid with
       | some c => codeDests s c f.port
       | none => ([], .single))
  else codeDests s code f.port

/-- Steps 5 and 6 for the frame whose arrival is `id`: destinations, format and VLAN, admission, the buffer. Each copy that is not
sent counts in fwd_drop (R142, R148). -/
def forward (f : FabIn) (id code vid tc colour : Nat) (ptag : BitVec 16) (bad : Bool) (pre : Option (List Dest)) (s : State) : State :=
  let p := f.port.val
  let res := destsFor f code vid pre s
  let good := res.1.filter (destTakes s f.kind vid)
  let lost := if res.1.isEmpty then 1 else res.1.length - good.length
  let s := (List.range lost).foldl (fun s _ => inDrop p 2 tc s) s
  let (good, red, s) := pairDests f.kind f.bytes good s
  let (ds, s) := admitAll tc colour good s
  if ds.isEmpty then mapArrival id (fun a => { a with filter := none }) s
  else
    enterBuffer
      { id := id, inPort := p, kind := f.kind, bytes := f.bytes, stamp := f.stamp, tc := tc, colour := colour, ptag := ptag,
        vid := BitVec.ofNat 12 vid, untag := untagMask s (if p < 16 then vid else ethTci f.bytes % 4096), dests := ds, cells := [],
        multi := res.2 = .readyFirst, whole := false, bad := bad, badAt := [], full := [], cut := [], red := red, asIs := false, born := s.time.now }
      (res.2 = .inputCopy) s

/-- Steps 3 and 4: stream filter and meter; `none` when the frame is dropped. -/
def filterMeter (f : FabIn) (e : List W32) (tc : Nat) (s : State) : Option Nat × State :=
  let p := f.port.val
  let sf := fld (wordAt e 8) 30 21
  let fe := tblW s 2 sf 0
  let on := bit (wordAt e 8) 20 && bit fe 31
  if on && sfBlocked s sf then (none, inDrop p 0 tc s)
  else if on && bit fe 15 && !sgOpen s (fld fe 21 16) f.stamp.toNat then (none, fabEvent 74 (inDrop p 0 tc s))
  else if on && (f.known.any fun n => sfExceeds fe n) then (none, sfOversize p sf tc fe s)
  else if !bit (wordAt e 8) 31 then (some 3, s)
  else
    let k := fld (wordAt e 9) 8 0
    let c := meterColour s k (f.kind = .eth && ethDei f.bytes)
    let s := setMeter k (meterNow s k) s
    if c = 2 then
      let s := fabEvent 73 s
      if bit (tblW s 3 k 0) 9 then (none, inDrop p 1 tc s) else (some 2, s)
    else (some c, s)

/-- R180 order 8: a group source address, or a reserved destination that ETH_RSV_TRAP does not let in. -/
def ethFiltered (s : State) (p : Nat) (l : List Byte) : Bool :=
  (byteAt l 6).getLsbD 0 ||
    (ethDst l / 16 = 0x0180C200000 && !bit (rd s .ETH_RSV_TRAP 0 p) (ethDst l % 16))

/-- The VID that a port gives untagged frames. -/
def portVid (s : State) (p : Nat) : Nat := if p < 16 then fld (rd s .FAB_PORT_CFG p 0) 23 12 else 0

/-- Orders 7 and 8 of 07 Table 7.3: the counter of the first that a frame at Ethernet port `p` fails. -/
def portRefuses (s : State) (p : Nat) (l : List Byte) : Option Reg :=
  if !vlanMember s (ethVid l (portVid s p)) p then some .ETH_RX_VLAN else if ethFiltered s p l then some .ETH_RX_FILTER else none

/-- A receive drop at Ethernet port `p` (07 R180): counted once, cause drop. -/
def dropRx (p : Nat) (r : Reg) (s : State) : State := ethCause p 2 (count32 r 0 p s)

/-- What the last cell needs of the entries that govern a frame: the stream filter, whose length check is still to come, and the
meter (R137, R152, R174). -/
def governed (f : FabIn) (e : List W32) (tc colour : Nat) (s : State) (a : Arrival) : Arrival :=
  let sf := fld (wordAt e 8) 30 21
  { a with tc := tc, colour := colour,
           filter := if bit (wordAt e 8) 20 && bit (tblW s 2 sf 0) 31 && f.known.isNone then some (sf, tblW s 2 sf 0) else none,
           meter := if bit (wordAt e 8) 31 then some (fld (wordAt e 9) 8 0) else none }

/-- A frame's first cell (R137): `queueTc` is the class of a packet from a queue, `pre` the CAN destinations of Table 6.5. -/
def fabFirst (f : FabIn) (queueTc : Option Nat) (bad : Bool) (pre : Option (List Dest)) (s : State) : State :=
  let p := f.port.val
  let id := s.fab.nextId
  let eth := p < 16 && f.kind = .eth
  let pvid := portVid s p
  let vid := if f.kind = .eth then ethVid f.bytes pvid else 0
  let s := arrive p f.kind f.bytes s
  match (if eth then portRefuses s p f.bytes else none) with
  | some r => arrivalDropped id r s
  | none =>
    let s := if eth then learn p vid (ethSrc f.bytes) s else s
    match classify s (clsKey p f.kind f.bytes pvid) with
    | none =>
      let s := raise 80 (count16 .FAB_CLS_MISS 0 0 s)
      forward f id 0xFFFE vid (defaultTc s p f.kind f.bytes queueTc) 3 0 bad pre s
    | some e =>
      let tc := if bit (wordAt e 8) 19 then fld (wordAt e 8) 18 16 else defaultTc s p f.kind f.bytes queueTc
      let (c, s) := filterMeter f e tc s
      match c with
      | none => s
      | some colour =>
        forward f id (fld (wordAt e 8) 15 0) vid tc colour (BitVec.ofNat 16 (fld (wordAt e 9) 24 9)) bad pre
          (mapArrival id (governed f e tc colour s) s)

/-- The length that R152 means: from destination address to FCS, or the payload length for CAN and star. -/
def frameLen (k : FKind) (l : List Byte) : Nat :=
  match k with
  | .eth => l.length + 4
  | .can => canLen l
  | .star => starLen l

/-- Frame kinds by the format of an engine route (Table 6.7). -/
def kindOf (n : Nat) : FKind := if n = 1 then .can else if n = 2 then .star else .eth

/-- The stamp nearest to now whose low 32 bits a descriptor holds (R55). -/
def widenStamp (s : State) (lo : W32) : W64 :=
  s.time.now + BitVec.ofInt 64 (lo - BitVec.ofNat 32 (now s)).toInt

/-- A packet of queue `q` with its bytes, as a frame at the fabric port that consumes the queue. -/
def queueFrame (q : Fin 4096) (l : List Byte) (d : BitVec 128) (s : State) : FabIn :=
  let kind := kindOf (fld (tblW s 7 (1024 + q) 0) 17 16)
  { port := Fin.ofNat 32 (qConsumer s q - 0x54 + 20), queue := some q, kind := kind, bytes := l,
    known := some (frameLen kind l), stamp := widenStamp s (dWord d 2) }

/-! ### The last cell (R137, R139, R152, R159) -/

/-- One copy of a frame has its last cell: its later cells, which no free cell may cut short (R159), enter the buffer and the
core. -/
def lastCellOf (f : Flight) (bad : Bool) (s : State) : State :=
  let need := (f.bytes.length + 63) / 64 - flightCells f
  let cells := placeCells s (bufBanks s) need
  let got := (cells.map (·.2)).sum
  let short := decide (got < need)
  let s := addCells cells s
  let s := if short then fabEvent 78 (count32 .FAB_IN_DROP (4 * f.inPort + 3) 0 (count16 .FAB_TRUNC 0 0 s)) else s
  let g := { f with cells := f.cells ++ cells, whole := true, bad := f.bad || bad || short,
                    bytes := if short then f.bytes.take (64 * (flightCells f + got)) else f.bytes }
  let s := setFab { s.fab with flights := s.fab.flights.map fun h => if h = f then g else h } s
  let s := (List.range got).foldl (fun s k => g.dests.foldl (fun s d => coreEnter g (flightCells f + k) d s) s) s
  pauseScan f.inPort f.tc s

/-- A frame's last cell: the drop of a check of orders 7 and 8 when none before it failed (07 R180); maximum SDU, meter charge,
then every copy (R137, R152, R153). `len` is the length that R152 means. -/
def fabLast (fid len : Nat) (ok : Bool) (s : State) : State :=
  match s.fab.arrivals.find? fun a => a.id = fid with
  | none => s
  | some a =>
    let s := setFab { s.fab with arrivals := s.fab.arrivals.filter fun b => b.id ≠ fid } s
    let s := match a.dropped with
      | some r => if ok then dropRx a.port r s else s
      | none => s
    let big := a.filter.any fun x => sfExceeds x.2 len
    let s := match a.filter with
      | some (sf, w) => if big then sfOversize a.port sf a.tc w s else s
      | none => s
    let s := match a.meter with
      | some k => meterCharge k a.colour len s
      | none => s
    (s.fab.flights.filter fun g => g.id = fid && !g.whole).foldl (fun s g => lastCellOf g (big || !ok) s) s

/-- A frame that is whole when it reaches a fabric port. -/
def fabTake (f : FabIn) (queueTc : Option Nat) (bad : Bool) (pre : Option (List Dest)) (s : State) : State :=
  fabLast s.fab.nextId (frameLen f.kind f.bytes) (!bad) (fabFirst f queueTc bad pre s)

/-- A frame of a medium that is whole when it reaches a fabric port. -/
def fabWhole (f : FabIn) (bad : Bool) (pre : Option (List Dest)) (s : State) : State := fabTake f none bad pre s

/-- A packet of queue `q` is taken whole by its fabric port F20-F25; F26 is crypto recirculation (13 R362). -/
def fabFromQueue (q : Fin 4096) (s : State) : State :=
  let c := qConsumer s q
  if !(0x54 ≤ c && c ≤ 0x59) then s
  else unlessAsleep (fun s =>
    match takePacket .fabric (qUse s q + 1) q c [] false none s with
    | (none, s) => s
    | (some (l, bad, d), s) => fabTake (queueFrame q l d s) (some (fld (dWord d 1) 15 13)) bad none s) s

/-- FABRIC_LAST_CELL (R137). -/
def execFabricLastCell (fid len : Nat) (ok : Bool) (s : State) : Res :=
  .next (if running s then fabLast fid len ok s else s)

/-! ### Multicast residues (R165) -/

/-- The residue age in ns. -/
def mcAge (s : State) : Nat := max 1 (fld (rd s .FAB_MC_AGE 0 0) 23 0) * 1000

/-- A ready-first frame whose residue has aged: some destination has not taken all its cells. -/
def mcAged (s : State) (f : Flight) : Bool := f.multi && f.whole && elapsed s f.born (mcAge s) && f.dests.any fun d => d ∉ f.full

/-- The flight leaves the egress queue of an Ethernet port. -/
def unwait (d : Dest) (f : Flight) (s : State) : State :=
  match d with
  | .eth p =>
    let eq := p * 8 + f.tc
    noteEmpty p (setEgress eq { egressOf s eq with waiting := (egressOf s eq).waiting.filter (· ≠ f.id) } s)
  | _ => s

/-- MC_RESIDUE_AGED (R165): the destinations that have not taken the frame lose it. -/
def execMcResidueAged (fid : Nat) (s : State) : Res :=
  .next (match s.fab.flights.find? fun f => f.id = fid && mcAged s f with
    | none => s
    | some f =>
      fabEvent 82 (count16 .FAB_MC_AGED 0 0
        ((f.dests.filter (· ∉ f.full)).foldl (fun s d => serveDest fid d (unwait d f s)) s)))

end Sys2Proof.Machine
end

