-- ==== Sys2Proof/Machine/Can.lean ====
section
/-! DEFINITION. CAN channels: control, transmit FIFOs, attempts, cancellation, bus sleep and wake, buffers read by registers
(08). -/

namespace Sys2Proof.Machine

/-- A channel after reset. -/
def chanReset : Chan :=
  { fifo := [], hold := [], sched := none, release := none, attempt := none, headSince := 0, nextTag := 0, idColRun := 0, log := [],
    hpb := [], tec := 0, recv := 0, wakeStep := 0, wakeAt := 0, wakeLocal := false, lastFrame := 0 }

/-- Channel `c`. -/
def chOf (s : State) (c : Nat) : Chan := nmGet chanReset s.can.chans c

/-- Channel `c` set. -/
def setCh (c : Nat) (k : Chan) (s : State) : State := { s with can := { s.can with chans := nmSet chanReset s.can.chans c k } }

/-- A cause bit sets and source 128 + 2n fires. -/
def canCause (c n : Nat) (s : State) : State := raise (128 + 2 * c) (setB .CAN_EVT_CAUSE 0 c (oneBit n) s)

/-- Bus states (Table 8.9): AWAKE 0, SLEEPING 1, ASLEEP 2, WAKING 3. -/
def busOf (s : State) (c : Nat) : Nat := fld (rd s .CAN_STAT 0 c) 7 6

/-- Error states: active 0, passive 1, bus-off 2, recovering 3. -/
def errOf (s : State) (c : Nat) : Nat := fld (rd s .CAN_STAT 0 c) 5 4

/-- The concentrator port of a channel. -/
def concPort (c : Nat) : Nat := if c < 16 then 16 else 17

/-! ### Log and leaving entries (R225) -/

/-- A log entry, when log_en is set; a full log of 16 loses it. -/
def txLog (c : Nat) (slot : Bool) (status : Nat) (e : CanTx) (s : State) : State :=
  let k := chOf s c
  if !bit (rd s .CAN_CTRL 0 c) 10 then s
  else if 16 ≤ k.log.length then count32 .CAN_TX_LOG_LOST 0 c s
  else setCh c { k with log := k.log ++ [(slot, BitVec.ofNat 3 status, e.tag, e.lastSof)] } s

/-- An entry leaves for good: its cells are freed. -/
def txFree (c : Nat) (slot : Bool) (status : Nat) (e : CanTx) (s : State) : State :=
  serveDest e.flight (.can c) (txLog c slot status e s)

/-! ### Bus states (R229-R232) -/

/-- The bus enters a state. -/
def setBus (c n : Nat) (s : State) : State := setF .CAN_STAT 0 c 7 6 n s

/-- WAKING begins by request or held frame: STB released, the settle time runs (R232). -/
def wakeBegin (c : Nat) (s : State) : State :=
  let settle := max 1 (fld (rd s .CAN_WAKE_TIM 0 c) 11 0)
  setBus c 3 (setF .CAN_WAKE_STAT 0 c 1 0 3
    (setCh c { chOf s c with wakeStep := 1, wakeLocal := false, wakeAt := s.time.now + BitVec.ofNat 64 (settle * 1000) } s))

/-- Held frames move into the FIFO as its entries come free; a draining bus falls asleep; auto_wake wakes it for a held frame
(R230, R231, Table 8.9). -/
def canSettle (c : Nat) (s : State) : State :=
  let k := chOf s c
  let room := 32 - k.fifo.length
  let s :=
    if busOf s c = 0 && !k.hold.isEmpty && decide (0 < room) then
      setCh c { k with fifo := k.fifo ++ k.hold.take room, hold := k.hold.drop room,
                       headSince := if k.fifo.isEmpty then s.time.now else k.headSince } s
    else s
  let k := chOf s c
  let s := if busOf s c = 1 && k.fifo.isEmpty && k.attempt.isNone then setBus c 2 s else s
  if busOf s c = 2 && bit (rd s .CAN_SLEEP 0 c) 2 && !k.hold.isEmpty then wakeBegin c s else s

/-- The FIFO with a new head notes when it became head and restarts the collision count (R228). -/
def setFifo (c : Nat) (l : List CanTx) (s : State) : State :=
  let k := chOf s c
  if (k.fifo.head?.map fun e => (e.tag, e.arrived)) = (l.head?.map fun e => (e.tag, e.arrived)) then setCh c { k with fifo := l } s
  else setCh c { k with fifo := l, headSince := s.time.now, idColRun := 0 } s

/-! ### Arrival (R207, R219, R220, R231) -/

/-- A format is enabled on a channel. -/
def fmtEnabled (s : State) (c fmt : Nat) : Bool :=
  fmt = 0 || (fmt = 1 && bit (rd s .CAN_CTRL 0 c) 3) || (fmt = 2 && bit (rd s .CAN_CTRL 0 c) 4)

/-- A record that no controller can send (R207). -/
def recBad (s : State) (c : Nat) (l : List Byte) : Bool :=
  let n := canLen l
  let f := canFmt l
  f = 3 || (f = 0 && 8 < n) || (f = 1 && 64 < n) || (f = 2 && !(1 ≤ n && n ≤ 2048)) || (canRtr l && f ≠ 0) || !fmtEnabled s c f

/-- A frame without a flight of its own takes cells of the fabric buffer (R220). -/
def ensureFlight (c : Nat) (l : List Byte) (cls : Nat) (fl : Option Nat) (s : State) : Nat × State :=
  match fl with
  | some i => (i, s)
  | none =>
    let cells := placeCells s (bufBanks s) ((l.length + 63) / 64)
    let f : Flight :=
      { id := s.fab.nextId, inPort := concPort c, kind := .can, bytes := l, stamp := s.time.now, tc := cls, colour := 3, ptag := 0, vid := 0,
        untag := 0, dests := [.can c], cells := cells, multi := false, asIs := false, whole := true, bad := false, badAt := [], full := [.can c], cut := [],
        red := [], born := s.time.now }
    (f.id, addCells cells (setFab { s.fab with flights := s.fab.flights ++ [f], nextId := s.fab.nextId + 1 } s))

/-- A frame that does not stay frees its flight's cells. -/
def dropArrival (c : Nat) (fl : Option Nat) (s : State) : State :=
  match fl with
  | some i => serveDest i (.can c) s
  | none => s

/-- Frames a hold list takes. -/
def holdMax (s : State) (c : Nat) : Nat := min 64 (max 1 (fld (rd s .CAN_HOLD 0 c) 22 16))

/-- A frame arrives for a channel (R207, R219, R220, R231): `fl` is its flight when it crossed the fabric. -/
def canArrive (c : Nat) (l : List Byte) (cls : Nat) (fl : Option Nat) (s : State) : State :=
  if !isOn s .CAN_STAT c then dropArrival c fl (count32 .CAN_TX_OFF_DROP 0 c s)
  else if recBad s c l then dropArrival c fl (canCause c 7 (count32 .CAN_TX_BAD 0 c s))
  else
    let k := chOf s c
    let awake := decide (busOf s c = 0)
    if awake && 32 ≤ k.fifo.length then dropArrival c fl (canCause c 5 (count32 .CAN_TX_FULL_DROP 0 c s))
    else if !awake && holdMax s c ≤ k.hold.length then dropArrival c fl (canCause c 6 (count32 .CAN_HOLD_DROP 0 c s))
    else
      let (i, s) := ensureFlight c l cls fl s
      let k := chOf s c
      let e : CanTx := ⟨l, k.nextTag, s.time.now, cls, 0, i⟩
      let k := { k with nextTag := k.nextTag + 1 }
      if awake then setFifo c (k.fifo ++ [e]) (setCh c k s) else canSettle c (setCh c { k with hold := k.hold ++ [e] } s)

/-- CAN_TX_ARRIVE (R219): a record from its concentrator, in egress class `cls`. -/
def execCanTxArrive (c : Fin 32) (rec_ : List Byte) (cls : Fin 8) (s : State) : Res :=
  .next (if running s then canArrive c rec_ cls none s else s)

/-! ### Control (R205, R206, R223, R455) -/

/-- A register whose fields take a write only while OFF (R205, R455). -/
def canCfgWrite (r : Reg) (c : Nat) (v : W32) (s : State) : State :=
  if isOff s .CAN_STAT c then plainWrite r 0 c v s
  else if (rd s r 0 c ^^^ v) &&& r.desc.rw = 0 then s
  else setB .CAN_STAT 0 c 0x100 s

/-- A write of CAN_CTRL: the option fields only while OFF, then enable and recovery, by recover or by auto_recover being set
(R205, R206, R223). -/
def canCtrlWrite (c : Nat) (v : W32) (s : State) : State :=
  let old := rd s .CAN_CTRL 0 c
  let s :=
    if isOff s .CAN_STAT c then wr .CAN_CTRL 0 c (v &&& 0x1DFF) s
    else
      let s := wr .CAN_CTRL 0 c ((v &&& 0x1D07) ||| (old &&& 0xF8)) s
      if (old ^^^ v) &&& 0xF8 = 0 then s else setB .CAN_STAT 0 c 0x100 s
  let s := fbWrite .CAN_STAT c (bit v 0) s
  if (bit v 8 || bit v 9) && errOf s c = 2 then setF .CAN_STAT 0 c 5 4 3 s else s

/-- CHANNEL_ENABLE (R206). -/
def execChannelEnable (m : Fin 64) (v : W32) (s : State) : Res :=
  .next (if bit v 0 then withWrite m .CAN_CTRL 0 v (fun s => canCtrlWrite (chanOf .CAN_CTRL m s) v s) s else s)

/-- CHANNEL_DISABLE (R206). -/
def execChannelDisable (m : Fin 64) (v : W32) (s : State) : Res :=
  .next (if bit v 0 then s else withWrite m .CAN_CTRL 0 v (fun s => canCtrlWrite (chanOf .CAN_CTRL m s) v s) s)

/-- BUS_OFF_RECOVER (R223): the write of 1 to recover. -/
def execBusOffRecover (m : Fin 64) (v : W32) (s : State) : Res :=
  .next (if bit v 9 then withWrite m .CAN_CTRL 0 v (fun s => canCtrlWrite (chanOf .CAN_CTRL m s) v s) s else s)

/-- RECOVERY_DONE (R223): error-active again. -/
def execRecoveryDone (c : Fin 32) (s : State) : Res :=
  .next (if running s && errOf s c = 3 then
    canCause c 2 (setF .CAN_STAT 0 c 5 4 0 (setCh c { chOf s c with tec := 0, recv := 0 } s))
  else s)

/-- The frame of the WUFTX registers as a record (R232). -/
def wufRecord (s : State) (c : Nat) : List Byte :=
  let id := rd s .CAN_WUFTX_ID 0 c
  let n := min 8 (fld (rd s .CAN_WUFTX_DLC 0 c) 3 0)
  leBytes 4 (id &&& 0x3FFFFFFF).toNat ++ leBytes 4 (c + n * 2 ^ 16 + n * 2 ^ 28) ++ leBytes 8 0 ++
    (leBytes 4 (rd s .CAN_WUFTX_D 0 c).toNat ++ leBytes 4 (rd s .CAN_WUFTX_D 1 c).toNat).take n

/-- A frame takes the scheduled slot; one still unsent there is replaced: logged as removed, counted, cause sync_miss (R224,
R225). -/
def slotPut (c : Nat) (l : List Byte) (s : State) : State :=
  let e : CanTx := ⟨l, 0, s.time.now, 0, 0, 0⟩
  match (chOf s c).sched with
  | none => setCh c { chOf s c with sched := some e } s
  | some old =>
    let s := canCause c 10 (count32 .CAN_SYNC_MISS 0 c (txLog c true 1 old s))
    setCh c { chOf s c with sched := some e, attempt := (chOf s c).attempt.filter fun a => !a.slot } s

/-- CHANNEL_INTEGRATED (R206, R232): a starting channel reaches ON, a waking bus AWAKE. -/
def execChannelIntegrated (c : Fin 32) (s : State) : Res :=
  .next <|
    if !running s then s
    else if fbState (fbOf s .CAN_STAT c) = 1 then
      canSettle c (setBus c 0 (fbPut .CAN_STAT c (fbStarted (fbOf s .CAN_STAT c)) s))
    else if busOf s c = 3 && (chOf s c).wakeStep = 3 then
      let k := chOf s c
      let wuf := !k.wakeLocal && bit (rd s .CAN_SLEEP 0 c) 3 && bit (rd s .CAN_WUFTX_ID 0 c) 31
      let latched := bit (rd s .CAN_SLEEP 0 c) 4
      let s := setCh c { k with wakeStep := 0 } s
      let s := canSettle c (setBus c 0 (if wuf then slotPut c (wufRecord s c) s else s))
      let s := if latched then canSettle c (setBus c 1 (clrB .CAN_SLEEP 0 c 0x10 s)) else s
      canCause c 4 s
    else s

/-- CHANNEL_STOPPED (R206): OFF; every entry of FIFO and hold list is freed as DISCARDED. -/
def execChannelStopped (c : Fin 32) (s : State) : Res :=
  .next (if fbState (fbOf s .CAN_STAT c) = 3 && (chOf s c).attempt.isNone then
    let k := chOf s c
    let s := (k.fifo ++ k.hold).foldl (fun s e => txFree c false 5 e s) s
    setBus c 0 (fbPut .CAN_STAT c (fbStopped (fbOf s .CAN_STAT c)) (setCh c { chOf s c with fifo := [], hold := [], wakeStep := 0 } s))
  else s)

/-! ### Attempts (R221-R224, R228) -/

/-- An attempt can start: ON, bus AWAKE or draining, normal mode, not bus-off, something to send. -/
def canStart (s : State) (c : Nat) : Bool :=
  let k := chOf s c
  running s && isOn s .CAN_STAT c && busOf s c ≤ 1 && fld (rd s .CAN_CTRL 0 c) 2 1 = 0 && errOf s c ≤ 1 && k.attempt.isNone &&
    (k.sched.isSome || !k.fifo.isEmpty)

/-- CAN_TX_ATTEMPT (R221, R224): the scheduled slot, else the head, sends SOF. -/
def execCanTxAttempt (c : Fin 32) (stamp : W64) (s : State) : Res :=
  .next (if canStart s c then
    let k := chOf s c
    let sof := BitVec.ofNat 32 stamp.toNat
    setCh c (match k.sched with
      | some e => { k with sched := some { e with lastSof := sof }, attempt := some ⟨true, stamp, false, false, []⟩ }
      | none => { k with fifo := (k.fifo.head?.map fun e => { e with lastSof := sof }).toList ++ k.fifo.drop 1,
                         attempt := some ⟨false, stamp, false, false, []⟩ }) s
  else s)

/-- Error confinement of ISO 11898-1 after a change of the counters: error-passive above 127, bus-off above 255 (R2, R223). -/
def confine (c : Nat) (s : State) : State :=
  let k := chOf s c
  if 2 ≤ errOf s c then s
  else if 255 < k.tec then
    let s := canCause c 1 (count32 .CAN_BUSOFF_CNT 0 c (setF .CAN_STAT 0 c 5 4 2 s))
    if bit (rd s .CAN_CTRL 0 c) 8 then setF .CAN_STAT 0 c 5 4 3 s else s
  else if 127 < k.tec || 127 < k.recv then
    if errOf s c = 1 then s else canCause c 0 (setF .CAN_STAT 0 c 5 4 1 s)
  else setF .CAN_STAT 0 c 5 4 0 s

/-- FD data lengths. -/
def fdLen (n : Nat) : Nat :=
  if n ≤ 8 then n else if n ≤ 12 then 12 else if n ≤ 16 then 16 else if n ≤ 20 then 20 else if n ≤ 24 then 24
  else if n ≤ 32 then 32 else if n ≤ 48 then 48 else 64

/-- The record as it goes onto the bus: DLC, FD padding, ESI (R208, Table 8.3). -/
def onBus (s : State) (c : Nat) (l : List Byte) : List Byte :=
  let n := canLen l
  let w := canW l 1
  if canFmt l = 1 then
    let m := fdLen n
    let w := putFld (putFld w 27 16 m) 8 8 (ofBool (errOf s c = 1))
    leBytes 4 (canW l 0).toNat ++ leBytes 4 w.toNat ++ slice l 8 8 ++ slice l 16 n ++
      List.replicate (m - n) (BitVec.ofNat 8 (rd s .CAN_PAD 0 0).toNat)
  else if canFmt l = 0 then
    let dlc := if n = 8 && 8 ≤ fld w 31 28 then fld w 31 28 else n
    leBytes 4 (canW l 0).toNat ++ leBytes 4 (putFld w 31 28 dlc).toNat ++ slice l 8 8 ++ slice l 16 n
  else l.take (16 + n)

/-- The slot's frame (`slot`) or the FIFO's head leaves with a status. -/
def frameLeave (c : Nat) (slot : Bool) (status : Nat) (s : State) : State :=
  let k := chOf s c
  if slot then
    match k.sched with
    | some e => txLog c true status e (setCh c { k with sched := none } s)
    | none => s
  else
    match k.fifo with
    | [] => s
    | e :: r => txFree c false status e (setFifo c r s)

/-- The slot's frame or the FIFO's head is cancelled: removed, or with requeue moved to the FIFO's tail; a frame of the slot then
takes cells of its own, and finds no place in a full FIFO (R226, R227). -/
def frameCancel (c : Nat) (slot requeue : Bool) (s : State) : State :=
  let k := chOf s c
  if !requeue then frameLeave c slot 1 s
  else if slot then
    match k.sched with
    | none => s
    | some e =>
      if 32 ≤ k.fifo.length then frameLeave c true 1 s
      else
        let s := frameLeave c true 4 s
        let (i, s) := ensureFlight c e.record 0 none s
        setFifo c ((chOf s c).fifo ++ [{ e with flight := i }]) s
  else
    match k.fifo with
    | [] => s
    | e :: r => txLog c false 4 e (setFifo c (r ++ [e]) s)

/-- Three attempts in a row end in a bit error (R228). -/
def idCollision (c : Nat) (l : List Byte) (s : State) : State :=
  let s := canCause c 3 (count32 .CAN_IDCOL_CNT 0 c (setCh c { chOf s c with idColRun := 0 } s))
  if bit (rd s .CAN_IDCOL 0 c) 31 then s
  else wr .CAN_IDCOL 0 c (BitVec.ofNat 32 (canId l + ofBool (canIde l) * 2 ^ 29 + 2 ^ 31)) s

/-- The results of commands that waited for the attempt: done. -/
def cmdDone (c : Nat) (ms : List Nat) (s : State) : State :=
  ms.foldl (fun s m => { s with can := { s.can with cmdStat := nmSet 0 s.can.cmdStat (c * 64 + m) 2 } }) s

/-- The errors of a failed attempt raise the transmit error counter by 8, but for two that ISO 11898-1 excepts: an acknowledgement
error of an error-passive node that sees no dominant bit during its error flag, and a stuff error in the arbitration field (R2). -/
def txErrAdds (s : State) (c : Nat) (how : AttemptEnd) : Nat :=
  match how with
  | .bitErr | .otherErr => 8
  | .ackErr dominant => if errOf s c = 1 && !dominant then 0 else 8
  | .stuffErr arbitration => if arbitration then 0 else 8
  | _ => 0

/-- An attempt fails: counted, the error counter rises, and `eights` more eights follow for dominant bits after the error flag
(R2, R221); three bit errors of the FIFO's head in a row are a collision of identifiers (R228). A late-cancelled attempt has no
retry (R226). -/
def attemptFail (c : Nat) (a : Attempt) (how : AttemptEnd) (eights : Nat) (l : List Byte) (s : State) : State :=
  let n := txErrAdds s c how + 8 * eights
  let k := chOf s c
  let run := if a.slot then k.idColRun else if how = .bitErr then k.idColRun + 1 else 0
  let s := confine c (setCh c { k with tec := k.tec + n, idColRun := run } (count32 .CAN_TX_ERR 0 c s))
  let s := if 3 ≤ (chOf s c).idColRun then idCollision c l s else s
  if a.cancelled then frameLeave c a.slot 3 s else s

/-- CAN_ATTEMPT_END (R221, R222, R225-R228). -/
def execCanAttemptEnd (c : Fin 32) (x : AttemptOver) (s : State) : Res :=
  .next (match (chOf s c).attempt with
    | none => s
    | some a =>
      let k := chOf s c
      let l := ((if a.slot then k.sched else k.fifo.head?).map (·.record)).getD []
      let s := cmdDone c a.askers (setCh c { k with attempt := none } s)
      let s :=
        match x.how with
        | .sent =>
          let s := say (.can c (onBus s c l)) (count32 .CAN_TX_OK 0 c s)
          let k := chOf s c
          let s := setCh c { k with tec := k.tec - 1, idColRun := if a.slot then k.idColRun else 0, lastFrame := s.time.now } s
          frameLeave c a.slot (if a.cancelled then 2 else 0) (confine c s)
        | .arbLost =>
          let s := count32 .CAN_ARB_LOST 0 c s
          if a.cancelled then frameCancel c a.slot a.requeue s else s
        | _ => attemptFail c a x.how x.eights l s
      canSettle c s)

/-- A frame is to be released on the channel's scheduled slot at an instant (R224, R259). -/
def schedule (c : Nat) (l : List Byte) (t : W64) (s : State) : State := setCh c { chOf s c with release := some (l, t) } s

/-- SCHEDULED_SLOT_RELEASE (R224): at its instant the frame takes the slot; one still unsent there is replaced. -/
def execScheduledSlotRelease (c : Fin 32) (s : State) : Res :=
  .next (match (chOf s c).release with
    | none => s
    | some (l, t) =>
      if now s < t.toNat || !running s then s
      else slotPut c l (setCh c { chOf s c with release := none } s))

/-! ### Reads that pop (R211, R225) -/

/-- A read of CAN_TX_LOG (R225). -/
def txLogPop (m c : Nat) (s : State) : W32 × State :=
  let k := chOf s c
  match k.log with
  | [] => (0, s)
  | (slot, st, tag, stamp) :: r =>
    (BitVec.ofNat 32 (2 ^ 31 + ofBool slot * 2 ^ 30 + st.toNat * 2 ^ 16 + tag.toNat),
      wr .CAN_TX_LOG_STAMP 0 (c * 64 + m) stamp (setCh c { k with log := r } s))

/-- TX_LOG_POP (R225). -/
def execTxLogPop (m : Fin 64) (s : State) : Res :=
  .next (withRead m .CAN_TX_LOG 0 (fun s => replyOf m (txLogPop m (chanOf .CAN_TX_LOG m s) s)) s)

/-- A read of CAN_HPB_POP (R211). -/
def hpbPop (m c : Nat) (s : State) : W32 × State :=
  let k := chOf s c
  let part := c * 64 + m
  match k.hpb with
  | [] => (0, s)
  | (l, stamp) :: r =>
    let s := setCh c { k with hpb := r } s
    let s := [0, 1, 2, 3].foldl (fun s w => wr .CAN_HPB_H w part (canW l w) s) s
    let s := (List.range 16).foldl (fun s i => wr .CAN_HPB_D i part (BitVec.ofNat 32 (ofLe (slice (canData l) (4 * i) 4))) s) s
    (BitVec.ofNat 32 (2 ^ 31 + r.length), wr .CAN_HPB_STAMP 0 part stamp s)

/-- HPB_POP (R211). -/
def execHpbPop (m : Fin 64) (s : State) : Res :=
  .next (withRead m .CAN_HPB_POP 0 (fun s => replyOf m (hpbPop m (chanOf .CAN_HPB_POP m s) s)) s)

/-! ### Cancellation (R226, R227) -/

/-- The sample point of the first identifier bit after SOF, in ps (R226). -/
def firstSample (s : State) (c : Nat) : Nat :=
  let t := rd s .CAN_NBT 0 c
  let brp := fld t 8 0 + 1
  let t1 := max 1 (fld t 16 9) + 1
  let t2 := fld t 23 17 + 1
  (1 + t1 + t2 + 1 + t1) * brp * 6250

/-- The result of a command for its issuer. -/
def cmdStat (c m st : Nat) (s : State) : State :=
  { s with can := { s.can with cmdStat := nmSet 0 s.can.cmdStat (c * 64 + m) (BitVec.ofNat 3 st) } }

/-- The frame that makes the next attempt, or the one under attempt: the slot's (true) or the FIFO's head (R224). -/
def headIsSlot (k : Chan) : Bool :=
  match k.attempt with
  | some a => a.slot
  | none => k.sched.isSome

/-- The head, or the slot's frame, is cancelled by Table 8.7, with requeue by R227. DEDUCED (log 57): the slot's frame is the head
when it makes the next attempt. -/
def cancelHead (c m : Nat) (requeue : Bool) (s : State) : State :=
  let k := chOf s c
  let slot := headIsSlot k
  if !slot && k.fifo.isEmpty then cmdStat c m 4 s
  else
    match k.attempt with
    | none => canSettle c (cmdStat c m 2 (frameCancel c slot requeue s))
    | some a =>
      if (s.time.now - a.sof).toNat * 1000 < firstSample s c then
        canSettle c (cmdStat c m 2 (frameCancel c slot requeue (setCh c { k with attempt := none } s)))
      else cmdStat c m 1 (setCh c { k with attempt := some { a with cancelled := true, requeue := requeue, askers := m :: a.askers } } s)

/-- The FIFO's head is cancelled while the slot's frame goes before it. -/
def cancelBehind (c m : Nat) (e : CanTx) (s : State) : State :=
  canSettle c (cmdStat c m 2 (txFree c false 1 e (setFifo c ((chOf s c).fifo.filter (· ≠ e)) s)))

/-- An entry is cancelled by its tag: NOT_FOUND when no entry holds it (R226). The slot's frame has tag 0 (log 57). -/
def cancelTag (c m : Nat) (tag : Byte) (s : State) : State :=
  let k := chOf s c
  match k.fifo.find? (·.tag = tag) with
  | some e => if k.fifo.head? = some e && !headIsSlot k then cancelHead c m false s else cancelBehind c m e s
  | none =>
    match k.hold.find? (·.tag = tag) with
    | some e => cmdStat c m 2 (txFree c false 1 e (setCh c { k with hold := k.hold.filter (· ≠ e) } s))
    | none => if headIsSlot k && tag = 0 then cancelHead c m false s else cmdStat c m 3 s

/-- A write of CAN_TX_CMD. -/
def txCmdWrite (m c : Nat) (v : W32) (s : State) : State :=
  match fld v 1 0 with
  | 1 => cancelTag c m (BitVec.ofNat 8 (fld v 15 8)) s
  | 2 => cancelHead c m false s
  | 3 => cancelHead c m true s
  | _ => s

/-- CANCEL_BY_TAG (R226). -/
def execCancelByTag (m : Fin 64) (tag : Byte) (s : State) : Res :=
  .next (withWrite m .CAN_TX_CMD 0 (BitVec.ofNat 32 (1 + tag.toNat * 256)) (fun s => cancelTag (chanOf .CAN_TX_CMD m s) m tag s) s)

/-- HEAD_ABORT (R226). -/
def execHeadAbort (m : Fin 64) (s : State) : Res :=
  .next (withWrite m .CAN_TX_CMD 0 2 (fun s => cancelHead (chanOf .CAN_TX_CMD m s) m false s) s)

/-- HEAD_ABORT_REQUEUE (R227). -/
def execHeadAbortRequeue (m : Fin 64) (s : State) : Res :=
  .next (withWrite m .CAN_TX_CMD 0 3 (fun s => cancelHead (chanOf .CAN_TX_CMD m s) m true s) s)

/-! ### Sleep and wake (R230-R232) -/

/-- A write of CAN_SLEEP: its RW fields, then the request (R230). -/
def sleepWrite (c : Nat) (v : W32) (s : State) : State :=
  let s := plainWrite .CAN_SLEEP 0 c v s
  if !isOn s .CAN_STAT c then s
  else
    match fld v 1 0, busOf s c with
    | 1, 0 => canSettle c (setBus c 1 s)
    | 1, 3 => setB .CAN_SLEEP 0 c 0x10 s
    | 2, 1 => canSettle c (setBus c 0 s)
    | 2, 2 => wakeBegin c s
    | 2, 3 => clrB .CAN_SLEEP 0 c 0x10 s
    | _, _ => canSettle c s

/-- BUS_SLEEP_REQUEST (R230). -/
def execBusSleepRequest (m : Fin 64) (v : W32) (s : State) : Res :=
  .next (if fld v 1 0 = 1 then withWrite m .CAN_SLEEP 0 v (fun s => sleepWrite (chanOf .CAN_SLEEP m s) v s) s else s)

/-- BUS_WAKE_REQUEST (R230). -/
def execBusWakeRequest (m : Fin 64) (v : W32) (s : State) : Res :=
  .next (if fld v 1 0 = 2 then withWrite m .CAN_SLEEP 0 v (fun s => sleepWrite (chanOf .CAN_SLEEP m s) v s) s else s)

/-- The head of the hold list has waited hold_ms (R231). -/
def holdDue (s : State) (c : Nat) : Bool :=
  match (chOf s c).hold with
  | [] => false
  | e :: _ => running s && elapsed s e.arrived (max 1 (fld (rd s .CAN_HOLD 0 c) 15 0) * 1000000)

/-- HOLD_EXPIRED (R231). -/
def execHoldExpired (c : Fin 32) (s : State) : Res :=
  .next (match (chOf s c).hold with
    | [] => s
    | e :: r =>
      if holdDue s c then
        canCause c 6 (count32 .CAN_HOLD_DROP 0 c (txFree c false 6 e (setCh c { chOf s c with hold := r } s)))
      else s)

/-- WAKE_SETTLE_EXPIRED (R232): the pattern is driven, or after a local wake the controller integrates. -/
def execWakeSettleExpired (c : Fin 32) (s : State) : Res :=
  .next <|
    let k := chOf s c
    if !(running s && busOf s c = 3 && k.wakeStep = 1 && decide (k.wakeAt.toNat ≤ now s)) then s
    else if k.wakeLocal then setCh c { k with wakeStep := 3 } s
    else
      let wup := max 1 (fld (rd s .CAN_WAKE_TIM 0 c) 19 12)
      say (.canWup c) (setCh c { k with wakeStep := 2, wakeAt := k.wakeAt + BitVec.ofNat 64 (3 * wup * 1000) } s)

/-- WAKE_UP_PATTERN_SENT (R232): the controller integrates. -/
def execWakeUpPatternSent (c : Fin 32) (s : State) : Res :=
  .next <|
    let k := chOf s c
    if running s && busOf s c = 3 && k.wakeStep = 2 && decide (k.wakeAt.toNat ≤ now s) then setCh c { k with wakeStep := 3 } s else s

/-- CAN_RX_ERROR (R209): an error frame or protocol exception seen while receiving. As ISO 11898-1 has it, the receive error counter
rises by 1, and by 8 for each of its `eights`: a dominant bit after the error flag, or each eight that follow it (R2). -/
def execCanRxError (c : Fin 32) (x : RxError) (s : State) : Res :=
  .next <|
    if !running s || !(fbState (fbOf s .CAN_STAT c) ≥ 2) || 2 ≤ errOf s c then s
    else if x.pexc then canCause c 8 (count32 .CAN_PEXC 0 c s)
    else confine c (setCh c { chOf s c with recv := (chOf s c).recv + 1 + 8 * x.eights } (count32 .CAN_RX_ERR 0 c s))

end Sys2Proof.Machine
end

