-- ==== Sys2Proof/Machine/Deliver.lean ====
section
/-! DEFINITION. Frames at the destinations that they have crossed the fabric to: receive areas, star slot buffers, frames ended bad
(05 R133, 06 R139, R168, 09 R241). -/

namespace Sys2Proof.Machine

/-! ### Receive areas (05 R133) -/

/-- The receive area of a queue: first byte in shared memory, size. -/
def rxArea (s : State) (q : Nat) : Nat × Nat :=
  let v := rd s .QM_Q_RXA 0 q
  (fld v 8 0 * 0x40000, (fld v 15 12 + 1) * 0x40000)

/-- max_frame. -/
def maxFrame (s : State) (q : Nat) : Nat :=
  let v := fld (rd s .QM_Q_RXA 0 q) 29 16
  if 64 ≤ v && v ≤ 9216 then v else 9216

/-- `n` bytes from ring position `w`, cut where a bank ends and where the area wraps: position and length of each piece. -/
def rxPieces : Nat → Nat → Nat → Nat → List (Nat × Nat)
  | 0, _, _, _ => []
  | fuel + 1, size, w, n =>
    if n = 0 then []
    else
      let k := min n (0x40000 - w % 0x40000)
      (w, k) :: rxPieces fuel size ((w + k) % size) (n - k)

/-- A descriptor that the fabric writes (05 Table 5.1). -/
def rxDesc (f : Flight) (addr len : Nat) (first last bad : Bool) : BitVec 128 :=
  mkDesc
    [BitVec.ofNat 32 (addr / 0x40000 * 2 ^ 18 + addr % 0x40000),
     BitVec.ofNat 32 (ofBool first * 2 ^ 31 + ofBool last * 2 ^ 30 + len * 2 ^ 16 + f.tc * 2 ^ 13 + f.colour * 2 ^ 11 + f.inPort * 2 ^ 6 + ofBool bad * 2 ^ 5),
     BitVec.ofNat 32 f.stamp.toNat, BitVec.ofNat 32 (f.ptag.toNat * 65536)]

/-- Why a queue takes no frame from the fabric (R120, R121, R133). -/
def rxRefusal (s : State) (q : Nat) : Option Nat :=
  if !isOn s .QM_Q_STAT q then some qOff
  else if qLimit s q ≤ qUse s q then some qRefused
  else if (rxArea s q).2 - (queueOf s q).rxUsed < maxFrame s q then some qRefused
  else if descFree s = 0 then some qNoDesc
  else none

/-- One piece of a frame joins the queue and takes its ring space. -/
def rxPiece (q p : Nat) (d : BitVec 128) (size : Nat) (s : State) : State :=
  let (st, s) := qEnqueue q p 0 d s
  if st ≠ qOk then s
  else
    let k := queueOf s q
    setQueue q { k with rxUsed := k.rxUsed + dLen d, rxWrite := (k.rxWrite + dLen d) % size } s

/-- A frame is written into the receive area of queue `q` (R133, R139). -/
def rxDeliver (q : Nat) (f : Flight) (bad : Bool) (s : State) : State :=
  match rxRefusal s q with
  | some st => fabEvent (64 + f.tc) (count32 .FAB_Q_DROP_QM 0 (destPort s (.queue q) * 8 + f.tc) (qRefuse q st s).2)
  | none =>
    let (base, size) := rxArea s q
    let bad := bad || decide (maxFrame s q < f.bytes.length)
    let l := f.bytes.take (maxFrame s q)
    let ps := rxPieces 64 size ((queueOf s q).rxWrite % size) l.length
    let (st, _, s) := ps.foldl (fun (st, ofs, s) (w, k) =>
      let (st', s) := shWriteRun .fabric (base + w) (slice l ofs k) s
      (max st st', ofs + k, s)) (memOk, 0, s)
    let bad := bad || decide (st ≠ memOk)
    let n := ps.length
    (List.range n).foldl (fun s i =>
      let (w, k) := ps.getD i (0, 0)
      rxPiece q (qProducer s q) (rxDesc f (base + w) k (i = 0) (i + 1 = n) (bad && i + 1 = n)) size s) s

/-! ### Star slot buffers (09 R241) -/

/-- Mode `m` of the library in force is valid. -/
def modeValid (s : State) (m : Nat) : Bool := bit (tblW s 12 (m * 65) 0) 31

/-- A slot identifier is a device slot of a valid mode of the library in force. -/
def deviceSlot (s : State) (slot : Nat) : Bool :=
  (List.range 8).any fun m =>
    modeValid s m && (List.range (fld (tblW s 12 (m * 65) 0) 29 24 + 1)).any fun w =>
      let x := tblW s 12 (m * 65 + 1 + w) 2
      fld x 1 0 = 1 && bit x 2 && fld x 13 4 = slot

/-- A star record's length agrees with its header. -/
def starLenOk (l : List Byte) : Bool :=
  4 ≤ l.length && starLen l ≠ 255 && l.length = 4 + starLen l + 4 * ofBool ((byteAt l 3).getLsbD 1)

/-- An egress star record replaces a device slot buffer, or is dropped (R241). -/
def slotWrite (l : List Byte) (s : State) : State :=
  if !starLenOk l || !deviceSlot s (starSlot l) then count32 .STAR_SLOT_DROP 0 0 s
  else { s with star := { s.star with slots := nmPut s.star.slots (starSlot l) ⟨l, s.star.absBc⟩ } }

/-! ### Frames that have reached their destinations (R139, R168) -/

/-- The bytes that a leaving frame has sent: those of its earlier fragments, and of the present one after its preamble, which its
start preceded. -/
def sentNow (s : State) (p : Nat) (x : Leaving) : Nat := ((s.ticks - x.start) * 40 / (8 * bitTenths s p) - 8)

/-- A frame that is leaving ends bad now: the bytes sent, padded with zeros to 60 (07 R181, R182). -/
def cutBad (n : Nat) (x : Leaving) : Leaving :=
  let l := x.bytes.take n
  { x with bad := true, bytes := l ++ List.replicate (60 - l.length) 0 }

/-- A flight has begun to leave port `p`. -/
def begun (s : State) (p id : Nat) : Bool :=
  let k := portOf s p
  (k.leaving.toList ++ k.remainder.toList).any fun x => x.flight = id

/-- A frame that has begun to leave port `p` ends bad (R139, 07 R181). -/
def leaveBad (p id : Nat) (s : State) : State :=
  let k := portOf s p
  let hit (n : Leaving → Nat) (x : Leaving) : Leaving := if x.flight = id && !x.bad then cutBad (n x) x else x
  raise 79 (count16 .FAB_CT_BAD 0 0
    (setPort p { k with leaving := k.leaving.map (hit fun x => x.sent + sentNow s p x), remainder := k.remainder.map (hit (·.sent)) } s))

/-- A whole frame takes leave of a destination without being sent (R138, R139). -/
def discardAt (d : Dest) (f : Flight) (s : State) : State := fabEvent (64 + f.tc) (serveDest f.id d (unwait d f s))

/-- A destination has lost a cell of a frame (R164): one that has begun to leave there ends bad at once. -/
def loseCell (d : Dest) (id : Nat) (s : State) : State :=
  let s := mapFlights id (fun f => if d ∈ f.dests then { f with badAt := d :: f.badAt } else f) s
  match d with
  | .eth p => if begun s p id then leaveBad p id s else s
  | _ => s

/-- The receive areas take the frames that wait for them, in order for each queue; one that meets a bank in FROST waits for its
thaw with those behind it (05 R133; 04 R107). -/
def rxPump (s : State) : State :=
  (s.fab.rxWait.foldl (fun (shut, s) (id, q) =>
    if q ∈ shut then (shut, s)
    else
      let done (s : State) : State := setFab { s.fab with rxWait := s.fab.rxWait.filter (· ≠ (id, q)) } s
      match s.fab.flights.find? fun f => f.id = id && Dest.queue q ∈ f.dests with
      | none => (shut, done s)
      | some f =>
        let t := rxDeliver q f (f.bad || decide (Dest.queue q ∈ f.badAt)) s
        match t.mem.stall with
        | some b => (q :: shut, bankTouch b s)
        | none => (shut, done (serveDest id (.queue q) t))) (([] : List Nat), s)).2

/-- A frame's last cell has reached a destination: a bad one is discarded, ends its medium frame bad or has bad set in its last
descriptor (R139, R168). -/
def lastOut (f : Flight) (d : Dest) (s : State) : State :=
  let bad := f.bad || decide (d ∈ f.badAt)
  let s := setFab { s.fab with flights := s.fab.flights.map fun g => if g = f then { f with full := d :: f.full } else g } s
  match d with
  | .eth p =>
    if !bad then s
    else if !begun s p f.id then discardAt d f s
    else if d ∈ f.badAt then s
    else leaveBad p f.id s
  | .queue q => rxPump (setFab { s.fab with rxWait := s.fab.rxWait ++ [(f.id, q)] } s)
  | .star => if bad then discardAt d f s else serveDest f.id d (slotWrite f.bytes s)
  | .can c => if bad then discardAt d f s else canArrive c f.bytes f.tc (some f.id) s

end Sys2Proof.Machine
end

