-- ==== Sys2Proof/Machine/Time.lean ====
section
/-! DEFINITION. The time base: increment, step and slew, stamps, pins, alarms (03). -/

namespace Sys2Proof.Machine

/-- The time base set. -/
def setTime (t : TimeSt) (s : State) : State := { s with time := t }

/-! ### Step and slew -/

/-- A step is pending or a slew runs (R71); a slew whose cancel is accepted no longer counts (R70). -/
def adjBusy (s : State) : Bool := s.time.step.isSome || s.time.slew.isSome

/-- A slew of `ofs` ns over `us` microseconds exceeds 100 ppm (R69). -/
def slewTooFast (ofs : Int) (us : Nat) : Bool := decide (us / 10 < ofs.natAbs)

/-- A slew's interval or offset is out of range (R69, Table 3.7). -/
def slewBad (ofs : Int) (us : Nat) : Bool := us < 1000 || 1000000000 < us || slewTooFast ofs us

/-- Offset of a TIME_ADJUST. -/
def cmdOfs (w : List W32) : Int := (BitVec.ofNat 64 (cmd64 w 8)).toInt

/-- Interval of a TIME_ADJUST in us. -/
def cmdIntv (w : List W32) : Nat := (wordAt w 5).toNat

/-- A slew is set up: its ticks number interval x 250 (R69). -/
def startSlew (src : AdjSrc) (ofs : Int) (us : Nat) (s : State) : State :=
  setTime { s.time with slew := some ⟨src, ofs, us * 250, 0⟩ } s

/-- Units of 2^-32 ns that a slew has added after `n` of its ticks, the whole offset exactly at the last (R69). -/
def slewSum (ofs : Int) (total n : Nat) : Int :=
  Int.sign ofs * ((ofs.natAbs * 2 ^ 32 * n / total : Nat) : Int)

/-- TIME_ADJUST_STEP (R67, R68, R71): also the command form whose mode is none of 1 to 3. -/
def execTimeAdjustStep (ring : Fin 10) (slot : Nat) (s : State) : Res :=
  .next (match findCmd s ring slot with
    | none => s
    | some d =>
      if cmdByte d.words 16 = 2 || cmdByte d.words 16 = 3 then s
      else startCmd ring slot 0x60 (fun w => cmdByte w 16 ≠ 1) (fun c w s =>
        if starOnRunning s || adjBusy s then complete c stBusy 0 s
        else setTime { s.time with step := some (.cmd c, cmdOfs w) } s) s)

/-- TIME_ADJUST_SLEW (R69, R71). -/
def execTimeAdjustSlew (ring : Fin 10) (slot : Nat) (s : State) : Res :=
  .next (match findCmd s ring slot with
    | none => s
    | some d =>
      if cmdByte d.words 16 ≠ 2 then s
      else startCmd ring slot 0x60 (fun w => slewBad (cmdOfs w) (cmdIntv w)) (fun c w s =>
        if adjBusy s then complete c stBusy 0 s else startSlew (.cmd c) (cmdOfs w) (cmdIntv w) s) s)

/-- The running slew no longer runs and is to end at the next tick (R70). -/
def cancelSlew (w : Slew) (by_ : AdjSrc) (s : State) : State :=
  setTime { s.time with slew := none, cancelled := s.time.cancelled ++ [(w, by_)] } s

/-- TIME_ADJUST_CANCEL (R70). -/
def execTimeAdjustCancel (ring : Fin 10) (slot : Nat) (s : State) : Res :=
  .next (match findCmd s ring slot with
    | none => s
    | some d =>
      if cmdByte d.words 16 ≠ 3 then s
      else startCmd ring slot 0x60 noBad (fun c _ s =>
        match s.time.slew with
        | some w => cancelSlew w (.cmd c) s
        | none => complete c stFailed 0 s) s)

/-- A request that does not act sets refused of TIME_ADJ_CTRL (Table 3.8). -/
def adjRefused (s : State) : State := setB .TIME_ADJ_CTRL 0 0 0x200 s

/-- A write of TIME_ADJ_CTRL: its W1C bits, then the request of its mode (R67-R71). -/
def adjCtrlWrite (v : W32) (s : State) : State :=
  let s := plainWrite .TIME_ADJ_CTRL 0 0 v s
  let ofs := (BitVec.ofNat 64 (rd64 s .TIME_ADJ_OFS_LO .TIME_ADJ_OFS_HI 0 0)).toInt
  let us := (rd s .TIME_ADJ_INTV 0 0).toNat
  match fld v 1 0 with
  | 1 =>
    if starOnRunning s || adjBusy s then adjRefused s
    else setTime { s.time with step := some (.regs, ofs) } s
  | 2 =>
    if adjBusy s || slewBad ofs us then adjRefused s
    else startSlew .regs ofs us s
  | 3 =>
    match s.time.slew with
    | some w => cancelSlew w .regs s
    | none => adjRefused s
  | _ => s

/-- TIME_ADJ_CTRL_STEP (R67, R68). -/
def execTimeAdjCtrlStep (m : Fin 64) (v : W32) (s : State) : Res :=
  .next (if fld v 1 0 = 1 then withWrite m .TIME_ADJ_CTRL 0 v (adjCtrlWrite v) s else s)

/-- TIME_ADJ_CTRL_SLEW (R69). -/
def execTimeAdjCtrlSlew (m : Fin 64) (v : W32) (s : State) : Res :=
  .next (if fld v 1 0 = 2 then withWrite m .TIME_ADJ_CTRL 0 v (adjCtrlWrite v) s else s)

/-- TIME_ADJ_CTRL_CANCEL (R70). -/
def execTimeAdjCtrlCancel (m : Fin 64) (v : W32) (s : State) : Res :=
  .next (if fld v 1 0 = 3 then withWrite m .TIME_ADJ_CTRL 0 v (adjCtrlWrite v) s else s)

/-- The adjust unit is done: source 21 and the tick in TIME_ADJ_DONE (R72). -/
def adjDone (t : Nat) (s : State) : State := raise 21 (wr64 .TIME_ADJ_DONE_LO .TIME_ADJ_DONE_HI 0 0 t s)

/-- An adjustment or its cancel that came as a command completes (R67, R70). -/
def adjComplete (src : AdjSrc) (st : Nat) (result : W64) (s : State) : State :=
  match src with
  | .cmd c => complete c st result s
  | .regs => s

/-- A cancelled slew ends with the whole nanoseconds it has added, and then the cancel completes (R70, R72, Table 3.8). -/
def slewAborted (w : Slew) (by_ : AdjSrc) (s : State) : State :=
  adjComplete by_ stOk 0
    (adjComplete w.src stAborted (BitVec.ofInt 64 (Int.tdiv (slewSum w.offset w.total w.done) (2 ^ 32)))
      (setB .TIME_ADJ_CTRL 0 0 0x400 (adjDone s.time.now.toNat s)))

/-- SLEW_END (R70, R72): at the tick after an accepted cancel, or at the last tick. -/
def execSlewEnd (s : State) : Res :=
  .next (match s.time.cancelled with
    | e :: es => slewAborted e.1 e.2 (setTime { s.time with cancelled := es } s)
    | [] =>
      match s.time.slew with
      | none => s
      | some w =>
        if w.total ≤ w.done then
          adjComplete w.src stOk s.time.now (adjDone s.time.now.toNat (setTime { s.time with slew := none } s))
        else s)

/-! ### Increment and reading -/

/-- INCR_FRAC_WRITE (R63): held until the whole nanoseconds are written. -/
def execIncrFracWrite (m : Fin 64) (v : W32) (s : State) : Res :=
  .next (withWrite m .TIME_INCR_FRAC 0 v (plainWrite .TIME_INCR_FRAC 0 0 v) s)

/-- A write of TIME_INCR_NS applies both parts within the range of R62, else sets incr_err and fires source 18. -/
def incrNsWrite (v : W32) (s : State) : State :=
  let n := fld v 3 0 * 2 ^ 32 + (rd s .TIME_INCR_FRAC 0 0).toNat
  if 0x3FF800000 ≤ n && n ≤ 0x400800000 then
    setTime { s.time with incr := BitVec.ofNat 36 n } (plainWrite .TIME_INCR_NS 0 0 v s)
  else raise 18 (setB .TIME_STAT 0 0 2 s)

/-- INCR_NS_WRITE (R62, R63). -/
def execIncrNsWrite (m : Fin 64) (v : W32) (s : State) : Res :=
  .next (withWrite m .TIME_INCR_NS 0 v (incrNsWrite v) s)

/-- A read of TIME_NOW_LO latches the rest for its master (R65). -/
def timeNowRead (m : Nat) (s : State) : W32 × State :=
  (BitVec.ofNat 32 (now s), wr .TIME_NOW_FRAC 0 m s.time.frac (wr .TIME_NOW_HI 0 m (BitVec.ofNat 32 (now s / 2 ^ 32)) s))

/-- TIME_NOW_READ (R65). -/
def execTimeNowRead (m : Fin 64) (s : State) : Res := .next (withRead m .TIME_NOW_LO 0 (fun s => replyOf m (timeNowRead m s)) s)

/-! ### Stamp queues (R80-R83) -/

/-- The lowest-numbered non-empty port queue of a kind. -/
def firstStamp (q : NMap (List Stamp)) : Option (Nat × Stamp) :=
  (List.range 16).findSome? fun p => (nmGet [] q p).head?.map fun e => (p, e)

/-- The words of a popped entry (Table 3.4). -/
def stampW1 (e : Stamp) : W32 :=
  BitVec.ofNat 32 (e.seqId.toNat * 2 ^ 16 + e.domain.toNat * 2 ^ 8 + e.msgType.toNat * 2 ^ 4)

/-- A read of W0 pops the oldest entry of the lowest non-empty port (R80); an empty pop reads valid 0. -/
def stampPop (m : Nat) (tx : Bool) (s : State) : W32 × State :=
  let q := if tx then s.time.txs else s.time.rxs
  let w1 : Reg := if tx then .TIME_TXS_W1 else .TIME_RXS_W1
  let w2 : Reg := if tx then .TIME_TXS_W2 else .TIME_RXS_W2
  let w3 : Reg := if tx then .TIME_TXS_W3 else .TIME_RXS_W3
  match firstStamp q with
  | none => (0, s)
  | some (p, e) =>
    let q := nmSet [] q p ((nmGet [] q p).drop 1)
    let s := setTime (if tx then { s.time with txs := q } else { s.time with rxs := q }) s
    (BitVec.ofNat 32 (2 ^ 31 + p),
      wr w3 0 m (BitVec.ofNat 32 (e.ns.toNat / 2 ^ 32)) (wr w2 0 m (BitVec.ofNat 32 e.ns.toNat) (wr w1 0 m (stampW1 e) s)))

/-- STAMP_QUEUE_POP (R80). -/
def execStampQueuePop (m : Fin 64) (tx : Bool) (s : State) : Res :=
  .next (withRead m (if tx then .TIME_TXS_W0 else .TIME_RXS_W0) 0 (fun s => replyOf m (stampPop m tx s)) s)

/-- A stamp reaches a port's queue of 64 receive or 16 two-step entries, or is lost and counted (R81). -/
def stampPush (tx : Bool) (p : Nat) (e : Stamp) (s : State) : State :=
  let q := nmGet [] (if tx then s.time.txs else s.time.rxs) p
  if q.length < (if tx then 16 else 64) then
    setTime (if tx then { s.time with txs := nmSet [] s.time.txs p (q ++ [e]) }
             else { s.time with rxs := nmSet [] s.time.rxs p (q ++ [e]) }) s
  else
    let s := count16 (if tx then .TIME_TXS_OVF else .TIME_RXS_OVF) p 0 s
    raise (if tx then 20 else 19) (raise (97 + 2 * p) s)

/-! ### Time pins (R85, R86) -/

/-- A rejected edge of either pin is counted, saturating at 0xFFF (R86). -/
def pinReject (s : State) : State :=
  setF .TIME_PPSIN_GUARD 0 0 31 20 (min 0xFFF (fld (rd s .TIME_PPSIN_GUARD 0 0) 31 20 + 1)) s

/-- The guard time of a pin, 0 being none, has passed since its last accepted edge (R86). -/
def guardPassed (last : Option W64) (ms : Nat) (t : W64) : Bool :=
  match last with
  | none => true
  | some l => ms = 0 || decide ((ms * 1000000 : Int) ≤ (t - l).toInt)

/-- PPS_IN_EDGE (R86). -/
def execPpsInEdge (stamp : W64) (s : State) : Res :=
  .next (if running s && bit (rd s .TIME_CTRL 0 0) 2 then
    if guardPassed s.time.ppsLast (fld (rd s .TIME_PPSIN_GUARD 0 0) 9 0) stamp then
      raise 16 (wr64 .TIME_PPSIN_LO .TIME_PPSIN_HI 0 0 stamp.toNat
        (setTime { s.time with ppsLast := some stamp, ppsBase := stamp, ppsMissFired := false } s))
    else pinReject s
  else s)

/-- No edge for 1.1 s of the later of the last accepted edge and the enabling write (R86). -/
def ppsMissing (s : State) : Bool :=
  running s && bit (rd s .TIME_CTRL 0 0) 2 && !s.time.ppsMissFired &&
    decide ((1100000000 : Int) ≤ (s.time.now - s.time.ppsBase).toInt)

/-- PPS_IN_MISSING (R86). -/
def execPpsInMissing (s : State) : Res :=
  .next (if ppsMissing s then raise 17 (setTime { s.time with ppsMissFired := true } s) else s)

/-- A pulse of EQX_OUT pin `k` begins at a local time (R85); it is at most 1.02 us long, less than a basic cycle. -/
def eqxPinStart (k : Nat) (t : W64) (s : State) : State :=
  let c := rd s .TIME_EQXOUT_CFG k 0
  let w := max 1 (fld c 9 2) * 4
  say (.timePin (5 + k) (!bit c 1) t) (setTime { s.time with eqxOutEnd := nmPut s.time.eqxOutEnd k (t + BitVec.ofNat 64 w) } s)

/-- A write of TIME_CTRL: setting pps_in_en starts the missing-edge time afresh (R86). -/
def timeCtrlWrite (v : W32) (s : State) : State :=
  let rose := bit v 2 && !bit (rd s .TIME_CTRL 0 0) 2
  let s := plainWrite .TIME_CTRL 0 0 v s
  if rose then setTime { s.time with ppsBase := s.time.now } s else s

/-- Number of the PPS_OUT edge last reached at a local time: whole seconds, moved by the signed offset. -/
def ppsCount (s : State) (t : Nat) : Int := ((t : Int) - sfld16 (rd s .TIME_PPSOUT_OFS 0 0) 0) / 1000000000

/-- PPS_OUT's next whole second plus the offset has come since the edges were last looked at, also by a forward step
(R73, R85). -/
def ppsOutDue (s : State) : Bool :=
  running s && bit (rd s .TIME_CTRL 0 0) 1 && decide (ppsCount s s.time.ppsAt.toNat < ppsCount s (now s))

/-- Local time of the edge that is due: the second itself, or the step tick that has passed it. -/
def ppsEdge (s : State) : Nat :=
  let t := (ppsCount s (now s) * 1000000000 + sfld16 (rd s .TIME_PPSOUT_OFS 0 0) 0).toNat
  if t + s.time.incr.toNat / 2 ^ 32 + 1 < now s then now s else t

/-- PPS_OUT_PULSE (R85): the pin rises. -/
def execPpsOutPulse (s : State) : Res :=
  .next (if ppsOutDue s then
    let us := min 500000 (max 1 (fld (rd s .TIME_PPSOUT_CFG 0 0) 19 0))
    let t := ppsEdge s
    say (.timePin 4 true (BitVec.ofNat 64 t))
      (setTime { s.time with ppsAt := s.time.now, ppsOutEnd := some (BitVec.ofNat 64 (t + us * 1000)) } s)
  else s)

/-- PPS_OUT's pulse ends: its width has passed, or its next edge comes one tick from now (R85). -/
def ppsEndDue (s : State) (e : W64) : Bool :=
  e.toNat ≤ now s || decide (ppsCount s (now s) < ppsCount s (now s + s.time.incr.toNat / 2 ^ 32 + 1))

/-- TIME_PIN_PULSE_END (R85): pin 0 is PPS_OUT, 1 to 4 EQX_OUT0-3. -/
def execTimePinPulseEnd (pin : Fin 5) (s : State) : Res :=
  .next (if pin.val = 0 then
    match s.time.ppsOutEnd with
    | some e =>
      if ppsEndDue s e then
        say (.timePin 4 false (if e.toNat ≤ now s then e else s.time.now)) (setTime { s.time with ppsOutEnd := none } s)
      else s
    | none => s
  else
    match nmFind s.time.eqxOutEnd (pin - 1) with
    | some e =>
      if e.toNat ≤ now s then
        say (.timePin (4 + pin) (bit (rd s .TIME_EQXOUT_CFG (pin - 1) 0) 1) e)
          (setTime { s.time with eqxOutEnd := nmErase s.time.eqxOutEnd (pin - 1) } s)
      else s
    | none => s)

/-! ### Alarms (R87, R88) -/

/-- Alarm `n` set. -/
def setAlarm (n : Nat) (a : Option W64) (s : State) : State :=
  setTime (if n = 0 then { s.time with alarm0 := a } else { s.time with alarm1 := a }) s

/-- Alarm `n`. -/
def alarmOf (s : State) (n : Nat) : Option W64 := if n = 0 then s.time.alarm0 else s.time.alarm1

/-- Arming captures the instant registers. -/
def alarmArm (n : Nat) (s : State) : State :=
  setB .TIME_ALARM_CTRL 0 0 (oneBit n) (setAlarm n (some (BitVec.ofNat 64 (rd64 s .TIME_ALARM_LO .TIME_ALARM_HI n 0))) s)

/-- Disarming drops the instant. -/
def alarmDisarm (n : Nat) (s : State) : State := clrB .TIME_ALARM_CTRL 0 0 (oneBit n) (setAlarm n none s)

/-- A write of TIME_ALARM_CTRL: disarming governs a write that does both (R87). -/
def alarmCtrlWrite (v : W32) (s : State) : State :=
  [0, 1].foldl (fun s n => if bit v (16 + n) then alarmDisarm n s else if bit v n then alarmArm n s else s) s

/-- ALARM_ARM (R87): the write of arm bit `n` alone. -/
def execAlarmArm (m : Fin 64) (n : Fin 2) (s : State) : Res :=
  .next (withWrite m .TIME_ALARM_CTRL 0 (oneBit n) (alarmCtrlWrite (oneBit n)) s)

/-- ALARM_DISARM (R87): the write of disarm bit `n` alone. -/
def execAlarmDisarm (m : Fin 64) (n : Fin 2) (s : State) : Res :=
  .next (withWrite m .TIME_ALARM_CTRL 0 (oneBit (16 + n)) (alarmCtrlWrite (oneBit (16 + n))) s)

/-- The local clock runs at every tick: in RUN and while a low-power state is entered (R61, R66). -/
def clockRuns (s : State) : Bool := running s || s.pwr.st = .entering || s.pwr.st = .enteringMidwinter

/-- ALARM_FIRE (R88): once, at the first tick at or after the instant. -/
def execAlarmFire (n : Fin 2) (s : State) : Res :=
  .next (match alarmOf s n with
    | some t => if clockRuns s && decide (t.toNat ≤ now s) then raise (22 + n) (alarmDisarm n s) else s
    | none => s)

/-- The clock advances by one tick: increment and the running slew's share (R61, R69, R70). -/
def clockTick (s : State) : State :=
  let add : Int :=
    match s.time.slew with
    | some w => if w.total ≤ w.done then 0 else slewSum w.offset w.total (w.done + 1) - slewSum w.offset w.total w.done
    | none => 0
  let v : Int := (s.time.now.toNat * 2 ^ 32 + s.time.frac.toNat + s.time.incr.toNat : Nat) + add
  let slew := s.time.slew.map fun w => if w.total ≤ w.done then w else { w with done := w.done + 1 }
  setTime { s.time with now := BitVec.ofInt 64 (v / 2 ^ 32), frac := BitVec.ofInt 32 v, slew := slew } s

/-- The clock loads the always-on real-time clock, and synced clears (R64). -/
def clockReload (s : State) : State :=
  clrB .TIME_STAT 0 0 1
    (setTime { s.time with now := BitVec.ofNat 64 ((rd s .CLK_RTC_S 0 0).toNat * 1000000000), frac := 0 } s)

end Sys2Proof.Machine
end

