-- ==== Sys2Proof/Machine/Eth.lean ====
section
/-! DEFINITION. Ethernet ports: modes, link, receive checks, pauses, gates, transmission, insertion, pre-emption, EEE,
redundancy pairs, MACsec, MDIO, counters (07, 03 R76-R79). -/

namespace Sys2Proof.Machine

/-! ### Registers (R176, R177, R203, R189) -/

/-- A mode that the port offers (Table 7.1). -/
def modeOffered (p : Nat) (v : W32) : Bool :=
  let iface := fld v 3 0
  let speed := fld v 6 4
  let an := bit v 7
  if p < 4 then iface = 0 || iface = 1 || (iface = 2 && (an || speed ≤ 3))
  else if p < 12 then iface = 0 || iface = 3 || (iface = 4 && (an || speed = 3 || speed = 4))
  else iface = 0 || iface = 5

/-- A write of ETH_MODE (R176). -/
def ethModeWrite (p : Nat) (v : W32) (s : State) : State :=
  let v := v &&& 0xFF
  let v := if modeOffered p v then v else putFld v 3 0 0
  if isOff s .ETH_STAT p then wr .ETH_MODE 0 p v s
  else if v = rd s .ETH_MODE 0 p then s
  else setB .ETH_STAT 0 p 0x100 s

/-- ETH_MODE_WRITE (R176). -/
def execEthModeWrite (m : Fin 64) (v : W32) (s : State) : Res :=
  .next (withWrite m .ETH_MODE 0 v (fun s => ethModeWrite (chanOf .ETH_MODE m s) v s) s)

/-- A frame that waits at a port is discarded and counted (R178); where the link went down, a ready-first multicast counts as
refused (06 R165). -/
def discardWaiting (p c id : Nat) (down : Bool) (s : State) : State :=
  let multi := down && s.fab.flights.any fun f => f.id = id && f.multi
  let s := if multi then fabEvent (64 + c) (count32 .FAB_Q_DROP_BUF 0 (p * 8 + c) s) else count32 .ETH_TX_DISCARD 0 p s
  serveDest id (.eth p) s

/-- Frames queued for a port that is not ON, or whose link went down, are discarded (R178). -/
def discardQueued (p : Nat) (down : Bool) (s : State) : State :=
  noteEmpty p ((List.range 8).foldl (fun s c =>
    let q := egressOf s (p * 8 + c)
    q.waiting.foldl (fun s id => discardWaiting p c id down s) (setEgress (p * 8 + c) { q with waiting := [] } s)) s)

/-- A link has gone down: ready-first multicasts still on their way to the port have it as served (06 R165). -/
def serveMulticasts (p : Nat) (s : State) : State :=
  (s.fab.flights.filter fun f => f.multi && Dest.eth p ∈ f.dests).foldl (fun s f => discardWaiting p f.tc f.id true s) s

/-- A write of ETH_CTRL (R177, R178). -/
def ethCtrlWrite (p : Nat) (v : W32) (s : State) : State :=
  let was := isOn s .ETH_STAT p
  let s := fbWrite .ETH_STAT p (bit v 0) (plainWrite .ETH_CTRL 0 p v s)
  if isOn s .ETH_STAT p then s
  else discardQueued p false (if was then setPort p { portOf s p with stopAt := s.time.now } s else s)

/-- PORT_ENABLE (R177). -/
def execPortEnable (m : Fin 64) (v : W32) (s : State) : Res :=
  .next (if bit v 0 then withWrite m .ETH_CTRL 0 v (fun s => ethCtrlWrite (chanOf .ETH_CTRL m s) v s) s else s)

/-- PORT_DISABLE (R177). -/
def execPortDisable (m : Fin 64) (v : W32) (s : State) : Res :=
  .next (if bit v 0 then s else withWrite m .ETH_CTRL 0 v (fun s => ethCtrlWrite (chanOf .ETH_CTRL m s) v s) s)

/-- PORT_STARTED (R177). -/
def execPortStarted (p : Fin 16) (s : State) : Res :=
  .next (if running s then fbPut .ETH_STAT p (fbStarted (fbOf s .ETH_STAT p)) s else s)

/-- A frame that was leaving is lost with the link (R178). -/
def loseLeaving (p : Nat) (s : State) : State :=
  let k := portOf s p
  (k.leaving.toList ++ k.remainder.toList).foldl (fun s x => serveDest x.flight (.eth p) (count32 .ETH_TX_DISCARD 0 p s))
    (setPort p { k with leaving := none, remainder := none, control := [], retry := none, opp := none } s)

/-- Bytes of a frame on its way in, FCS included, as far as the fabric knows it. -/
def arrivalLen (s : State) (a : Arrival) : Nat :=
  match s.fab.flights.find? fun f => f.id = a.id with
  | some f => f.bytes.length + 4
  | none => a.head.length

/-- The frames that come in at Ethernet port `p`. -/
def arrivalsAt (s : State) (p : Nat) : List Arrival := s.fab.arrivals.filter fun a => a.port = p && a.kind = .eth

/-- Every frame on its way in through port `p` ends without its last cell, bad (06 R139). -/
def cutArrivals (p : Nat) (s : State) : State :=
  (arrivalsAt s p).foldl (fun s a => fabLast a.id (arrivalLen s a) false s) s

/-- Verification begins, or is not needed (R189). -/
def verifyBegin (p : Nat) (s : State) : State :=
  let c := rd s .ETH_PREEMPT_CFG 0 p
  if 12 ≤ p || !bit c 0 then wr .ETH_PREEMPT_STAT 0 p 0 s
  else if bit c 1 then wr .ETH_PREEMPT_STAT 0 p 8 s
  else
    wr .ETH_PREEMPT_STAT 0 p (if portUp s p then 2 else 1)
      (setPort p { portOf s p with verifySent := 0, verifyNext := s.time.now } s)

/-- The link and its rate change: queues, leaving frames, stamp queues, verification, the status event (R178, R189, 03 R83). -/
def linkSet (p : Nat) (up : Bool) (rate : Nat) (s : State) : State :=
  let old := rd s .ETH_STAT 0 p
  let new := putFld (putFld old 4 4 (ofBool up)) 7 5 rate
  if new = old then s
  else
    let s := wr .ETH_STAT 0 p new s
    let s := if fld old 7 5 = rate then s
             else setTime { s.time with rxs := nmErase s.time.rxs p, txs := nmErase s.time.txs p } s
    let s := if up then s else noteEmpty p (cutArrivals p (serveMulticasts p (discardQueued p true (loseLeaving p s))))
    let s := if bit old 4 = up then s else verifyBegin p s
    raise (96 + 2 * p) (setB .ETH_EVT_CAUSE 0 p 1 s)

/-- LINK_CHANGE (R178): an OFF port holds its link down (R177). -/
def execLinkChange (p : Fin 16) (up : Bool) (rate : Fin 8) (s : State) : Res :=
  .next (if running s && !(up && isOff s .ETH_STAT p) then linkSet p up rate s else s)

/-- PORT_STOPPED (R177). -/
def execPortStopped (p : Fin 16) (s : State) : Res :=
  .next (if running s && fbState (fbOf s .ETH_STAT p) = 3 && (portOf s p).leaving.isNone && (portOf s p).remainder.isNone &&
      (arrivalsAt s p).isEmpty then
    linkSet p false (fld (rd s .ETH_STAT 0 p) 7 5) (fbPut .ETH_STAT p (fbStopped (fbOf s .ETH_STAT p)) s)
  else s)

/-- A write of ETH_TX_THR: a value below 64 is taken as 64 (R203). -/
def txThrWrite (p : Nat) (v : W32) (s : State) : State :=
  wr .ETH_TX_THR 0 p (BitVec.ofNat 32 (max 64 (fld v 13 0))) s

/-- TX_THR_WRITE (R203). -/
def execTxThrWrite (m : Fin 64) (v : W32) (s : State) : Res :=
  .next (withWrite m .ETH_TX_THR 0 v (fun s => txThrWrite (chanOf .ETH_TX_THR m s) v s) s)

/-- A write of ETH_PREEMPT_CFG: verification starts anew when en or verify_dis changes (R189). -/
def preemptCfgWrite (p : Nat) (v : W32) (s : State) : State :=
  let old := rd s .ETH_PREEMPT_CFG 0 p
  let s := plainWrite .ETH_PREEMPT_CFG 0 p v s
  if fld old 1 0 = fld v 1 0 then s else verifyBegin p s

/-! ### Pre-emption verification (R189) -/

/-- verify_ms in ns. -/
def verifyTime (s : State) (p : Nat) : Nat := max 1 (fld (rd s .ETH_PREEMPT_CFG 0 p) 22 16) * 1000000

/-- Verification of a port runs. -/
def verifying (s : State) (p : Nat) : Bool :=
  portUp s p && (fld (rd s .ETH_PREEMPT_STAT 0 p) 2 0 = 1 || fld (rd s .ETH_PREEMPT_STAT 0 p) 2 0 = 2)

/-- PREEMPT_VERIFY_SEND (R189). -/
def execPreemptVerifySend (p : Fin 16) (s : State) : Res :=
  .next (if running s && verifying s p && decide ((portOf s p).verifyNext.toNat ≤ now s) then
    let k := portOf s p
    if k.verifySent < 3 then
      setF .ETH_PREEMPT_STAT 0 p 2 0 2
        (setPort p { k with verifySent := k.verifySent + 1, verifyNext := s.time.now + BitVec.ofNat 64 (verifyTime s p),
                            control := k.control ++ [.verify] } s)
    else ethCause p 4 (wr .ETH_PREEMPT_STAT 0 p 4 s)
  else s)

/-- PREEMPT_RESPOND_RX (R189). -/
def execPreemptRespondRx (p : Fin 16) (s : State) : Res :=
  .next (if running s && verifying s p && fld (rd s .ETH_PREEMPT_STAT 0 p) 2 0 = 2 then wr .ETH_PREEMPT_STAT 0 p 0xB s else s)

/-- Pre-emption is active. -/
def preemptActive (s : State) (p : Nat) : Bool := bit (rd s .ETH_PREEMPT_CFG 0 p) 0 && bit (rd s .ETH_PREEMPT_STAT 0 p) 3

/-- A class leaves preemptably. -/
def preemptable (s : State) (p c : Nat) : Bool := preemptActive s p && bit (rd s .ETH_PREEMPT_CFG 0 p) (8 + c)

/-- The minimum non-final fragment in bytes. -/
def minFrag (s : State) (p : Nat) : Nat := 64 * (1 + fld (rd s .ETH_PREEMPT_CFG 0 p) 3 2)

/-! ### Counters (R204) -/

/-- The 64-bit counters: 0 RX_OCT, 1 RX_FRM, 2 TX_OCT, 3 TX_FRM. -/
def c64Reg (k : Nat) : Reg × Reg :=
  match k with
  | 0 => (.ETH_RX_OCT_LO, .ETH_RX_OCT_HI)
  | 1 => (.ETH_RX_FRM_LO, .ETH_RX_FRM_HI)
  | 2 => (.ETH_TX_OCT_LO, .ETH_TX_OCT_HI)
  | _ => (.ETH_TX_FRM_LO, .ETH_TX_FRM_HI)

/-- A 64-bit counter counts `n`. -/
def count64 (p k n : Nat) (s : State) : State :=
  let lo := (c64Reg k).1
  let v := (rd s lo 0 p).toNat + (nmGet 0 s.eth.ctrHi (p * 4 + k)).toNat * 2 ^ 32 + n
  let s := { s with eth := { s.eth with ctrHi := nmSet 0 s.eth.ctrHi (p * 4 + k) (BitVec.ofNat 32 (v / 2 ^ 32)) } }
  wr lo 0 p (BitVec.ofNat 32 v) s

/-- The read of a LO register: value, latched HI for the reader, whole counter cleared. -/
def c64Read (m p k : Nat) (s : State) : W32 × State :=
  let (lo, hi) := c64Reg k
  let v := rd s lo 0 p
  let s := wr hi 0 (p * 64 + m) (nmGet 0 s.eth.ctrHi (p * 4 + k)) s
  (v, wr lo 0 p 0 { s with eth := { s.eth with ctrHi := nmErase s.eth.ctrHi (p * 4 + k) } })

/-- COUNTER64_LO_READ (R204). -/
def execCounter64LoRead (m : Fin 64) (k : Fin 4) (s : State) : Res :=
  .next (withRead m (c64Reg k).1 0 (fun s => replyOf m (c64Read m (chanOf (c64Reg k).1 m s) k s)) s)

/-! ### MACsec (R199, R200) -/

/-- A word of a secure channel: 0 SC_CFG, 1 and 2 SCI, 4 + 4a + w word w of SA a. -/
def secW (s : State) (p sc w : Nat) : W32 := nmGet (if w = 0 then 0x10 else 0) s.eth.secure ((p * 32 + sc) * 32 + w)

/-- A word of a secure channel set. -/
def setSecW (p sc w : Nat) (v : W32) (s : State) : State :=
  { s with eth := { s.eth with secure := nmSet (if w = 0 then 0x10 else 0) s.eth.secure ((p * 32 + sc) * 32 + w) v } }

/-- The next PN of an SA. -/
def secPn (s : State) (p sc an : Nat) : Nat := (secW s p sc (6 + 4 * an)).toNat + (secW s p sc (7 + 4 * an)).toNat * 2 ^ 32

/-- pn_thresh (Table 7.9). -/
def pnThresh : Nat := 2 ^ 64 - 2 ^ 32

/-- The next PN of an SA set; the status event fires once as it reaches pn_thresh (R200). -/
def setSecPn (p sc an pn : Nat) (s : State) : State :=
  let old := secPn s p sc an
  let s := setSecW p sc (7 + 4 * an) (BitVec.ofNat 32 (pn / 2 ^ 32)) (setSecW p sc (6 + 4 * an) (BitVec.ofNat 32 pn) s)
  if old < pnThresh && pnThresh ≤ pn then ethCause p 5 s else s

/-- The key of an SA: its slot is loaded with an AES-256 key for MACsec whose users include the hardware (13 R367). -/
def secKey (s : State) (p sc an : Nat) : Option (BitVec 256) :=
  match nmFind s.cry.slots (fld (secW s p sc (4 + 4 * an)) 7 0) with
  | some k => if k.loaded && fld k.attr 1 0 = 2 && bit k.attr 3 && bit k.attr 11 then some k.key else none
  | none => none

/-- The SCI of a secure channel. -/
def sciOf (s : State) (p sc : Nat) : Nat := (secW s p sc 1).toNat + (secW s p sc 2).toNat * 2 ^ 32

/-- The nonce of GCM-AES-XPN-256: SSCI and PN, with the salt that no register gives (R199; PRESUMED from IEEE 802.1AE, log 28). -/
def xpnIv (p : Nat) (key : BitVec 256) (ssci : W32) (pn : Nat) : List Byte :=
  beBytes 12 ((Config.xpnSalt p key).toNat ^^^ (ssci.toNat * 2 ^ 64 + pn % 2 ^ 64))

/-- User data protected behind a header: secured data, and ICV (R199). -/
def macsecSeal (key iv hdr text : List Byte) (encrypt : Bool) : List Byte × List Byte :=
  if encrypt then (gcmText key iv text, gcmTag key iv hdr (gcmText key iv text)) else (text, gcmTag key iv (hdr ++ text) [])

/-- What MACsec makes of a received frame: its bytes and whether it failed; the PN window moves (R199). -/
def macsecRx (p : Nat) (l : List Byte) (s : State) : List Byte × Bool × State :=
  let c := rd s .ETH_MACSEC_CTRL 0 p
  let free := ethType l = 0x888E || (bit c 5 && (ptpAt (fld (rd s .TIME_PTPF p 0) 2 0) l).isSome)
  if 12 ≤ p || !bit c 1 || fld c 3 2 = 0 || free then (l, false, s)
  else if ofBe (slice l 12 2) ≠ 0x88E5 then (l, true, s)
  else
    let tci := byteAt l 14
    let an := tci.toNat % 4
    let pn32 := ofBe (slice l 16 4)
    let hdr := if tci.getLsbD 5 then 28 else 20
    let short := byteAt l 15 &&& 0x3F
    let n := if short ≠ 0 && hdr + short.toNat + 16 ≤ l.length then short.toNat else l.length - hdr - 16
    let text := slice l hdr n
    let stripped := l.take 12 ++ text
    let sc := if tci.getLsbD 5 then
        (List.range 32).find? fun k => bit (secW s p k 0) 0 && !bit (secW s p k 0) 1 && sciOf s p k = ofBe (slice l 20 8)
      else none
    match sc with
    | none => (stripped, true, s)
    | some k =>
      if !bit (secW s p k (4 + 4 * an)) 8 then (stripped, true, s)
      else
        match secKey s p k an with
        | none => (stripped, true, s)
        | some key =>
          let low := secPn s p k an
          let hi := low / 2 ^ 32
          let pn := pn32 + (if pn32 < 2 ^ 31 && 2 ^ 31 ≤ low % 2 ^ 32 then hi + 1 else hi) * 2 ^ 32
          let ssci := secW s p k (5 + 4 * an)
          let k256 := leBytes 32 key.toNat
          let iv := xpnIv p key ssci pn
          let secret := tci.getLsbD 3
          let icv := if secret then gcmTag k256 iv (l.take hdr) text else gcmTag k256 iv (l.take (hdr + n)) []
          if slice l (hdr + n) 16 ≠ icv || (bit c 6 && decide (pn < low)) then (stripped, true, s)
          else
            (l.take 12 ++ (if secret then gcmText k256 iv text else text), false, setSecPn p k an (max low (pn + 1 - (rd s .ETH_MACSEC_WIN 0 p).toNat)) s)

/-- The transmit SC of a port. -/
def txSc (s : State) (p : Nat) : Option Nat := (List.range 32).find? fun k => bit (secW s p k 0) 0 && bit (secW s p k 0) 1

/-- A frame leaves under MACsec (R199). -/
def macsecOn (s : State) (p : Nat) (l : List Byte) : Bool :=
  let c := rd s .ETH_MACSEC_CTRL 0 p
  p < 12 && bit c 0 && ethType l ≠ 0x888E && !(bit c 5 && (ptpAt (fld (rd s .TIME_TXF p 0) 2 0) l).isSome)

/-- A frame protected under the transmit SC's SA; `none` when there is no usable SA or its PN is exhausted (R200). -/
def macsecTx (p : Nat) (l : List Byte) (s : State) : Option (List Byte) × State :=
  match txSc s p with
  | none => (none, s)
  | some k =>
    let cfg := secW s p k 0
    let an := fld cfg 3 2
    let pn := secPn s p k an
    match secKey s p k an with
    | none => (none, s)
    | some key =>
      if !bit (secW s p k (4 + 4 * an)) 8 then (none, s)
      else if 2 ^ 64 - 1 ≤ pn then (none, ethCause p 5 s)
      else
        let tci := BitVec.ofNat 8 (0x20 + ofBool (bit cfg 4) * 0xC + an)
        let n := l.length - 12
        let tag := [0x88, 0xE5, tci, BitVec.ofNat 8 (if n < 48 then n else 0)] ++ beBytes 4 (pn % 2 ^ 32) ++ beBytes 8 (sciOf s p k)
        let hdr := l.take 12 ++ tag
        let (body, icv) := macsecSeal (leBytes 32 key.toNat) (xpnIv p key (secW s p k (5 + 4 * an)) pn) hdr (l.drop 12) (bit cfg 4)
        (some (hdr ++ body ++ icv), setSecPn p k an (pn + 1) s)

/-! ### One-step insertion (03 R76-R78) -/

/-- The sum of big-endian 16-bit words modulo 65535. -/
def sum16 : List Byte → Nat
  | a :: b :: r => (a.toNat * 256 + b.toNat + sum16 r) % 65535
  | [a] => a.toNat * 256 % 65535
  | [] => 0

/-- The UDP header of a frame and its bytes from there to the end of the payload. -/
def udpPart (l : List Byte) : List Byte := slice l (ethL4 l) (ofBe (slice l (ethL4 l + 4) 2))

/-- The UDP checksum after an insertion: 0 under IPv4, kept valid by the last two payload bytes under IPv6 (R77). -/
def udpFix (old new : List Byte) : List Byte :=
  if ethProto old ≠ 17 then new
  else if ethType old = 0x0800 then splice new (ethL4 old + 6) [0, 0]
  else if ethType old = 0x86DD then
    let n := ofBe (slice old (ethL4 old + 4) 2)
    let at_ := ethL4 old + n - 2
    let zeroed := splice new at_ [0, 0]
    let d := (sum16 (udpPart old) + 65535 - sum16 (udpPart zeroed)) % 65535
    splice zeroed at_ (beBytes 2 (if n % 2 = 0 then d else d * 256 % 65535))
  else new

/-- A UDP payload is at least two bytes longer than the PTP message at `a` (R77). -/
def udpRoom (l : List Byte) (a : Nat) : Bool :=
  ethProto l ≠ 17 || ofBe (slice l (a + 2) 2) + 2 ≤ ofBe (slice l (ethL4 l + 4) 2) - 8

/-- PTP insertions of a departing frame with departure time `t`, or whether they are skipped (Table 3.3, R77, R78). -/
def ptpInsert (s : State) (p : Nat) (l : List Byte) (stamp : W64) (t : Nat) : List Byte × Bool :=
  match ptpAt (fld (rd s .TIME_TXF p 0) 2 0) l with
  | none => (l, false)
  | some a =>
    let mt := (byteAt l a).toNat % 16
    let origin := bit (rd s .TIME_TX1S p 0) (16 + mt)
    let corr := bit (rd s .TIME_TX1S p 0) mt
    if !origin && !corr then (l, false)
    else if !udpRoom l a then (l, true)
    else
      let l1 := if origin then splice l (a + 34) (beBytes 6 (t / 1000000000 % 2 ^ 48) ++ beBytes 4 (t % 1000000000)) else l
      let d := (BitVec.ofNat 32 t - BitVec.ofNat 32 stamp.toNat).toInt
      let field := BitVec.ofNat 64 (ofBe (slice l (a + 8) 8)) + BitVec.ofInt 64 (d * 65536)
      let l2 := if corr then splice l1 (a + 8) (beBytes 8 field.toNat) else l1
      (udpFix l l2, false)

/-- The vendor insertion, or whether it is skipped (Table 3.3, R78). -/
def vendorInsert (s : State) (p : Nat) (l : List Byte) (t : Nat) : List Byte × Bool :=
  let v := rd s .TIME_TXV p 0
  let ofs := fld v 15 2
  let n := if bit v 1 then 8 else 4
  if !bit v 0 || ethType l ≠ fld v 31 16 || ofs < 14 || 9200 < ofs then (l, false)
  else if l.length < ofs + n || (match ptpAt 7 l with | some a => !udpRoom l a | none => false) then (l, true)
  else (udpFix l (splice l ofs (beBytes n (t % 2 ^ (8 * n)))), false)

/-- Both insertions and the two-step stamp of a departing frame (R76-R78, R80). -/
def insertTimes (p : Nat) (l : List Byte) (stamp : W64) (t : Nat) (s : State) : List Byte × State :=
  let (l1, skip1) := ptpInsert s p l stamp t
  let (l2, skip2) := vendorInsert s p l1 t
  let s := if skip1 then count16 .TIME_INS_SKIP p 0 s else s
  let s := if skip2 then count16 .TIME_INS_SKIP p 0 s else s
  let s := match ptpAt (fld (rd s .TIME_TXF p 0) 2 0) l with
    | some a =>
      if bit (rd s .TIME_TXF p 0) (16 + (byteAt l a).toNat % 16) then stampPush true p (ptpStamp l a (BitVec.ofNat 64 t)) s else s
    | none => s
  (l2, s)

/-! ### Egress form (R184, R196) -/

/-- A frame without its VLAN tag. -/
def untagged (l : List Byte) : List Byte := if ethTagged l then l.take 12 ++ l.drop 16 else l

/-- A frame filled with zero bytes to `n`, as IEEE 802.3 pads short frames (00 R2). -/
def padTo (n : Nat) (l : List Byte) : List Byte := l ++ List.replicate (n - l.length) 0

/-- The frame with the VLAN tag that it leaves port `p` with (R184). A frame without a tag from a queue leaves as written, and
one that an HSR pair forwards leaves as it came (R198). -/
def vlanEgress (p : Nat) (f : Flight) : List Byte :=
  let l := f.bytes
  if f.asIs || (16 ≤ f.inPort && !ethTagged l) then l
  else
    let vid := if f.inPort < 16 then f.vid.toNat else ethTci l % 4096
    let pcp := if ethTagged l then ethPcp l else f.tc
    let u := untagged l
    if f.untag.getLsbD p then u
    else u.take 12 ++ [0x81, 0x00] ++ beBytes 2 (pcp * 8192 + ofBool (ethDei l) * 4096 + vid) ++ u.drop 12

/-- The redundancy trailer or tag of a pair, LAN A on the lower port and B on the upper (R196, Table 7.6). -/
def redEgress (p : Nat) (f : Flight) (l : List Byte) : List Byte :=
  match f.red.find? fun e => e.pair = p / 2 with
  | none => l
  | some e =>
    let lan := e.net / 2 * 2 + p % 2
    let l := if e.mode = 1 then padTo 54 l else l
    let size := (l.length - ethL3 l + 6) % 4096
    let word := beBytes 2 (lan * 4096 + size)
    if e.mode = 1 then l ++ beBytes 2 e.seq.toNat ++ word ++ [0x88, 0xFB]
    else
      let a := ethTypeAt l
      l.take a ++ [0x89, 0x2F] ++ word ++ beBytes 2 e.seq.toNat ++ l.drop a

/-! ### What may start (R186, R187, R202) -/

/-- The limit of the frame length (ETH_MAXFRM). -/
def maxFrm (s : State) (p : Nat) : Nat :=
  let v := fld (rd s .ETH_MAXFRM 0 p) 13 0
  if 64 ≤ v && v ≤ 9216 then v else 9216

/-- Bytes on the medium of a flight at port `p`, FCS included: its true length once it is whole, else the largest (R187). -/
def mediumLen (s : State) (p : Nat) (f : Flight) : Nat :=
  let l := redEgress p f (vlanEgress p f)
  if f.whole then max 60 (l.length + 32 * ofBool (macsecOn s p l)) + 4
  else maxFrm s p + 32 * ofBool (macsecOn s p l) + 6 * ofBool (f.red.any fun e => e.pair = p / 2)

/-- Fixed latency of a port in its mode, in tenths of ns. -/
def txdTenths (s : State) (p : Nat) : Nat := (Config.txd p (BitVec.ofNat 8 (rd s .ETH_MODE 0 p).toNat)).toNat * 10

/-- Last bit of `n` bytes started now lies before the close of gate `c` (R186). -/
def fitsGate (s : State) (p c n : Nat) : Bool :=
  match gateClose s p c with
  | none => true
  | some close => decide (txdTenths s p + (8 + n) * 8 * bitTenths s p < close * 10)

/-- The conditions of R186 for a frame of class `c` with `n` bytes, of which a preemptable one asks them of its smallest
mPacket (R191). -/
def gateLets (s : State) (p c n : Nat) : Bool :=
  (portOf s p).gates.getLsbD c && !classPaused s p c && fitsGate s p c (if preemptable s p c then min n (minFrag s p) else n)

/-- Class `c` may start a frame of `n` bytes now (R186, R190, R191, R195). -/
def eligible (s : State) (p c n : Nat) : Bool :=
  let k := portOf s p
  gateLets s p c n && !k.lpi && decide (k.lpiReady.toNat ≤ now s) && decide (k.busy ≤ s.ticks) && !(preemptable s p c && k.hold)

/-- The head of class `c` at port `p`. -/
def headOf (s : State) (p c : Nat) : Option Flight :=
  match (egressOf s (p * 8 + c)).waiting with
  | [] => none
  | id :: _ => s.fab.flights.find? fun f => f.id = id && Dest.eth p ∈ f.dests

/-- Bytes of a frame that have come to its egress: all of one whose last cell is there, else what the ingress link has brought
since the first cell. -/
def come (s : State) (p : Nat) (f : Flight) : Nat :=
  if Dest.eth p ∈ f.full then f.bytes.length
  else min f.bytes.length (64 + (s.time.now - f.born).toInt.toNat * 10 / (8 * bitTenths s f.inPort))

/-- The prefetch buffer holds enough of a flight to start it (R202); no bad frame starts (06 R168). -/
def thrMet (s : State) (p : Nat) (f : Flight) : Bool :=
  !f.bad && Dest.eth p ∉ f.badAt && (Dest.eth p ∈ f.full || (p ∈ f.cut && decide ((rd s .ETH_TX_THR 0 p).toNat ≤ come s p f)))

/-- The class that starts next at port `p` among the express or all classes: a frame that collided (R179), then the highest
(R186). -/
def pickClass (s : State) (p : Nat) (expressOnly : Bool) : Option (Nat × Flight) :=
  let fit := [7, 6, 5, 4, 3, 2, 1, 0].filterMap fun c =>
    match headOf s p c with
    | none => none
    | some f =>
      if thrMet s p f && !(expressOnly && preemptable s p c) && eligible s p c (mediumLen s p f) then some (c, f) else none
  match fit.find? fun x => some x.2.id = (portOf s p).retry.map (·.1) with
  | some x => some x
  | none => fit.head?

/-- Cut-through frames at the heads that R186 does not let start fall back to store-and-forward (R187). -/
def fallBack (p : Nat) (s : State) : State :=
  let shut (f : Flight) : Bool :=
    p ∈ f.cut && Dest.eth p ∉ f.full && (headOf s p f.tc).map (·.id) = some f.id && !begun s p f.id &&
      !gateLets s p f.tc (mediumLen s p f)
  setFab { s.fab with flights := s.fab.flights.map fun f => if shut f then { f with cut := f.cut.filter (· ≠ p) } else f } s

/-! ### Pre-emption (R190, R191) -/

/-- A leaving preemptable frame can be pre-empted after `n` bytes of its present fragment: fragment and remainder, each with its
CRC, reach the minimum (R190). -/
def canPreempt (s : State) (p : Nat) (x : Leaving) (n : Nat) : Bool :=
  x.preemptable && !x.bad && preemptActive s p && (portOf s p).remainder.isNone && decide (minFrag s p ≤ n + 4) &&
    decide (x.sent + n + minFrag s p ≤ x.bytes.length + 4)

/-- Ticks that `n` bytes last on the medium of port `p`. -/
def byteTicks (s : State) (p n : Nat) : Nat := (n * 8 * bitTenths s p + 39) / 40

/-- The leaving frame is pre-empted after `n` bytes of its fragment; its remainder waits, and the medium is free after the mCRC
and the gap (R190). -/
def preempt (p : Nat) (x : Leaving) (n : Nat) (s : State) : State :=
  let s := if x.fragments = 0 then count32 .ETH_TX_PREEMPT 0 p s else s
  setPort p { portOf s p with
    leaving := none, remainder := some { x with fragments := x.fragments + 1, sent := x.sent + n }, busy := x.start + byteTicks s p (n + 24) } s

/-- The last legal boundary of the present fragment that ends before its gate closes; none when the rest of the frame does
(R191). -/
def closePoint (s : State) (p : Nat) (x : Leaving) : Option Nat :=
  match gateClose s p x.cls with
  | none => none
  | some close =>
    let room := (((s.ticks - x.start) * 40 + close * 10 - txdTenths s p - 1) / (8 * bitTenths s p)) - 12
    let rest := x.bytes.length - x.sent
    if rest ≤ room then none else some (min room (rest + 4 - minFrag s p))

/-- Where the leaving frame is pre-empted now: at a hold or for an express frame, at once (R190); before its gate closes, at the
last legal boundary (R191). -/
def preemptAt (s : State) (p : Nat) (x : Leaving) : Option Nat :=
  let n := sentNow s p x
  let last := (closePoint s p x).filter fun m => m ≤ n && canPreempt s p x m
  match last with
  | some m => some m
  | none => if canPreempt s p x n && ((portOf s p).hold || (pickClass s p true).isSome) then some n else none

/-! ### Transmission (R186) -/

/-- The departure time of a frame that starts now: the first bit after its SFD, with the egress correction (03 R74, R76). -/
def departure (s : State) (p : Nat) : Nat :=
  let nominal := now s + (Config.txd p (BitVec.ofNat 8 (rd s .ETH_MODE 0 p).toNat)).toNat + 64 * bitTenths s p / 10
  ((nominal : Int) + sfld16 (rd s .TIME_LATC p 0) 16).toNat

/-- A frame starts leaving (R184, R186, R196, R199, 03 R76). Time-stamps are taken before MACsec, which may yet discard the frame,
and anew at each retry (log 22). -/
def txBegin (p c : Nat) (f : Flight) (s : State) : State :=
  let eq := p * 8 + c
  let s := setEgress eq { egressOf s eq with waiting := (egressOf s eq).waiting.filter (· ≠ f.id) } s
  let pre := preemptable s p c
  let (l, s) := insertTimes p (redEgress p f (vlanEgress p f)) f.stamp (departure s p) s
  let (out, s) := if macsecOn s p l then macsecTx p l s else (some l, s)
  match out with
  | none => noteEmpty p (serveDest f.id (.eth p) (count32 .ETH_TX_DISCARD 0 p s))
  | some l =>
    let k := portOf s p
    setPort p { k with leaving := some ⟨f.id, c, s.ticks, pre, 0, false, padTo 60 l, 0⟩, opp := k.opp.map (· - 1) } s

/-- The remainder of a pre-empted frame continues (R190, R191). -/
def txResume (p : Nat) (x : Leaving) (s : State) : State :=
  if eligible s p x.cls (x.bytes.length + 4 - x.sent) then
    setPort p { portOf s p with leaving := some { x with start := s.ticks }, remainder := none } s
  else s

/-- A port that runs PLCA (R186, Table 7.9). -/
def plcaOn (s : State) (p : Nat) : Bool := 12 ≤ p && fld (rd s .ETH_PLCA_CFG 0 p) 7 0 ≠ 255

/-- A MAC control frame leaves at a frame boundary, ahead of queued frames and without regard to gates (R188). -/
def sendControl (p : Nat) (s : State) : State :=
  let k := portOf s p
  match k.control with
  | [] => s
  | c :: r =>
    if k.lpi || now s < k.lpiReady.toNat || s.ticks < k.busy || !bit (rd s .ETH_STAT 0 p) 4 then s
    else
      let k := { k with control := r, busy := s.ticks + byteTicks s p 84 }
      match c with
      | .pfc cs time _ =>
        let prios := BitVec.ofNat 8 (((List.range 8).filter fun n => cs.getLsbD (fld (rd s .FAB_PCP_MAP p 0) (3 * n + 2) (3 * n))).map fun n => 2 ^ n).sum
        say (.pfc p prios time)
          (count32 .ETH_TX_PAUSE 0 p (setPort p { k with pfcSent := if time = 0 then k.pfcSent &&& ~~~cs else k.pfcSent ||| cs } s))
      | .verify => say (.verify p true) (setPort p k s)
      | .respond => say (.verify p false) (setPort p k s)

/-- What the port starts when nothing is leaving: under PLCA only in a transmit opportunity, which ends when no frame starts. -/
def txSelect (p : Nat) (s : State) : State :=
  let shut := plcaOn s p && (portOf s p).opp.getD 0 = 0
  let t := match (portOf s p).remainder with
    | some x =>
      match pickClass s p true with
      | some (c, f) => txBegin p c f s
      | none => txResume p x s
    | none =>
      match (if shut then none else pickClass s p false) with
      | some (c, f) => txBegin p c f s
      | none => s
  if plcaOn t p && (portOf t p).leaving.isNone && (portOf t p).busy ≤ t.ticks then setPort p { portOf t p with opp := none } t else t

/-- A port sends what it can: it pre-empts, sends a control frame, or starts a frame (R186, R188, R190, R191). -/
def txRun (p : Nat) (s : State) : State :=
  if !(bit (rd s .ETH_STAT 0 p) 4 && (isOn s .ETH_STAT p || (portOf s p).remainder.isSome)) then s
  else
    let s := fallBack p s
    match (portOf s p).leaving with
    | none => txSelect p (sendControl p s)
    | some x =>
      match preemptAt s p x with
      | some n => preempt p x n s
      | none => s

/-- The frames that one transmit opportunity takes under PLCA. -/
def plcaBurst (s : State) (p : Nat) : Nat := 1 + fld (rd s .ETH_PLCA_CFG 0 p) 27 24

/-- ETH_TX_START (R186): on P12-P15 under PLCA it is the start of the port's transmit opportunity. -/
def execEthTxStart (p : Fin 16) (s : State) : Res :=
  .next (if running s then
    txRun p (if plcaOn s p && (portOf s p).leaving.isNone then setPort p { portOf s p with opp := some (plcaBurst s p) } s else s)
  else s)

/-- The leaving frame ends, a bad one with an inverted FCS (R182). -/
def txFinish (p : Nat) (x : Leaving) (s : State) : State :=
  let s := setPort p { portOf s p with leaving := none, retry := none } s
  noteEmpty p (serveDest x.flight (.eth p) (count64 p 3 1 (count64 p 2 (x.bytes.length + 4) (say (.eth p x.bytes x.bad) s))))

/-- ETH_TX_END (R186). A frame whose last cell has not come cannot end. -/
def execEthTxEnd (p : Fin 16) (s : State) : Res :=
  .next (match (portOf s p).leaving with
    | none => s
    | some x =>
      if running s && (x.bad || !(s.fab.flights.any fun f => f.id = x.flight && Dest.eth p ∈ f.dests && Dest.eth p ∉ f.full)) then
        txFinish p x s
      else s)

/-- TX_UNDERRUN (R202): the frame ends with what has been sent, and what is still to come of it is not waited for. -/
def execTxUnderrun (p : Fin 16) (s : State) : Res :=
  .next (match (portOf s p).leaving with
    | none => s
    | some x =>
      let thr := fld (rd s .ETH_TX_THR 0 p) 13 0
      if !running s || thr = 0x3FFF || x.bad then s
      else
        let s := setPort p { portOf s p with leaving := some (cutBad (x.sent + sentNow s p x) x) } s
        let s := ethCause p 1 (count32 .ETH_TX_UNDERRUN 0 p (serveDest x.flight (.eth p) s))
        wr .ETH_TX_THR 0 p (BitVec.ofNat 32 (if 9216 < thr + 64 then 0x3FFF else thr + 64)) s)

/-- COLLISION (R179): `p` counts from P12. The collisions are those of the frame. -/
def execCollision (p : Fin 4) (late : Bool) (s : State) : Res :=
  .next <|
    let q := 12 + p.val
    let k := portOf s q
    match k.leaving with
    | none => s
    | some x =>
      if !running s then s
      else
        let csma := !plcaOn s q
        let n := 1 + (match k.retry with | some (id, m) => if id = x.flight then m else 0 | none => 0)
        let gone := x.bad || (if csma then late || 16 ≤ n else 16 < n)
        let s := if csma && !gone then s else count32 .ETH_TX_COLL 0 q s
        if gone then noteEmpty q (serveDest x.flight (.eth q) (setPort q { k with leaving := none, retry := none, opp := none } s))
        else
          let eq := q * 8 + x.cls
          setEgress eq { egressOf s eq with waiting := x.flight :: (egressOf s eq).waiting }
            (setPort q { k with leaving := none, retry := some (x.flight, n), opp := none } s)

/-! ### Gates (R185, R188) -/

/-- The gates show the entry that covers the local time (R185). One that a switch or a clock step (`jump`) closes on a leaving
frame lets it complete and counts it (R188). -/
def gateUpdate (p : Nat) (jump : Bool) (s : State) : State :=
  let (g, h) := gclNow s p
  let k := portOf s p
  let s := setPort p { k with gates := g, hold := h } s
  match k.leaving with
  | none => s
  | some x => if jump && k.gates.getLsbD x.cls && !g.getLsbD x.cls then ethCause p 3 (count32 .ETH_TX_GATE_OVR 0 p s) else s

/-- GATE_ENTRY_CHANGE (R185). -/
def execGateEntryChange (p : Fin 16) (s : State) : Res := .next (if running s then gateUpdate p false s else s)

/-! ### Pauses (R183, R193, R194) -/

/-- One class is paused for a time in ns; 0 ends the pause. -/
def pauseClass (p c ns : Nat) (s : State) : State :=
  let k := portOf s p
  setPort p { k with pausedUntil := if ns = 0 then nmErase k.pausedUntil c else nmPut k.pausedUntil c (s.time.now + BitVec.ofNat 64 ns) } s

/-- Nanoseconds of a number of pause quanta. -/
def quantaNs (s : State) (p q : Nat) : Nat := q * 512 * bitTenths s p / 10

/-- A PFC frame reaches the MAC (R183, R193). -/
def pfcRx (p : Nat) (en : BitVec 8) (times : List (BitVec 16)) (s : State) : State :=
  let s := count32 .ETH_RX_PAUSE 0 p s
  if 12 ≤ p || !bit (rd s .ETH_PFC_CFG 0 p) 16 then s
  else
    (List.range 8).foldl (fun s c =>
      match (pcpOf s p c).filter fun n => en.getLsbD n with
      | [] => s
      | ns => pauseClass p c (quantaNs s p (ns.foldl (fun a n => max a (times.getD n 0).toNat) 0)) s) s

/-- A PAUSE frame reaches the MAC (R183, R193). -/
def pauseRx (p q : Nat) (s : State) : State :=
  let s := count32 .ETH_RX_PAUSE 0 p s
  if 12 ≤ p || !bit (rd s .ETH_PFC_CFG 0 p) 18 then s
  else (List.range 8).foldl (fun s c => pauseClass p c (quantaNs s p q) s) s

/-- PFC_FRAME_RX (R193). -/
def execPfcFrameRx (p : Fin 16) (en : BitVec 8) (times : List (BitVec 16)) (s : State) : Res :=
  .next (if running s && portUp s p then pfcRx p en times s else s)

/-- PAUSE_FRAME_RX (R193). -/
def execPauseFrameRx (p : Fin 16) (quanta : BitVec 16) (s : State) : Res :=
  .next (if running s && portUp s p then pauseRx p quanta.toNat s else s)

/-- PAUSE_EXPIRED (R193). -/
def execPauseExpired (p : Fin 16) (c : Fin 8) (s : State) : Res :=
  .next (match nmFind (portOf s p).pausedUntil c with
    | none => s
    | some t =>
      if t.toNat ≤ now s then setPort p { portOf s p with pausedUntil := nmErase (portOf s p).pausedUntil c } s else s)

/-- PFC_REFRESH (R194): a request that holds is sent again when its time has come, and one whose port could not send it before is
sent. -/
def execPfcRefresh (p : Fin 16) (s : State) : Res :=
  .next (if running s then
    (List.range 8).foldl (fun s c =>
      let due := decide ((nmGet 0 (portOf s p).pfcNext c).toNat ≤ now s)
      let waits := (portOf s p).control.any fun x => match x with | .pfc cs t _ => cs.getLsbD c && t ≠ 0 | _ => false
      if (nmGet 0 s.fab.pauseReq p).getLsbD c && due && !waits then pfcSend p c (fld (rd s .ETH_PFC_CFG 0 p) 15 0) s else s) s
  else s)

/-! ### Low-power idle (R195) -/

/-- The port may use low-power idle: P0-P11 in USXGMII or SGMII mode with en set. -/
def eeeOn (s : State) (p : Nat) : Bool :=
  p < 12 && (fld (rd s .ETH_MODE 0 p) 3 0 = 2 || fld (rd s .ETH_MODE 0 p) 3 0 = 4) && bit (rd s .ETH_EEE_CFG 0 p) 0

/-- ns until gate `c` of a list next opens. -/
def openIn (c : Nat) : List (Nat × W32) → Nat → Bool → Option Nat
  | [], _, _ => none
  | (d, g) :: r, t, wasShut => if bit g c && wasShut then some t else openIn c r (t + d) (!bit g c)

/-- A gate of wake_mask opens within tw. -/
def wakeAhead (s : State) (p tw : Nat) : Bool :=
  gclOn s p && (List.range 8).any fun c =>
    bit (rd s .ETH_EEE_CFG 0 p) (8 + c) &&
      (match openIn c (gclFrom s p (now s)) 0 (!(portOf s p).gates.getLsbD c) with
       | some t => decide (t ≤ tw)
       | none => false)

/-- The wake time of a port in ns. -/
def wakeTime (s : State) (p : Nat) : Nat := fld (rd s .ETH_EEE_CFG 0 p) 31 24 * 1000

/-- EEE_LPI_ENTER (R195): not while a gate is about to open for which the port wakes. -/
def execEeeLpiEnter (p : Fin 16) (s : State) : Res :=
  .next <|
    let k := portOf s p
    let idle := max 1 (fld (rd s .ETH_EEE_CFG 0 p) 23 16) * 1000
    if running s && portUp s p && eeeOn s p && !k.lpi && portEmpty s p && elapsed s k.emptySince idle &&
        !wakeAhead s p (wakeTime s p) then
      setPort p { k with lpi := true } s
    else s

/-- EEE_LPI_EXIT (R195). -/
def execEeeLpiExit (p : Fin 16) (s : State) : Res :=
  .next <|
    let k := portOf s p
    if running s && k.lpi && (!portEmpty s p || wakeAhead s p (wakeTime s p)) then
      setPort p { k with lpi := false, lpiReady := s.time.now + BitVec.ofNat 64 (wakeTime s p) } s
    else s

/-! ### Receive (R180-R183, R192, R196-R198) -/

/-- The PRP trailer stands at the end of a frame: suffix 0x88FB and a size that agrees. -/
def hasRct (l : List Byte) : Bool :=
  20 ≤ l.length && ofBe (slice l (l.length - 2) 2) = 0x88FB &&
    ofBe (slice l (l.length - 4) 2) % 4096 = (l.length - ethL3 l) % 4096

/-- A frame of a redundancy pair without its trailer or tag, and its sequence number (R197). -/
def redStrip (mode : Nat) (l : List Byte) : List Byte × Option (BitVec 16) :=
  if mode = 1 && hasRct l then (l.take (l.length - 6), some (BitVec.ofNat 16 (ofBe (slice l (l.length - 6) 2))))
  else if mode = 2 && ethType l = 0x892F then
    let a := ethTypeAt l
    (l.take a ++ l.drop (a + 6), some (BitVec.ofNat 16 (ofBe (slice l (a + 4) 2))))
  else (l, none)

/-- Entries of a pair's table that have not reached forget_ms. -/
def freshDups (s : State) (k : Nat) (ds : List (BitVec 48 × BitVec 16 × W64)) : List (BitVec 48 × BitVec 16 × W64) :=
  ds.filter fun e => !elapsed s e.2.2 (fld (tblW s 11 k 1) 15 0 * 1000000)

/-- The duplicate discard table (R197): whether the frame was seen; a first copy is entered. -/
def dupCheck (k : Nat) (src : BitVec 48) (seq : BitVec 16) (s : State) : Bool × State :=
  let r := pairOf s k
  if r.dups.any fun e => e.1 = src && e.2.1 = seq then (true, count32 .ETH_RED_DUP 0 (2 * k) s)
  else
    let full := 2048 ≤ r.dups.length
    let s := if full then count32 .ETH_RED_FULL 0 (2 * k) s else s
    (false, setPair k { r with dups := (if full then r.dups.drop 1 else r.dups) ++ [(src, seq, s.time.now)] } s)

/-- PRP_ENTRY_FORGET (R197). -/
def execPrpEntryForget (pair : Fin 6) (s : State) : Res :=
  .next (if running s then setPair pair { pairOf s pair with dups := freshDups s pair (pairOf s pair).dups } s else s)

/-- The redundancy mode under which a frame comes in at port `p`; PTP frames bypass it (R196, 03 R79). -/
def redMode (s : State) (p : Nat) (l : List Byte) : Nat := if p < 12 && !ptpOn s p l then pairMode s (p / 2) else 0

/-- The ingress port of a frame that comes in at port `p`: the lower one of its pair (R197). -/
def ingressOf (s : State) (p : Nat) (l : List Byte) : Nat := if redMode s p l = 1 || redMode s p l = 2 then p / 2 * 2 else p

/-- A frame has the HSR node's own address. -/
def hsrMine (p : Nat) (a : Nat) : Bool := Config.hsrOwn (p / 2) (BitVec.ofNat 48 a)

/-- A frame of an HSR ring goes on to the other port of its pair, unless this node sent it or is its only receiver (R198). -/
def hsrGoesOn (s : State) (p : Nat) (l : List Byte) : Bool :=
  redMode s p l = 2 && ethType l = 0x892F && !hsrMine p (ethSrc l) && !hsrMine p (ethDst l)

/-- The first cell of such a frame goes to the other port by cut-through (R198). -/
def hsrForward (p : Nat) (l : List Byte) (stamp : W64) (s : State) : State :=
  let q := if p % 2 = 0 then p + 1 else p - 1
  let tc := fld (rd s .FAB_PCP_MAP p 0) (3 * ethPcp l + 2) (3 * ethPcp l)
  let id := s.fab.nextId
  let s := mapArrival id (fun a => { a with onward := true }) (arrive p .eth l s)
  let (ok, s) := takeAt (.eth q) tc 3 s
  if !ok then s
  else
    enterBuffer
      { id := id, inPort := p, kind := .eth, bytes := l, stamp := stamp, tc := tc, colour := 3, ptag := 0, vid := 0, untag := 0,
        dests := [.eth q], cells := [], multi := false, whole := false, bad := false, badAt := [], full := [], cut := [], red := [],
        asIs := true, born := s.time.now } false s

/-- A frame that MAC control or the in-band interface takes and the fabric never sees (R183, 02 R35). -/
def macControl (l : List Byte) : Bool :=
  ethDst l = 0x0180C2000001 && ethType l = 0x8808 && (ofBe (slice l (ethL3 l) 2) = 0x0101 || ofBe (slice l (ethL3 l) 2) = 1)

/-- A port receives a frame: its link is up, and it is ON, or was when the frame began (R177). -/
def receives (s : State) (p : Nat) (stamp : W64) : Bool :=
  bit (rd s .ETH_STAT 0 p) 4 &&
    (isOn s .ETH_STAT p || (fbState (fbOf s .ETH_STAT p) = 3 && decide (stamp.toNat ≤ (portOf s p).stopAt.toNat)))

/-- The first cell of a frame at Ethernet port `p`. A frame still on its way in at a port that does not reassemble fragments has
lost its end. Members of a redundancy pair wait for the end of the frame, but for an HSR ring's next port. -/
def portFirst (f : FabIn) (s : State) : State :=
  let p := f.port.val
  if !receives s p f.stamp || macControl f.bytes || isInband f.bytes then s
  else
    let s := if p < 12 && bit (rd s .ETH_PREEMPT_CFG 0 p) 0 then s else cutArrivals p s
    if redMode s p f.bytes ≠ 1 && redMode s p f.bytes ≠ 2 then fabFirst f none false none s
    else if hsrGoesOn s p f.bytes && (portRefuses s (ingressOf s p f.bytes) f.bytes).isNone then hsrForward p f.bytes f.stamp s
    else s

/-- FABRIC_FIRST_CELL (06 R137): a frame at a fabric port, or a packet of a queue that the port takes. -/
def execFabricFirstCell (f : FabIn) (s : State) : Res :=
  .next (if !running s then s
  else match f.queue with
    | some q => fabFromQueue q s
    | none =>
      if f.port.val < 16 && f.kind = .eth then portFirst f s
      else if 16 ≤ f.port.val && f.port.val < 20 then fabFirst f none false none s else s)

/-- The frame on its way in through port `p` that begins with the bytes of `l`; under MACsec, whose content the port may show
otherwise, the last one. -/
def arrivalOf (s : State) (p : Nat) (l : List Byte) : Option Arrival :=
  match (arrivalsAt s p).find? fun a => a.head = l.take 64 with
  | some a => some a
  | none =>
    if p < 12 && bit (rd s .ETH_MACSEC_CTRL 0 p) 1 && fld (rd s .ETH_MACSEC_CTRL 0 p) 3 2 ≠ 0 then (arrivalsAt s p).getLast? else none

/-- The last cell of the frame on its way in through port `p`, or a whole frame into the fabric as an ingress of `p`. -/
def rxIntoFabric (p : Nat) (l : List Byte) (stamp : W64) (s : State) : State :=
  match arrivalOf s p l with
  | some a => fabLast a.id (l.length + 4) true (mapFlights a.id (fun f => { f with bytes := l }) s)
  | none =>
    fabWhole { port := Fin.ofNat 32 p, queue := none, kind := .eth, bytes := l, known := none, stamp := stamp } false none s

/-- The frame length of received bytes: with FCS, without SecTAG and ICV or redundancy trailer (Table 7.3). -/
def rxLen (s : State) (p : Nat) (l : List Byte) : Nat :=
  let sec := if p < 12 && bit (rd s .ETH_MACSEC_CTRL 0 p) 1 && ofBe (slice l 12 2) = 0x88E5 then
      (if (byteAt l 14).getLsbD 5 then 32 else 24) else 0
  let rct := if p < 12 && pairMode s (p / 2) = 1 && hasRct l then 6 else 0
  l.length + 4 - sec - rct

/-- The first failing check of orders 1 to 5: its counter. -/
def rxCheck (s : State) (p : Nat) (rx : EthRx) : Option Reg :=
  let n := rxLen s p rx.bytes
  if rx.symbolErr then some .ETH_RX_SYMBOL
  else if n < 64 then some .ETH_RX_RUNT
  else if maxFrm s p < n then some .ETH_RX_GIANT
  else if rx.alignErr && (bitTenths s p = 100 || bitTenths s p = 1000) then some .ETH_RX_ALIGN
  else if crc32 rx.bytes ≠ rx.fcs.toNat then some .ETH_RX_FCS
  else none

/-- A frame that came in broken: one that the fabric has begun ends bad there (R181, R192). -/
def rxBroken (p : Nat) (l : List Byte) (s : State) : State :=
  match arrivalOf s p l with
  | some a => fabLast a.id (l.length + 4) false s
  | none => s

/-- A receive drop of orders 1 to 6: counted, cause drop; a frame in the fabric is ended bad (R180, R181). -/
def rxDrop (p : Nat) (r : Reg) (l : List Byte) (s : State) : State := rxBroken p l (dropRx p r s)

/-- A good frame counts (R204). -/
def countGood (p n : Nat) (s : State) : State := count64 p 1 1 (count64 p 0 n s)

/-- A MAC control frame is consumed (R183). -/
def controlRx (p : Nat) (l : List Byte) (s : State) : State :=
  if ofBe (slice l (ethL3 l) 2) = 1 then pauseRx p (ofBe (slice l (ethL3 l + 2) 2)) s
  else pfcRx p (byteAt l (ethL3 l + 3)) ((List.range 8).map fun k => BitVec.ofNat 16 (ofBe (slice l (ethL3 l + 4 + 2 * k) 2))) s

/-- The receive stamp of a frame that TIME_PTPF selects is queued, also of one that the fabric then drops (03 R80, log 22). -/
def rxStamp (p : Nat) (l : List Byte) (stamp : W64) (s : State) : State :=
  match ptpAt (fld (rd s .TIME_PTPF p 0) 2 0) l with
  | some a =>
    if bit (rd s .TIME_PTPF p 0) (16 + (byteAt l a).toNat % 16) then stampPush false p (ptpStamp l a stamp) s else s
  | none => s

/-- A frame of a redundancy pair: on to the ring's other port, off the ring, or by the duplicate table into the fabric (R197,
R198). -/
def pairRx (p : Nat) (l : List Byte) (stamp : W64) (s : State) : State :=
  let mode := redMode s p l
  let (inner, seq) := redStrip mode l
  let s := if !hsrGoesOn s p l then s
    else if (arrivalOf s p l).isSome then rxIntoFabric p l stamp s
    else let id := s.fab.nextId; fabLast id (l.length + 4) true (hsrForward p l stamp s)
  if mode = 2 && hsrMine p (ethSrc l) then s
  else
    match seq with
    | none => fabWhole { port := Fin.ofNat 32 (p / 2 * 2), queue := none, kind := .eth, bytes := inner, known := none, stamp := stamp } false none s
    | some n =>
      let (dup, s) := dupCheck (p / 2) (BitVec.ofNat 48 (ethSrc l)) n s
      if dup then s
      else fabWhole { port := Fin.ofNat 32 (p / 2 * 2), queue := none, kind := .eth, bytes := inner, known := none, stamp := stamp } false none s

/-- A frame of `n` bytes that passed orders 1 to 6: MAC control, then orders 7 and 8, which one that the fabric has begun passed or
failed at its first cell; in-band commands (02 R35), redundancy, the fabric (R180, R183, R197, R198). -/
def rxAccept (p n : Nat) (l : List Byte) (stamp : W64) (s : State) : State :=
  if macControl l then controlRx p l (countGood p n s)
  else
    let s := rxStamp p l stamp s
    match arrivalOf s p l, portRefuses s (ingressOf s p l) l with
    | none, some r => dropRx p r s
    | a, _ =>
      let s := if (a.bind (·.dropped)).isSome then s else countGood p n s
      if isInband l then inbandRx p l s
      else if redMode s p l = 1 || redMode s p l = 2 then pairRx p l stamp s
      else rxIntoFabric p l stamp s

/-- A verify mPacket is answered at the next frame boundary (R188, R189). -/
def verifyRx (p : Nat) (s : State) : State :=
  if p < 12 && bit (rd s .ETH_PREEMPT_CFG 0 p) 0 then setPort p { portOf s p with control := (portOf s p).control ++ [.respond] } s else s

/-- ETH_RX_FRAME (R180): the checks of Table 7.3 in order. -/
def execEthRxFrame (p : Fin 16) (rx : EthRx) (s : State) : Res :=
  .next (if !running s || !receives s p rx.stamp then s
  else if rx.fragErr && decide (p.val < 12) && bit (rd s .ETH_PREEMPT_CFG 0 p) 0 then
    rxBroken p rx.bytes (count32 .ETH_RX_FRAG_ERR 0 p s)
  else if rx.smdV then (if rx.symbolErr || decide (crc32 rx.bytes ≠ rx.fcs.toNat) then s else verifyRx p s)
  else
    match rxCheck s p rx with
    | some r => rxDrop p r rx.bytes s
    | none =>
      let (l, failed, s) := macsecRx p rx.bytes s
      let strict := 2 ≤ fld (rd s .ETH_MACSEC_CTRL 0 p) 3 2
      if failed && strict then rxDrop p .ETH_RX_MACSEC l s
      else
        let s := if failed then count32 .ETH_RX_MACSEC 0 p s else s
        let stamp := rx.stamp + BitVec.ofInt 64 (sfld16 (rd s .TIME_LATC p 0) 0)
        rxAccept p (rxLen s p rx.bytes) l stamp s)

/-! ### MDIO (Table 7.9) -/

/-- A write of ETH_MDIO_CMD; go starts the frame. -/
def mdioCmdWrite (bus : Nat) (v : W32) (s : State) : State :=
  let s := plainWrite .ETH_MDIO_CMD bus 0 v s
  if bit v 31 then say (.mdio bus (rd s .ETH_MDIO_CMD bus 0) (BitVec.ofNat 16 (rd s .ETH_MDIO_DATA bus 0).toNat)) s else s

/-- MDIO_WRITE (R5): op 0. -/
def execMdioWrite (m : Fin 64) (bus : Fin 2) (v : W32) (s : State) : Res :=
  .next (if bit v 31 && fld v 29 28 = 0 then withWrite m .ETH_MDIO_CMD bus v (mdioCmdWrite bus v) s else s)

/-- MDIO_READ (R5): op 1, and 3, which is taken as read. -/
def execMdioRead (m : Fin 64) (bus : Fin 2) (v : W32) (s : State) : Res :=
  .next (if bit v 31 && bit v 28 then withWrite m .ETH_MDIO_CMD bus v (mdioCmdWrite bus v) s else s)

/-- MDIO_ADDRESS (R5): op 2. -/
def execMdioAddress (m : Fin 64) (bus : Fin 2) (v : W32) (s : State) : Res :=
  .next (if bit v 31 && fld v 29 28 = 2 then withWrite m .ETH_MDIO_CMD bus v (mdioCmdWrite bus v) s else s)

/-- MDIO_DONE (R5). -/
def execMdioDone (bus : Fin 2) (data : BitVec 16) (s : State) : Res :=
  .next <|
    let c := rd s .ETH_MDIO_CMD bus 0
    if running s && bit c 31 then
      let s := clrB .ETH_MDIO_CMD bus 0 0x80000000 s
      if bit c 28 then setF .ETH_MDIO_DATA bus 0 15 0 data.toNat s else s
    else s

end Sys2Proof.Machine
end

