-- ==== Sys2Proof/Machine/Solstice.lean ====
section
/-! DEFINITION. The Solstice switch and what follows it in the fabric and the gates (02 R44-R47, 06 R146, R152, R153). -/

namespace Sys2Proof.Machine

/-- One learned entry of the old active set moves into the new one, or is lost (06 R146). -/
def learnedMove (s : State) (e : List W32) : State :=
  let mac := (wordAt e 0).toNat + fld (wordAt e 1) 15 0 * 2 ^ 32
  let vid := fld (wordAt e 1) 27 16
  let b := macBucket vid mac
  let lost := fabEvent 81 (count16 .FAB_LEARN_FAIL 0 0 s)
  if (macFind s vid mac).isSome then lost
  else
    match [b * 4, b * 4 + 1, b * 4 + 2, b * 4 + 3].find? fun i => !bit (tblW s 6 i 3) 31 with
    | some i => setActive 6 i e s
    | none => lost

/-- Learned entries of table 0x06 in a set. -/
def learnedOf (set : NMap (List W32)) : List (List W32) :=
  (set.filter fun e => tblKey 6 0 ≤ e.1 && e.1 < tblKey 7 0 && bit (wordAt e.2 3) 31 && bit (wordAt e.2 2) 16).map (·.2)

/-- An entry differs between the set before the switch and the active set. -/
def changed (old : NMap (List W32)) (s : State) (id i : Nat) : Bool := nmGet [] old (tblKey id i) ≠ tbl s id i

/-- A meter instance or its profile changed; the model's meter_oq bit apart (06 R153). -/
def meterChanged (old : NMap (List W32)) (s : State) (k : Nat) : Bool :=
  let a := nmGet [] old (tblKey 3 k)
  let b := tbl s 3 k
  putFld (wordAt a 0) 16 16 0 ≠ putFld (wordAt b 0) 16 16 0 || a.drop 1 ≠ b.drop 1 ||
    changed old s 3 (512 + fld (wordAt b 0) 7 0)

/-- The entries of table 0x0D in a set. -/
def sigRoutes (set : NMap (List W32)) : NMap (List W32) := set.filter fun e => tblKey 13 0 ≤ e.1 && e.1 < tblKey 14 0

/-- The signal routes of the old set stay known for frames stamped before the switch; a route that changed begins anew
(13 R352, R354). -/
def sigSwitch (old : NMap (List W32)) (s : State) : State :=
  { s with pol := { s.pol with sigPrev := if sigRoutes old = sigRoutes s.cfg.active then s.pol.sigPrev else (s.time.now, sigRoutes old) :: s.pol.sigPrev,
                               sig := s.pol.sig.filter fun e => !changed old s 13 e.1 } }

/-- The gates of every port after a switch or a step of the clock (07 R188). -/
def gatesJump (s : State) : State := (List.range 16).foldl (fun s p => gateUpdate p true s) s

/-- STEP_APPLY (03 R67, R72, R73): the offset is added, the fraction kept, and gates follow (07 R188); the result is the time before
the step. -/
def execStepApply (s : State) : Res :=
  .next (match s.time.step with
    | none => s
    | some (src, ofs) =>
      let t := s.time.now
      adjComplete src stOk t
        (adjDone t.toNat (gatesJump (setTime { s.time with now := t + BitVec.ofInt 64 ofs, step := none } s))))

/-- Effects of a switch on the fabric and the gates: learned addresses, buckets, blocked filters, quotas, gates; and on the
signal routes. A frame whose meter changed keeps its old bucket, which goes with the old set (02 R45). -/
def afterSwitch (old : NMap (List W32)) (s : State) : State :=
  let s := sigSwitch old s
  let s := (learnedOf old).foldl learnedMove s
  let gone (k : Nat) : Bool := meterChanged old s k
  let s := setFab { s.fab with meters := s.fab.meters.filter (fun e => !gone e.1),
                               arrivals := s.fab.arrivals.map fun a => { a with meter := a.meter.filter (!gone ·) } } s
  let s := (List.range 1024).foldl (fun s f => if changed old s 2 f then clrB .FAB_SF_BLOCKED (f / 32) 0 (oneBit (f % 32)) s else s) s
  gatesJump (bufferWritten s)

/-- The sets swap, the old one counting as checked, with no stager (R46); the commit completes with the tick (R47, R453). -/
def switchSets (a : Armed) (s : State) : State :=
  let old := s.cfg.active
  let s := { s with cfg := { active := s.cfg.shadow, shadow := old, stager := none, check := some s.time.now,
                             armed := if a.cmd.isSome then some { a with switched := some s.time.now } else none } }
  commitEnd a.cmd stOk s.time.now (raise 34 (afterSwitch old s))

/-- An armed commit whose instant has come switches, or within a restart interval completes RESTARTING (R15, R44). -/
def solstice (s : State) : State :=
  match s.cfg.armed with
  | none => s
  | some a => if !commitDue s a then s else if inRestart s then disarm stRestarting s else switchSets a s

/-- SOLSTICE (R44). -/
def execSolstice (s : State) : Res := .next (if running s then solstice s else s)

end Sys2Proof.Machine
end

