-- ==== Sys2Proof/Machine/Auth.lean ====
section
/-! DEFINITION. Authentication: profiles, tags, verification, flow states (13 R357-R361, R367, R368). -/

namespace Sys2Proof.Machine

/-- A key enters a slot: source 276. -/
def keyInstallTo (k : Nat) (key : List Byte) (s : State) : State :=
  raise 276 (setSlot k { slotOf s k with loaded := true, key := BitVec.ofNat 256 (ofLe key) } s)

/-- A key leaves a slot: source 277. -/
def keyEraseAt (k : Nat) (s : State) : State :=
  if (slotOf s k).loaded then raise 277 (setSlot k { slotOf s k with loaded := false, key := 0 } s) else s

/-! ### Profiles (Table 13.6) -/

/-- Word `w` of profile `p` in the active set. -/
def profW (s : State) (p w : Nat) : W32 := tblW s 14 p w

/-- Profile `p` is valid. -/
def profValid (s : State) (p : Nat) : Bool := bit (profW s p 0) 31

/-- Tag bytes under profile `p`. -/
def profTag (s : State) (p : Nat) : Nat := if bit (profW s p 0) 1 then 8 else 4

/-- The medium of profile `p`: 1 CAN, 2 star. -/
def profMedium (s : State) (p : Nat) : Nat := fld (profW s p 0) 3 2

/-- The key slot of profile `p`. -/
def profSlot (s : State) (p : Nat) : Nat := fld (profW s p 0) 15 8

/-- The flow of an identifier under profile `p`. -/
def flowOf (s : State) (p ident : Nat) : Nat := fld (profW s p 1) 12 0 + ident % 2 ^ fld (profW s p 0) 19 16

/-- A flow state: none when it is not valid. -/
def flowState (s : State) (f : Nat) : Option W32 := nmGet none s.cry.flows f

/-- A flow state set. -/
def setFlow (f : Nat) (v : Option W32) (s : State) : State := { s with cry := { s.cry with flows := nmSet none s.cry.flows f v } }

/-- fv under time freshness: bits [41:10] of the transmit time (R358). -/
def fvOfTime (t : W64) : W32 := BitVec.ofNat 32 (t.toNat / 1024)

/-! ### Messages (Table 13.7) -/

/-- The CMAC message of a CAN record with `n` bytes of data proper. -/
def canMsg (l : List Byte) (n : Nat) (fv : W32) : List Byte :=
  beBytes 4 (canId l + ofBool (canIde l) * 2 ^ 29) ++ [BitVec.ofNat 8 (canFmt l)] ++
    (if canFmt l = 2 then
       [BitVec.ofNat 8 (fld (canW l 2) 7 0), BitVec.ofNat 8 (fld (canW l 2) 15 8), BitVec.ofNat 8 (ofBool (bit (canW l 1) 9))] ++
         beBytes 4 (canW l 3).toNat
     else []) ++
    beBytes 2 n ++ slice l 16 n ++ beBytes 4 fv.toNat

/-- The CMAC message of a star record: its header with tag set, its payload, fv. -/
def starMsg (l : List Byte) (fv : W32) : List Byte :=
  l.take 3 ++ [byteAt l 3 ||| 2] ++ slice l 4 (starLen l) ++ beBytes 4 fv.toNat

/-- The truncated CMAC of a message under the key of profile `p`. -/
def tagOf (s : State) (p : Nat) (msg : List Byte) : List Byte := (cmacOf (keyBytes (slotOf s (profSlot s p))) msg).take (profTag s p)

/-- A length that a CAN format has. -/
def canLenOk (fmt n : Nat) : Bool :=
  if fmt = 0 then n ≤ 8 else if fmt = 1 then n ≤ 8 || n ∈ [12, 16, 20, 24, 32, 48, 64] else fmt = 2 && 1 ≤ n && n ≤ 2048

/-- A CAN record with another len. -/
def canSetLen (l : List Byte) (n : Nat) : List Byte := splice l 4 (leBytes 4 (putFld (canW l 1) 27 16 n).toNat)

/-- The status that a profile and its key give a user before the record is looked at. -/
def profStatus (s : State) (p dirBit user : Nat) : Nat :=
  if !profValid s p || !bit (profW s p 0) dirBit then crBadReq
  else keyStatus (slotOf s (profSlot s p)) [1] useTag user

/-- The carried value of a record that is tagged under profile `p`, and the flow after it (R358, R361). -/
def tagFv (p ident : Nat) (time : W64) (s : State) : W32 × State :=
  if !bit (profW s p 0) 0 then (fvOfTime time, s)
  else
    let c := (flowState s (flowOf s p ident)).getD 1
    (c, setFlow (flowOf s p ident) (some (c + 1)) s)

/-- Crypto tags a record under profile `p` for a user (R358, R359, R365): status and record. `time` is the transmit time of a
CAN record, `starT` that of a star record, whose fv is always its time (Table 13.7; log 37). -/
def tagRecord (p user : Nat) (l : List Byte) (time starT : W64) (s : State) : Nat × List Byte × State :=
  let st := profStatus s p 4 user
  if st ≠ crOk then (st, l, s)
  else if profMedium s p = 1 then
    let n := canLen l
    let n' := n + 4 + profTag s p
    if !canLenOk (canFmt l) n || !canLenOk (canFmt l) n' then (crBadReq, l, s)
    else
      let (fv, s) := tagFv p (canId l) time s
      let t := tagOf s p (canMsg l n fv)
      (crOk, canSetLen (l.take (16 + n)) n' ++ beBytes 4 fv.toNat ++ t, s)
  else if profMedium s p = 2 then
    if starLen l = 255 || l.length < 4 + starLen l then (crBadReq, l, s)
    else
      let r := l.take 3 ++ [byteAt l 3 ||| 2] ++ slice l 4 (starLen l)
      (crOk, r ++ tagOf s p (starMsg l (fvOfTime starT)), s)
  else (crBadReq, l, s)

/-- The freshness check of R360 on a flow. -/
def freshness (s : State) (p flow : Nat) (rx fv : W32) : Nat :=
  let lst := flowState s flow
  if !bit (profW s p 0) 0 then
    let d := (rx - fv <<< 10).toInt
    if d < (profW s p 2).toInt || (profW s p 3).toInt ≤ d then crStale
    else match lst with
      | some v => if (fv - v).toInt ≤ 0 then crReplay else crOk
      | none => crOk
  else match lst with
    | some v =>
      let j := fv - v
      if j.toInt ≤ 0 || (profW s p 4 ≠ 0 && (profW s p 4).toNat < j.toNat) then crReplay else crOk
    | none => crOk

/-- Crypto verifies a record under profile `p` (R360): status, and the flow of an accepted frame. -/
def verifyRecord (p user : Nat) (l : List Byte) (rx : W32) (starT : W64) (s : State) : Nat × State :=
  let st := profStatus s p 5 user
  let t := profTag s p
  let judge (ident : Nat) (msg tag : List Byte) (fv : W32) : Nat × State :=
    let f := flowOf s p ident
    if tagOf s p msg ≠ tag then (crAuthFail, s)
    else
      let r := freshness s p f rx fv
      if r = crOk then (crOk, setFlow f (some fv) s) else (r, s)
  if st ≠ crOk then (st, s)
  else if profMedium s p = 1 then
    let n := canLen l
    if !canLenOk (canFmt l) n || n < 4 + t then (crBadReq, s)
    else
      let m := n - 4 - t
      let fv := BitVec.ofNat 32 (ofBe (slice l (16 + m) 4))
      judge (canId l) (canMsg l m fv) (slice l (20 + m) t) fv
  else if profMedium s p = 2 then
    if starLen l = 255 || !(byteAt l 3).getLsbD 1 || l.length < 4 + starLen l + 4 then (crBadReq, s)
    else judge (starSlot l) (starMsg l (fvOfTime starT)) (slice l (4 + starLen l) t) (fvOfTime starT)
  else (crBadReq, s)

end Sys2Proof.Machine
end

