-- ==== Sys2Proof/Machine/Check.lean ====
section
/-! DEFINITION. The checks on entries of Solstice tables (02 R39, Table 2.11; 06, 07, 08 R213, R216; 09 R236, R237; 13 R351,
R355, R357), and CFG_CHECK. -/

namespace Sys2Proof.Machine

/-- A set of table entries. -/
abbrev Tables := NMap (List W32)

/-- An entry of a set. -/
def setE (t : Tables) (id i : Nat) : List W32 := nmGet [] t (tblKey id i)

/-- A word of an entry of a set. -/
def setW (t : Tables) (id i w : Nat) : W32 := wordAt (setE t id i) w

/-! ### References (check 0x01) -/

/-- A queue whose producer is one of F20-F26. -/
def fabQueue (s : State) (q : Nat) : Bool := 0x54 ≤ qProducer s q && qProducer s q ≤ 0x5A

/-- A destination code is not listed in Table 6.4. -/
def codeBad (code : Nat) : Bool :=
  !(code < 0x1010 || code = 0x1012 || (0x1100 ≤ code && code ≤ 0x111F) || (0x2000 ≤ code && code ≤ 0x23FF) || 0xFFFE ≤ code)

/-- A destination code refers to nothing: a queue that the fabric does not produce into, or a group without an entry. -/
def codeDangling (s : State) (t : Tables) (code : Nat) : Bool :=
  (code < 0x1000 && !fabQueue s code) || (0x2000 ≤ code && code ≤ 0x23FF && !bit (setW t 7 (5120 + (code - 0x2000)) 0) 31)

/-- A field of a word is not 0. -/
def nz (e : List W32) (w hi lo : Nat) : Bool := fld (wordAt e w) hi lo ≠ 0

/-- Whether an entry is in use: its valid bit. -/
def entryValid (id i : Nat) (e : List W32) : Bool :=
  match id with
  | 1 => bit (wordAt e 9) 31
  | 2 => if i < 1024 then bit (wordAt e 0) 31 else if i < 1088 then bit (wordAt e 2) 31 else false
  | 3 => if i < 512 then bit (wordAt e 0) 31 else bit (wordAt e 3) 31
  | 4 => bit (wordAt e 6) 31
  | 5 => bit (wordAt e 2) 31
  | 6 => bit (wordAt e 3) 31
  | 7 => if i < 6144 then bit (wordAt e 0) 31 else bit (wordAt e 1) 31
  | 10 => 4096 ≤ i && bit (wordAt e 2) 31
  | 12 => i % 65 = 0 && bit (wordAt e 0) 31
  | _ => bit (wordAt e 0) 31

/-- A gate cycle in ns lies out of range. -/
def cycleBad (cycle : Nat) : Bool := cycle < 1000 || 1000000000 < cycle

/-- The fabric tables: a field of the entry itself lies outside its stated range. -/
def rangeFab (id i : Nat) (e : List W32) : Bool :=
  match id with
  | 1 =>
    codeBad (fld (wordAt e 8) 15 0) || nz e 9 30 25 || nz e 7 31 21 || (fld (wordAt e 4) 4 0 = 31 && 27 ≤ fld (wordAt e 0) 4 0)
  | 2 =>
    if i < 1024 then nz e 0 30 22
    else cycleBad (fld (wordAt e 0) 29 0) || decide (fld (wordAt e 0) 29 0 ≤ fld (wordAt e 1) 29 0)
  | 4 =>
    [0, 2, 4].any (fun k => decide (fld (wordAt e (k + 1)) 20 0 ≤ fld (wordAt e k) 20 0)) ||
      [0, 9, 18].any (fun lo => decide (256 < fld (wordAt e 6) (lo + 8) lo)) || wordAt e 7 ≠ 0
  | 5 => (216 ≤ i && i < 256) || (i < 216 && (9 < fld (wordAt e 2) 3 0 || (15 < fld (wordAt e 2) 8 4 && fld (wordAt e 2) 8 4 ≠ 31)))
  | 6 => codeBad (fld (wordAt e 2) 15 0) || fld (wordAt e 2) 15 0 = 0xFFFE || nz e 1 31 28 || nz e 2 31 18 || nz e 3 30 0
  | 7 =>
    if i < 1024 then codeBad (fld (wordAt e 0) 15 0)
    else if i < 5120 then codeBad (fld (wordAt e 0) 15 0) || fld (wordAt e 0) 17 16 = 3
    else if i < 6144 then nz e 0 17 16 || nz e 0 19 19
    else codeBad (fld (wordAt e 1) 15 0)
  | _ => false

/-- The CAN, Ethernet and gateway tables: the same. -/
def rangeOther (id : Nat) (e : List W32) : Bool :=
  match id with
  | 8 =>
    !nz e 2 15 0 || (nz e 5 7 0 && !nz e 5 31 16) || nz e 0 30 30 || nz e 1 31 29 || nz e 4 31 29 || nz e 5 15 8 ||
      wordAt e 6 ≠ 0 || wordAt e 7 ≠ 0
  | 9 => nz e 0 30 30 || nz e 2 3 2 || nz e 2 31 16 || wordAt e 3 ≠ 0
  | 10 => decide (fld (wordAt e 0) 29 0 ≤ fld (wordAt e 1) 29 0)
  | 11 => fld (wordAt e 0) 1 0 = 3 || !nz e 1 15 0
  | 13 =>
    fld (wordAt e 0) 1 0 = 3 || 23 < fld (wordAt e 0) 7 3 || !nz e 5 1 0 || (2 ≤ fld (wordAt e 5) 1 0 && !nz e 5 31 8) ||
      2000000 < fld (wordAt e 6) 23 0 || nz e 0 30 8 || nz e 1 31 29 || nz e 2 31 21 || nz e 3 15 12 || nz e 3 31 28 ||
      nz e 4 15 10 || nz e 4 31 30 || nz e 5 7 2 || nz e 6 31 24
  | 14 =>
    let medium := fld (wordAt e 0) 3 2
    medium = 0 || medium = 3 || !nz e 0 5 4 || 12 < fld (wordAt e 0) 19 16 ||
      decide (8192 < fld (wordAt e 1) 12 0 + 2 ^ fld (wordAt e 0) 19 16) || decide ((wordAt e 3).toInt ≤ (wordAt e 2).toInt) ||
      decide (2000000000 < (wordAt e 3).toInt) || (medium = 2 && bit (wordAt e 0) 1)
  | 15 =>
    let k := fld (wordAt e 0) 12 4
    match fld (wordAt e 0) 2 0 with
    | 1 => 7 < k
    | 2 => 3 < k
    | 3 => 3 < k
    | 4 => 319 < k
    | _ => true
  | _ => false

/-- A valid entry has a field of its own outside its stated range (check 0x07 on the entry alone; BAD_ENTRY of R175). -/
def entryRange (id i : Nat) (e : List W32) : Bool := entryValid id i e && (rangeFab id i e || rangeOther id e)

/-! ### Gates (check 0x03) -/

/-- A gate list: `hdr` its header, `first` its first entry; the cycle lies in range and is the sum of the intervals. -/
def gateBad (t : Tables) (id hdr first : Nat) (len : Nat) : Bool :=
  let cycle := fld (setW t id hdr 0) 29 0
  cycleBad cycle ||
    ((List.range (len + 1)).map fun k => fld (setW t id (first + k) 0) 29 0).sum ≠ cycle

/-- A list entry in use whose interval is out of range. -/
def intervalBad (t : Tables) (id i : Nat) (e : List W32) : Bool :=
  let v := fld (wordAt e 0) 29 0
  if id = 2 && 2048 ≤ i then
    let g := (i - 2048) / 64
    bit (setW t 2 (1024 + g) 2) 31 && (i - 2048) % 64 ≤ fld (setW t 2 (1024 + g) 2) 5 0 && v = 0
  else if id = 10 && i < 4096 then
    let p := i / 256
    bit (setW t 10 (4096 + p) 2) 31 && i % 256 ≤ fld (setW t 10 (4096 + p) 2) 7 0 && (v < 4 || 1000000000 < v)
  else false

/-! ### The MAC/VLAN table (R143) -/

/-- A staged entry outside the bucket of its key, or with the key of another valid entry. -/
def macBad (t : Tables) (i : Nat) (e : List W32) : Bool :=
  let vid := fld (wordAt e 1) 27 16
  let mac := (wordAt e 0).toNat + fld (wordAt e 1) 15 0 * 2 ^ 32
  i / 4 ≠ macBucket vid mac || [0, 1, 2, 3].any fun k => i / 4 * 4 + k ≠ i && macIs (setE t 6 (i / 4 * 4 + k)) vid mac

/-! ### Star modes (R236, R237) -/

/-- Word `k` of window `w` of mode `m`. -/
def chkWinW (t : Tables) (m w k : Nat) : W32 := setW t 12 (m * 65 + 1 + w) k

/-- Windows of mode `m`. -/
def nWin (t : Tables) (m : Nat) : Nat := fld (setW t 12 (m * 65) 0) 29 24 + 1

/-- The open and close of a window. -/
def winSpan (t : Tables) (m w : Nat) : Nat × Nat := (fld (chkWinW t m w 0) 23 0, fld (chkWinW t m w 0) 23 0 + fld (chkWinW t m w 1) 23 0)

/-- The kind of a window. -/
def chkWinKind (t : Tables) (m w : Nat) : Nat := fld (chkWinW t m w 2) 1 0

/-- A window is active in basic cycle `c`. -/
def winActive (t : Tables) (m c w : Nat) : Bool :=
  c % 2 ^ fld (chkWinW t m w 2) 16 14 = fld (chkWinW t m w 2) 23 18

/-- A branch mask names exactly one branch. -/
def oneBranch (v : Nat) : Bool := ((List.range 24).filter fun n => v / 2 ^ n % 2 = 1).length = 1

/-- A window's fields do not suit its kind. -/
def winBad (t : Tables) (m w : Nat) : Bool :=
  let x := chkWinW t m w 2
  let kind := chkWinKind t m w
  let mask := fld (chkWinW t m w 3) 23 0
  let slot := fld x 13 4
  (w ≠ 0 && kind = 3) || (w ≠ 0 && (winSpan t m w).1 < (winSpan t m (w - 1)).1) ||
    fld (setW t 12 (m * 65) 0) 23 0 < (winSpan t m w).2 ||
    (kind = 1 && !bit x 2 && !oneBranch mask) || (kind = 1 && bit x 2 && mask ≠ 0) || (kind = 2 && mask = 0) ||
    (kind = 1 && (slot = 0 || 0x3FC ≤ slot)) || (kind ≠ 0 && 6 < fld x 16 14) || decide (2 ^ fld x 16 14 ≤ fld x 23 18)

/-- Window 0 is not the reference window that every mode begins with. -/
def refBad (t : Tables) (m : Nat) : Bool :=
  chkWinKind t m 0 ≠ 3 || (winSpan t m 0).1 ≠ 0 || (winSpan t m 0).2 < 26000 || nz (setE t 12 (m * 65 + 1)) 2 16 14 ||
    nz (setE t 12 (m * 65 + 1)) 2 23 18

/-- A basic cycle has an interval of at least 24 us outside every active window that is not free: `at_` is where the free time
so far begins. -/
def freeAfter (bc : Nat) : Nat → List (Nat × Nat) → Bool
  | at_, [] => at_ + 24000 ≤ bc
  | at_, (o, c) :: r => at_ + 24000 ≤ o || freeAfter bc (max at_ c) r

/-- The spans of the windows of a basic cycle that are active and not free. -/
def busySpans (t : Tables) (m c : Nat) : List (Nat × Nat) :=
  ((List.range (nWin t m)).filter fun w => chkWinKind t m w ≠ 0 && winActive t m c w).map (winSpan t m)

/-- Device slot identifiers of the valid modes of the library. -/
def devSlots (t : Tables) : List Nat :=
  (((List.range 8).filter fun k => bit (setW t 12 (k * 65) 0) 31).flatMap fun k =>
    ((List.range (nWin t k)).filter fun w => chkWinKind t k w = 1 && bit (chkWinW t k w 2) 2).map fun w => fld (chkWinW t k w 2) 13 4).dedup

/-- A valid mode fails check 0x07. -/
def modeBad (t : Tables) (m : Nat) : Bool :=
  let h := setE t 12 (m * 65)
  let bc := fld (wordAt h 0) 23 0
  let pre := fld (wordAt h 3) 6 0
  let post := fld (wordAt h 3) 14 8
  bc < 50000 || 10000000 < bc || bc % 40 ≠ 0 || decide (bc ≤ fld (wordAt h 1) 23 0) || pre < 2 || 100 < pre || post < 2 || 100 < post ||
    refBad t m || (List.range (nWin t m)).any (winBad t m) ||
    ((List.range 64).any fun c => !freeAfter bc 0 (busySpans t m c)) || 64 < (devSlots t).length

/-- Two windows, of which the later one to open does so within the guard of the earlier, are both active in some basic cycle (R237). -/
def modeOverlap (t : Tables) (m : Nat) : Bool :=
  let pre := 100 * fld (setW t 12 (m * 65) 3) 6 0
  let post := 100 * fld (setW t 12 (m * 65) 3) 14 8
  let ws := (List.range (nWin t m)).filter fun w => chkWinKind t m w ≠ 0
  ws.any fun a => ws.any fun b =>
    decide (a ≠ b) && decide ((winSpan t m a).1 ≤ (winSpan t m b).1) && decide ((winSpan t m b).1 < (winSpan t m a).2 + post + 2000 + pre) &&
      (List.range 64).any fun c => winActive t m c a && winActive t m c b

/-- A device window with a tag names a profile that is not valid, not of medium star, or without tx (09 R243). -/
def winDangling (t : Tables) (i : Nat) (e : List W32) : Bool :=
  let m := i / 65
  let w := i % 65 - 1
  i % 65 ≠ 0 && bit (setW t 12 (m * 65) 0) 31 && w < nWin t m && fld (wordAt e 2) 1 0 = 1 && bit (wordAt e 2) 2 && bit (wordAt e 2) 3 &&
    (let p := setW t 14 (fld (wordAt e 2) 31 24) 0; !bit p 31 || fld p 3 2 ≠ 2 || !bit p 4)

/-! ### The checks of Table 2.11 -/

/-- Check 0x01: a reference that does not resolve. -/
def chkRef (s : State) (t : Tables) (id i : Nat) (e : List W32) : Bool :=
  match id with
  | 1 =>
    codeDangling s t (fld (wordAt e 8) 15 0) || (bit (wordAt e 8) 20 && !bit (setW t 2 (fld (wordAt e 8) 30 21) 0) 31) ||
      (bit (wordAt e 8) 31 && !bit (setW t 3 (fld (wordAt e 9) 8 0) 0) 31)
  | 2 => i < 1024 && bit (wordAt e 0) 15 && !bit (setW t 2 (1024 + fld (wordAt e 0) 21 16) 2) 31
  | 5 => i < 216 && fld (wordAt e 2) 8 4 ≤ 15 && !bit (setW t 4 (fld (wordAt e 2) 8 4) 6) 31
  | 6 => codeDangling s t (fld (wordAt e 2) 15 0)
  | 7 =>
    if i < 5120 then codeDangling s t (fld (wordAt e 0) 15 0)
    else if i < 6144 then
      (bit (wordAt e 2) 12 && !fabQueue s (fld (wordAt e 2) 11 0)) || (bit (wordAt e 2) 28 && !fabQueue s (fld (wordAt e 2) 27 16))
    else codeDangling s t (fld (wordAt e 1) 15 0)
  | 8 => bit (wordAt e 2) 16 && qProducer s (fld (wordAt e 2) 31 20) ≠ (if i < 2048 then 0x50 else 0x51)
  | 9 => fld (wordAt e 2) 1 0 = 2 && qProducer s (fld (wordAt e 2) 15 4) ≠ (if i < 2048 then 0x50 else 0x51)
  | _ => false

/-- Check 0x03: a gate list or stream gate. -/
def chkGate (t : Tables) (id i : Nat) (e : List W32) : Bool :=
  if id = 2 && 1024 ≤ i then gateBad t 2 i (2048 + 64 * (i - 1024)) (fld (wordAt e 2) 5 0)
  else if id = 10 then gateBad t 10 i (256 * (i - 4096)) (fld (wordAt e 2) 7 0)
  else false

/-- Check 0x06: the reserves up to this entry exceed the fabric buffer. -/
def chkReserve (s : State) (t : Tables) (id i : Nat) : Bool :=
  id = 5 && i < 216 && decide (bufCells s <
    ((List.range (i + 1)).map fun k => if bit (setW t 5 k 2) 31 then fld (setW t 5 k 0) 20 0 else 0).sum)

/-- Check 0x07: the entry's own fields, and the rules of 06 R143, 07 Table 7.6 and 09 R236. -/
def chkRange (s : State) (t : Tables) (id i : Nat) (e : List W32) : Bool :=
  entryRange id i e || (id = 6 && macBad t i e) || (id = 12 && modeBad t (i / 65)) ||
    (id = 11 && (fld (rd s .ETH_STAT 0 (2 * i)) 7 5 ≠ fld (rd s .ETH_STAT 0 (2 * i + 1)) 7 5 ||
      (fld (wordAt e 0) 1 0 = 2 && (bit (rd s .ETH_MACSEC_CTRL 0 (2 * i)) 0 || bit (rd s .ETH_MACSEC_CTRL 0 (2 * i + 1)) 0))))

/-- Check 0x0A: the engine of a signal route is bound to its queues (R351). -/
def chkRoute (s : State) (id : Nat) (e : List W32) : Bool :=
  let m := 8 + fld (wordAt e 0) 7 3
  id = 13 && !(qConsumer s (fld (wordAt e 3) 11 0) = m && qProducer s (fld (wordAt e 3) 27 16) = m)

/-- The lowest check of Table 2.11 that an entry fails. -/
def entryCheck (s : State) (t : Tables) (id i : Nat) (e : List W32) : Option Nat :=
  if intervalBad t id i e then some 7
  else if winDangling t i e && id = 12 then some 1
  else if !entryValid id i e then none
  else if chkRef s t id i e then some 1
  else if chkGate t id i e then some 3
  else if id = 12 && modeOverlap t (i / 65) then some 4
  else if id = 3 && i < 512 && !bit (setW t 3 (512 + fld (wordAt e 0) 7 0) 3) 31 then some 5
  else if chkReserve s t id i then some 6
  else if chkRange s t id i e then some 7
  else if id = 11 && 5 < i then some 8
  else if id = 14 && !(slotOf s (fld (wordAt e 0) 15 8)).loaded then some 9
  else if chkRoute s id e then some 10
  else none

/-- The list entries that a header has in use. -/
def listUsed (x : Nat × List W32) : List Nat :=
  let id := x.1 / 131072
  let i := x.1 % 131072
  let n := fld (wordAt x.2 2) (if id = 2 then 5 else 7) 0 + 1
  if !bit (wordAt x.2 2) 31 then []
  else if id = 2 && 1024 ≤ i && i < 1088 then (List.range n).map fun k => tblKey 2 (2048 + 64 * (i - 1024) + k)
  else if id = 10 && 4096 ≤ i then (List.range n).map fun k => tblKey 10 (256 * (i - 4096) + k)
  else []

/-- The first list entry in use of which every word is 0, so that the set does not list it: its interval is out of range. -/
def emptyEntry (t : Tables) : Option Nat := ((t.flatMap listUsed).filter fun k => (nmFind t k).isNone).min?

/-- The first failure of a set: its entry and check code. -/
def firstFail (s : State) (t : Tables) : Option (Nat × Nat) :=
  let stored := t.findSome? fun x => (entryCheck s t (x.1 / 131072) (x.1 % 131072) x.2).map fun c => (x.1, c)
  match stored, emptyEntry t with
  | some (k, c), some h => some (if h < k then (h, 7) else (k, c))
  | some r, none => some r
  | none, some h => some (h, 7)
  | none, none => none

/-- The first failure of a set, as the result of a CFG_CHECK: code, table, entry (R39). -/
def setCheck (s : State) (t : Tables) : Option W64 :=
  (firstFail s t).map fun (k, c) => BitVec.ofNat 64 (c + k / 131072 * 256 + k % 131072 * 65536)

/-- CFG_CHECK (R37-R39): source 33 fires when the checks have run (Table 2.13). -/
def execCfgCheck (ring : Fin 10) (slot : Nat) (s : State) : Res :=
  .next (startCmd ring slot 0x11 noBad (fun c _ s =>
    cfgGate c (fun s =>
      match setCheck s s.cfg.shadow with
      | some r => complete c stCheckFailed r (raise 33 { s with cfg := { s.cfg with check := none } })
      | none => complete c stOk s.time.now (raise 33 { s with cfg := { s.cfg with check := some s.time.now } })) s) s)

end Sys2Proof.Machine
end

