-- ==== Sys2Proof/Machine/Acts.lean ====
section
/-! DEFINITION. Active-set writes through FAB_ACT and CAN_ACT (06 R174, R175; 08 R218; 13 R369, R370). -/

namespace Sys2Proof.Machine

/-- Status codes of FAB_ACT_CTRL (Table 6.17). -/
abbrev actOk : Nat := 0
abbrev actRefused : Nat := 1
abbrev actBadIndex : Nat := 2
abbrev actBadEntry : Nat := 3

/-- The window: FAB_ACT, or CAN_ACT with `can`. -/
structure ActWin where
  sel : Reg
  ctrl : Reg
  words : Reg
  lo : Nat
  hi : Nat
  deriving DecidableEq, Repr

/-- FAB_ACT: tables 0x01-0x07. -/
def fabWin : ActWin := ⟨.FAB_ACT_SEL, .FAB_ACT_CTRL, .FAB_ACT_W, 1, 7⟩

/-- CAN_ACT: tables 0x08 and 0x09. -/
def canWin : ActWin := ⟨.CAN_ACT_SEL, .CAN_ACT_CTRL, .CAN_ACT_W, 8, 9⟩

/-- The status of a master's last operation. -/
def actStatus (w : ActWin) (m st : Nat) (s : State) : State := setF w.ctrl 0 m 9 8 st s

/-- The table and index that a master's selection names. -/
def actSel (w : ActWin) (m : Nat) (s : State) : Nat × Nat := (fld (rd s w.sel 0 m) 23 16, fld (rd s w.sel 0 m) 15 0)

/-- The selection names an entry of the window's tables. -/
def actInRange (w : ActWin) (id i : Nat) : Bool := w.lo ≤ id && id ≤ w.hi && i < tblCount id

/-- The read bit: the active entry is copied into the window's words. -/
def actRead (w : ActWin) (m : Nat) (s : State) : State :=
  let (id, i) := actSel w m s
  if actInRange w id i then
    actStatus w m actOk ((List.range w.words.desc.n).foldl (fun s k => wr w.words k m (tblW s id i k) s) s)
  else actStatus w m actBadIndex s

/-- The values of entry words against a range, a move toward it being accepted (R370). -/
def boundAll (lo hi : Nat) (cur new : List Nat) : Bool := (List.zip cur new).all fun p => inBound lo hi p.1 p.2

/-- The action that governs an entry write, whether it lies in scope, and whether in bounds (Table 13.14). -/
def actGoverns (id i : Nat) (e : List W32) (s : State) : Nat × Bool × Bool :=
  let cur := tbl s id i
  let f (x : List W32) (w hi lo : Nat) : Nat := fld (wordAt x w) hi lo
  if id = 4 then
    let mins (x : List W32) := [f x 0 20 0, f x 2 20 0, f x 4 20 0]
    let maxs (x : List W32) := [f x 1 20 0, f x 3 20 0, f x 5 20 0]
    let ps (x : List W32) := [f x 6 8 0, f x 6 17 9, f x 6 26 18]
    (1, bit (envW s 1 3) i,
     boundAll (envW s 1 1).toNat (2 ^ 32) (mins cur) (mins e) && boundAll 0 (envW s 1 2).toNat (maxs cur) (maxs e) &&
       boundAll 0 (fld (envW s 1 3) 24 16) (ps cur) (ps e))
  else if id = 3 && 512 ≤ i then
    let rates (x : List W32) := [f x 0 23 0, f x 2 23 0]
    (2, decide (fld (envW s 2 3) 7 0 ≤ i - 512) && decide (i - 512 ≤ fld (envW s 2 3) 15 8),
     boundAll (envW s 2 1).toNat (envW s 2 2).toNat (rates cur) (rates e) && f cur 1 19 0 = f e 1 19 0 && f cur 3 19 0 = f e 3 19 0 &&
       f cur 3 30 30 = f e 3 30 30)
  else if 8 ≤ id then
    let w2 := wordAt e 2
    let same := trimZeros (e.set 2 (if id = 8 then putFld w2 17 17 (f cur 2 17 17) else w2)) = cur
    (4, bit (envW s 4 3) (id - 8) && inRange s 4 i && (!bit (envW s 4 3) 2 || same), true)
  else (3, bit (envW s 3 3) id && inRange s 3 i, true)

/-- The meter instances whose buckets an entry write touches. -/
def actMeters (s : State) (id i : Nat) : List Nat :=
  if id ≠ 3 then []
  else if i < 512 then [i]
  else (List.range 512).filter fun k => bit (tblW s 3 k 0) 31 && fld (tblW s 3 k 0) 7 0 = i - 512

/-- An entry takes effect at one tick: buckets keep their tokens (R155), quotas are judged anew (R161). -/
def actPut (id i : Nat) (e : List W32) (s : State) : State :=
  let ks := actMeters s id i
  let keep (s : State) : State := ks.foldl (fun s k => setMeter k (meterNow s k) s) s
  (if id = 5 then bufferWritten else fun s => s) (keep (setActive id i e (keep s)))

/-- The apply bit (R174, R175): the policy core only, outside a restart, a known entry, its fields in range, the envelope. -/
def actApply (w : ActWin) (m : Nat) (s : State) : State :=
  let (id, i) := actSel w m s
  let e := (List.range (tblWords id)).map fun k => rd s w.words k m
  if m ≠ 3 || inRestart s then actStatus w m actRefused s
  else if !actInRange w id i then actStatus w m actBadIndex s
  else if entryRange id i e || (id = 2 && 2048 ≤ i && fld (wordAt e 0) 29 0 = 0) || intervalBad s.cfg.active id i e || (id = 6 && entryValid id i e && macBad s.cfg.active i e) then
    actStatus w m actBadEntry s
  else
    let (a, scope, bound) := actGoverns id i e s
    match envCheck a scope bound s with
    | some why => actStatus w m actRefused (govRefuse a why id i (wordAt e 0) s)
    | none => actStatus w m actOk (actPut id i e (govAccept a id i (wordAt e 0) s))

/-- A write of FAB_ACT_CTRL or CAN_ACT_CTRL. -/
def actCtrlWrite (w : ActWin) (m : Nat) (v : W32) (s : State) : State :=
  let s := if bit v 0 then actRead w m s else s
  if bit v 1 then actApply w m s else s

/-- FAB_ACT_READ (R174). -/
def execFabActRead (m : Fin 64) (s : State) : Res := .next (withWrite m .FAB_ACT_CTRL 0 1 (actCtrlWrite fabWin m 1) s)
/-- FAB_ACT_APPLY (R174). -/
def execFabActApply (m : Fin 64) (s : State) : Res := .next (withWrite m .FAB_ACT_CTRL 0 2 (actCtrlWrite fabWin m 2) s)
/-- CAN_ACT_READ (R218). -/
def execCanActRead (m : Fin 64) (s : State) : Res := .next (withWrite m .CAN_ACT_CTRL 0 1 (actCtrlWrite canWin m 1) s)
/-- CAN_ACT_APPLY (R218). -/
def execCanActApply (m : Fin 64) (s : State) : Res := .next (withWrite m .CAN_ACT_CTRL 0 2 (actCtrlWrite canWin m 2) s)

end Sys2Proof.Machine
end

