-- ==== Sys2Proof/Machine/Crypto.lean ====
section
/-! DEFINITION. Crypto requests, recirculation and the key store's registers (13 R362-R368). -/

namespace Sys2Proof.Machine

/-- Operations that a requester may ask for: FEAT2 (R364). -/
def feat2 (t : Nat) : W32 := if t = 96 then 0xFFE else 0x8FE

/-- Request slots of a thread (R366). -/
def cryMax (t : Nat) : Nat := if t = 96 then 32 else 8

/-- Free request slots: a slot is held until its completion is popped. -/
def cryFree (s : State) (t : Nat) : Nat := cryMax t - ((thOf s t).cry.length + (thOf s t).cryDone.length)

/-- A request completes: counted, its source, and its completion waits for the thread (Tables 13.12, 13.17). -/
def cryComplete (t st : Nat) (rtag : Byte) (s : State) : State :=
  let s := count32 .CRY_REQ_CNT 0 0 s
  let s := match st with
    | 1 => raise 273 (count32 .CRY_AUTH_FAIL 0 0 s)
    | 2 => raise 274 (count32 .CRY_STALE 0 0 s)
    | 3 => raise 275 (count32 .CRY_REPLAY 0 0 s)
    | 6 => raise 280 s
    | 7 => raise 280 s
    | _ => s
  let s := setTh t { thOf s t with cryDone := (thOf s t).cryDone ++ [(BitVec.ofNat 8 st, rtag)] } s
  raiseIf (t = 96) 272 s

/-- A window address as an address of shared memory, when `n` bytes from it lie in the window. -/
def windowAt (a : W32) (n : Nat) : Option Nat :=
  if 0x40000000 ≤ a.toNat && a.toNat + n ≤ 0x46000000 then some (a.toNat - 0x40000000) else none

/-- Crypto reads `n` bytes at a window address: status and bytes (R365). -/
def cryRead (a : W32) (n : Nat) (s : State) : Nat × List Byte × State :=
  match windowAt a n with
  | none => (crAccess, [], s)
  | some x =>
    let (st, l, s) := shReadRun .crypto x n s
    (if st = memOk then crOk else if st = memPoisoned then crPoisoned else crAccess, l, s)

/-- Crypto writes bytes at a window address: OK or ACCESS. -/
def cryWrite (a : W32) (l : List Byte) (s : State) : Nat × State :=
  match windowAt a l.length with
  | none => (crAccess, s)
  | some x =>
    let (st, s) := shWriteRun .crypto x l s
    (if st = memOk then crOk else if st = memPoisoned then crPoisoned else crAccess, s)

/-- The request block at a data-space address: in local memory or the window; `none` when it cannot be read (R365). -/
def cryBlock (t : Nat) (a : W32) (s : State) : Nat × List Byte × State :=
  let size := if t = 96 then 0x200000 else 0x20000
  if a.toNat + 32 ≤ size then
    let (m, base, bad) := if t = 96 then (s.stores.polD, 0, s.pol.poison.any fun w => polDWord a.toNat ≤ w && w ≤ polDWord (a.toNat + 31))
      else (s.stores.engL, t / 4 * 0x20000, s.eng.lmemPoison.any fun w => (t / 4 * 0x20000 + a.toNat) / 4 ≤ w && w ≤ (t / 4 * 0x20000 + a.toNat + 31) / 4)
    (if bad then crPoisoned else crOk, memReadN m (base + a.toNat) 32, eccCorrect t false a.toNat 32 s)
  else cryRead a 32 s

/-- Request word `w`. -/
def rqW (r : CryReq) (w : Nat) : W32 := wordAt r.words w

/-- The user bit of a requester. -/
def thUser (t : Nat) : Nat := if t = 96 then userPol else userEng

/-- A submitted request: not permitted or unreadable ones complete at once, else it waits for crypto (R364-R366). -/
def crySubmit (t : Nat) (addr : W32) (s : State) : State :=
  let (st, l, s) := cryBlock t addr s
  let words := wordsOfBytes 8 l
  let rtag := BitVec.ofNat 8 (fld (wordAt words 0) 15 8)
  let op := fld (wordAt words 0) 7 0
  if st ≠ crOk then cryComplete t st 0 s
  else if 32 ≤ op || !bit (feat2 t) op then cryComplete t crNotPermitted rtag s
  else
    let h := thOf s t
    setTh t { h with cry := h.cry ++ [⟨s.eng.nextReq, words, false⟩] } { s with eng := { s.eng with nextReq := s.eng.nextReq + 1 } }

/-- CRYPTO_SUBMIT (R366): with no free slot the issuer stalls, and nothing is submitted. -/
def execCryptoSubmit (t : Fin 97) (addr : BitVec 32) (s : State) : Res :=
  .next (if running s && cryFree s t ≠ 0 then throughThaw (crySubmit t addr) 385 s else s)

/-- The pop of the oldest completion: valid, status, request tag, or 0. -/
def cryPop (t : Nat) (s : State) : W32 × State :=
  let h := thOf s t
  match h.cryDone with
  | [] => (0, s)
  | (st, tag) :: r => (BitVec.ofNat 32 (2 ^ 31 + st.toNat * 2 ^ 16 + tag.toNat), setTh t { h with cryDone := r } s)

/-- CRYPTO_COMPLETION_POP (R366). -/
def execCryptoCompletionPop (t : Fin 97) (s : State) : Res :=
  .next (if running s then let (v, s) := cryPop t s; reply (thMaster t) v s else s)

/-! ### Operations (Table 13.10) -/

/-- The status of a step, and the state it leaves. -/
abbrev Cry := Nat × State

/-- The bytes of a record at a window address, by the medium of its profile. -/
def cryRecord (p : Nat) (a : W32) (s : State) : Nat × List Byte × State :=
  if profMedium s p = 1 then
    let (st, h, s) := cryRead a 16 s
    if st ≠ crOk then (st, h, s) else cryRead a (16 + canLen h) s
  else
    let (st, h, s) := cryRead a 4 s
    if st ≠ crOk then (st, h, s) else cryRead a (4 + starLen h + (if (byteAt h 3).getLsbD 1 then 4 else 0)) s

/-- TAG: the record gets fv and its tag in place (R358, R359, R365). -/
def cryTag (t : Nat) (r : CryReq) (s : State) : Cry :=
  let p := fld (rqW r 1) 7 0
  let (st, l, s) := cryRecord p (rqW r 2) s
  if st ≠ crOk then (st, s)
  else
    let time := if rqW r 5 = 0 then s.time.now else widenStamp s (rqW r 5)
    let (st, l', s') := tagRecord p (thUser t) l time (widenStamp s (rqW r 6)) s
    if st ≠ crOk then (st, s) else cryWrite (rqW r 2) l' s'

/-- VERIFY (R360). -/
def cryVerify (t : Nat) (r : CryReq) (s : State) : Cry :=
  let p := fld (rqW r 1) 7 0
  let (st, l, s) := cryRecord p (rqW r 2) s
  if st ≠ crOk then (st, s) else verifyRecord p (thUser t) l (rqW r 5) (widenStamp s (rqW r 6)) s

/-- A request that reads `n` bytes, uses a key and writes what `f` makes of them; `f` may find an authentication failure. -/
def cryWith (key : Nat) (n : Nat) (r : CryReq) (f : List Byte → Option (List Byte)) (s : State) : Cry :=
  if key ≠ crOk then (key, s)
  else
    let (st, l, s) := cryRead (rqW r 2) n s
    if st ≠ crOk then (st, s)
    else
      match f l with
      | none => (crAuthFail, s)
      | some out => cryWrite (rqW r 4) out s

/-- The key slot that a request names. -/
def rqSlot (s : State) (r : CryReq) : KeySlot := slotOf s (fld (rqW r 0) 23 16)

/-- CMAC over a message. -/
def cryCmac (t : Nat) (r : CryReq) (s : State) : Cry :=
  let k := rqSlot s r
  cryWith (keyStatus k [1, 2] useTag (thUser t)) (fld (rqW r 3) 15 0) r (fun m => some (cmacOf (keyBytes k) m)) s

/-- GCM encrypt: IV, additional data, text; the text and the tag go out. -/
def cryGcmEnc (t : Nat) (r : CryReq) (s : State) : Cry :=
  let k := rqSlot s r
  let n := fld (rqW r 3) 15 0
  let a := fld (rqW r 3) 31 16
  cryWith (keyStatus k [1, 2] useGcm (thUser t)) (12 + a + n) r (fun l =>
    let iv := l.take 12
    let ct := gcmText (keyBytes k) iv (l.drop (12 + a))
    some (ct ++ gcmTag (keyBytes k) iv (slice l 12 a) ct)) s

/-- GCM decrypt: a tag that differs writes nothing. -/
def cryGcmDec (t : Nat) (r : CryReq) (s : State) : Cry :=
  let k := rqSlot s r
  let n := fld (rqW r 3) 15 0
  let a := fld (rqW r 3) 31 16
  cryWith (keyStatus k [1, 2] useGcm (thUser t)) (12 + a + n + 16) r (fun l =>
    let iv := l.take 12
    let ct := slice l (12 + a) n
    if gcmTag (keyBytes k) iv (slice l 12 a) ct = l.drop (12 + a + n) then some (gcmText (keyBytes k) iv ct) else none) s

/-- SHA-256. -/
def crySha (r : CryReq) (s : State) : Cry := cryWith crOk (fld (rqW r 3) 15 0) r (fun m => some (sha256Of m)) s

/-- HMAC-SHA-256. -/
def cryHmac (t : Nat) (r : CryReq) (s : State) : Cry :=
  let k := rqSlot s r
  cryWith (keyStatus k [3] useHmac (thUser t)) (fld (rqW r 3) 15 0) r (fun m => some (hmacOf (keyBytes k) m)) s

/-- A key operation of the policy core, under the action KEYS for its target slot (R364, R369). -/
def cryGoverned (t slot : Nat) (r : CryReq) (f : State → Cry) (s : State) : Cry :=
  if t ≠ 96 then f s
  else
    match envCheck 12 (inRange s 12 slot) true s with
    | some why => (crNotPermitted, govRefuse 12 why 16 slot (rqW r 0) s)
    | none => f (govAccept 12 16 slot (rqW r 0) s)

/-- A key goes into the target slot when its length is that of the slot's type. -/
def cryInstall (r : CryReq) (key : List Byte) (s : State) : Cry :=
  let k := fld (rqW r 0) 31 24
  if fld (slotOf s k).attr 1 0 = 0 || key.length ≠ typeLen (fld (slotOf s k).attr 1 0) then (crBadReq, s)
  else (crOk, keyInstallTo k key s)

/-- KEY_UNWRAP (R367, RFC 3394). -/
def cryUnwrap (t : Nat) (r : CryReq) (s : State) : Cry :=
  cryGoverned t (fld (rqW r 0) 31 24) r (fun s =>
    let k := rqSlot s r
    let key := keyStatus k [1, 2] useWrap (thUser t)
    if key ≠ crOk then (key, s)
    else
      let (st, l, s) := cryRead (rqW r 2) (fld (rqW r 3) 15 0) s
      if st ≠ crOk then (st, s)
      else
        match keyUnwrapOf (keyBytes k) l with
        | none => (crAuthFail, s)
        | some key => cryInstall r key s) s

/-- KEY_DERIVE (R367): the fixed input is the message. -/
def cryDerive (t : Nat) (r : CryReq) (s : State) : Cry :=
  cryGoverned t (fld (rqW r 0) 31 24) r (fun s =>
    let k := rqSlot s r
    let key := keyStatus k [1, 2] useDerive (thUser t)
    if key ≠ crOk then (key, s)
    else
      let (st, l, s) := cryRead (rqW r 2) (fld (rqW r 3) 15 0) s
      if st ≠ crOk then (st, s)
      else cryInstall r (cmacDerive (keyBytes k) l (typeLen (fld (slotOf s (fld (rqW r 0) 31 24)).attr 1 0) / 16)) s) s

/-- KEY_ERASE (R367). -/
def cryErase (t : Nat) (r : CryReq) (s : State) : Cry :=
  cryGoverned t (fld (rqW r 0) 23 16) r (fun s => (crOk, keyEraseAt (fld (rqW r 0) 23 16) s)) s

/-- RANDOM: bytes of the free random source; none after a failed health test (Table 13.17). -/
def cryRandom (r : CryReq) (s : State) : Cry :=
  let n := fld (rqW r 3) 15 0
  if s.cry.rngFailed then (crBadReq, s)
  else cryWrite (rqW r 4) ((List.range n).map fun i => Config.drbg (s.freeCtr + i)) { s with freeCtr := s.freeCtr + n }

/-- A request that crypto takes: its status, completed to its thread. -/
def cryRun (t : Nat) (r : CryReq) (s : State) : State :=
  let (st, s) := match fld (rqW r 0) 7 0 with
    | 1 => cryTag t r s
    | 2 => cryVerify t r s
    | 3 => cryCmac t r s
    | 4 => cryGcmEnc t r s
    | 5 => cryGcmDec t r s
    | 6 => crySha r s
    | 7 => cryHmac t r s
    | 8 => cryUnwrap t r s
    | 9 => cryDerive t r s
    | 10 => cryErase t r s
    | 11 => cryRandom r s
    | _ => (crBadReq, s)
  cryComplete t st (BitVec.ofNat 8 (fld (rqW r 0) 15 8)) s

/-- Crypto takes request `k` of a thread (0 is its oldest) when it asks for operation `op`. -/
def cryTake (op : Nat) (t : Fin 97) (k : Nat) (s : State) : Res :=
  .next (let h := thOf s t
    match h.cry[k]? with
    | none => s
    | some r =>
      if running s && fld (rqW r 0) 7 0 = op then unlessAsleep (fun s => cryRun t r (setTh t { h with cry := h.cry.filter (·.id ≠ r.id) } s)) s else s)

/-- TAG (R365). -/
def execTag (t : Fin 97) (k : Nat) (s : State) : Res := cryTake 1 t k s
/-- VERIFY (R360). -/
def execVerify (t : Fin 97) (k : Nat) (s : State) : Res := cryTake 2 t k s
/-- CMAC (R363). -/
def execCmac (t : Fin 97) (k : Nat) (s : State) : Res := cryTake 3 t k s
/-- GCM_ENCRYPT (R363). -/
def execGcmEncrypt (t : Fin 97) (k : Nat) (s : State) : Res := cryTake 4 t k s
/-- GCM_DECRYPT (R363). -/
def execGcmDecrypt (t : Fin 97) (k : Nat) (s : State) : Res := cryTake 5 t k s
/-- SHA_256 (R363). -/
def execSha256 (t : Fin 97) (k : Nat) (s : State) : Res := cryTake 6 t k s
/-- HMAC_SHA_256 (R363). -/
def execHmacSha256 (t : Fin 97) (k : Nat) (s : State) : Res := cryTake 7 t k s
/-- KEY_UNWRAP (R367). -/
def execKeyUnwrap (t : Fin 97) (k : Nat) (s : State) : Res := cryTake 8 t k s
/-- KEY_DERIVE (R367). -/
def execKeyDerive (t : Fin 97) (k : Nat) (s : State) : Res := cryTake 9 t k s
/-- KEY_ERASE (R368). -/
def execKeyErase (t : Fin 97) (k : Nat) (s : State) : Res := cryTake 10 t k s
/-- RANDOM (R363). -/
def execRandom (t : Fin 97) (k : Nat) (s : State) : Res := cryTake 11 t k s

/-- Every request of a thread runs to completion, and its completions are discarded (R366). -/
def cryFlush (t : Nat) (s : State) : State :=
  let s := (thOf s t).cry.foldl (fun s r => throughThaw (cryRun t r) 385 s) s
  setTh t { thOf s t with cry := [], cryDone := [] } s

/-! ### Recirculation (R362) -/

/-- RECIRC_PACKET (R362): the record is tagged under the profile in its ptag and returns at F26, or is dropped. -/
def execRecircPacket (q : Fin 4096) (s : State) : Res :=
  .next (if !running s || qConsumer s q ≠ 0x5A then s
  else unlessAsleep (fun s =>
    match takePacket .fabric (qUse s q + 1) q 0x5A [] false none s with
    | (none, s) => s
    | (some (l, bad, d), s) =>
      let (st, l', s') := tagRecord (fld (dWord d 3) 23 16) userHw l s.time.now s.time.now s
      if bad || st ≠ crOk then raise 280 (count32 .CRY_RECIRC_DROP 0 0 s)
      else fabTake (queueFrame q l' d s') (some (fld (dWord d 1) 15 13)) false none s') s)

/-! ### Key-store registers (R367, Table 13.19) -/

/-- The key slot that a master selects. -/
def keySel (m : Nat) (s : State) : Nat := fld (rd s .CRY_KEY_SEL 0 m) 7 0

/-- CRY_KEY_STAT of a master. -/
def keyStat (m st : Nat) (s : State) : State := wr .CRY_KEY_STAT 0 m (BitVec.ofNat 32 st) s

/-- A write of CRY_KEY_CTRL: install from CRY_KEY_DATA, a clear write by the host only, then erase (R367). -/
def keyCtrlWrite (m : Nat) (v : W32) (s : State) : State :=
  let k := keySel m s
  let s :=
    if !bit v 0 then s
    else if 2 < m then keyStat m 3 s
    else if bit (rd s .CRY_PROV_LOCK 0 0) 0 then keyStat m 1 s
    else if fld (slotOf s k).attr 1 0 = 0 then keyStat m 2 s
    else keyStat m 0 (keyInstallTo k (bytesOfWords ((List.range 8).map fun w => nmGet 0 s.cry.keyData w) |>.take (typeLen (fld (slotOf s k).attr 1 0))) s)
  if bit v 1 then keyStat m 0 (keyEraseAt k s) else s

/-- A write of CRY_KEY_CTRL by a master, checked; a refusal of the envelope shows REFUSED. -/
def keyCtrl (m : Nat) (v : W32) (s : State) : State :=
  withReg m .CRY_KEY_CTRL 0 (fun s => withPolicy m .CRY_KEY_CTRL 0 v (keyStat m 3) (keyCtrlWrite m v) s) s

/-- KEY_INSTALL (R367). -/
def execKeyInstall (m : Fin 64) (v : BitVec 32) (s : State) : Res := .next (if bit v 0 then keyCtrl m v s else s)
/-- KEY_CTRL_ERASE (R367). -/
def execKeyCtrlErase (m : Fin 64) (v : BitVec 32) (s : State) : Res := .next (if bit v 1 then keyCtrl m v s else s)

/-- A write of CRY_PROV_LOCK: the first one fixes the field (02 R5). -/
def provLockWrite (v : W32) (s : State) : State :=
  if s.cry.provWritten then s
  else wr .CRY_PROV_LOCK 0 0 (v &&& 1) { s with cry := { s.cry with provWritten := true } }

/-- PROV_LOCK_WRITE (R367). -/
def execProvLockWrite (m : Fin 64) (v : BitVec 32) (s : State) : Res := .next (withWrite m .CRY_PROV_LOCK 0 v (provLockWrite v) s)

/-- A write of CRY_KEY_ATTR of the selected slot; loaded is read-only. -/
def keyAttrWrite (m : Nat) (v : W32) (s : State) : State :=
  let k := keySel m s
  setSlot k { slotOf s k with attr := v &&& 0x10FFF } s

end Sys2Proof.Machine
end

