-- ==== Sys2Proof/Machine/Mbx.lean ====
section
/-! DEFINITION. Mailboxes, doorbells and locks (15). -/

namespace Sys2Proof.Machine

/-- Statuses (Table 15.1). -/
abbrev mbOk : Nat := 0
abbrev mbEmpty : Nat := 1
abbrev mbFull : Nat := 2
abbrev mbNotBound : Nat := 3
abbrev mbTooLate : Nat := 4
abbrev mbWrongKind : Nat := 8

/-- An empty channel. -/
def mbxInit : MbxCh := ⟨[], false, false, false, false, none⟩

/-- Channel `ch`: doorbells 0-63, block channels 64-79. -/
def mbxOf (s : State) (ch : Nat) : MbxCh := nmGet mbxInit s.mbx.chans ch

/-- Channel `ch` set. -/
def setMbx (ch : Nat) (k : MbxCh) (s : State) : State := { s with mbx := { s.mbx with chans := nmSet mbxInit s.mbx.chans ch k } }

/-- The status of the last operation of the issuer on the channel, and of a thread on any port. -/
def mbxPut (via : Via) (ch st : Nat) (s : State) : State :=
  let s := { s with mbx := { s.mbx with stat := nmSet 0 s.mbx.stat (ch * 64 + viaMaster via) (BitVec.ofNat 4 st) } }
  match via with
  | .reg _ => s
  | .port t => setTh t { thOf s t with mbxStat := BitVec.ofNat 4 st } s

/-- An unbound access or a misuse of a lock: counted, source 302, its identity and target latched once (R386, R395). -/
def mbxUnbound (m target : Nat) (s : State) : State :=
  let s := raise 302 (count16 .MBX_UNB_CNT 0 0 s)
  if bit (rd s .MBX_UNB_ID 0 0) 31 then s
  else wr .MBX_UNB_ID 0 0 (BitVec.ofNat 32 (2 ^ 31 + m % 64 * 2 ^ 24 + target)) s

/-- The issuer is the bound sender. -/
def isSender (s : State) (ch m : Nat) : Bool := bit (rd s .MBX_BIND 0 ch) 31 && fld (rd s .MBX_BIND 0 ch) 5 0 = m
/-- The issuer is the bound receiver. -/
def isReceiver (s : State) (ch m : Nat) : Bool := bit (rd s .MBX_BIND 0 ch) 31 && fld (rd s .MBX_BIND 0 ch) 13 8 = m

/-- A message is overdue at the first tick at or after its instant: TIMEOUT sets and source 298 fires (R390). -/
def mbxOverdue (ch : Nat) (s : State) : State :=
  let k := mbxOf s ch
  match k.due with
  | none => s
  | some d => if k.full && d ≤ s.time.now then raise 298 (setMbx ch { k with timeout := true, due := none } s) else s

/-- An operation of a bound party on a channel, else NOT_BOUND (R386). -/
def mbxBound (via : Via) (ch : Nat) (ok : Nat → Bool) (f : State → State) (s : State) : State :=
  let m := viaMaster via
  if ok m then f (mbxOverdue ch s) else mbxPut via ch mbNotBound (mbxUnbound m ch s)

/-- A timeout in µs within its bounds; 0 is the channel's MBX_TMO. -/
def mbxTmo (s : State) (ch tmo : Nat) : Nat :=
  if tmo = 0 then max 1 (min 1000000 (fld (rd s .MBX_TMO 0 ch) 19 0)) else min 1000000 tmo

/-- The receiver's posted source of a channel (R389). -/
def postSource (ch : Nat) : Nat := if ch < 64 then 288 + ch / 8 else if ch < 72 then 296 else 297

/-- A post to a channel: FULL, or the message with its timeout and its source (R387-R390). -/
def mbxPost (via : Via) (ch tmo : Nat) (words : List W32 → List W32) (s : State) : State :=
  mbxBound via ch (isSender s ch) (fun s =>
    let k := mbxOf s ch
    if k.full then mbxPut via ch mbFull s
    else
      let due := s.time.now + BitVec.ofNat 64 (mbxTmo s ch tmo * 1000)
      raise (postSource ch) (mbxPut via ch mbOk
        (setMbx ch { k with words := words k.words, full := true, timeout := false, stale := false, orphan := false, due := some due } s))) s

/-- A take: the channel empties, with its marks in the status (R387, R388, R392). -/
def mbxTake (via : Via) (ch : Nat) (s : State) : W32 × State :=
  let m := viaMaster via
  if !isReceiver s ch m then (0, mbxPut via ch mbNotBound (mbxUnbound m ch s))
  else
    let s := mbxOverdue ch s
    let k := mbxOf s ch
    if !k.full then (0, mbxPut via ch mbEmpty s)
    else
      let st := if k.stale && k.orphan then 7 else if k.stale then 5 else if k.orphan then 6 else mbOk
      (wordAt k.words 0, mbxPut via ch st (setMbx ch { k with full := false, stale := false, orphan := false, due := none } s))

/-- A cancel by the sender (R391). -/
def mbxCancel (via : Via) (ch : Nat) (s : State) : State :=
  mbxBound via ch (isSender s ch) (fun s =>
    let k := mbxOf s ch
    let s' := setMbx ch { k with full := false, timeout := false, stale := false, orphan := false, due := none } s
    mbxPut via ch (if k.full then mbOk else mbTooLate) s') s

/-- A block word is written (R388). -/
def blockWrite (via : Via) (ch w : Nat) (v : W32) (s : State) : State :=
  mbxBound via ch (isSender s ch) (fun s =>
    let k := mbxOf s ch
    if k.full then mbxPut via ch mbFull s
    else mbxPut via ch mbOk (setMbx ch { k with words := trimZeros (((List.range 16).map (wordAt k.words)).set w v) } s)) s

/-- A block word is read by the receiver (R386, R388); the read is none of the operations of R389 and leaves its status. -/
def blockRead (via : Via) (ch w : Nat) (s : State) : W32 × State :=
  let m := viaMaster via
  if !isReceiver s ch m then (0, mbxPut via ch mbNotBound (mbxUnbound m ch s))
  else (wordAt (mbxOf s ch).words w, s)

/-- A doorbell is posted by its word; the word written to a block channel gives WRONG_KIND (R387, R388). -/
def dbPost (via : Via) (ch : Nat) (v : W32) (s : State) : State :=
  if ch < 64 then mbxPost via ch 0 (fun _ => trimZeros [v]) s else mbxPut via ch mbWrongKind s

/-- A doorbell is taken by a read of its word; the read of a block channel's answers 0. -/
def dbTake (via : Via) (ch : Nat) (s : State) : W32 × State := if ch < 64 then mbxTake via ch s else (0, s)

/-- A command on a channel: 1 post, 2 take, 3 cancel; post and take of a doorbell give WRONG_KIND (R388). -/
def mbxCmd (via : Via) (ch op tmo : Nat) (s : State) : State :=
  match op with
  | 1 => if ch < 64 then mbxPut via ch mbWrongKind s else mbxPost via ch tmo id s
  | 2 => if ch < 64 then mbxPut via ch mbWrongKind s else (mbxTake via ch s).2
  | 3 => mbxCancel via ch s
  | _ => s

/-- A write of MBX_CMD. -/
def mbxCmdWrite (m : Fin 64) (ch : Nat) (v : W32) (s : State) : State := mbxCmd (.reg m) ch (fld v 1 0) (fld v 31 12) s

/-- The channel of an OUT to port 0x441 (Table 15.2). -/
def p441Chan (s : State) (t : Nat) (v : W32) : Nat := if bit v 2 then fld v 8 3 else 64 + (thOf s t).blkSel.toNat

/-- OUT to port 0x441. -/
def p441Out (t : Fin 97) (v : W32) (s : State) : State :=
  let ch := p441Chan s t v
  mbxCmd (.port t) ch (fld v 1 0) (fld v 31 12) (setTh t { thOf s t with mbxCh := some ch } s)

/-- IN from port 0x441. -/
def p441In (t : Nat) (s : State) : W32 :=
  let h := thOf s t
  let k := mbxOf s (h.mbxCh.getD (64 + h.blkSel.toNat))
  BitVec.ofNat 32 (h.mbxStat.toNat + ofBool k.full * 16 + ofBool k.timeout * 32 + ofBool k.stale * 64 + ofBool k.orphan * 128)

/-- A doorbell or channel access through a register has its channel selected. -/
def mbxSelected (via : Via) (ch : Nat) (s : State) : Bool :=
  match via with
  | .reg m => (rd s .MBX_CHSEL 0 m).toNat = ch
  | .port _ => true

/-- A served write by register, or a port access. -/
def mbxWr (via : Via) (r : Reg) (i : Nat) (v : W32) (f : State → State) (s : State) : State :=
  match via with
  | .reg m => withWrite m r i v f s
  | .port _ => if running s then f s else s

/-- A served read by register, or a port access: the value goes to the reader. -/
def mbxRd (via : Via) (r : Reg) (i : Nat) (f : State → W32 × State) (s : State) : State :=
  let g (s : State) : State := let (v, s) := f s; reply (viaMaster via) v s
  match via with
  | .reg m => withRead m r i g s
  | .port _ => if running s then g s else s

/-- The block channel that an access names. -/
def viaBlock (via : Via) (s : State) : Nat :=
  match via with
  | .reg m => (rd s .MBX_CHSEL 0 m).toNat
  | .port t => 64 + (thOf s t).blkSel.toNat

/-- DOORBELL_POST (R387). -/
def execDoorbellPost (via : Via) (ch : Fin 64) (v : W32) (s : State) : Res :=
  .next (if mbxSelected via ch s then mbxWr via .MBX_DB_DATA 0 v (dbPost via ch v) s else s)

/-- DOORBELL_TAKE (R387). -/
def execDoorbellTake (via : Via) (ch : Fin 64) (s : State) : Res :=
  .next (if mbxSelected via ch s then mbxRd via .MBX_DB_DATA 0 (dbTake via ch) s else s)

/-- BLOCK_WORD_WRITE (R388): a doorbell ignores the write. -/
def execBlockWordWrite (via : Via) (w : Fin 16) (v : W32) (s : State) : Res :=
  .next (mbxWr via .MBX_BLK_W w v (fun s => if viaBlock via s < 64 then s else blockWrite via (viaBlock via s) w v s) s)

/-- BLOCK_POST (R388). -/
def execBlockPost (via : Via) (tmo : Nat) (s : State) : Res :=
  .next (mbxWr via .MBX_CMD 0 (BitVec.ofNat 32 (1 + tmo % 2 ^ 20 * 4096)) (fun s => mbxCmd via (viaBlock via s) 1 tmo s) s)

/-- BLOCK_TAKE (R388). -/
def execBlockTake (via : Via) (s : State) : Res := .next (mbxWr via .MBX_CMD 0 2 (fun s => mbxCmd via (viaBlock via s) 2 0 s) s)

/-- MAILBOX_CANCEL (R391). -/
def execMailboxCancel (via : Via) (ch : Fin 80) (s : State) : Res :=
  .next (if mbxSelected via ch s then mbxWr via .MBX_CMD 0 3 (mbxCmd via ch 3 0) s else s)

/-- MAILBOX_QUERY (R388, Table 15.2): it chooses the channel whose flags IN reports. -/
def execMailboxQuery (t : Fin 97) (ch : Fin 80) (s : State) : Res :=
  .next (if running s then setTh t { thOf s t with mbxCh := some ch } s else s)

/-- MAILBOX_TIMEOUT (R390). -/
def execMailboxTimeout (ch : Fin 80) (s : State) : Res := .next (if running s then mbxOverdue ch s else s)

/-! ### Binding (R384, R385) -/

/-- A write of MBX_BIND. -/
def mbxBindWrite (ch : Nat) (v : W32) (s : State) : State :=
  if bit (rd s .MBX_BIND_LOCK 0 0) 0 || 35 < fld v 5 0 || 35 < fld v 13 8 then setB .MBX_STAT 0 ch 0x100 s
  else plainWrite .MBX_BIND 0 ch v s

/-- MBX_BIND_WRITE (R384). -/
def execMbxBindWrite (m : Fin 64) (v : W32) (s : State) : Res :=
  .next (withWrite m .MBX_BIND 0 v (fun s => mbxBindWrite (chanOf .MBX_BIND m s) v s) s)

/-- A write of MBX_BIND_LOCK: the first one fixes the field (R385). -/
def bindLockWrite (v : W32) (s : State) : State :=
  if s.mbx.bindLockWritten then s
  else
    let s := { s with mbx := { s.mbx with bindLockWritten := true } }
    if bit v 0 then raise 303 (wr .MBX_BIND_LOCK 0 0 1 s) else s

/-- MBX_BIND_LOCK_WRITE (R385). -/
def execMbxBindLockWrite (m : Fin 64) (v : W32) (s : State) : Res := .next (withWrite m .MBX_BIND_LOCK 0 v (bindLockWrite v) s)

/-! ### Locks (R394-R397) -/

/-- The holder of lock `k`. -/
def lockOf (s : State) (k : Nat) : Option Nat := nmGet none s.mbx.locks k

/-- The holder of lock `k` set. -/
def setLock (k : Nat) (h : Option Nat) (s : State) : State := { s with mbx := { s.mbx with locks := nmSet none s.mbx.locks k h } }

/-- A read of a lock acquires a free one, and answers the holder of a held one (R394). -/
def lockTake (m k : Nat) (s : State) : W32 × State :=
  match lockOf s k with
  | none => (0, setLock k (some m) s)
  | some h => (BitVec.ofNat 32 (0x80 + h), s)

/-- A write of a lock: the holder's 0 releases it; anything else is a misuse (R395). -/
def lockWrite (m k : Nat) (v : W32) (s : State) : State :=
  if fld v 7 0 = 0 && lockOf s k = some m then setLock k none s else mbxUnbound m (0x80 + k) s

/-- A lock is broken: released, its broken bit set, source 301 (R397). -/
def lockBreak (k : Nat) (s : State) : State := raise 301 (setB .MBX_LOCK_BROKEN 0 0 (oneBit k) (setLock k none s))

/-- A write of MBX_LOCK_FORCE. -/
def lockForce (v : W32) (s : State) : State :=
  (List.range 32).foldl (fun s k => if bit v k && (lockOf s k).isSome then lockBreak k s else s) s

/-- LOCK_READ (R394). -/
def execLockRead (via : Via) (k : Fin 32) (s : State) : Res := .next (mbxRd via .MBX_LOCK k (lockTake (viaMaster via) k) s)

/-- LOCK_RELEASE (R395). -/
def execLockRelease (via : Via) (k : Fin 32) (v : W32) (s : State) : Res :=
  .next (mbxWr via .MBX_LOCK k v (lockWrite (viaMaster via) k v) s)

/-- LOCK_FORCE (R397). -/
def execLockForce (m : Fin 64) (v : W32) (s : State) : Res := .next (withWrite m .MBX_LOCK_FORCE 0 v (lockForce v) s)

/-! ### Resets of a party (R392, R397) -/

/-- The reset of identity `m` begins: full channels that it receives are stale, those that it sends orphan, its locks break. -/
def partyReset (m : Nat) (s : State) : State :=
  let s := (s.mbx.chans.map (·.1)).foldl (fun s ch =>
    let k := mbxOf s ch
    if !k.full then s
    else
      let r := bit (rd s .MBX_BIND 0 ch) 31 && fld (rd s .MBX_BIND 0 ch) 13 8 = m
      let o := bit (rd s .MBX_BIND 0 ch) 31 && fld (rd s .MBX_BIND 0 ch) 5 0 = m
      raiseIf o 300 (raiseIf r 299 (setMbx ch { k with stale := k.stale || r, orphan := k.orphan || o } s))) s
  (List.range 32).foldl (fun s k => if lockOf s k = some m then lockBreak k s else s) s

/-- MBX_STAT of a channel for a master. -/
def mbxStatWord (s : State) (ch m : Nat) : W32 :=
  let k := mbxOf s ch
  BitVec.ofNat 32 (ofBool k.full + ofBool k.timeout * 2 + ofBool k.stale * 4 + ofBool k.orphan * 8 +
    (nmGet 0 s.mbx.stat (ch * 64 + m)).toNat * 16) ||| (rd s .MBX_STAT 0 ch &&& 0x100)

/-- A write of MBX_STAT: 1 clears timeout and bind_err. -/
def mbxStatWrite (ch : Nat) (v : W32) (s : State) : State :=
  let s := if bit v 1 then setMbx ch { mbxOf s ch with timeout := false } s else s
  if bit v 8 then clrB .MBX_STAT 0 ch 0x100 s else s

end Sys2Proof.Machine
end

