-- ==== Sys2Proof/Machine/Restart.lean ====
section
/-! DEFINITION. The beginning of a software-level restart (01 R14-R15; 17 R422-R425). -/

namespace Sys2Proof.Machine

/-- A wait that a stop or an EVENT cancels: the instruction takes and writes nothing (11 R302). -/
def cancelWait (h : Thread) : Thread :=
  match h.wait with
  | .pop => h
  | _ => { h with wait := .none }

/-- A stop reaches a thread, or the policy core (11 R285, R302). -/
def thStop (t : Nat) (s : State) : State :=
  let h := thOf s t
  setTh t (cancelWait { h with fb := fbDisable h.fb }) s

/-- Every engine thread, by key, and the policy core. -/
def allThreads (s : State) : List Nat := s.eng.threads.map (·.1) ++ [96]

/-- Levels 3 and 4 stop. -/
def levelsStop (s : State) : State :=
  let s := (allThreads s).foldl (fun s t => thStop t s) s
  { s with pwr := { s.pwr with wdt3At := none, wdt4At := none } }

/-- The resets of the parties of levels 3 and 4: CHSEL copies, queues, crypto requests, mailboxes and locks (R424 step 1). -/
def levelsReset (s : State) : State :=
  let ids := 3 :: (List.range 24).map (· + 8)
  let s := [Reg.MEM_CHSEL, .QM_CHSEL, .ETH_CHSEL, .CAN_CHSEL, .STAR_CHSEL, .PIO_CHSEL, .ENG_CHSEL, .MBX_CHSEL].foldl
    (fun s r => ids.foldl (fun s m => wr r 0 m 0 s) s) s
  let s := qmRestart s
  let s := (allThreads s).foldl (fun s t => cryFlush t s) s
  ids.foldl (fun s m => partyReset m s) s

/-- The check that a restart interval spoils: at once, or with the armed commit that it meets (01 R15). -/
def restartCheck (s : State) : State :=
  match s.cfg.armed with
  | none => { s with cfg := { s.cfg with check := none } }
  | some a => { s with cfg := { s.cfg with armed := some { a with stale := true } } }

/-- Counted restarts that still lie in the sliding window (R425). -/
def restartsCounted (s : State) : List W64 :=
  let window := max 1 (fld (rd s .GLB_RESTART_CFG 0 0) 31 16)
  s.pwr.restartTimes.filter fun t => decide (s.ticks - t.toNat < window * 250000000)

/-- The limit of counted restarts. -/
def restartLimit (s : State) : Nat := max 1 (fld (rd s .GLB_RESTART_CFG 0 0) 3 0)

/-- A restart is in progress: from its start to source 7 (R422). -/
def restartBusy (s : State) : Bool := s.pwr.restartPending || s.pwr.restartLoaded

/-- Levels 3 and 4 are held OFF: held and source 8 (R425, R428). -/
def levelsHold (s : State) : State :=
  raise 8 (setB .GLB_STAT 0 0 8 (levelsStop { s with pwr := { s.pwr with held := true } }))

/-- Step 1 of a restart: source 6, levels 3 and 4 stop, their parties reset (R423, R424). -/
def restartStep1 (s : State) : State :=
  let s := { s with pwr := { s.pwr with restarting := true, restartPending := true, restartLoaded := false, held := false } }
  restartCheck (levelsReset (levelsStop (raise 6 (clrB .GLB_STAT 0 0 8 s))))

/-- The boot control record changes: its older copy is written (R426). -/
def setCtl (c : BootCtl) (s : State) : State :=
  let c := { c with seq := c.seq + 1 }
  say (.bootCtl c.seq c.active c.trial c.trialFail) { s with pwr := { s.pwr with ctl := c } }

/-- Levels 3 and 4 stay OFF: they are held, or boot has yet to load them. -/
def levelsBlocked (s : State) : Bool := s.pwr.held || s.pwr.recovery || s.pwr.restartPending

/-- An enable of a thread or of the policy core: one that is OFF stays OFF while levels 3 and 4 do (R424, R425). DESIGN CHOICE:
PENDING requests are kept as R57 and R58 say even then (log 42). -/
def enableHeld (s : State) (f : BitVec 4) : BitVec 4 := if f = 0 && levelsBlocked s then 0 else fbEnable f

/-- STOPPING ends: a pending enable lapses while levels 3 and 4 stay OFF (log 42). -/
def stoppedHeld (s : State) (f : BitVec 4) : BitVec 4 := if levelsBlocked s then 0 else fbStopped f

/-- An uncounted restart: GLB_RST_CTRL.level or FW_ACTIVATE (R422, R424). -/
def restartPlain (cause : Nat) (s : State) : State :=
  let s := setB .GLB_RST_CAUSE 0 0 (oneBit cause) s
  if restartBusy s then s else restartStep1 s

/-- A restart of a watchdog, a lockstep mismatch or a double fault: counted, held at the limit, or in an update trial falling
back to the other slot with reason 10 (R425, R436). -/
def restartCounted (cause : Nat) (s : State) : State :=
  let s := setB .GLB_RST_CAUSE 0 0 (oneBit cause) s
  if restartBusy s then s
  else
    let times := restartsCounted s ++ [BitVec.ofNat 64 s.ticks]
    let s := { s with pwr := { s.pwr with restartTimes := times } }
    let limit := restartLimit s
    if s.pwr.ctl.trial then
      let c := s.pwr.ctl
      let fails := min 15 (c.trialFail.toNat + 1)
      let s := setCtl { c with trialFail := BitVec.ofNat 4 fails } s
      if limit ≤ fails || limit ≤ times.length then
        restartStep1 { s with pwr := { s.pwr with restartOther := true, restartFail := some 10 } }
      else restartStep1 s
    else if limit ≤ times.length then levelsHold s
    else restartStep1 s

end Sys2Proof.Machine
end

