-- ==== Sys2Proof/Machine/Thread.lean ====
section
/-! DEFINITION. Eztiel threads and the policy core as processors: issue, faults, exceptions, loop ends, memory checks, waits
and their completion (11 R284-R302; 12 R325-R343). -/

namespace Sys2Proof.Machine

/-! ### Registers of a thread -/

/-- General register `r`; g0 reads 0 (12 R310). -/
def gR (h : Thread) (r : Nat) : W32 := if r = 0 then 0 else nmGet 0 h.g r

/-- General register `r` set; a write to g0 is discarded (12 R310). -/
def gW (r : Nat) (v : W32) (h : Thread) : Thread := if r = 0 then h else { h with g := nmSet 0 h.g r v }

/-- The program counter's bits: a word address in 2^16 bytes on an engine, 2^19 on the policy core (12 R311). -/
def pcMask (t : Nat) (a : W32) : W32 := if t = 96 then a &&& 0x7FFFC else a &&& 0xFFFC

/-- TSR (Table 12.1). -/
def tsrOf (h : Thread) : W32 :=
  BitVec.ofNat 32 (ofBool h.ov + ofBool h.dz * 2 + h.ldepth * 4 + ofBool h.lvalid * 16 + h.sdepth * 256 + h.faultCode.toNat * 65536)

/-- Fields of TSR that a word writes: ov and dz, and with `all` ldepth, lvalid and sdepth (12 R330, R336). -/
def tsrWrite (all : Bool) (v : W32) (h : Thread) : Thread :=
  let h := { h with ov := bit v 0, dz := bit v 1 }
  if all then { h with ldepth := fld v 3 2, lvalid := bit v 4, sdepth := fld v 15 8 } else h

/-- Loop context `c`. -/
def loopOf (h : Thread) (c : Nat) : LoopCtx := h.loops.getD c ⟨0, 0, 0⟩

/-- Word `k` (start, end, count) of loop context `c`. -/
def loopWord (h : Thread) (c k : Nat) : W32 :=
  match k with
  | 0 => (loopOf h c).start
  | 1 => (loopOf h c).stop
  | _ => (loopOf h c).count

/-- Word `k` of loop context `c` set. -/
def loopSet (c k : Nat) (v : W32) (h : Thread) : Thread :=
  let x := loopOf h c
  { h with loops := h.loops.set c (match k with
    | 0 => { x with start := v }
    | 1 => { x with stop := v }
    | _ => { x with count := v }) }

/-! ### Loop ends (12 R325, R328) -/

/-- The end-of-body step at `pc` with `d` active contexts: next address, depth, contexts. -/
def endBody (t : Nat) (pc : W32) : Nat → List LoopCtx → W32 × Nat × List LoopCtx
  | 0, l => (pcMask t (pc + 4), 0, l)
  | d + 1, l =>
    let x := l.getD d ⟨0, 0, 0⟩
    if pcMask t x.stop = pc then
      let n := x.count - 1
      let l := l.set d { x with count := n }
      if n ≠ 0 then (pcMask t x.start, d + 1, l) else endBody t pc d l
    else (pcMask t (pc + 4), d + 1, l)

/-- An instruction that does not transfer control completes: the PC moves on under R325. -/
def ezAdvance (t : Nat) (s : State) : State :=
  let h := thOf s t
  let (pc, d, l) := endBody t h.pc h.ldepth h.loops
  setTh t { h with pc := pc, ldepth := d, loops := l } s

/-- A stale loop end: not the innermost context's, but another active one's (12 R328). -/
def loopStale (t : Nat) (h : Thread) : Bool :=
  pcMask t (loopOf h (h.ldepth - 1)).stop ≠ h.pc && ((List.range (h.ldepth - 1)).any fun c => pcMask t (loopOf h c).stop = h.pc)

/-! ### Faults and exceptions (11 R285, R294; 12 R335-R341) -/

/-- Cause bits of an engine set; its event fires for a bit that goes from 0 to 1. -/
def engCause (e n : Nat) (s : State) : State :=
  if bit (rd s .ENG_EVT_CAUSE 0 e) n then s else raise (240 + e) (setB .ENG_EVT_CAUSE 0 e (oneBit n) s)

/-- A fault of an engine thread: STOPPING, with code and addresses; a later one only counts (11 R294). -/
def engFault (t code : Nat) (pc addr : W32) (s : State) : State :=
  let h := thOf s t
  if h.faulted then setTh t { h with moreFaults := min 15 (h.moreFaults + 1) } s
  else
    engCause (t / 4) (t % 4)
      (setTh t (cancelWait { h with faulted := true, faultCode := BitVec.ofNat 8 code, faultPc := pc, faultAddr := addr,
                                    fb := fbDisable h.fb }) s)

/-- Supervisor mode. -/
def supMode (s : State) : Bool := s.pol.mode.getLsbD 0

/-- The double fault: the policy core stops and a restart begins (12 R337). -/
def doubleFault (s : State) : State :=
  restartCounted 7 (raise 265 (thStop 96 (setB .POL_STAT 0 0 0x20 s)))

/-- The policy core takes an exception: EPC, ECAUSE, EVAL, the modes, the vector (12 R335, R337). -/
def excTake (imprecise : Bool) (code : Nat) (eval epc : W32) (s : State) : State :=
  let m := s.pol.mode
  if m.getLsbD 4 then doubleFault s
  else
    let m' : BitVec 6 := BitVec.ofNat 6 (1 + ofBool (m.getLsbD 0) * 2 + ofBool (m.getLsbD 2) * 8 + 16 + ofBool (m.getLsbD 5) * 32)
    let h := cancelWait s.pol.th
    { s with pol := { s.pol with th := { h with pc := s.pol.vbase }, mode := m', epc := epc, eval := eval,
                                 ecause := BitVec.ofNat 32 (code + ofBool imprecise * 256) } }

/-- An uncorrectable error of local memory is counted in ENG_ECC or POL_ECC (Tables 11.9, 13.18). -/
def eccCount (t : Nat) (s : State) : State :=
  let r := if t = 96 then Reg.POL_ECC else Reg.ENG_ECC
  let c := if t = 96 then 0 else t / 4
  setF r 0 c 31 16 (min 0xFFFF (fld (rd s r 0 c) 31 16 + 1)) s

/-- A precise fault of the instruction at the PC, which has no effect: a stop on an engine, an exception on the policy core. -/
def thFault (t code : Nat) (addr : W32) (s : State) : State :=
  let s := if code = 8 then eccCount t s else s
  if t = 96 then excTake false code (if 0x0A ≤ code && code ≤ 0x0D then 0 else addr) (thOf s t).pc s
  else engFault t code (thOf s t).pc addr s

/-- A fault found at a bank (11 R294; 12 R341). -/
def thImprecise (t code : Nat) (pc addr : W32) (s : State) : State :=
  if t = 96 then (if fbState (thOf s t).fb = 2 then excTake true code addr (thOf s t).pc s else s)
  else engFault t code pc addr s

/-! ### Readiness (11 R284, R286, R289) -/

/-- The issue budget of an engine thread. -/
def budgetOf (s : State) (t : Nat) : Nat := if t = 96 then 0 else fld (rd s .ENG_T_BUDGET 0 t) 19 0

/-- A thread that could issue if no sibling held it back: ON, not waiting, with budget. -/
def thAwake (s : State) (t : Nat) : Bool :=
  let h := thOf s t
  fbState h.fb = 2 && h.wait = .none && (budgetOf s t = 0 || decide (h.used < budgetOf s t))

/-- The breakpoint of a thread stands before its next instruction (11 R308). -/
def atBreak (s : State) (t : Nat) : Bool :=
  t < 96 && !(thOf s t).skipBreak && bit (rd s .ENG_T_BREAK 0 t) 0 && (rd s .ENG_T_BREAK 0 t &&& 0xFFFC) = (thOf s t).pc

/-- A thread is ready: it has yielded to no other ready thread, and no breakpoint stands before it. -/
def thReady (s : State) (t : Nat) : Bool :=
  running s && thAwake s t && !((thOf s t).yield_.any fun u => thAwake s u) && !atBreak s t

/-- Registers whose results are in flight (11 R289). -/
def pendingRegs (h : Thread) : List Nat :=
  h.ops.flatMap fun o =>
    if o.kind = .store then [] else (if o.width = 8 then [o.dest, o.dest + 1] else [o.dest]).filter (· ≠ 0)

/-- An instruction that uses registers waits for one of them. -/
def stalled (s : State) (t : Nat) (uses : List Nat) : Bool := uses.any fun r => r ∈ pendingRegs (thOf s t)

/-- The issue is counted in the thread's period, and siblings that yielded to it need not wait for it any more. -/
def issueCount (t : Nat) (s : State) : State :=
  if t = 96 then s
  else
    let s := setTh t { thOf s t with used := (thOf s t).used + 1, skipBreak := false, yield_ := [] } s
    let s := [0, 1, 2, 3].foldl (fun s k =>
      let u := t / 4 * 4 + k
      if (thOf s u).yield_.contains t then setTh u { thOf s u with yield_ := (thOf s u).yield_.filter (· ≠ t) } s else s) s
    { s with eng := { s.eng with lastIssue := nmSet 4 s.eng.lastIssue (t / 4) (t % 4) } }

/-- An instruction is fetched and issues: a single-bit error of its word is corrected (11, Memory), the issue is counted. -/
def countIssue (t : Nat) (s : State) : State := issueCount t (eccCorrect t true (thOf s t).pc.toNat 4 s)

/-! ### Memory protection (12 R342) -/

/-- Region `r`. -/
def mpuOf (s : State) (r : Nat) : MpuRegion := nmGet ⟨0, 0, 0⟩ s.pol.mpu r

/-- The policy core may access an address of a space with the attribute bits `need`. -/
def mpuAllows (s : State) (instr : Bool) (need : List Nat) (a : W32) : Bool :=
  let hit (r : Nat) : Bool :=
    let m := mpuOf s r
    m.attr.getLsbD 0 && (m.attr.getLsbD 1) = instr && m.base.toNat ≤ a.toNat && a.toNat < m.limit.toNat &&
      (!supMode s || m.attr.getLsbD 5)
  match (List.range 16).find? hit with
  | some r => need.all fun b => (mpuOf s r).attr.getLsbD b
  | none => supMode s

/-- An access of a thread is refused by memory protection: MPU_FETCH, MPU_READ or MPU_WRITE. -/
def mpuFault (s : State) (t : Nat) (instr : Bool) (need : List Nat) (a : W32) : Option Nat :=
  if t ≠ 96 || mpuAllows s instr need a then none
  else if 4 ∈ need then some 0x12
  else if 2 ∈ need && !mpuAllows s instr [2] a then some 0x13
  else some 0x14

/-- The word at an address of a thread's instruction space. -/
def instrWord (s : State) (t : Nat) (a : W32) : W32 :=
  BitVec.ofNat 32 (ofLe (if t = 96 then memReadN s.stores.polI a.toNat 4 else memReadN s.stores.engI (t / 4 * 0x10000 + a.toNat) 4))

/-- A word of a thread's instruction memory is uncorrectable. -/
def instrPoisoned (s : State) (t : Nat) (a : W32) : Bool :=
  if t = 96 then a.toNat / 4 ∈ s.pol.poison else (t / 4 * 0x10000 + a.toNat) / 4 ∈ s.eng.imemPoison

/-- The fetch at the PC fails (11 R288, 12 R342). -/
def fetchFault (s : State) (t : Nat) : Option Nat :=
  let pc := (thOf s t).pc
  match mpuFault s t true [4] pc with
  | some c => some c
  | none => if instrPoisoned s t pc then some 8 else none

/-! ### Issue -/

/-- How an instruction ends: at its successor, at a target, with a precise fault, waiting, or not issued at all. -/
inductive Flow where
  | seq
  | goto (a : W32)
  | fault (code : Nat) (addr : W32)
  | stay
  | stall
  | sys (code : Nat)
  deriving DecidableEq, Repr

/-- A step has run its one instruction (11 R308). -/
def stepDone (t : Nat) (s : State) : State :=
  let h := thOf s t
  if h.stepping && h.wait = .none && fbState h.fb = 2 then setTh t { h with stepping := false, fb := fbDisable h.fb } s else s

/-- The end of an instruction. -/
def ezFlow (t : Nat) (f : Flow) (s : State) : State :=
  match f with
  | .seq => stepDone t (ezAdvance t s)
  | .goto a => stepDone t (setTh t { thOf s t with pc := pcMask t a } s)
  | .fault code addr => thFault t code addr s
  | .stay => s
  | .stall => s
  | .sys code =>
    let s := ezAdvance t s
    excTake false 0x10 (BitVec.ofNat 32 code) (thOf s t).pc s

/-- An instruction issues on a ready thread whose registers have returned: the fetch is checked, stale loops are found, and
`body` acts. A body that stalls leaves the machine as it was. -/
def ezIssue (t : Nat) (uses : List Nat) (body : Thread → State → Flow × State) (s : State) : State :=
  if !thReady s t || stalled s t uses then s
  else
    let c := countIssue t s
    match fetchFault s t with
    | some code => thFault t code (thOf s t).pc c
    | none =>
      if loopStale t (thOf s t) then thFault t 0x0C 0 c
      else
        match body (thOf c t) c with
        | (.stall, _) => s
        | (f, s') => ezFlow t f s'

/-! ### Data accesses (11 R287-R291; 12 R329) -/

/-- Where a data address lies: 0 local memory, 1 the shared-memory window, 2 the register window. -/
def dataSpace (t : Nat) (a : W32) : Option Nat :=
  let n := a.toNat
  if n < (if t = 96 then 0x200000 else 0x20000) then some 0
  else if 0x40000000 ≤ n && n < 0x46000000 then some 1
  else if t = 96 && 0x80000000 ≤ n && n < 0x81000000 then some 2
  else none

/-- A word of local memory that an access meets is uncorrectable. -/
def localPoisoned (s : State) (t : Nat) (a : W32) : Bool :=
  if t = 96 then polDWord a.toNat ∈ s.pol.poison else (t / 4 * 0x20000 + a.toNat) / 4 ∈ s.eng.lmemPoison

/-- Shared-memory operations in flight. -/
def inFlight (t : Nat) (h : Thread) : Nat := (h.ops.filter fun o => dataSpace t o.addr = some 1).length

/-- A data operation is checked at issue and joins the thread's operations: `need` are the protection bits it uses. -/
def dataOp (t : Nat) (o : MemOp) (need : List Nat) (s : State) : Flow × State :=
  let h := thOf s t
  match dataSpace t o.addr with
  | none => (.fault 1 o.addr, s)
  | some sp =>
    if o.addr.toNat % o.width ≠ 0 then (.fault 2 o.addr, s)
    else
      match mpuFault s t false need o.addr with
      | some c => (.fault c o.addr, s)
      | none =>
        if sp = 0 && localPoisoned s t o.addr && (o.kind ≠ .store || o.width < 4) then (.fault 8 o.addr, s)
        else if sp = 1 && 16 ≤ inFlight t h then (.stall, s)
        else (.seq, setTh t { h with ops := h.ops ++ [o] } s)

/-! ### Completion of waits (11 R297-R302; 12 R332) -/

/-- A wait ends normally: the thread goes on, and its timeout disarms when it was a WAITE or WAITQ (11 R300). -/
def waitDone (t : Nat) (disarm : Bool) (s : State) : State :=
  let h := thOf s t
  stepDone t (ezAdvance t (setTh t { h with wait := .none, timeout := if disarm then none else h.timeout } s))

/-- What a WAITE would take: the selected latches, with bit 16 for an engine thread's timer. -/
def waiteHits (s : State) (t : Nat) (mask : W64) : W64 :=
  if t = 96 then s.evt.polLatch &&& mask
  else
    ((nmGet 0 s.evt.engLatch (t / 4)).setWidth 64 &&& mask &&& 0xFFFF) |||
      (if mask.getLsbD 16 && (thOf s t).tmrCount ≠ 0 then 0x10000 else 0)

/-- The destination of a WAITE or WAITQ: one register on an engine, and for WAITE the pair on the policy core. -/
def waitWrite (t rd : Nat) (v : W64) (pair : Bool) (s : State) : State :=
  let h := gW rd (BitVec.setWidth 32 v) (thOf s t)
  setTh t (if pair then gW (rd + 1) ((v >>> 32).setWidth 32) h else h) s

/-- A WAITE that can complete takes the selected latches and one expiry of the timer (11 R298, 12 R332). -/
def waiteTry (t : Nat) (mask : W64) (rd : Nat) (s : State) : Option State :=
  let hits := waiteHits s t mask
  if hits = 0 then none
  else
    let s := waitWrite t rd hits (t = 96) s
    some (if t = 96 then { s with evt := { s.evt with polLatch := s.evt.polLatch &&& ~~~hits } }
      else
        let h := thOf s t
        setTh t { h with tmrCount := if hits.getLsbD 16 then h.tmrCount - 1 else h.tmrCount }
          (let left : BitVec 16 := nmGet 0 s.evt.engLatch (t / 4) &&& ~~~(hits.setWidth 16)
           { s with evt := { s.evt with engLatch := nmSet 0 s.evt.engLatch (t / 4) left } }))

/-- A WAITQ that can complete pops the oldest entry of the thread's notice list (11 R299, 12 R332). -/
def waitqTry (t rd : Nat) (s : State) : Option State :=
  if (if t = 96 then s.qm.polList else nmGet [] s.qm.engList (t / 4)).isEmpty then none
  else
    let (v, s) := if t = 96 then popPol s else popEng (t / 4) s
    some (waitWrite t rd (v.setWidth 64) false s)

/-- WAITT_DONE (R297). -/
def execWaittDone (t : Fin 97) (s : State) : Res :=
  .next (match (thOf s t).wait with
    | .waitt v => if running s && atOrAfter (s.time.now.setWidth 32) v then waitDone t false s else s
    | _ => s)

/-- WAITE_DONE (R298). -/
def execWaiteDone (t : Fin 97) (s : State) : Res :=
  .next (match (thOf s t).wait with
    | .waite m rd => if running s then ((waiteTry t m rd s).map (waitDone t true)).getD s else s
    | _ => s)

/-- WAITQ_DONE (R299). -/
def execWaitqDone (t : Fin 97) (s : State) : Res :=
  .next (match (thOf s t).wait with
    | .waitq rd => if running s then ((waitqTry t rd s).map (waitDone t true)).getD s else s
    | _ => s)

/-- The timeout of a thread has come. -/
def timeoutDue (s : State) (t : Nat) : Bool :=
  match (thOf s t).timeout with
  | some v => atOrAfter (s.time.now.setWidth 32) v
  | none => false

/-- WAIT_TIMEOUT (R300): a WAITE or WAITQ that cannot complete ends with 0 in its destination. -/
def execWaitTimeout (t : Fin 97) (s : State) : Res :=
  .next (if !running s || !timeoutDue s t then s
  else match (thOf s t).wait with
    | .waite m rd => if (waiteTry t m rd s).isSome then s else waitDone t true (waitWrite t rd 0 (t.val = 96) s)
    | .waitq rd => if (waitqTry t rd s).isSome then s else waitDone t true (waitWrite t rd 0 false s)
    | _ => s)

/-- TIMEOUT_ARM (R300): port 0x002. -/
def timeoutArm (t : Nat) (v : W32) (s : State) : State := setTh t { thOf s t with timeout := some v } s
/-- Port 0x003. -/
def timeoutDisarm (t : Nat) (s : State) : State := setTh t { thOf s t with timeout := none } s

/-- TIMEOUT_ARM (R300). -/
def execTimeoutArm (t : Fin 97) (v : W32) (s : State) : Res := .next (if running s then timeoutArm t v s else s)
/-- TIMEOUT_DISARM (R300). -/
def execTimeoutDisarm (t : Fin 97) (s : State) : Res := .next (if running s then timeoutDisarm t s else s)

/-- Port 0x021: the first expiry is set and the timer starts (11 R296). -/
def timerStart (t : Nat) (v : W32) (s : State) : State := setTh t { thOf s t with tmrNext := some v } s

/-- Port 0x020: the period; 0 stops the timer. -/
def timerPeriod (t : Nat) (v : W32) (s : State) : State :=
  let h := thOf s t
  setTh t { h with tmrPeriod := v, tmrNext := if v = 0 then none else h.tmrNext } s

/-- LOCAL_TIMER_START (R296). -/
def execLocalTimerStart (t : Fin 96) (v : W32) (s : State) : Res := .next (if running s then timerStart t v s else s)

/-- The local timer of a thread has come to its next expiry. -/
def timerDue (s : State) (t : Nat) : Bool :=
  match (thOf s t).tmrNext with
  | some v => atOrAfter (s.time.now.setWidth 32) v
  | none => false

/-- LOCAL_TIMER_EXPIRY (R296): counted, at most 255; with a period of 0 the timer expires once. -/
def execLocalTimerExpiry (t : Fin 96) (s : State) : Res :=
  .next (if running s && timerDue s t then
    let h := thOf s t
    setTh t { h with tmrCount := min 255 (h.tmrCount + 1),
                     tmrNext := if h.tmrPeriod = 0 then none else h.tmrNext.map (· + h.tmrPeriod) } s
  else s)

/-! ### EVENT, lockstep (12 R340; 13 R344) -/

/-- The lowest event line whose exception is enabled and whose latch is set. -/
def eventLine (s : State) : Option Nat := (List.range 64).find? fun n => (s.pol.excEn &&& s.evt.polLatch).getLsbD n

/-- The policy core takes EVENT at this boundary: ON, ie set, exl clear, no link pop in flight. -/
def eventDue (s : State) : Option Nat :=
  if running s && fbState s.pol.th.fb = 2 && s.pol.mode.getLsbD 2 && !s.pol.mode.getLsbD 4 && s.pol.th.wait ≠ .pop then
    eventLine s
  else none

/-- EVENT (R340): a wait is cancelled, and EPC names it. -/
def execEvent (s : State) : Res :=
  .next (match eventDue s with
    | some n => excTake false 0x16 (BitVec.ofNat 32 n) (thOf s 96).pc s
    | none => s)

/-- LOCKSTEP_MISMATCH (R344). -/
def execLockstepMismatch (s : State) : Res :=
  .next (if running s && fbState s.pol.th.fb ≠ 0 then
    restartCounted 6 (thStop 96 (raise 264 (setB .POL_STAT 0 0 0x10 s)))
  else s)

end Sys2Proof.Machine
end

