-- ==== Sys2Proof/Machine/Engines.lean ====
section
/-! DEFINITION. Loading, starting, stopping, stepping and debugging engine threads (11 R284-R288, R304-R309). -/

namespace Sys2Proof.Machine

/-! ### Memories of the engines -/

/-- Words written into engine `e`'s instruction memory; their errors end. -/
def engIWrite (e off : Nat) (ws : List W32) (s : State) : State :=
  let a := e * 0x10000 + off
  singleEnd (eccKey (4 * e) true off) ws.length
    { s with stores := { s.stores with engI := memWriteN s.stores.engI a (bytesOfWords ws) },
             eng := { s.eng with imemPoison := s.eng.imemPoison.filter fun w => w < a / 4 || a / 4 + ws.length ≤ w } }

/-- Words written into engine `e`'s local memory; their errors end. -/
def engLWrite (e off : Nat) (ws : List W32) (s : State) : State :=
  let a := e * 0x20000 + off
  singleEnd (eccKey (4 * e) false off) ws.length
    { s with stores := { s.stores with engL := memWriteN s.stores.engL a (bytesOfWords ws) },
             eng := { s.eng with lmemPoison := s.eng.lmemPoison.filter fun w => w < a / 4 || a / 4 + ws.length ≤ w } }

/-- A word of a byte-addressed memory. -/
def memWord (m : List Host.Cell) (a : Nat) : W32 := BitVec.ofNat 32 (ofLe (memReadN m a 4))

/-- Engine `e` has a thread that is not OFF. -/
def engBusy (s : State) (e : Nat) : Bool := [0, 1, 2, 3].any fun k => (thOf s (4 * e + k)).fb ≠ 0

/-- The engines of a mask. -/
def maskEngines (v : W32) : List Nat := (List.range 24).filter fun e => bit v e

/-- The words that a command reads from the host: as many as it asks for, and no more than it could read. -/
def hostWords (n : Nat) (readError : Bool) (data : List W32) : List W32 :=
  if readError then data.take n else data.take n ++ List.replicate (n - data.length) 0

/-- Parameters of ENG_LOAD out of range (R304). -/
def engLoadBad (w : List W32) : Bool :=
  let space := cmdByte w 12
  let off := (wordAt w 4).toNat
  let len := (wordAt w 5).toNat
  let size := if space = 0 then 0x10000 else 0x20000
  1 < space || off % 4 ≠ 0 || len % 4 ≠ 0 || len < 4 || size < off + len || cmd64 w 24 % 4 ≠ 0

/-- ENG_LOAD (R304). -/
def execEngLoad (ring : Fin 10) (slot : Nat) (data : List W32) (readError : Bool) (s : State) : Res :=
  .next (startCmd ring slot 0x30 engLoadBad (fun c w s =>
    let es := maskEngines (wordAt w 2)
    let space := cmdByte w 12
    let off := (wordAt w 4).toNat
    let len := (wordAt w 5).toNat
    if es.any (engBusy s) then complete c stBusy 0 s
    else
      let ws := hostWords (len / 4) readError data
      let s := es.foldl (fun s e => if space = 0 then engIWrite e off ws s else engLWrite e off ws s) s
      if readError then complete c stFailed 0 s else complete c stOk (BitVec.ofNat 64 len) s) s)

/-! ### Start and stop (R285, R305, R306; R56-R58) -/

/-- The flags that a start clears as a thread enters STARTING. -/
def startFlags (h : Thread) : Thread :=
  { h with halted := false, faulted := false, broke := false, moreFaults := 0, stepping := false, skipBreak := false }

/-- An enable of a thread; with its state kept it passes the breakpoint that it stands at (R308). -/
def thEnable (keep : Bool) (t : Nat) (s : State) : State :=
  let h := thOf s t
  let f := enableHeld s h.fb
  setTh t (if fbState h.fb = 0 && fbState f = 1 then { startFlags h with fb := f, skipBreak := keep } else { h with fb := f }) s

/-- The clean state of a thread: registers, link, loops, TSR and its fault cleared, g29 and the PC set (R305). -/
def engClean (t : Nat) (pc sp : W32) (h : Thread) : Thread :=
  gW 29 sp { startFlags h with g := [], lk := 0, lvalid := false, sdepth := 0, ldepth := 0, loops := Thread.clear.loops,
                               faultCode := 0, dz := false, ov := false, faultPc := 0, pc := pcMask t pc }

/-- Thread `t` has left STARTING, or reached OFF when `off`: commands that wait for it go on (R305, R306). -/
def engSettle (t : Nat) (off : Bool) (s : State) : State :=
  let strike (l : List (CmdRef × List Nat)) : List (CmdRef × List Nat) := l.map fun e => (e.1, e.2.filter (· ≠ t))
  let starting := strike s.eng.starting
  let stopping := if off then strike s.eng.stopping else s.eng.stopping
  let s := { s with eng := { s.eng with starting := starting.filter fun e => !e.2.isEmpty,
                                        stopping := stopping.filter fun e => !e.2.isEmpty } }
  (starting ++ stopping).foldl (fun s e => if e.2.isEmpty then complete e.1 stOk 0 s else s) s

/-- The threads that a command names: engines in bytes 8 to 11, threads in byte 12. -/
def cmdThreads (w : List W32) : List Nat :=
  (maskEngines (wordAt w 2)).flatMap fun e => ([0, 1, 2, 3].filter fun k => bit (wordAt w 3) k).map fun k => 4 * e + k

/-- ENG_START (R305). -/
def execEngStart (ring : Fin 10) (slot : Nat) (s : State) : Res :=
  .next (startCmd ring slot 0x31 noBad (fun c w s =>
    let ts := cmdThreads w
    if levelsBlocked s || ts.any (fun t => (thOf s t).fb ≠ 0) then complete c stBusy 0 s
    else
      let keep := bit (wordAt w 3) 4
      let go (s : State) (t : Nat) : State :=
        let k := t % 4
        let pc := BitVec.ofNat 32 (cmdByte w (16 + 2 * k) + 256 * cmdByte w (17 + 2 * k))
        thEnable keep t (if keep then s else setTh t (engClean t pc (wordAt w (6 + k)) (thOf s t)) s)
      let s := ts.foldl go s
      if ts.isEmpty then complete c stOk 0 s
      else { s with eng := { s.eng with starting := s.eng.starting ++ [(c, ts)] } }) s)

/-- ENG_STOP (R306). -/
def execEngStop (ring : Fin 10) (slot : Nat) (s : State) : Res :=
  .next (startCmd ring slot 0x32 noBad (fun c w s =>
    let s := (cmdThreads w).foldl (fun s t => thStop t s) s
    let left := (cmdThreads w).filter fun t => fbState (thOf s t).fb ≠ 0
    if left.isEmpty then complete c stOk 0 s
    else { s with eng := { s.eng with stopping := s.eng.stopping ++ [(c, left)] } }) s)

/-- A step of a thread that is OFF: it starts, and is ON for one instruction (R56, R308). -/
def thStep (t : Nat) (s : State) : State :=
  let h := thOf s t
  if h.fb = 0 && !levelsBlocked s then setTh t { startFlags h with fb := 1, stepping := true, skipBreak := true } s else s

/-- A write of ENG_CTRL, or of port 0x008, for engine `e`: starts, stops, then steps. -/
def engCtrlWrite (e : Nat) (v : W32) (s : State) : State :=
  let each (at_ : Nat) (f : Nat → State → State) (s : State) : State :=
    [0, 1, 2, 3].foldl (fun s k => if bit v (at_ + k) then f (4 * e + k) s else s) s
  each 8 thStep (each 4 thStop (each 0 (thEnable true) s))

/-- A write of ENG_CTRL by a master, when it names what its row does. -/
def engCtrlRow (lo : Nat) (m : Fin 64) (v : W32) (s : State) : State :=
  if fld v (lo + 3) lo ≠ 0 then withWrite m .ENG_CTRL 0 v (fun s => engCtrlWrite (chanOf .ENG_CTRL m s) v s) s else s

/-- ENG_CTRL_START (R305). -/
def execEngCtrlStart (m : Fin 64) (v : W32) (s : State) : Res := .next (engCtrlRow 0 m v s)
/-- ENG_CTRL_STOP (R306). -/
def execEngCtrlStop (m : Fin 64) (v : W32) (s : State) : Res := .next (engCtrlRow 4 m v s)
/-- ENG_CTRL_STEP (R308). -/
def execEngCtrlStep (m : Fin 64) (v : W32) (s : State) : Res := .next (engCtrlRow 8 m v s)

/-- A thread leaves STARTING after its cycle. -/
def threadStarted (t : Nat) (s : State) : State :=
  let h := thOf s t
  if running s && fbState h.fb = 1 then engSettle t false (setTh t { h with fb := fbStarted h.fb } s) else s

/-- THREAD_STARTED (R285). -/
def execThreadStarted (t : Fin 96) (s : State) : Res := .next (threadStarted t s)

/-- A STOPPING thread with nothing in flight reaches OFF, or starts again when that is pending. -/
def threadStopped (t : Nat) (s : State) : State :=
  let h := thOf s t
  if running s && fbState h.fb = 3 && h.ops.isEmpty then
    let f := stoppedHeld s h.fb
    engSettle t true (setTh t (if fbState f = 1 then { startFlags h with fb := f, skipBreak := true } else { h with fb := f, stepping := false }) s)
  else s

/-- THREAD_STOPPED (R285). -/
def execThreadStopped (t : Fin 96) (s : State) : Res := .next (threadStopped t s)

/-- BREAKPOINT (R308): the thread stops before the instruction at its breakpoint. -/
def execBreakpoint (t : Fin 96) (s : State) : Res :=
  .next (if running s && thAwake s t && atBreak s t then
    let h := thOf s t
    engCause (t / 4) (12 + t % 4) (setTh t { h with broke := true, fb := fbDisable h.fb } s)
  else s)

/-! ### Budgets (R286) -/

/-- The budget period in ticks (Table 11.9). -/
def budgetTicks (s : State) : Nat := 250 * max 1 (min 1000 (fld (rd s .ENG_BUDGET_PER 0 0) 9 0))

/-- A new budget period begins: every count is 0 again and over_quota clears. -/
def budgetPeriod (s : State) : State :=
  let s := { s with eng := { s.eng with periodStart := BitVec.ofNat 64 s.ticks } }
  (s.eng.threads.map (·.1)).foldl (fun s t => setTh t { thOf s t with used := 0, overQuota := false } s) s

/-- The budget period has passed. -/
def budgetDue (s : State) : Bool := decide (s.eng.periodStart.toNat + budgetTicks s ≤ s.ticks)

/-- BUDGET_PERIOD_START (R286). -/
def execBudgetPeriodStart (s : State) : Res := .next (if running s && budgetDue s then budgetPeriod s else s)

/-- The thread that the ENG_T_ registers of a master name. -/
def tSel (s : State) (m : Nat) : Nat := 4 * chanOf .ENG_TSEL m s + fld (rd s .ENG_TSEL 0 (partOf .ENG_TSEL m s)) 1 0

/-- A thread's budget is written (R59, R286). -/
def budgetWrite (t : Nat) (v : W32) (s : State) : State :=
  let b := fld v 19 0
  let h := thOf s t
  let past := b ≠ 0 && b < h.used
  let s := setTh t { h with overQuota := past } (plainWrite .ENG_T_BUDGET 0 t v s)
  if past then engCause (t / 4) (8 + t % 4) s else s

/-- ENG_T_BUDGET_WRITE (R286). -/
def execEngTBudgetWrite (m : Fin 64) (v : W32) (s : State) : Res :=
  .next (withWrite m .ENG_T_BUDGET 0 v (fun s => budgetWrite (tSel s m) v s) s)

/-! ### Memory and register access by registers (R288, R308, R309) -/

/-- The address register of a master moves on by a word. -/
def engAddrNext (r : Reg) (m : Nat) (s : State) : State :=
  let c := partOf r m s
  wr r 0 c ((rd s r 0 c + 4) &&& r.desc.rw) s

/-- A write of ENG_IMEM_DATA: only while the engine's threads are all OFF; else one that changes the word is an error (R455). -/
def imemDataWrite (m : Nat) (v : W32) (s : State) : State :=
  let e := chanOf .ENG_IMEM_DATA m s
  let a := (rd s .ENG_IMEM_ADDR 0 (partOf .ENG_IMEM_ADDR m s)).toNat
  if engBusy s e then (if memWord s.stores.engI (e * 0x10000 + a) = v then s else setB .ENG_STAT 0 e 0x10000 s)
  else engAddrNext .ENG_IMEM_ADDR m (engIWrite e a [v] s)

/-- A read of ENG_IMEM_DATA. -/
def imemDataRead (m : Nat) (s : State) : W32 × State :=
  let e := chanOf .ENG_IMEM_DATA m s
  let a := (rd s .ENG_IMEM_ADDR 0 (partOf .ENG_IMEM_ADDR m s)).toNat
  (memWord s.stores.engI (e * 0x10000 + a), engAddrNext .ENG_IMEM_ADDR m (eccCorrect (4 * e) true a 4 s))

/-- ENG_IMEM_DATA_WRITE (R288). -/
def execEngImemDataWrite (m : Fin 64) (v : W32) (s : State) : Res := .next (withWrite m .ENG_IMEM_DATA 0 v (imemDataWrite m v) s)

/-- A write of ENG_LMEM_DATA. -/
def lmemDataWrite (m : Nat) (v : W32) (s : State) : State :=
  let a := (rd s .ENG_LMEM_ADDR 0 (partOf .ENG_LMEM_ADDR m s)).toNat
  engAddrNext .ENG_LMEM_ADDR m (engLWrite (chanOf .ENG_LMEM_DATA m s) a [v] s)

/-- A read of ENG_LMEM_DATA. -/
def lmemDataRead (m : Nat) (s : State) : W32 × State :=
  let a := (rd s .ENG_LMEM_ADDR 0 (partOf .ENG_LMEM_ADDR m s)).toNat
  let e := chanOf .ENG_LMEM_DATA m s
  (memWord s.stores.engL (e * 0x20000 + a), engAddrNext .ENG_LMEM_ADDR m (eccCorrect (4 * e) false a 4 s))

/-- ENG_LMEM_DATA_ACCESS (R309). -/
def execEngLmemDataAccess (m : Fin 64) (wr : Option W32) (s : State) : Res :=
  .next (match wr with
    | some v => withWrite m .ENG_LMEM_DATA 0 v (lmemDataWrite m v) s
    | none => withRead m .ENG_LMEM_DATA 0 (fun s => let (v, s) := lmemDataRead m s; reply m v s) s)

/-- The register of a thread that ENG_T_GSEL selects: 0-31 g0-g31, 32 lk, 33 TSR, 34-42 the loop contexts. -/
def gDataOf (h : Thread) (k : Nat) : W32 :=
  if k < 32 then gR h k
  else if k = 32 then h.lk
  else if k = 33 then tsrOf h
  else if k ≤ 42 then loopWord h ((k - 34) / 3) ((k - 34) % 3)
  else 0

/-- That register set; of TSR every field but the fault code. -/
def gDataSet (k : Nat) (v : W32) (h : Thread) : Thread :=
  if k < 32 then gW k v h
  else if k = 32 then { h with lk := v }
  else if k = 33 then tsrWrite true v h
  else if k ≤ 42 then loopSet ((k - 34) / 3) ((k - 34) % 3) v h
  else h

/-- The register that a master's ENG_T_GSEL names. -/
def gSel (s : State) (m : Nat) : Nat := fld (rd s .ENG_T_GSEL 0 (partOf .ENG_T_GSEL m s)) 5 0

/-- A write of ENG_T_GDATA, or of ENG_T_PC when `pc`: only to a thread that is OFF; else one that changes what the register
shows is an error (R455). -/
def gDataWrite (m : Nat) (pc : Bool) (v : W32) (s : State) : State :=
  let t := tSel s m
  let h := thOf s t
  let same := if pc then pcMask t v = h.pc else gDataSet (gSel s m) v h = h
  if fbState h.fb ≠ 0 then (if same then s else setB .ENG_STAT 0 (t / 4) 0x20000 s)
  else setTh t (if pc then { h with pc := pcMask t v } else gDataSet (gSel s m) v h) s

/-- ENG_T_GDATA_WRITE (R308). -/
def execEngTGdataWrite (m : Fin 64) (pc : Bool) (v : W32) (s : State) : Res :=
  .next (withWrite m (if pc then .ENG_T_PC else .ENG_T_GDATA) 0 v (gDataWrite m pc v) s)

end Sys2Proof.Machine
end

