-- ==== Sys2Proof/Machine/Pio.lean ====
section
/-! DEFINITION. Programmable I/O: pins, machines, FIFOs, flags and control (10). -/

namespace Sys2Proof.Machine

/-! ### Blocks and pins (R265-R267) -/

/-- A block after a device reset: every direction input. -/
def pioInit : PioBlock := ⟨0, 0, 0, 0⟩

/-- Block `b`. -/
def blkOf (s : State) (b : Nat) : PioBlock := nmGet pioInit s.pio.blocks b

/-- Block `b` set. -/
def setBlk (b : Nat) (k : PioBlock) (s : State) : State := { s with pio := { s.pio with blocks := nmSet pioInit s.pio.blocks b k } }

/-- The device drives pin `n`: its block's output value when that block's direction is output (R265). -/
def pinDriven (s : State) (n : Nat) : Option Bool :=
  let pad := rd s .PAD_FIO n 0
  let k := blkOf s (fld pad 3 0)
  if fld pad 3 0 < 12 && k.dir.getLsbD n then some (k.out.getLsbD n != bit pad 8) else none

/-- The level at the pad of pin `n`: driven or external. -/
def padLevel (s : State) (n : Nat) : Bool := (pinDriven s n).getD (s.pio.pinIn.getLsbD n)

/-- The level of pin `n` as every machine reads it: behind the two-stage synchroniser unless sync_byp is set, inverted by in_inv
(Table 10.9). -/
def pinLevel (s : State) (n : Nat) : Bool :=
  let pad := rd s .PAD_FIO n 0
  (if bit pad 9 then padLevel s n else s.pio.pinSeen.getLsbD n) != bit pad 7

/-- A machine that stands in an AWAIT for an edge notes one of its pin between two states. -/
def noteEdge (before s : State) (k : Nat) : State :=
  let m := smOf s (k / 4) (k % 4)
  match m.latch with
  | none => s
  | some w =>
    let n := w.toNat / 64 % 128
    if w.toNat / 2 ^ 20 = 1 && w.toNat / 2 ^ 13 % 4 = 1 && m.began && pinLevel s n != pinLevel before n &&
        pinLevel s n = w.getLsbD 15 then
      setSm (k / 4) (k % 4) { m with edge := true } s
    else s

/-- A change of levels with the edges that waiting machines see. -/
def withPins (f : State → State) (s : State) : State := (s.pio.sms.map (·.1)).foldl (fun t k => noteEdge s t k) (f s)

/-- Bits `n` of a vector put to `x`. -/
def bvPut {w : Nat} (v : BitVec w) (n : Nat) (x : Bool) : BitVec w :=
  if x then v ||| BitVec.ofNat w (2 ^ n) else v &&& ~~~(BitVec.ofNat w (2 ^ n))

/-- The levels at the pads; only a pin whose PAD_FIO is listed can be driven (its reset names no block). -/
def padLevels (s : State) : BitVec 128 :=
  s.regs.foldl (fun v e =>
    let n := e.1 / 1024 % 1024
    if e.1 % 1024 = Reg.PAD_FIO.ctorIdx then bvPut v n (padLevel s n) else v) s.pio.pinIn

/-- A PIO clock edge passes the pads through the two stages of the synchroniser: 8 ns (10, Pins). -/
def pinSample (s : State) : State :=
  { s with pio := { s.pio with pinSync := padLevels s, pinSeen := s.pio.pinSync } }

/-- FIO_PIN_EDGE (R269, Table 10.2): an external level changes. -/
def execFioPinEdge (n : Fin 128) (level : Bool) (s : State) : Res :=
  .next (withPins (fun s =>
    let one : BitVec 128 := BitVec.ofNat 128 (2 ^ n.val)
    { s with pio := { s.pio with pinIn := if level then s.pio.pinIn ||| one else s.pio.pinIn &&& ~~~one } }) s)

/-! ### Machine registers (Table 10.8) -/

/-- tx_frame, in bits. -/
def txFrame (s : State) (b m : Nat) : Nat := fld (rd s .SM_FRAME m b) 4 0 + 1
/-- rx_frame, in bits. -/
def rxFrame (s : State) (b m : Nat) : Nat := fld (rd s .SM_FRAME m b) 12 8 + 1
/-- Entries of the transmit FIFO. -/
def txDepth (s : State) (b m : Nat) : Nat := fld (rd s .SM_FRAME m b) 19 16
/-- Entries of the receive FIFO. -/
def rxDepth (s : State) (b m : Nat) : Nat := fld (rd s .SM_FRAME m b) 23 20
/-- The transmit FIFO is full. -/
def txFull (s : State) (b m : Nat) : Bool := decide (txDepth s b m ≤ (smOf s b m).txf.length)
/-- The receive FIFO is full. -/
def rxFull (s : State) (b m : Nat) : Bool := decide (rxDepth s b m ≤ (smOf s b m).rxf.length)
/-- The pins of the lane group, lane 0 first. -/
def lanes (s : State) (b m : Nat) : List Nat :=
  let v := rd s .SM_LANES m b
  (List.range (fld v 12 8 + 1)).map fun k => (fld v 6 0 + k) % 128
/-- FIFO levels of a machine: [3:0] transmit, [7:4] receive. -/
def fifoLevels (s : State) (b m : Nat) : Nat := (smOf s b m).txf.length + (smOf s b m).rxf.length * 16

/-- A FIFO error: its cause bit of machine `m` and its source 236 + k (R278). -/
def fifoErr (b m k : Nat) (s : State) : State := raise (236 + k) (setB .PIO_FERR 0 b (oneBit (4 * k + m)) s)

/-! ### Machine cycles (R268-R274) -/

/-- Pins take the bits of a word in order, as output values or directions. -/
def putPins (b : Nat) (dirs : Bool) (ps : List Nat) (v : W32) (s : State) : State :=
  withPins (fun s =>
    let k := blkOf s b
    let put (x : BitVec 128) : BitVec 128 := (ps.zipIdx).foldl (fun x (p, i) => bvPut x p (v.getLsbD i)) x
    setBlk b (if dirs then { k with dir := put k.dir } else { k with out := put k.out }) s) s

/-- Operand field of the latched instruction. -/
def smFld (w : BitVec 24) (hi lo : Nat) : Nat := w.toNat / 2 ^ lo % 2 ^ (hi + 1 - lo)

/-- The instruction at PC completes: its hold, and the next PC of R272. -/
def smDone (b m : Nat) (target : Option Nat) (s : State) : State :=
  let k := smOf s b m
  let ring := rd s .SM_RING m b
  let last := (fld ring 5 0 + fld ring 13 8) % 64
  let next := match target with
    | some a => a
    | none => if k.pc.toNat = last then fld ring 5 0 else k.pc.toNat + 1
  setSm b m { k with pc := BitVec.ofNat 6 next, latch := none, step := 0, began := false, edge := false, stall := 0,
                     hold := smFld (k.latch.getD 0) 19 16 } s

/-- The machine stalls: 1 transmit FIFO empty, 2 receive FIFO full, 3 AWAIT, 4 SIGNAL. -/
def smStall (b m why : Nat) (s : State) : State := setSm b m { smOf s b m with stall := BitVec.ofNat 3 why, began := true } s

/-- JUMP. -/
def smJump (b m : Nat) (w : BitVec 24) (s : State) : State :=
  let k := smOf s b m
  let go (c : Bool) (s : State) : State := smDone b m (if c then some (smFld w 5 0) else none) s
  match smFld w 15 13 with
  | 0 => go true s
  | 1 => go (k.c0 ≠ 0) (setSm b m { k with c0 := if k.c0 = 0 then 0 else k.c0 - 1 } s)
  | 2 => go (k.c1 ≠ 0) (setSm b m { k with c1 := if k.c1 = 0 then 0 else k.c1 - 1 } s)
  | 3 => go (k.s = 0) s
  | 4 => go (k.s ≠ 0) s
  | 5 => go (pinLevel s (smFld w 12 6)) s
  | 6 => go (!pinLevel s (smFld w 12 6)) s
  | _ => go (k.tRem = 0) s

/-- AWAIT (Table 10.2), with the flags as they stood at the start of the PIO clock cycle (R280); a flag it clears is answered. -/
def smAwait (b m : Nat) (w : BitVec 24) (flags : BitVec 8) (s : State) : State × Option Nat :=
  let k := smOf s b m
  let pol := w.getLsbD 15
  let idx := smFld w 12 6
  match smFld w 14 13 with
  | 0 => if pinLevel s idx = pol then (smDone b m none s, none) else (smStall b m 3 s, none)
  | 1 => if k.began && k.edge then (smDone b m none s, none) else (smStall b m 3 s, none)
  | 2 =>
    if flags.getLsbD (idx % 8) = pol then (smDone b m none s, if pol then some (idx % 8) else none)
    else (smStall b m 3 s, none)
  | _ =>
    let n := idx % 4
    let off (s : State) : State := setSm b m { smOf s b m with evt := bvPut (smOf s b m).evt n false } s
    if !pol && !k.began then (smStall b m 3 (off s), none)
    else if k.evt.getLsbD n then (smDone b m none (off s), none)
    else (smStall b m 3 s, none)

/-- RW after a new bit enters a frame of `f` bits, and its fill count (R270). -/
def shiftIn (rw : W32) (fill f : Nat) (lsb x : Bool) : W32 × Nat :=
  let r := rw.toNat
  if lsb then
    if fill < f then (BitVec.ofNat 32 ((bvPut rw fill x).toNat % 2 ^ f), fill + 1)
    else (BitVec.ofNat 32 (r / 2 % 2 ^ (f - 1) + ofBool x * 2 ^ (f - 1)), f)
  else (BitVec.ofNat 32 ((r * 2 + ofBool x) % 2 ^ f), min (fill + 1) f)

/-- RW goes into the receive FIFO. -/
def pushRw (b m : Nat) (s : State) : State :=
  let k := smOf s b m
  setSm b m { k with rxf := k.rxf ++ [k.rw], rw := 0, rFill := 0 } s

/-- SHIN: one step, or the retry of a delivery that met a full FIFO (R270, R271). -/
def smShin (b m : Nat) (w : BitVec 24) (s : State) : State :=
  let n := smFld w 5 0 + 1
  let finish (s : State) : State := if n ≤ (smOf s b m).step then smDone b m none s else setSm b m { smOf s b m with stall := 0 } s
  let deliver (s : State) : State := if rxFull s b m then smStall b m 2 s else finish (pushRw b m s)
  let k := smOf s b m
  if k.stall = 2 then deliver s
  else
    let x := match smFld w 15 13 with
      | 0 => pinLevel s (smFld w 12 6)
      | 1 => k.s.getLsbD (k.step % 32)
      | 3 => true
      | _ => false
    let fr := rd s .SM_FRAME m b
    let (rw, fill) := shiftIn k.rw k.rFill (rxFrame s b m) (bit fr 13) x
    let s := setSm b m { k with rw := rw, rFill := fill, step := k.step + 1 } s
    if bit fr 14 && fill = rxFrame s b m then deliver s else finish s

/-- TW is loaded from the transmit FIFO. -/
def loadTw (b m : Nat) (s : State) : State :=
  let k := smOf s b m
  setSm b m { k with tw := k.txf.headD 0, txf := k.txf.drop 1, tRem := txFrame s b m } s

/-- SHOUT: one step (R270, R271). -/
def smShout (b m : Nat) (w : BitVec 24) (s : State) : State :=
  let fr := rd s .SM_FRAME m b
  let k := smOf s b m
  if bit fr 6 && k.tRem = 0 && k.txf.isEmpty then smStall b m 1 s
  else
    let s := if bit fr 6 && k.tRem = 0 then loadTw b m s else s
    let k := smOf s b m
    let x := if k.tRem = 0 then bit fr 7
      else k.tw.getLsbD (if bit fr 5 then txFrame s b m - k.tRem else k.tRem - 1)
    let s := setSm b m { k with tRem := k.tRem - 1, step := k.step + 1, stall := 0 } s
    let v : W32 := if x then 1 else 0
    let s := match smFld w 15 13 with
      | 0 => putPins b false [smFld w 12 6] v s
      | 1 => putPins b true [smFld w 12 6] v s
      | 2 => setSm b m { smOf s b m with s := ((smOf s b m).s <<< 1) ||| v } s
      | _ => s
    if smFld w 5 0 + 1 ≤ (smOf s b m).step then smDone b m none s else s

/-- TAKE. -/
def smTake (b m : Nat) (w : BitVec 24) (s : State) : State :=
  let k := smOf s b m
  if !k.txf.isEmpty then smDone b m none (loadTw b m s)
  else if w.getLsbD 15 then smStall b m 1 s
  else smDone b m none (fifoErr b m 1 (setSm b m { k with tw := k.s, tRem := txFrame s b m } s))

/-- GIVE. -/
def smGive (b m : Nat) (w : BitVec 24) (s : State) : State :=
  let k := smOf s b m
  if !rxFull s b m then smDone b m none (pushRw b m s)
  else if w.getLsbD 15 then smStall b m 2 s
  else smDone b m none (fifoErr b m 0 (setSm b m { k with rw := 0, rFill := 0 } s))

/-- The operation of a COPY on its source. -/
def copyOp (op : Nat) (v : W32) : W32 :=
  match op with
  | 0 => v
  | 1 => ~~~v
  | 2 => v.reverse
  | _ => BitVec.ofNat 32 (ofBe (leBytes 4 v.toNat))

/-- COPY. -/
def smCopy (b m : Nat) (w : BitVec 24) (flags : BitVec 8) (s : State) : State :=
  let k := smOf s b m
  let src : W32 := match smFld w 11 8 with
    | 0 => BitVec.ofNat 32 (((lanes s b m).zipIdx.map fun (p, i) => ofBool (pinLevel s p) * 2 ^ i).sum)
    | 1 => k.s
    | 2 => k.c0.setWidth 32
    | 3 => k.c1.setWidth 32
    | 4 => k.rw
    | 5 => k.tw
    | 6 => BitVec.ofNat 32 (fifoLevels s b m + k.tRem * 2 ^ 8 + k.rFill * 2 ^ 16)
    | 7 => flags.setWidth 32
    | 9 => s.time.now.setWidth 32
    | _ => 0
  let v := copyOp (smFld w 7 6) src
  match smFld w 15 12 with
  | 0 => smDone b m none (putPins b false (lanes s b m) v s)
  | 1 => smDone b m none (setSm b m { k with s := v } s)
  | 2 => smDone b m none (setSm b m { k with c0 := v.setWidth 16 } s)
  | 3 => smDone b m none (setSm b m { k with c1 := v.setWidth 16 } s)
  | 4 => smDone b m none (setSm b m { k with rw := v, rFill := 0 } s)
  | 5 => smDone b m none (setSm b m { k with tw := v, tRem := txFrame s b m } s)
  | 6 => smDone b m none (putPins b true (lanes s b m) v s)
  | 7 => smDone b m (some (v.toNat % 64)) s
  | _ => smDone b m none s

/-- DRIVE. -/
def smDrive (b m : Nat) (w : BitVec 24) (s : State) : State :=
  let k := smOf s b m
  let v := BitVec.ofNat 32 (smFld w 11 0)
  smDone b m none (match smFld w 15 13 with
    | 0 => putPins b false (lanes s b m) v s
    | 1 => putPins b true (lanes s b m) v s
    | 2 => setSm b m { k with c0 := v.setWidth 16 } s
    | 3 => setSm b m { k with c1 := v.setWidth 16 } s
    | 4 => setSm b m { k with s := v } s
    | _ => s)

/-- SIGNAL: the flag that it sets and the one it clears are answered (R280). -/
def smSignal (b m : Nat) (w : BitVec 24) (flags : BitVec 8) (s : State) : State × Option Nat × Option Nat :=
  let k := smOf s b m
  let n := smFld w 2 0
  let s := raiseIf (w.getLsbD 13 && !k.began) (224 + b) s
  match smFld w 15 14 with
  | 0 => (smDone b m none s, some n, none)
  | 1 => (smDone b m none s, none, some n)
  | 2 =>
    if !k.began then (smStall b m 4 s, some n, none)
    else if flags.getLsbD n then (smStall b m 4 s, none, none)
    else (smDone b m none s, none, none)
  | _ => (smDone b m none s, none, none)

/-- One machine cycle of the latched instruction: flags to set and to clear at the end of the PIO clock cycle. -/
def smCycle (b m : Nat) (flags : BitVec 8) (s : State) : State × Option Nat × Option Nat :=
  match (smOf s b m).latch with
  | none => (s, none, none)
  | some w =>
    match smFld w 23 20 with
    | 0 => (smJump b m w s, none, none)
    | 1 => let (s, c) := smAwait b m w flags s; (s, none, c)
    | 2 => (smShin b m w s, none, none)
    | 3 => (smShout b m w s, none, none)
    | 4 => (smTake b m w s, none, none)
    | 5 => (smGive b m w s, none, none)
    | 6 => (smCopy b m w flags s, none, none)
    | 7 => (smDrive b m w s, none, none)
    | 8 => smSignal b m w flags s
    | _ => (smDone b m none s, none, none)

/-- Flag changes of machines: clears, then sets (R280). -/
def flagChange (b : Nat) (clr set : List Nat) (s : State) : State :=
  let k := blkOf s b
  let f := clr.foldl (fun f n => bvPut f n false) k.flags
  setBlk b { k with flags := set.foldl (fun f n => bvPut f n true) f } s

/-- The word at an address of a block's instruction memory. -/
def pioWord (s : State) (b a : Nat) : BitVec 24 := nmGet 0 s.pio.imem (b * 64 + a)

/-- A machine that runs, with no instruction latched and no hold left, fetches the word at PC (R272). -/
def smFetch (b m : Nat) (s : State) : State :=
  let k := smOf s b m
  if k.running && k.latch.isNone && k.hold = 0 then setSm b m { k with latch := some (pioWord s b k.pc.toNat) } s else s

/-- PIO_FETCH (R272). -/
def execPioFetch (b : Fin 12) (sm : Fin 4) (s : State) : Res := .next (if running s then smFetch b sm s else s)

/-- One machine cycle of a running machine whose latched opcode is among `ops`. -/
def smRow (ops : Nat → Bool) (b : Fin 12) (m : Fin 4) (s : State) : Res :=
  .next (let k := smOf s b m
    if running s && k.running && (k.latch.map fun w => ops (smFld w 23 20)) = some true then
      let (s, set, clr) := smCycle b m (blkOf s b).seen s
      flagChange b clr.toList set.toList s
    else s)

/-- JUMP (R269). -/
def execPioJump (b : Fin 12) (sm : Fin 4) (s : State) : Res := smRow (· = 0) b sm s
/-- AWAIT (R269). -/
def execPioAwait (b : Fin 12) (sm : Fin 4) (s : State) : Res := smRow (· = 1) b sm s
/-- SHIN (R270). -/
def execPioShin (b : Fin 12) (sm : Fin 4) (s : State) : Res := smRow (· = 2) b sm s
/-- SHOUT (R270). -/
def execPioShout (b : Fin 12) (sm : Fin 4) (s : State) : Res := smRow (· = 3) b sm s
/-- TAKE (R269). -/
def execPioTake (b : Fin 12) (sm : Fin 4) (s : State) : Res := smRow (· = 4) b sm s
/-- GIVE (R269). -/
def execPioGive (b : Fin 12) (sm : Fin 4) (s : State) : Res := smRow (· = 5) b sm s
/-- COPY (R269). -/
def execPioCopy (b : Fin 12) (sm : Fin 4) (s : State) : Res := smRow (· = 6) b sm s
/-- DRIVE (R269). -/
def execPioDrive (b : Fin 12) (sm : Fin 4) (s : State) : Res := smRow (· = 7) b sm s
/-- SIGNAL (R269). -/
def execPioSignal (b : Fin 12) (sm : Fin 4) (s : State) : Res := smRow (· = 8) b sm s
/-- PIO_NO_OPERATION (R269). -/
def execPioNoOperation (b : Fin 12) (sm : Fin 4) (s : State) : Res := smRow (9 ≤ ·) b sm s

/-- One PIO clock cycle of a machine: its phase, and at a carry one machine cycle (R268). -/
def smClock (b m : Nat) (flags : BitVec 8) (s : State) : State × Option Nat × Option Nat :=
  let k := smOf s b m
  if !k.running then (s, none, none)
  else
    let inc := rd s .SM_RATE m b
    let ph := k.phase.toNat + inc.toNat
    let s := setSm b m { k with phase := BitVec.ofNat 32 ph } s
    if inc ≠ 0 && ph < 2 ^ 32 then (s, none, none)
    else if k.hold ≠ 0 then (setSm b m { smOf s b m with hold := k.hold - 1 } s, none, none)
    else smCycle b m flags (smFetch b m s)

/-- One PIO clock cycle of a block, its machines in ascending order (R266, R280). -/
def blkClock (b : Nat) (s : State) : State :=
  let flags := (blkOf s b).seen
  let (s, set, clr) := [0, 1, 2, 3].foldl (fun (s, set, clr) m =>
    let (s, x, y) := smClock b m flags s
    (s, set ++ x.toList, clr ++ y.toList)) (s, ([] : List Nat), ([] : List Nat))
  if set.isEmpty && clr.isEmpty then s else flagChange b clr set s

/-- A word written to a transmit FIFO enters it, or is lost at a full one (R277, R278). -/
def txfEnter (b m : Nat) (v : W32) (s : State) : State :=
  if txFull s b m then fifoErr b m 3 s else setSm b m { smOf s b m with txf := (smOf s b m).txf ++ [v] } s

/-- The words written to transmit FIFOs in a PIO clock cycle enter behind the machines' pulls, in ascending identity (R277). -/
def txfSettle (s : State) : State :=
  let l := s.pio.txIn
  ((List.range 64).flatMap fun i => l.filter (·.1 = i)).foldl (fun s e => txfEnter (e.2.1 / 4) (e.2.1 % 4) e.2.2 s)
    { s with pio := { s.pio with txIn := [] } }

/-- A PIO clock cycle ends: its flags are what the next one starts with (R280). -/
def flagsSeen (s : State) : State :=
  s.pio.blocks.foldl (fun s e => setBlk e.1 { blkOf s e.1 with seen := (blkOf s e.1).flags } s) s

/-- One PIO clock cycle: the pins, every block with a machine that runs, the words written to the FIFOs. -/
def pioClock (s : State) : State :=
  let s := withPins pinSample s
  let s := if s.pio.sms.any (·.2.running) then (List.range 12).foldl (fun s b => blkClock b s) s else s
  flagsSeen (txfSettle s)

/-- Words written in this cycle to a machine's FIFO and not yet in it are lost. -/
def txInDrop (b m : Nat) (s : State) : State :=
  { s with pio := { s.pio with txIn := s.pio.txIn.filter fun e => e.2.1 ≠ 4 * b + m } }

/-! ### Control (R275, R276) -/

/-- A restart of a machine (R275). -/
def smRestart (b m : Nat) (s : State) : State :=
  let k := smOf s b m
  txInDrop b m (setSm b m { k with running := false, stall := 0, latch := none, step := 0, hold := 0, tw := 0, tRem := 0,
                                   rw := 0, rFill := 0, txf := [], rxf := [], evt := 0, began := false, edge := false,
                                   pc := BitVec.ofNat 6 (fld (rd s .SM_RING m b) 21 16) } s)

/-- A machine runs or is halted. -/
def smRun (b m : Nat) (on : Bool) (s : State) : State := setSm b m { smOf s b m with running := on } s
/-- A machine's phase accumulator becomes 0. -/
def smPhase (b m : Nat) (s : State) : State := setSm b m { smOf s b m with phase := 0 } s

/-- A write of PIO_CTRL: halt, restart, phase restart, start (R276). -/
def pioCtrlWrite (b : Nat) (v : W32) (s : State) : State :=
  let each (at_ : Nat) (f : Nat → State → State) (s : State) : State :=
    [0, 1, 2, 3].foldl (fun s m => if bit v (at_ + m) then f m s else s) s
  each 12 (fun m => smRun b m true) (each 8 (fun m => smPhase b m) (each 4 (fun m => smRestart b m) (each 0 (fun m => smRun b m false) s)))

/-- A write of PIO_CTRL by a master, when it names what its row does. -/
def pioCtrlRow (lo : Nat) (m : Fin 64) (v : W32) (s : State) : Res :=
  .next (if fld v (lo + 3) lo ≠ 0 then withWrite m .PIO_CTRL 0 v (fun s => pioCtrlWrite (chanOf .PIO_CTRL m s) v s) s else s)

/-- PIO_HALT (R276). -/
def execPioHalt (m : Fin 64) (v : W32) (s : State) : Res := pioCtrlRow 0 m v s
/-- PIO_RESTART (R275). -/
def execPioRestart (m : Fin 64) (v : W32) (s : State) : Res := pioCtrlRow 4 m v s
/-- PIO_PHASE_RESTART (R276). -/
def execPioPhaseRestart (m : Fin 64) (v : W32) (s : State) : Res := pioCtrlRow 8 m v s
/-- PIO_START (R276). -/
def execPioStart (m : Fin 64) (v : W32) (s : State) : Res := pioCtrlRow 12 m v s

/-- A write of PIO_GSTART_LO is held. -/
def gstartLoWrite (v : W32) (s : State) : State := { s with pio := { s.pio with gstartLo := v } }

/-- PIO_GSTART_LO_WRITE (R276). -/
def execPioGstartLoWrite (m : Fin 64) (v : W32) (s : State) : Res := .next (withWrite m .PIO_GSTART_LO 0 v (gstartLoWrite v) s)

/-- A write of PIO_GSTART_HI acts on the machines of both words at one edge. -/
def gstartWrite (v : W32) (s : State) : State :=
  let names := (List.range 48).filter fun k => if k < 32 then s.pio.gstartLo.getLsbD k else bit v (k - 32)
  let s := if bit v 30 then names.foldl (fun s k => smPhase (k / 4) (k % 4) s) s else s
  if bit v 31 then names.foldl (fun s k => smRun (k / 4) (k % 4) true s) s else s

/-- PIO_GSTART (R276). -/
def execPioGstart (m : Fin 64) (v : W32) (s : State) : Res := .next (withWrite m .PIO_GSTART_HI 0 v (gstartWrite v) s)

/-! ### FIFOs, flags, instruction memory, frames (R273, R277-R280) -/

/-- A write of a transmit FIFO by identity `i`: the word enters at the end of the PIO clock cycle (R277). -/
def txfWrite (i b m : Nat) (v : W32) (s : State) : State :=
  { s with pio := { s.pio with txIn := s.pio.txIn ++ [(i, 4 * b + m, v)] } }

/-- A transmit FIFO has no room behind the words of this cycle: a blocking write waits. -/
def txfBusy (s : State) (b m : Nat) : Bool :=
  decide (txDepth s b m ≤ (smOf s b m).txf.length + (s.pio.txIn.filter (·.2.1 = 4 * b + m)).length)

/-- A non-blocking read of a receive FIFO. -/
def rxfRead (b m : Nat) (s : State) : W32 × State :=
  let k := smOf s b m
  match k.rxf with
  | [] => (0, fifoErr b m 2 s)
  | v :: r => (v, setSm b m { k with rxf := r } s)

/-- The block that a thread reaches: none for the policy core (Table 10.5). -/
def thBlock (t : Nat) : Option Nat := if t < 96 then some (t / 8) else none

/-- PIO_TX_FIFO_WRITE (R277, R278, R282): a blocking write of a full FIFO waits, and nothing enters. -/
def execPioTxFifoWrite (via : Via) (sm : Fin 4) (v : W32) (blocking : Bool) (s : State) : Res :=
  .next (match via with
    | .reg m => withWrite m .SM_TXF sm v (fun s => txfWrite m (chanOf .SM_TXF m s) sm v s) s
    | .port t =>
      match thBlock t with
      | none => s
      | some b => if !running s || (blocking && txfBusy s b sm) then s else txfWrite (thMaster t) b sm v s)

/-- PIO_RX_FIFO_READ (R277, R278, R282): a blocking read of an empty FIFO waits. -/
def execPioRxFifoRead (via : Via) (sm : Fin 4) (blocking : Bool) (s : State) : Res :=
  .next (match via with
    | .reg m => withRead m .SM_RXF sm (fun s => let (v, s) := rxfRead (chanOf .SM_RXF m s) sm s; reply m v s) s
    | .port t =>
      match thBlock t with
      | none => s
      | some b =>
        if !running s || (blocking && (smOf s b sm).rxf.isEmpty) then s
        else let (v, s) := rxfRead b sm s; reply (thMaster t) v s)

/-- Flags set, then flags cleared, by a register or port write. -/
def flagWrite (b : Nat) (set clear : BitVec 8) (s : State) : State :=
  setBlk b { blkOf s b with flags := ((blkOf s b).flags ||| set) &&& ~~~clear } s

/-- PIO_FLAG_WRITE (R280): port 0x211, or writes of PIO_FLAG_SET and PIO_FLAGS. -/
def execPioFlagWrite (via : Via) (set clear : BitVec 8) (s : State) : Res :=
  .next (match via with
    | .reg m =>
      let s := if set = 0 then s
        else withWrite m .PIO_FLAG_SET 0 (set.setWidth 32) (fun s => flagWrite (chanOf .PIO_FLAG_SET m s) set 0 s) s
      if clear = 0 then s else withWrite m .PIO_FLAGS 0 (clear.setWidth 32) (fun s => flagWrite (chanOf .PIO_FLAGS m s) 0 clear s) s
    | .port t =>
      match thBlock t with
      | none => s
      | some b => if running s then flagWrite b set clear s else s)

/-- A word of a block's instruction memory is written (R273). -/
def pioImemWrite (b i : Nat) (v : W32) (s : State) : State :=
  { s with pio := { s.pio with imem := nmSet 0 s.pio.imem (b * 64 + i) (v.setWidth 24) } }

/-- IMEM_WRITE (R273): PIO_IMEM, or ports 0x240 to 0x27F. -/
def execImemWrite (via : Via) (idx : Fin 64) (v : W32) (s : State) : Res :=
  .next (match via with
    | .reg m => withWrite m .PIO_IMEM idx v (fun s => pioImemWrite (chanOf .PIO_IMEM m s) idx v s) s
    | .port t =>
      match thBlock t with
      | none => s
      | some b => if running s then pioImemWrite b idx v s else s)

/-- A write of SM_FRAME (R279). -/
def smFrameWrite (b m : Nat) (v : W32) (s : State) : State :=
  let old := rd s .SM_FRAME m b
  let tx := min 8 (fld v 19 16)
  let rx := min (fld v 23 20) (8 - tx)
  let change := tx ≠ fld old 19 16 || rx ≠ fld old 23 20
  let k := smOf s b m
  let v := if change && k.running then putFld (putFld v 19 16 (fld old 19 16)) 23 20 (fld old 23 20)
    else putFld (putFld v 19 16 tx) 23 20 rx
  let s := plainWrite .SM_FRAME m b v s
  if change && !k.running then txInDrop b m (setSm b m { k with txf := [], rxf := [] } s) else s

/-- SM_FRAME_WRITE (R279). -/
def execSmFrameWrite (via : Via) (sm : Fin 4) (v : W32) (s : State) : Res :=
  .next (match via with
    | .reg m => withWrite m .SM_FRAME sm v (fun s => smFrameWrite (chanOf .SM_FRAME m s) sm v s) s
    | .port t =>
      match thBlock t with
      | none => s
      | some b => if running s then smFrameWrite b sm v s else s)

/-- Register k of Table 10.8 of a machine. -/
def smReg (k : Nat) : Reg :=
  match k with
  | 0 => .SM_RATE | 1 => .SM_RING | 2 => .SM_FRAME | 3 => .SM_LANES | 4 => .SM_PC | 5 => .SM_STATE
  | 6 => .SM_INSTR | 7 => .SM_TXF | 8 => .SM_RXF | 9 => .SM_FLEVEL | 10 => .SM_S | _ => .SM_C

/-- A read of register k of a machine; SM_RXF pops. -/
def smRegRead (b m k : Nat) (s : State) : W32 × State :=
  let x := smOf s b m
  match k with
  | 4 => (x.pc.setWidth 32, s)
  | 5 => (BitVec.ofNat 32 (ofBool x.running + x.stall.toNat * 2 + x.step % 64 * 2 ^ 4 + x.rFill * 2 ^ 10 + x.tRem * 2 ^ 16 + x.hold * 2 ^ 22), s)
  | 6 => (match x.latch with
      | some w => w.setWidth 32 ||| oneBit 24
      | none => 0, s)
  | 7 => (0, s)
  | 8 => rxfRead b m s
  | 9 => (BitVec.ofNat 32 (fifoLevels s b m), s)
  | 10 => (x.s, s)
  | 11 => (x.c0.setWidth 32 ||| (x.c1.setWidth 32 <<< 16), s)
  | _ => (rd s (smReg k) m b, s)

/-- A write of register k of a machine by identity `i`. -/
def smRegWrite (i b m k : Nat) (v : W32) (s : State) : State :=
  let x := smOf s b m
  match k with
  | 2 => smFrameWrite b m v s
  | 4 => if x.running then s else setSm b m { x with pc := v.setWidth 6 } s
  | 7 => txfWrite i b m v s
  | 10 => if x.running then s else setSm b m { x with s := v } s
  | 11 => if x.running then s else setSm b m { x with c0 := v.setWidth 16, c1 := (v >>> 16).setWidth 16 } s
  | _ => if k < 4 then plainWrite (smReg k) m b v s else s

/-- PIO_STAT. -/
def pioStat (s : State) (b : Nat) : W32 :=
  BitVec.ofNat 32 (([0, 1, 2, 3].map fun m =>
    ofBool (smOf s b m).running * 2 ^ m + ofBool ((smOf s b m).stall ≠ 0) * 2 ^ (4 + m)).sum)

end Sys2Proof.Machine
end

