-- ==== Sys2Proof/Machine/Recorder.lean ====
section
/-! DEFINITION. The event recorder: builder, staging, flash ring, boot region, counter area, reading (16). -/

namespace Sys2Proof.Machine

/-- The recorder set. -/
def setRec (r : RecSt) (s : State) : State := { s with recorder := r }

/-- Records that the staging holds at most. -/
abbrev stagePlaces : Nat := 8192

/-! ### Records (Table 16.1) -/

/-- Word 0 of a record. -/
def recSeq (r : List W32) : W32 := wordAt r 0

/-- The eight words of a record, its CRC and commit included. -/
def recWords (e : RecEntry) (seq : W32) (cycle : BitVec 22) (boot : Bool) : List W32 :=
  let head : List W32 :=
    [seq, e.opS, BitVec.ofNat 32 (e.opMs.toNat + cycle.toNat * 1024),
     BitVec.ofNat 32 (e.code.toNat + e.source.toNat * 2 ^ 16 + ofBool e.sync * 2 ^ 24 + ofBool e.sw * 2 ^ 25 + ofBool boot * 2 ^ 26)]
      ++ wordsOfBytes 3 e.data
  head ++ [BitVec.ofNat 32 (crc16 (bytesOfWords head) + 0x5A3C * 65536)]

/-- Oldest record held (R405). -/
def recTail (s : State) : W32 :=
  match s.recorder.inFlash, s.recorder.staged with
  | (_, r) :: _, _ => recSeq r
  | [], r :: _ => recSeq r
  | [], [] => s.recorder.nextSeq

/-- Newest record. -/
def recHead (s : State) : W32 := s.recorder.nextSeq - 1

/-- Newest record in flash. -/
def recFlashHead (s : State) : W32 := s.recorder.nextSeq - 1 - BitVec.ofNat 32 s.recorder.staged.length

/-! ### The flash ring (R405, R407) -/

/-- Sectors of the ring (Table 16.5). -/
def recSectors (s : State) : Nat :=
  let n := fld (rd s .REC_RING_SIZE 0 0) 10 0
  if 16 ≤ n && n ≤ 1024 then n else 16

/-- The sector of the page that comes next. -/
def recSector (s : State) : Nat := s.recorder.page / 256

/-- The first sector from `k` on that is not bad, `n` sectors being looked at. -/
def goodSector (s : State) : Nat → Nat → Option Nat
  | 0, _ => none
  | n + 1, k => if k % recSectors s ∈ s.recorder.badSectors then goodSector s n (k + 1) else some (k % recSectors s)

/-- The writer stands at a usable page: not in a bad sector, and within the ring. -/
def recPlaced (s : State) : State :=
  match goodSector s (recSectors s) (recSector s) with
  | some k => if k = recSector s then s else setRec { s.recorder with page := k * 256, erased := false, retry := false } s
  | none => s

/-- A page of records waits for the writer: eight staged records, or fewer when the staging is being emptied. -/
def pageReady (s : State) : Bool :=
  decide (8 ≤ s.recorder.staged.length) ||
    (!s.recorder.staged.isEmpty && (s.recorder.flush || s.pwr.st = .enteringMidwinter))

/-- Boot reads a slot: the recorder's programming waits (17 R433). -/
def slotRead (s : State) : Bool := s.pwr.restartPending

/-- The recorder works: ON or STOPPING, in RUN or while Midwinter waits for it (R410, R411). -/
def recWorks (s : State) : Bool :=
  (s.pwr.st = .run || s.pwr.st = .enteringMidwinter) && 2 ≤ fbState (fbOf s .REC_STAT 0)

/-- The sector of the next page must be erased before its first page is programmed. -/
def eraseNeeded (s : State) : Bool := s.recorder.page % 256 = 0 && !s.recorder.erased

/-- An erase begins when the next page is the first of its sector and records wait for it; the staging's fill is watched. -/
def recPump (s : State) : State :=
  if recWorks s && pageReady s && !s.recorder.erasing then
    let s := recPlaced s
    if eraseNeeded s && recSector s ∉ s.recorder.badSectors then setB .REC_STAT 0 0 0x10 (setRec { s.recorder with erasing := true } s) else s
  else s

/-- A flash failure: counted, source 307; the second one in a row marks the sector bad (R407). -/
def flashFail (s : State) : State :=
  let s := raise 307 (count16 .REC_FLASH_ERR 0 0 s)
  let r := s.recorder
  if r.retry then
    recPlaced (clrB .REC_STAT 0 0 0x10 (setRec { r with retry := false, erasing := false, erased := false, badSectors := recSector s :: r.badSectors } s))
  else setRec { r with retry := true } s

/-- FLASH_PAGE_PROGRAM (R407, R433): the page that comes next, or its failure. -/
def execFlashPageProgram (ok : Bool) (s : State) : Res :=
  .next (if recWorks s && pageReady s && !s.recorder.erasing && !eraseNeeded s && !slotRead s && recSector s ∉ s.recorder.badSectors then
    if !ok then recPump (flashFail s)
    else
      let r := s.recorder
      let n := min 8 r.staged.length
      let out := r.staged.take n
      let left := r.staged.drop n
      let page := (r.page + 1) % (recSectors s * 256)
      let s := setRec { r with staged := left, inFlash := r.inFlash ++ out.map (fun x => (recSector s, x)), page := page,
                               erased := page % 256 ≠ 0 && r.erased, retry := false, flush := r.flush && !left.isEmpty } s
      recPump (out.foldl (fun s x => say (.flash (recSeq x)) s) s)
  else s)

/-- SECTOR_ERASE_DONE (R405, R407): the sector's records go, source 305; a failed erase is tried once more. -/
def execSectorEraseDone (ok : Bool) (s : State) : Res :=
  .next (if !(s.recorder.erasing && recWorks s) then s
  else if !ok then recPump (flashFail s)
  else
    let r := s.recorder
    let gone := r.inFlash.any fun x => x.1 = recSector s
    raiseIf gone 305 (clrB .REC_STAT 0 0 0x10
      (setRec { r with erasing := false, erased := true, retry := false, inFlash := r.inFlash.filter fun x => x.1 ≠ recSector s } s)))

/-! ### The builder (R401-R404, R408) -/

/-- A freed FIFO entry takes LOST_EVENTS when events are lost and none was placed within the last millisecond (R403). -/
def lostPlace (s : State) : State :=
  let r := s.recorder
  let due := match r.lastLostAt with
    | some t => decide (t.toNat + 250000 ≤ s.ticks)
    | none => true
  if r.lost ≠ 0 && due then
    let data := leBytes 4 (min r.lost 0xFFFFFFFF) ++ leBytes 2 r.firstLost.toNat ++ leBytes 2 r.lastLost.toNat ++ [0, 0, 0, 0]
    setRec { r with fifo := r.fifo ++ [⟨0x0200, 0xFF, false, bit (rd s .TIME_STAT 0 0) 0, r.opS, r.opMs, data⟩], fresh := 0, lost := 0, lostNow := 0,
                    lastLostAt := some (BitVec.ofNat 64 s.ticks) } s
  else s

/-- The boot slot of the power cycle. -/
def bootSlot (s : State) : Nat := s.recorder.cycle.toNat % 8

/-- Shared-memory address of the staging place of sequence number `q`. -/
def stageAddr (s : State) (q : W32) : Nat := fld (rd s .REC_STAGE_BANK 0 0) 8 0 * 0x40000 + q.toNat % stagePlaces * 32

/-- A record is written into the staging, and into the boot slot when it is one of the first 256 (R402, R408). -/
def recordBuild (e : RecEntry) (s : State) : State :=
  let r := s.recorder
  let boot := decide (r.cycleRecs < 256)
  let w := recWords e r.nextSeq r.cycle boot
  let (st, s) := shWriteRun .recorder (stageAddr s r.nextSeq) (bytesOfWords w) s
  if st ≠ memOk then s
  else
    let r := s.recorder
    let slots := if boot then nmSet [] r.bootSlots (bootSlot s) (nmGet [] r.bootSlots (bootSlot s) ++ [w]) else r.bootSlots
    let s := setRec { r with fifo := r.fifo.drop 1, fresh := min r.fresh (r.fifo.length - 1), staged := r.staged ++ [w], nextSeq := r.nextSeq + 1,
                             cycleRecs := min 256 (r.cycleRecs + 1), bootSlots := slots,
                             buildAt := max (4 * s.ticks) r.buildAt + 50 } s
    let s := lostPlace s
    let s := raiseIf (e.code = 0x0200) 304 s
    let s := raiseIf (r.cycleRecs = 255) 306 s
    recPump (raiseIf (s.recorder.staged.length = 7169) 308 s)

/-- RECORD_BUILD (R402): the oldest capture entry becomes a record while the staging has room. -/
def execRecordBuild (s : State) : Res :=
  .next (match s.recorder.fifo with
    | e :: _ => if recWorks s && decide (s.recorder.staged.length < stagePlaces) then unlessAsleep (recordBuild e) s else s
    | [] => s)

/-- The builder takes an entry of an earlier tick once it has written the record before, 50 ns after that began (R402). -/
def tickBuild (s : State) : State :=
  if s.recorder.buildAt ≤ 4 * s.ticks && s.recorder.fresh < s.recorder.fifo.length then
    match execRecordBuild s with
    | .next t => t
    | _ => s
  else s

/-! ### The counter area (R398, R400) -/

/-- The counter area is written: source 309. -/
def counterWrite (s : State) : State :=
  raise 309 (setRec { s.recorder with persistedS := s.recorder.opS, persistedCycle := s.recorder.cycle } s)

/-- An hour of operating time has passed since the last write. -/
def persistDue (s : State) : Bool := decide (3600 ≤ s.recorder.opS.toNat - s.recorder.persistedS.toNat)

/-- COUNTER_PERSIST (R398). -/
def execCounterPersist (s : State) : Res := .next (if running s && persistDue s then counterWrite s else s)

/-- PFW_N (R400): the counter area, then the record of the source; staged records are programmed while power lasts. -/
def execPfwN (s : State) : Res :=
  .next (if s.pwr.st = .off then s
  else
    let s := if running s then counterWrite s else s
    recPump (raise 314 (setRec { s.recorder with flush := true } s)))

/-! ### Registers -/

/-- A write of REC_CTRL (R411): an enable needs the staging bank. -/
def recCtrlWrite (v : W32) (s : State) : State :=
  if bit v 0 && isOff s .REC_STAT 0 && (bankOf s (fld (rd s .REC_STAGE_BANK 0 0) 8 0)).owner ≠ 4 then setB .REC_STAT 0 0 0x20 s
  else fbWrite .REC_STAT 0 (bit v 0) (plainWrite .REC_CTRL 0 0 v s)

/-- REC_ENABLE (R411). -/
def execRecEnable (m : Fin 64) (v : W32) (s : State) : Res :=
  .next (if bit v 0 then withWrite m .REC_CTRL 0 v (recCtrlWrite v) s else s)

/-- REC_DISABLE (R411). -/
def execRecDisable (m : Fin 64) (v : W32) (s : State) : Res :=
  .next (if bit v 0 then s else withWrite m .REC_CTRL 0 v (recCtrlWrite v) s)

/-- The recorder leaves STARTING or STOPPING at the next tick. -/
def recSettle (s : State) : State :=
  match fbState (fbOf s .REC_STAT 0) with
  | 1 => recPump (fbPut .REC_STAT 0 (fbStarted (fbOf s .REC_STAT 0)) s)
  | 3 => fbPut .REC_STAT 0 (fbStopped (fbOf s .REC_STAT 0)) s
  | _ => s

/-- A write of a register that boot sets, taken only while the recorder is OFF (R411). -/
def recMapWrite (r : Reg) (v : W32) (s : State) : State := if isOff s .REC_STAT 0 then plainWrite r 0 0 v s else s

/-- A write of REC_SW_CODE by `m` (R412). -/
def swRecord (m : Nat) (v : W32) (s : State) : State :=
  if bit v 15 then
    wr .REC_SW_STAT 0 m 0
      (recCapture (v.setWidth 16) (BitVec.ofNat 8 m) true (bytesOfWords ((List.range 3).map fun k => rd s .REC_SW_D k m)) s)
  else wr .REC_SW_STAT 0 m 1 s

/-- SOFTWARE_RECORD (R412). -/
def execSoftwareRecord (m : Fin 64) (v : W32) (s : State) : Res := .next (withWrite m .REC_SW_CODE 0 v (swRecord m v) s)

/-- A record held, by its sequence number, and whether it lies in flash. -/
def recFind (s : State) (q : W32) : Option (List W32 × Bool) :=
  match s.recorder.staged.find? fun r => recSeq r = q with
  | some r => some (r, false)
  | none => (s.recorder.inFlash.find? fun x => recSeq x.2 = q).map fun x => (x.2, true)

/-- REC_RD_CTRL.read by `m` (R405, Table 16.5). -/
def recRead (m : Nat) (s : State) : State :=
  let put (w : List W32) (s : State) : State := (List.range 8).foldl (fun s k => wr .REC_RD_W k m (wordAt w k) s) s
  match recFind s (rd s .REC_RD_SEQ 0 m) with
  | some (r, flash) =>
    if flash && s.recorder.erasing then setF .REC_RD_CTRL 0 m 9 8 2 s else setF .REC_RD_CTRL 0 m 9 8 0 (put r s)
  | none => setF .REC_RD_CTRL 0 m 9 8 1 (put (List.replicate 8 0xFFFFFFFF) s)

/-- REC_RD_READ (R405). -/
def execRecRdRead (m : Fin 64) (s : State) : Res := .next (withWrite m .REC_RD_CTRL 0 1 (recRead m) s)

/-- A read of REC_OPTIME_S by `m`: the rest is latched for it (R398). -/
def opTimeRead (m : Nat) (s : State) : W32 × State :=
  (s.recorder.opS, wr .REC_OPTIME_MS 0 m (BitVec.ofNat 32 (s.recorder.opMs.toNat + s.recorder.cycle.toNat * 1024)) s)

/-- REC_OPTIME_READ (R398). -/
def execRecOptimeRead (m : Fin 64) (s : State) : Res :=
  .next (withRead m .REC_OPTIME_S 0 (fun s => let (v, s) := opTimeRead m s; reply m v s) s)

/-- The bytes that REC_SNAPSHOT copies for the `k`-th record from `first`: a record not held is all ones (R409). -/
def snapBytes (s : State) (boot : Bool) (first k : Nat) : List Byte :=
  let none_ : List Byte := List.replicate 32 0xFF
  if boot then
    match (nmGet [] s.recorder.bootSlots first)[k]? with
    | some r => bytesOfWords r
    | none => none_
  else
    match recFind s (BitVec.ofNat 32 (first + k)) with
    | some (r, _) => bytesOfWords r
    | none => none_

/-- A REC_SNAPSHOT outside its ranges. -/
def snapBad (w : List W32) : Bool :=
  let count := (wordAt w 3).toNat
  let boot := bit (wordAt w 6) 0
  count = 0 || (if boot then 256 else 65536) < count || cmd64 w 16 % 32 ≠ 0 || (boot && 8 ≤ (wordAt w 2).toNat)

/-- REC_SNAPSHOT (R409). -/
def execRecSnapshot (ring : Fin 10) (slot : Nat) (s : State) : Res :=
  .next (startCmd ring slot 0x50 snapBad (fun c w s =>
    let first := (wordAt w 2).toNat
    let count := (wordAt w 3).toNat
    let s := say (.hostWrite (cmd64 w 16) ((List.range count).flatMap (snapBytes s (bit (wordAt w 6) 0) first))) s
    complete c stOk (BitVec.ofNat 64 ((recTail s).toNat + count * 2 ^ 32)) s) s)

end Sys2Proof.Machine
end

