-- ==== Sys2Proof/Machine/Reset.lean ====
section
/-! DEFINITION. Power-on reset, device resets and the loss of power (16 R398-R399, R406, R408; 17 R422, R426, Table 17.5;
18 R442-R445). -/

namespace Sys2Proof.Machine

/-- Registers of the always-on domain, and the cause register, which a device reset keeps (Table 17.5). -/
def aonRegs : List Reg :=
  [.GLB_RST_CAUSE, .CLK_WAKE_EN, .CLK_WAKE_CAUSE, .CLK_WAKEIN_CFG, .CLK_RTC_S, .CLK_RTC_ALARM, .CAN_WAKE_CFG, .CAN_WUF,
   .CAN_WAKE_STAT, .CAN_WAKE_ID, .STAR_WAKE_CFG, .STAR_WAKE_STAT]

/-- The listed registers that a device reset keeps. -/
def aonKept (s : State) : NMap W32 := s.regs.filter fun e => (aonRegs.map (·.ctorIdx)).contains (e.1 % 1024)

/-- Failed banks: the repair map in the flash keeps them FAILED across resets (04 R115). -/
def failedBanks (s : State) : NMap Bank :=
  (s.mem.banks.filter fun e => e.2.failed).map fun e => (e.1, { bankReset e.1 with failed := true })

/-- The slots with persist set, as the configuration store keeps them wrapped (13 R367). -/
def storedKeys (s : State) : NMap KeySlot :=
  if s.pwr.booted then s.cry.slots.filter fun e => e.2.loaded && bit e.2.attr 16 else s.cry.stored

/-- The recorder as a device reset finds it: the sequence goes on from the newest record in flash, and staged records are
lost and counted (R406, R410). -/
def recReset (s : State) : RecSt :=
  let r := s.recorder
  let n := r.staged.length
  let code (w : Option (List W32)) (old : BitVec 16) : BitVec 16 :=
    match w with
    | some x => if r.lost = 0 then (wordAt x 3).setWidth 16 else old
    | none => old
  { r with staged := [], lost := r.lost + n, firstLost := code r.staged.head? r.firstLost, lastLost := code r.staged.getLast? r.lastLost,
           nextSeq := match r.inFlash.getLast? with
             | some x => recSeq x.2 + 1
             | none => 0
           erasing := false, retry := false, flush := false }

/-- The EVT_OUT pins are low from the end of reset (18 R439). -/
def evtPinsLow (s : State) : State := [0, 1, 2, 3].foldl (fun s k => say (.pin k false) s) s

/-- What outlives every reset: the flash, the fuses, the pins' levels, the model's own counters and queue. -/
def bareReset (s : State) : State :=
  { State.reset with
    regs := []
    mem := { State.reset.mem with banks := failedBanks s, repairMap := s.mem.repairMap }
    pio := { State.reset.pio with pinIn := s.pio.pinIn, pinSync := s.pio.pinSync, pinSeen := s.pio.pinSeen }
    cry := { State.reset.cry with stored := storedKeys s }
    pwr := { State.reset.pwr with ctl := s.pwr.ctl, otp := s.pwr.otp, revoked := s.pwr.revoked, strapBoot := s.pwr.strapBoot,
                                  strapStar := s.pwr.strapStar, rtcFrac := s.pwr.rtcFrac, tap := s.pwr.tap, tapIr := s.pwr.tapIr,
                                  tapDr := s.pwr.tapDr, tapIrShift := s.pwr.tapIrShift, tdo := s.pwr.tdo }
    ticks := s.ticks
    freeCtr := s.freeCtr
    outbox := s.outbox
    pending := s.pending }

/-- A device reset: cause bit `n` of GLB_RST_CAUSE and event source `n` (Tables 17.4, 17.5). A restart in progress is
abandoned (R422). -/
def deviceReset (n : Nat) (s : State) : State :=
  let b := bareReset s
  let t := { b with regs := aonKept s, recorder := recReset s, pwr := { b.pwr with devReset := true } }
  raise n (setB .GLB_RST_CAUSE 0 0 (oneBit n) (clockReload (evtPinsLow t)))

/-- BOOTMODE and STARID as GLB_STRAP shows them are sampled (R426). -/
def sampleStraps (straps : BitVec 16) (s : State) : State :=
  { s with pwr := { s.pwr with strapBoot := straps.setWidth 3, strapStar := (straps >>> 4).setWidth 4 } }

/-- The recorder at a power-on reset: the always-on part is cleared, the operating time resumes, the power cycle counts, its
boot slot is erased, the counter area is written, and POWER_ON comes first (R398, R399, R408). -/
def recPowerOn (s : State) : RecSt :=
  let r := recReset s
  let cycle : BitVec 22 := BitVec.ofNat 22 (min 0x3FFFFF (r.persistedCycle.toNat + 1))
  { r with fifo := [powerOnEntry r.persistedS], fresh := 0, lost := 0, lostNow := 0, firstLost := 0, lastLost := 0, lastLostAt := none, opS := r.persistedS,
           opMs := 0, cycle := cycle, persistedCycle := cycle, cycleRecs := 0,
           bootSlots := nmErase r.bootSlots (cycle.toNat % 8) }

/-- A power-on reset: por alone in GLB_RST_CAUSE, source 0. -/
def powerOn (straps : BitVec 16) (s : State) : State :=
  let t := { bareReset s with recorder := recPowerOn s }
  let t := { t with pwr := { t.pwr with rtcFrac := 0, tap := 15, tapIr := 1, tapDr := 0, tapIrShift := 0, tdo := none } }
  raise 0 (setB .GLB_RST_CAUSE 0 0 1 (clockReload (evtPinsLow (sampleStraps straps t))))

/-- POWER_ON_RESET (R398, R442-R445): VDD_AON rises. RESET_N low at its end extends it, so that the straps are those of its end. -/
def execPowerOnReset (straps : BitVec 16) (s : State) : Res := .next (powerOn straps s)

/-- A pulse of RESET_N of this many ns resets the device: at least 1 us; below 100 ns none does, and between the two the spec
leaves it open (R445). -/
def resetPulse (lowNs : Nat) : Bool := if lowNs < 100 then false else if lowNs < 1000 then Config.resetPulse lowNs else true

/-- RESET_N (R445): the straps are sampled as it releases. -/
def execResetN (straps : BitVec 16) (lowNs : Nat) (s : State) : Res :=
  .next (if s.pwr.st = .off || !resetPulse lowNs then s else sampleStraps straps (deviceReset 1 s))

/-- A write of GLB_RST_CTRL (R422): device, then level, with the key. -/
def rstCtrlWrite (v : W32) (s : State) : State :=
  if fld v 15 0 ≠ 0xA5C3 then s
  else if bit v 16 then deviceReset 2 s
  else if bit v 17 then restartPlain 8 s
  else s

/-- SW_DEVICE_RESET (R422). -/
def execSwDeviceReset (m : Fin 64) (v : W32) (s : State) : Res :=
  .next (if bit v 16 then withWrite m .GLB_RST_CTRL 0 v (rstCtrlWrite v) s else s)

/-- SW_LEVEL_RESTART (R422, R425). -/
def execSwLevelRestart (m : Fin 64) (v : W32) (s : State) : Res :=
  .next (if bit v 16 then s else withWrite m .GLB_RST_CTRL 0 v (rstCtrlWrite v) s)

/-- POWER_LOSS (R442): nothing volatile survives; the flash, the fuses and the levels outside do. -/
def execPowerLoss (s : State) : Res :=
  .next <|
    let r := s.recorder
    let t := bareReset s
    { t with recorder := { recReset s with fifo := [], fresh := 0, lost := 0, lostNow := 0, opS := r.persistedS, opMs := 0, cycle := r.persistedCycle },
             pwr := { t.pwr with st := .off } }

/-- PCIE_HOT_RESET (R392, R397): identity 0 is reset as a party. -/
def execPcieHotReset (s : State) : Res := .next (if running s then partyReset 0 s else s)

end Sys2Proof.Machine
end

