-- ==== Sys2Proof/Machine/Sign.lean ====
section
/-! DEFINITION. SHA-384 and the verification of ECDSA signatures on P-384 (17 R429 steps 2 and 3). -/

namespace Sys2Proof.Machine

/-! ### SHA-384 (FIPS 180-4) -/

/-- The round constants. -/
def sha5K : List W64 :=
  [0x428A2F98D728AE22, 0x7137449123EF65CD, 0xB5C0FBCFEC4D3B2F, 0xE9B5DBA58189DBBC, 0x3956C25BF348B538] ++
  [0x59F111F1B605D019, 0x923F82A4AF194F9B, 0xAB1C5ED5DA6D8118, 0xD807AA98A3030242, 0x12835B0145706FBE] ++
  [0x243185BE4EE4B28C, 0x550C7DC3D5FFB4E2, 0x72BE5D74F27B896F, 0x80DEB1FE3B1696B1, 0x9BDC06A725C71235] ++
  [0xC19BF174CF692694, 0xE49B69C19EF14AD2, 0xEFBE4786384F25E3, 0x0FC19DC68B8CD5B5, 0x240CA1CC77AC9C65] ++
  [0x2DE92C6F592B0275, 0x4A7484AA6EA6E483, 0x5CB0A9DCBD41FBD4, 0x76F988DA831153B5, 0x983E5152EE66DFAB] ++
  [0xA831C66D2DB43210, 0xB00327C898FB213F, 0xBF597FC7BEEF0EE4, 0xC6E00BF33DA88FC2, 0xD5A79147930AA725] ++
  [0x06CA6351E003826F, 0x142929670A0E6E70, 0x27B70A8546D22FFC, 0x2E1B21385C26C926, 0x4D2C6DFC5AC42AED] ++
  [0x53380D139D95B3DF, 0x650A73548BAF63DE, 0x766A0ABB3C77B2A8, 0x81C2C92E47EDAEE6, 0x92722C851482353B] ++
  [0xA2BFE8A14CF10364, 0xA81A664BBC423001, 0xC24B8B70D0F89791, 0xC76C51A30654BE30, 0xD192E819D6EF5218] ++
  [0xD69906245565A910, 0xF40E35855771202A, 0x106AA07032BBD1B8, 0x19A4C116B8D2D0C8, 0x1E376C085141AB53] ++
  [0x2748774CDF8EEB99, 0x34B0BCB5E19B48A8, 0x391C0CB3C5C95A63, 0x4ED8AA4AE3418ACB, 0x5B9CCA4F7763E373] ++
  [0x682E6FF3D6B2B8A3, 0x748F82EE5DEFB2FC, 0x78A5636F43172F60, 0x84C87814A1F0AB72, 0x8CC702081A6439EC] ++
  [0x90BEFFFA23631E28, 0xA4506CEBDE82BDE9, 0xBEF9A3F7B2C67915, 0xC67178F2E372532B, 0xCA273ECEEA26619C] ++
  [0xD186B8C721C0C207, 0xEADA7DD6CDE0EB1E, 0xF57D4F7FEE6ED178, 0x06F067AA72176FBA, 0x0A637DC5A2C898A6] ++
  [0x113F9804BEF90DAE, 0x1B710B35131C471B, 0x28DB77F523047D84, 0x32CAAB7B40C72493, 0x3C9EBE0A15C9BEBC] ++
  [0x431D67C49C100D4C, 0x4CC5D4BECB3E42B6, 0x597F299CFC657E2A, 0x5FCB6FAB3AD6FAEC, 0x6C44198C4A475817]

/-- The message schedule of a block, extended by `n` words. -/
def sha5Extend : Nat → List W64 → List W64
  | 0, w => w
  | n + 1, w =>
    let t := w.length
    let a := w.getD (t - 15) 0
    let b := w.getD (t - 2) 0
    let s0 := a.rotateRight 1 ^^^ a.rotateRight 8 ^^^ (a >>> 7)
    let s1 := b.rotateRight 19 ^^^ b.rotateRight 61 ^^^ (b >>> 6)
    sha5Extend n (w ++ [w.getD (t - 16) 0 + s0 + w.getD (t - 7) 0 + s1])

/-- One round on the eight working variables. -/
def sha5Round (v : List W64) (k : W64) : List W64 :=
  let x (i : Nat) : W64 := v.getD i 0
  let s1 := (x 4).rotateRight 14 ^^^ (x 4).rotateRight 18 ^^^ (x 4).rotateRight 41
  let ch := (x 4 &&& x 5) ^^^ (~~~(x 4) &&& x 6)
  let t1 := x 7 + s1 + ch + k
  let s0 := (x 0).rotateRight 28 ^^^ (x 0).rotateRight 34 ^^^ (x 0).rotateRight 39
  let maj := (x 0 &&& x 1) ^^^ (x 0 &&& x 2) ^^^ (x 1 &&& x 2)
  [t1 + s0 + maj, x 0, x 1, x 2, x 3 + t1, x 4, x 5, x 6]

/-- The compression of one block of 128 bytes. -/
def sha5Block (h : List W64) (b : List Byte) : List W64 :=
  let w := sha5Extend 64 ((List.range 16).map fun i => BitVec.ofNat 64 (ofBe (slice b (8 * i) 8)))
  List.zipWith (· + ·) h ((List.zipWith (· + ·) sha5K w).foldl sha5Round h)

/-- Blocks of a padded message. -/
def sha5Blocks : Nat → List W64 → List Byte → List W64
  | 0, h, _ => h
  | n + 1, h, l => if l.isEmpty then h else sha5Blocks n (sha5Block h (l.take 128)) (l.drop 128)

/-- The initial hash value of SHA-384. -/
def sha384Init : List W64 :=
  [0xCBBB9D5DC1059ED8, 0x629A292A367CD507, 0x9159015A3070DD17, 0x152FECD8F70E5939, 0x67332667FFC00B31, 0x8EB44A8768581511, 0xDB0C2E0D64F98FA7, 0x47B5481DBEFA4FA4]

/-- SHA-384 of a message, 48 bytes. -/
def sha384Of (m : List Byte) : List Byte :=
  let padded := m ++ [0x80] ++ List.replicate ((239 - m.length % 128) % 128) 0 ++ beBytes 16 (m.length * 8)
  ((sha5Blocks (padded.length / 128) sha384Init padded).take 6).flatMap fun w => beBytes 8 w.toNat

/-! ### P-384 (FIPS 186-5) -/

/-- The prime of the field. -/
def p384P : Nat := 2 ^ 384 - 2 ^ 128 - 2 ^ 96 + 2 ^ 32 - 1

/-- The order of the base point. -/
def p384N : Nat := 0xFFFFFFFFFFFFFFFFFFFFFFFFFFFFFFFFFFFFFFFFFFFFFFFFC7634D81F4372DDF581A0DB248B0A77AECEC196ACCC52973

/-- The coefficient b of the curve; a is -3. -/
def p384B : Nat := 0xB3312FA7E23EE7E4988E056BE3F82D19181D9C6EFE8141120314088F5013875AC656398D8A2ED19D2A85C8EDD3EC2AEF

/-- A point, `none` being the one at infinity. -/
abbrev Point := Option (Nat × Nat)

/-- The base point. -/
def p384G : Point :=
  some (0xAA87CA22BE8B05378EB1C71EF320AD746E1D3B628BA79B9859F741E082542A385502F25DBF55296C3A545E3872760AB7,
    0x3617DE4A96262C6F5D9E98BF9292DC29F8F41DBD289A147CE9DA3113B5F0B8C00A60B1CE1D7E819D7A431D7C90EA0E5F)

/-- A power modulo `m`, by the bits of an exponent below 2 ^ n. -/
def powMod (m : Nat) : Nat → Nat → Nat → Nat
  | 0, _, _ => 1 % m
  | n + 1, b, e => let r := powMod m n (b * b % m) (e / 2); if e % 2 = 1 then r * b % m else r

/-- The inverse modulo a prime below 2 ^ 384. -/
def invMod (m x : Nat) : Nat := powMod m 384 (x % m) (m - 2)

/-- The point at `x` on the line of slope `l` through (x1, y1), reflected. -/
def chord (l x1 y1 x2 : Nat) : Nat × Nat :=
  let x := (l * l + 2 * p384P - x1 - x2) % p384P
  (x, (l * (x1 + p384P - x) + p384P - y1) % p384P)

/-- The sum of two points. -/
def pointAdd : Point → Point → Point
  | none, q => q
  | p, none => p
  | some (x1, y1), some (x2, y2) =>
    if x1 ≠ x2 then some (chord ((y2 + p384P - y1) * invMod p384P (x2 + p384P - x1) % p384P) x1 y1 x2)
    else if y1 = y2 && y1 ≠ 0 then some (chord ((3 * x1 * x1 + p384P - 3) * invMod p384P (2 * y1) % p384P) x1 y1 x2)
    else none

/-- The multiple of a point by a number below 2 ^ n. -/
def pointMul : Nat → Nat → Point → Point
  | 0, _, _ => none
  | n + 1, k, p => let r := pointMul n (k / 2) (pointAdd p p); if k % 2 = 1 then pointAdd r p else r

/-- The point that 97 bytes name, uncompressed, when it lies on the curve. -/
def pointOf (l : List Byte) : Point :=
  let x := ofBe (slice l 1 48)
  let y := ofBe (slice l 49 48)
  if l.length = 97 && byteAt l 0 = 4 && decide (x < p384P) && decide (y < p384P) &&
      decide (y * y % p384P = (x * x * x + (p384P - 3) * x + p384B) % p384P) then some (x, y) else none

/-- An ECDSA signature, r then s, over a hash verifies under a key (R429 step 3). -/
def ecdsaOk (key hash sig : List Byte) : Bool :=
  let r := ofBe (slice sig 0 48)
  let t := ofBe (slice sig 48 48)
  match pointOf key with
  | none => false
  | some q =>
    if r = 0 || p384N ≤ r || t = 0 || p384N ≤ t then false
    else
      let w := invMod p384N t
      match pointAdd (pointMul 384 (ofBe hash * w % p384N) p384G) (pointMul 384 (r * w % p384N) (some q)) with
      | some (x, _) => decide (x % p384N = r)
      | none => false

end Sys2Proof.Machine
end

