-- ==== Sys2Proof/Machine/Star.lean ====
section
/-! DEFINITION. The Rewick star: run phases, sequencer, reference frames, branches, guardians, arbitration, slot buffers, mode
switches, Equinox, redundant pair (09). -/

namespace Sys2Proof.Machine

/-- The star set. -/
def setStar (x : StarSt) (s : State) : State := { s with star := x }

/-- A branch after reset. -/
def branchReset : Branch :=
  { echoes := [], badSets := 0, lastMeas := none, corr := none, lost := false, outside := false, guardOpen := false, due := 0,
    echoBc := 0, echoWait := false, refBc := 0 }

/-- Branch `n`. -/
def brOf (s : State) (n : Nat) : Branch := nmGet branchReset s.star.branches n

/-- Branch `n` set. -/
def setBr (n : Nat) (b : Branch) (s : State) : State := setStar { s.star with branches := nmSet branchReset s.star.branches n b } s

/-! ### Registers and phases -/

/-- The run phase (Table 9.15): idle 0, claim 1, align 2, wait_start 3, running 4, refused 5. -/
def runPhase (s : State) : Nat := fld (rd s .STAR_STAT 0 0) 6 4
/-- The run phase set. -/
def setPhase (n : Nat) (s : State) : State := setF .STAR_STAT 0 0 6 4 n s
/-- The role: SOLO 0, PRIMARY 1, SECONDARY 2. -/
def roleOf (s : State) : Nat := fld (rd s .STAR_STAT 0 0) 9 8
/-- The current mode. -/
def curMode (s : State) : Nat := fld (rd s .STAR_STAT 0 0) 14 12
/-- The current basic cycle. -/
def bcNum (s : State) : Nat := fld (rd s .STAR_BC 0 0) 5 0
/-- A bit of STAR_CTRL. -/
def starCtl (s : State) (n : Nat) : Bool := bit (rd s .STAR_CTRL 0 0) n
/-- The own star ID. -/
def starId (s : State) : Nat := s.pwr.strapStar.toNat

/-- The state of a branch (Table 9.9): OFF 0, LISTEN 1, MEASURE 2, ACTIVE 3, ISOLATED 4. -/
def brState (s : State) (n : Nat) : Nat := fld (rd s .STAR_BR_STAT 0 n) 2 0
/-- The state of a branch set. -/
def setBrState (n k : Nat) (s : State) : State := setF .STAR_BR_STAT 0 n 2 0 k s
/-- A bit of STAR_BR_CTRL. -/
def brCtl (s : State) (n k : Nat) : Bool := bit (rd s .STAR_BR_CTRL 0 n) k
/-- d_n is valid. -/
def dValid (s : State) (n : Nat) : Bool := bit (rd s .STAR_BR_DELAY 0 n) 15
/-- d_n in ns, 0 while none is valid. -/
def delayOf (s : State) (n : Nat) : Nat := if dValid s n then fld (rd s .STAR_BR_DELAY 0 n) 11 0 else 0

/-- A cause bit of a branch; source 192 + n fires when it sets. -/
def brCause (n k : Nat) (s : State) : State :=
  if bit (rd s .STAR_BR_CAUSE 0 n) k then s else raise (192 + n) (setB .STAR_BR_CAUSE 0 n (oneBit k) s)

/-! ### The latched schedule (R257) -/

/-- Word `k` of the latched header. -/
def hdrW (s : State) (k : Nat) : W32 := wordAt (s.star.latch.getD 0 []) k
/-- Word `k` of latched window `w`. -/
def winW (s : State) (w k : Nat) : W32 := wordAt (s.star.latch.getD (1 + w) []) k
/-- Windows of the latched mode. -/
def nwin (s : State) : Nat := fld (hdrW s 0) 29 24 + 1
/-- Pre-margin in ns. -/
def preNs (s : State) : Nat := fld (hdrW s 3) 6 0 * 100
/-- Post-margin in ns. -/
def postNs (s : State) : Nat := fld (hdrW s 3) 14 8 * 100
/-- Kind of window `w`: free 0, exclusive 1, arbitrating 2, reference 3. -/
def winKind (s : State) (w : Nat) : Nat := fld (winW s w 2) 1 0
/-- Open of window `w`. -/
def winOpen (s : State) (w : Nat) : Nat := fld (winW s w 0) 23 0
/-- Length of window `w`. -/
def winLen (s : State) (w : Nat) : Nat := fld (winW s w 1) 23 0
/-- A window entry is active in basic cycle `c`. -/
def activeIn (w2 : W32) (c : Nat) : Bool := c % 2 ^ fld w2 16 14 = fld w2 23 18
/-- A device window. -/
def winDevice (s : State) (w : Nat) : Bool := winKind s w = 1 && bit (winW s w 2) 2

/-- Header and windows of mode `m` in the library of the active set. -/
def libMode (s : State) (m : Nat) : List (List W32) := (List.range 65).map fun i => tbl s 12 (m * 65 + i)

/-- T_bc in ns. -/
def tBc (s : State) : Nat := s.star.tbc.toNat

/-- The first interval of at least 24 us that no window of a list covers, from `t` up to the basic cycle's end. -/
def freeFrom : List (Nat × Nat) → Nat → Nat → Option Nat
  | [], t, stop => if t + 24000 ≤ stop then some t else none
  | (o, n) :: r, t, stop => if t + 24000 ≤ o then some t else freeFrom r (max t (o + n)) stop

/-- The first free interval of the current basic cycle (R250). -/
def firstFree (s : State) : Option Nat :=
  freeFrom (((List.range (nwin s)).filter fun w => winKind s w ≠ 0 && activeIn (winW s w 2) (bcNum s)).map
    fun w => (winOpen s w, winLen s w)) 0 (bcLen s)

/-! ### Violations and isolation (R246-R248) -/

/-- Measurement starts afresh. -/
def freshEchoes (b : Branch) : Branch := { b with echoes := [], badSets := 0, echoWait := false }

/-- The branch enters ISOLATED. -/
def isolate (n : Nat) (s : State) : State :=
  brCause n 2 (setBrState n 4 (setBr n { freshEchoes (brOf s n) with due := 0 } s))

/-- A violation counts, and at the threshold isolates (R246, R247). -/
def violation (n : Nat) (r : Reg) (s : State) : State :=
  let s := count32 r 0 n s
  let v := min 15 (fld (rd s .STAR_BR_STAT 0 n) 7 4 + 1)
  let s := brCause n 0 (setF .STAR_BR_STAT 0 n 7 4 v s)
  if brState s n ≠ 0 && brState s n ≠ 4 && max 1 (fld (rd s .STAR_BR_CTRL 0 n) 11 8) ≤ v then isolate n s else s

/-- A valid frame in one of the branch's windows (R247). -/
def validFrame (n : Nat) (s : State) : State := setF .STAR_BR_STAT 0 n 7 4 0 (count32 .STAR_BR_RX_OK 0 n s)

/-! ### Changes due at T_bc (R247, R248, R250, R251) -/

/-- The state and delay that a branch is due to have at the next T_bc. -/
def brPlan (s : State) (n : Nat) : Nat × Nat :=
  let b := brOf s n
  let back := if dValid s n then 3 else 1
  if !brCtl s n 0 then (0, 0)
  else if brState s n = 0 then (0, 0)
  else if brCtl s n 1 then (4, delayOf s n)
  else if b.due = 4 then (1, 0)
  else if b.due = 3 then (3, delayOf s n)
  else if b.due = 1 || b.due = 2 then (back, delayOf s n)
  else (brState s n, delayOf s n)

/-- The branch takes its change at T_bc; the marks of the last basic cycle end. -/
def brAtBc (s : State) (n : Nat) : State :=
  let b := brOf s n
  let s := setBr n { b with due := 0, outside := false, echoWait := false } s
  if brState s n = 0 then s
  else if !brCtl s n 0 then
    setBrState n 0 (setBr n { freshEchoes (brOf s n) with corr := none, lost := false } s)
  else if brCtl s n 1 then (if brState s n = 4 then s else isolate n s)
  else if b.due = 4 then
    wr .STAR_BR_DELAY 0 n 0 (setBrState n 1 (setBr n (freshEchoes (brOf s n)) s))
  else if b.due = 3 then brCause n 3 (setBrState n 3 s)
  else if b.due = 1 || b.due = 2 then
    let s := if b.due = 2 then setF .STAR_BR_STAT 0 n 7 4 0 s else s
    if dValid s n then setBrState n 3 s else setBrState n 1 (setBr n (freshEchoes (brOf s n)) s)
  else s

/-- The 24 branches. -/
def allBranches : List Nat := List.range 24

/-- The wake patterns ahead of a run: on each branch with send_wake set, once (R253). -/
def wakeBranches (s : State) : State :=
  if s.star.wakeSent then s
  else
    allBranches.foldl (fun s n => if brCtl s n 4 then say (.starWake n) s else s) (setStar { s.star with wakeSent := true } s)

/-- Every branch begins a run: enabled ones in LISTEN, quarantined ones ISOLATED, all measured afresh (R251, R253). -/
def brBegin (s : State) (n : Nat) : State :=
  let s := wr .STAR_BR_DELAY 0 n 0 (wr .STAR_BR_STAT 0 n 0 (setBr n branchReset s))
  if !brCtl s n 0 then s else if brCtl s n 1 then isolate n s else setBrState n 1 s

/-- Every branch is OFF (R254). -/
def brEnd (s : State) (n : Nat) : State :=
  setBrState n 0 (setBr n { freshEchoes (brOf s n) with due := 0, corr := none, lost := false } s)

/-! ### Mode switches (R255, R256) -/

/-- The phase of STAR_MODE_STAT set, with its mode. -/
def setModeStat (phase mode : Nat) (s : State) : State := wr .STAR_MODE_STAT 0 0 (BitVec.ofNat 32 (phase + mode % 8 * 256)) s

/-- A request with go (R255). -/
def modeRequest (m : Nat) (s : State) : State :=
  let n := rd s .STAR_MC_NUM 0 0
  let k := rd s .STAR_MODE_TARGET 0 0
  if !starOnRunning s || inRestart s || s.star.swLive || !modeValid s m || m = curMode s || (k ≠ 0 && k.toNat < n.toNat + 3) then
    setF .STAR_MODE_STAT 0 0 2 0 5 s
  else
    setModeStat 1 m (wr .STAR_ACK 0 0 0
      (setStar { s.star with swLive := true, swMode := m, swTarget := if k = 0 then n + 3 else k, lastReq := some n } s))

/-- A write of STAR_MODE_REQ. -/
def modeReqWrite (v : W32) (s : State) : State :=
  let s := wr .STAR_MODE_REQ 0 0 (v &&& 7) s
  if bit v 31 then modeRequest (fld v 2 0) s else s

/-- MODE_SWITCH_REQUEST (R255). -/
def execModeSwitchRequest (m : Fin 64) (v : W32) (s : State) : Res :=
  .next (if bit v 31 then withWrite m .STAR_MODE_REQ 0 v (modeReqWrite v) s else s)

/-- Branches that are ACTIVE at the next T_bc, one bit each. -/
def activeMask (s : State) : Nat := (allBranches.map fun n => if (brPlan s n).1 = 3 then 2 ^ n else 0).sum

/-- The decision of a switch: COMMIT when every required branch has agreed and is ACTIVE, else ABORT with source 219. -/
def modeDecide (s : State) : State :=
  let need := fld (tblW s 12 (s.star.swMode * 65) 2) 23 0
  let have_ := Nat.land (rd s .STAR_ACK 0 0).toNat (activeMask s)
  let ok := Nat.land need have_ = need
  let com := if ok then some (s.star.swMode, s.star.swTarget) else none
  let s := setModeStat (if ok then 3 else 4) s.star.swMode (setStar { s.star with swLive := false, committed := com } s)
  if ok then s else raise 219 s

/-- The switch field of the reference frame of basic cycle `bc` of matrix cycle `mc` (R255); a SECONDARY leaves the decision to its
primary (R261). -/
def switchField (mc : W32) (bc : Nat) (s : State) : Nat × State :=
  let k := s.star.swTarget
  if !s.star.swLive then (0, s)
  else if mc + 1 = k && bc = 63 && roleOf s ≠ 2 then
    let s := modeDecide s
    (if s.star.committed.isSome then 2 else 3, s)
  else if mc + 1 = k || mc + 2 = k then (1, setModeStat 2 s.star.swMode s)
  else (0, s)

/-! ### Reference frames (Table 9.7, R238) -/

/-- A frame header (Table 9.3). -/
def starHeader (slot cycle len flags : Nat) : List Byte :=
  [BitVec.ofNat 8 (slot / 4), BitVec.ofNat 8 (slot % 4 * 64 + cycle % 64), BitVec.ofNat 8 len, BitVec.ofNat 8 flags]

/-- The mode that governs matrix cycle `mc`: that of a COMMIT that names it, else the current one. -/
def modeFor (s : State) (mc : W32) : Nat :=
  match s.star.committed with
  | some (m, k) => if k = mc then m else curMode s
  | none => curMode s

/-- The branches whose corrections go in the next reference frame: the three lowest (R249). -/
def corrections (s : State) : List (Nat × Int × Int) :=
  (allBranches.filterMap fun n => (brOf s n).corr.map fun c => (n, c.1, c.2)).take 3

/-- The set that is active at matrix cycle `mc`, which begins at local time `t`: a commit due by then switches first (R257,
02 R44). -/
def libAt (s : State) (mc : W32) (t : Nat) : NMap (List W32) :=
  match s.cfg.armed with
  | some a =>
    let due := match a.instant, a.mc with
      | some i, _ => decide (i.toNat ≤ t)
      | none, some k => decide (k.toNat ≤ mc.toNat)
      | none, none => false
    if a.switched.isNone && due && !inRestart s then s.cfg.shadow else s.cfg.active
  | none => s.cfg.active

/-- Two bytes of a signed value, clamped, most significant first. -/
def clamp16 (x : Int) : List Byte := beBytes 2 (BitVec.ofInt 16 (max (-32767) (min 32767 x))).toNat

/-- The reference frame of absolute basic cycle `a`, built once (R238, R243, R249). -/
def buildRef (a : Nat) (s : State) : State :=
  let next := a ≠ s.star.absBc
  let bc := if next then (bcNum s + 1) % 64 else bcNum s
  let mc := if next && bc = 0 then rd s .STAR_MC_NUM 0 0 + 1 else rd s .STAR_MC_NUM 0 0
  let t : Nat := if next then tBc s + bcLen s else tBc s
  let lib := libAt s mc t
  let head (m : Nat) : List W32 := nmGet [] lib (tblKey 12 (m * 65))
  let m := if next && bc = 0 && bit (wordAt (head (modeFor s mc)) 0) 31 then modeFor s mc else curMode s
  let hdr := if next && bc = 0 && bit (wordAt (head m) 0) 31 then head m else s.star.latch.getD 0 []
  let (sw, s) := switchField mc bc s
  let cs := corrections s
  let lost := (allBranches.map fun n => if (brOf s n).lost then 2 ^ n else 0).sum
  let b12 := m + 8 * ofBool (roleOf s ≠ 2) + 16 * ofBool (starCtl s 1)
  let payload := beBytes 8 t ++ beBytes 4 mc.toNat ++
    [BitVec.ofNat 8 b12, BitVec.ofNat 8 (sw + if sw = 0 then 0 else s.star.swMode * 16)] ++
    beBytes 4 (if sw = 0 then 0 else s.star.swTarget.toNat) ++ leBytes 3 (activeMask s) ++ leBytes 3 lost ++
    leBytes 3 (if sw = 0 then 0 else (rd s .STAR_ACK 0 0).toNat) ++ [BitVec.ofNat 8 (starId s)] ++
    beBytes 4 (fld (wordAt hdr 1) 23 0) ++ [BitVec.ofNat 8 (fld (wordAt hdr 1) 31 24), BitVec.ofNat 8 cs.length] ++
    cs.flatMap fun c => BitVec.ofNat 8 c.1 :: (clamp16 c.2.1 ++ clamp16 c.2.2)
  let l := starHeader 0 bc payload.length 1 ++ payload
  let prof := fld (rd s .STAR_CTRL 0 0) 15 8
  let fine := profValid s prof && bit (profW s prof 0) 4 && profMedium s prof = 2
  let (st, tagged, s) := if starCtl s 7 && fine then tagRecord prof userHw l 0 (BitVec.ofNat 64 t) s else (crBadReq, l, s)
  let s := if starCtl s 7 && !fine then setB .STAR_STAT 0 0 0x40000 s else s
  let s := allBranches.foldl (fun s n => setBr n { brOf s n with lost := false } s) s
  let s := cs.foldl (fun s c => setBr c.1 { brOf s c.1 with corr := none } s) s
  setStar { s.star with refFrame := some (a, if st = crOk then tagged else l) } s

/-- The reference frame of absolute basic cycle `a` exists. -/
def ensureRef (a : Nat) (s : State) : State := if (s.star.refFrame.map (·.1)) = some a then s else buildRef a s

/-- The reference frame of absolute basic cycle `a` leaves on branch `n`, once, at local time `t` (R238: to 1 ns). -/
def sendRef (a n t : Nat) (s : State) : State :=
  if a < (brOf s n).refBc then s
  else
    let s := ensureRef a s
    match s.star.refFrame with
    | some (_, l) => say (.star n l (BitVec.ofNat 64 t)) (setBr n { brOf s n with refBc := a + 1 } s)
    | none => s

/-- REFERENCE_FRAME_SEND (R238): at T_bc − d_n of the next basic cycle, or for the current one when none was sent. -/
def execReferenceFrameSend (n : Fin 24) (s : State) : Res :=
  .next (if !running s || !starRunning s then s
  else
    let (st, d) := brPlan s n
    if tBc s + bcLen s ≤ now s + d && isOn s .STAR_STAT 0 && st ≠ 0 then
      sendRef (s.star.absBc + 1) n (tBc s + bcLen s - d) s
    else if brState s n ≠ 0 then sendRef s.star.absBc n (tBc s) s
    else s)

/-! ### Run phases (R253, R254, R260-R262) -/

/-- A commit armed for a matrix cycle ends with the run (02 R42). -/
def runCommitEnd (s : State) : State :=
  match s.cfg.armed with
  | some a => if a.mc.isSome && a.switched.isNone then disarm stAborted s else s
  | none => s

/-- A write of STAR_CTRL: fields other than en only while OFF (R254, R455); a disable of the running star ends the commit for one of
its matrix cycles at once (02 R42). -/
def starCtrlWrite (v : W32) (s : State) : State :=
  let old := rd s .STAR_CTRL 0 0
  let v := v &&& 0xFFFF
  let s :=
    if isOff s .STAR_STAT 0 then wr .STAR_CTRL 0 0 v s
    else
      let s := wr .STAR_CTRL 0 0 ((old &&& ~~~1) ||| (v &&& 1)) s
      if (old &&& ~~~1) = (v &&& ~~~1) then s else setB .STAR_STAT 0 0 0x40000 s
  let s := fbWrite .STAR_STAT 0 (bit v 0) s
  if starOnRunning s then s else runCommitEnd s

/-- STAR_ENABLE (R253). -/
def execStarEnable (m : Fin 64) (v : W32) (s : State) : Res :=
  .next (if bit v 0 then withWrite m .STAR_CTRL 0 v (starCtrlWrite v) s else s)

/-- STAR_DISABLE (R254). -/
def execStarDisable (m : Fin 64) (v : W32) (s : State) : Res :=
  .next (if bit v 0 then s else withWrite m .STAR_CTRL 0 v (starCtrlWrite v) s)

/-- WAIT_START begins. -/
def waitStart (s : State) : State := setPhase 3 (setStar { s.star with waitSince := s.time.now, wakeSent := false } s)

/-- The claim phase begins. -/
def claimBegin (s : State) : State := setPhase 1 (setStar { s.star with claimSince := s.time.now, peer := none, wakeSent := false } s)

/-- STAR_STARTED (R253). -/
def execStarStarted (s : State) : Res :=
  .next (if running s && fbState (fbOf s .STAR_STAT 0) = 1 then
    let s := fbPut .STAR_STAT 0 (fbStarted (fbOf s .STAR_STAT 0)) s
    if !isOn s .STAR_STAT 0 then s else if starCtl s 1 then claimBegin s else waitStart s
  else s)

/-- The run ends: branches OFF, no switch, no commit for one of its matrix cycles (R254, 02 R42). -/
def runEnd (s : State) : State :=
  let s := setPhase 0 (allBranches.foldl brEnd s)
  let s := if s.star.swLive then setF .STAR_MODE_STAT 0 0 2 0 0 s else s
  runCommitEnd (setStar { s.star with swLive := false, committed := none, arb := [], arbDone := [], snaps := [], snapped := [],
                                      refFrame := none, align := none } s)

/-- STAR_STOPPED (R254): a running star has completed its basic cycle. -/
def execStarStopped (s : State) : Res :=
  .next (if running s && fbState (fbOf s .STAR_STAT 0) = 3 && (!starRunning s || decide (tBc s + bcLen s ≤ now s)) then
    fbPut .STAR_STAT 0 (fbStopped (fbOf s .STAR_STAT 0)) (runEnd s)
  else s)

/-- The run to come: its mode, its matrix number, its first tick in local time (R253, R261); none after a conflict of star IDs
(R260). -/
def runNext (s : State) : Option (Nat × W32 × Nat) :=
  if bit (rd s .STAR_STAT 0 0) 16 then none
  else if runPhase s = 3 then
    let m := fld (rd s .STAR_CTRL 0 0) 5 3
    let t := rd64 s .STAR_START_LO .STAR_START_HI 0 0
    if modeValid s m then some (m, 0, if t = 0 then s.star.waitSince.toNat + 100000 else t) else none
  else if runPhase s = 2 then
    match s.star.align with
    | some (mc, m, t) => if modeValid s m then some (m, mc, t.toNat) else none
    | none => none
  else none

/-- The mode of a run that begins now, when one may begin: mode, matrix number. -/
def runDue (s : State) : Option (Nat × W32) :=
  match runNext s with
  | some (m, mc, t) => if t ≤ now s then some (m, mc) else none
  | none => none

/-- The wake patterns go out in the 20 us before the run (R253). -/
def wakeAheadOfRun (s : State) : State :=
  match runNext s with
  | some (_, _, t) => if running s && isOn s .STAR_STAT 0 && t ≤ now s + 20000 then wakeBranches s else s
  | none => s

/-- The instants of a matrix-cycle start, and source 217. -/
def matrixStart (s : State) : State :=
  raise 217 (wr64 .STAR_MC_START_LO .STAR_MC_START_HI 0 0 (tBc s) s)

/-- At T_bc the reference frame of the basic cycle goes to the peer, when the star of a pair is no SECONDARY and the ISL is up
(R261). -/
def islCopy (s : State) : State :=
  if starCtl s 1 && bit (rd s .STAR_STAT 0 0) 17 && roleOf s ≠ 2 then
    let s := ensureRef s.star.absBc s
    match s.star.refFrame with
    | some (_, l) => say (.star 24 l s.star.tbc) s
    | none => s
  else s

/-- RUN_START (R253): matrix cycle 0, or the primary's next one, begins in its mode. -/
def execRunStart (s : State) : Res :=
  .next (if !running s || !isOn s .STAR_STAT 0 then s
  else match runDue s with
    | none => s
    | some (m, mc) =>
      let s := wakeBranches s
      let s := setStar { s.star with latch := libMode s m, tbc := s.time.now, absBc := 0, branches := [], slots := [], snaps := [],
                                     snapped := [], swLive := false, committed := none, refFrame := none, align := none, arb := [],
                                     arbDone := [], eqxDone := false, eqxSeen := false } s
      let s := setF .STAR_STAT 0 0 14 12 m (setPhase 4 s)
      let s := wr .STAR_MODE_STAT 0 0 0 (wr .STAR_ACK 0 0 0 (wr .STAR_BC 0 0 0 (wr .STAR_MC_NUM 0 0 mc s)))
      islCopy (matrixStart (allBranches.foldl brBegin s)))

/-- The claim frame (R260): star ID and running flag, STAR_MC_NUM, local time. -/
def claimFrame (s : State) : List Byte :=
  starHeader 0x3FC 0 13 0 ++ [BitVec.ofNat 8 (starId s + 16 * ofBool (starRunning s))] ++ beBytes 4 (rd s .STAR_MC_NUM 0 0).toNat ++ beBytes 8 (now s)

/-- Claims are sent: in the claim phase, after a conflict, and by a running star of a pair. -/
def claiming (s : State) : Bool :=
  isOn s .STAR_STAT 0 && starCtl s 1 && (runPhase s = 1 || runPhase s = 5 || runPhase s = 4)

/-- CLAIM_SEND (R260). -/
def execClaimSend (s : State) : Res :=
  .next (if running s && claiming s then say (.star 24 (claimFrame s) s.time.now) s else s)

/-- Two stars of a pair have one ID: neither runs, and each keeps sending claims (R260); a running one leaves its running phase
(02 R42). -/
def idConflict (s : State) : State :=
  let s := if starRunning s then runEnd s else s
  raise 220 (setB .STAR_STAT 0 0 0x10000 (setPhase 1 s))

/-- A valid frame has come on the ISL: counted there (Table 9.14, STAR_CHSEL 24). -/
def islRx (s : State) : State := count32 .STAR_BR_RX_OK 0 24 s

/-- CLAIM_FRAME_RX (R260): a running star decides at once on a peer with its own ID. -/
def execClaimFrameRx (id : Fin 16) (run : Bool) (mc : W32) (t : W64) (s : State) : Res :=
  .next (if running s && isOn s .STAR_STAT 0 && starCtl s 1 then
    let s := setStar { s.star with peer := some (BitVec.ofNat 4 id, run, mc, t) } (islRx s)
    let s := setF .STAR_ID 0 0 12 12 1 (setF .STAR_ID 0 0 11 8 id s)
    if starRunning s && id.val = starId s then idConflict s else s
  else s)

/-- CLAIM_DECISION (R260): the first rule that applies. -/
def execClaimDecision (s : State) : Res :=
  .next <|
    let ms := max 1 (fld (rd s .STAR_CLAIM_CFG 0 0) 7 0)
    if !running s || !isOn s .STAR_STAT 0 || !(runPhase s = 1 || runPhase s = 5) || bit (rd s .STAR_STAT 0 0) 16 ||
        decide (now s < s.star.claimSince.toNat + ms * 1000000) then s
    else
      let again := setStar { s.star with claimSince := s.time.now } s
      match s.star.peer, bit (rd s .STAR_STAT 0 0) 17 with
      | some (id, run, _, _), up =>
        if id.toNat = starId s then idConflict s
        else if !up then (if starCtl s 2 then waitStart (setF .STAR_STAT 0 0 9 8 0 s) else setPhase 5 again)
        else if run then setPhase 2 (setF .STAR_STAT 0 0 9 8 2 s)
        else if starId s < id.toNat then waitStart (setF .STAR_STAT 0 0 9 8 1 s)
        else setPhase 2 (setF .STAR_STAT 0 0 9 8 2 s)
      | none, up =>
        if up then again else if starCtl s 2 then waitStart (setF .STAR_STAT 0 0 9 8 0 s) else setPhase 5 again

/-- A SECONDARY follows its primary's announce, COMMIT and ABORT (R261). -/
def followPrimary (x : RefCopy) (s : State) : State :=
  match x.sw.val with
  | 0 => s
  | 1 =>
    let s := if s.star.swLive then s else wr .STAR_ACK 0 0 0 s
    setModeStat 2 x.swMode (setStar { s.star with swLive := true, swMode := x.swMode, swTarget := x.target } s)
  | 2 => setModeStat 3 x.swMode (setStar { s.star with swLive := false, committed := some (x.swMode, x.target) } s)
  | _ => raise 219 (setModeStat 4 x.swMode (setStar { s.star with swLive := false, committed := none } s))

/-- STAR_ISL_OFS (R261): the primary's T_bc, as its copy comes now over a delay, minus the nearest T_bc of this star. -/
def islOffset (delay : Nat) (s : State) : Int :=
  let d : Int := ((now s : Int) - delay) - tBc s
  if 2 * d ≤ bcLen s then d else d - bcLen s

/-- SECONDARY_ALIGN (R261): a reference copy of the primary comes on the ISL, whose delay has been measured. In ALIGN the clock steps
to the primary's, and the run waits for its next matrix-cycle start; in the run the offset is held and the switch field followed. -/
def execSecondaryAlign (islDelay : Nat) (refNow : W64) (mc : W32) (x : RefCopy) (start : W64) (s : State) : Res :=
  .next (if !running s || !isOn s .STAR_STAT 0 || roleOf s ≠ 2 then s
  else
    let s := islRx (wr .STAR_BR_DELAY 0 24 (BitVec.ofNat 32 (islDelay % 4096 + 0x8000)) s)
    if runPhase s = 2 then
      setTime { s.time with now := refNow + BitVec.ofNat 64 islDelay } (setStar { s.star with align := some (mc, x.mode, start) } s)
    else if starRunning s then
      followPrimary x (wr .STAR_ISL_OFS 0 0 (BitVec.ofInt 32 (max (-(2 ^ 31)) (min (2 ^ 31 - 1) (islOffset islDelay s)))) s)
    else s)

/-- ISL_UP (R260). -/
def execIslUp (s : State) : Res := .next (if running s then setB .STAR_STAT 0 0 0x20000 s else s)

/-- ISL_DOWN (R262): source 221; a SECONDARY becomes SOLO, and one that has not begun to run claims anew (DESIGN CHOICE, log 31). -/
def execIslDown (s : State) : Res :=
  .next (if running s && bit (rd s .STAR_STAT 0 0) 17 then
    let s := raise 221 (clrB .STAR_STAT 0 0 0x20000 s)
    if roleOf s ≠ 2 then s
    else
      let s := setF .STAR_STAT 0 0 9 8 0 s
      if runPhase s = 2 then claimBegin (setStar { s.star with align := none } s) else s
  else s)

/-! ### Guardians and reception (R239-R249) -/

/-- The guardian interval of branch `n` for window `w`: open, close, and the intended arrival (R246). -/
def guardOf (s : State) (n w : Nat) : Nat × Nat × Nat :=
  let ref := tBc s + winOpen s w + delayOf s n
  (ref - preNs s, ref + winLen s w + postNs s, ref)

/-- Window `w` opens the guardian of branch `n` in the current basic cycle. -/
def guards (s : State) (n w : Nat) : Bool :=
  brState s n = 3 && !winDevice s w && (winKind s w = 1 || winKind s w = 2) && activeIn (winW s w 2) (bcNum s) && bit (winW s w 3) n

/-- The windows that open the guardian of branch `n`. -/
def guardWins (s : State) (n : Nat) : List Nat := (List.range (nwin s)).filter fun w => guards s n w

/-- The guardian of branch `n` is open at local time `t`. -/
def guardAt (s : State) (n t : Nat) : Bool :=
  (guardWins s n).any fun w => let (o, c, _) := guardOf s n w; o ≤ t && t < c

/-- GUARDIAN_OPEN (R246). -/
def execGuardianOpen (n : Fin 24) (s : State) : Res :=
  .next (if running s && starRunning s && guardAt s n (now s) then setBr n { brOf s n with guardOpen := true } s else s)

/-- GUARDIAN_CLOSE (R246). -/
def execGuardianClose (n : Fin 24) (s : State) : Res :=
  .next (if running s && !(starRunning s && guardAt s n (now s)) then setBr n { brOf s n with guardOpen := false } s else s)

/-- A frame starts inside its guardian: its start offset is measured (R249). -/
def measure (n : Nat) (start ref : Nat) (s : State) : State :=
  let ofs : Int := (start : Int) - ref
  let b := brOf s n
  let rate : Int := match b.lastMeas with
    | some (o, t) => if t.toNat < ref then (ofs - o) * 100000000 |>.tdiv (ref - t.toNat : Nat) else 0
    | none => 0
  let s := wr .STAR_BR_OFS 0 n (BitVec.ofNat 32 (BitVec.ofInt 16 (max (-32768) (min 32767 ofs))).toNat) s
  let drift := decide (2 * ofs < -(preNs s : Int)) || decide ((postNs s : Int) < 2 * ofs)
  let s := setBr n { b with lastMeas := some (ofs, BitVec.ofNat 64 ref), corr := if drift then some (ofs, rate) else none } s
  if drift then brCause n 1 s else s

/-- A frame or its cut copy goes to every other branch that is not OFF (R239, R246). -/
def repeatFrame (n : Nat) (l : List Byte) (start : Nat) (cut : Bool) (s : State) : State :=
  allBranches.foldl (fun s k =>
    if k = n || brState s k = 0 then s
    else
      let s := say (.star k l (BitVec.ofNat 64 start)) s
      if cut then say (.starCut k) s else s) s

/-- The record of a frame goes to F18, ended bad when its CRC failed (R240). -/
def starDeliver (l : List Byte) (crcOk : Bool) (stamp : W64) (s : State) : State :=
  fabWhole { port := 18, queue := none, kind := .star, bytes := l, known := some (starLen l), stamp := stamp } (!crcOk) none
    (say (.fabric 18 l (!crcOk)) s)

/-- The record of a received frame. -/
def starRecord (fr : StarRx) : List Byte :=
  leBytes 4 fr.header.toNat ++ fr.payload ++ (if bit fr.header 25 then fr.tag else [])

/-- A frame received to its end is counted: valid, or with a CRC error (R247). -/
def rxCount (n : Nat) (crcOk : Bool) (s : State) : State := if crcOk then validFrame n s else count32 .STAR_BR_RX_CRC 0 n s

/-- A branch agrees to the announced switch (R255). -/
def ackRx (n : Nat) (l : List Byte) (finish : Nat) (s : State) : State :=
  if (byteAt l 3).getLsbD 3 && s.star.swLive && rd s .STAR_MC_NUM 0 0 + 1 = s.star.swTarget &&
      decide (finish + 2500 < mcStart s + 63 * bcLen s) then setB .STAR_ACK 0 0 (oneBit n) s else s

/-- A frame in an exclusive window of its branch (R239, R240, R246). -/
def rxExclusive (n w : Nat) (fr : StarRx) (close : Nat) (s : State) : State :=
  let l := starRecord fr
  let late := decide (close ≤ fr.finish.toNat)
  let hdrEnd := fr.start.toNat + 2000
  let out := fr.start.toNat + 160
  let wrong := hdrEnd ≤ fr.finish.toNat && (starSlot l ≠ fld (winW s w 2) 13 4 || starCycle l ≠ bcNum s)
  if late && close ≤ hdrEnd then violation n .STAR_BR_VIOL_LATE (repeatFrame n l out true s)
  else if wrong then violation n .STAR_BR_VIOL_SLOT (repeatFrame n l out true s)
  else if late then violation n .STAR_BR_VIOL_LATE (repeatFrame n l out true s)
  else
    let s := repeatFrame n l out false s
    if !fr.wellFormed || starLen l = 255 then s
    else
      let s := rxCount n fr.crcOk s
      let s := if fr.crcOk then ackRx n l fr.finish.toNat s else s
      starDeliver l fr.crcOk fr.start s

/-- A frame loses arbitration (R245). -/
def loseArb (n : Nat) (valid : Bool) (s : State) : State :=
  let s := count32 .STAR_ARB_LOST 0 0 (setBr n { brOf s n with lost := true } s)
  if valid then validFrame n s else s

/-- A frame in an arbitrating window that allows its branch: its slot is compared when its header has come, whatever follows
(R244, R245). -/
def rxArbitrating (n w : Nat) (fr : StarRx) (ref : Nat) (s : State) : State :=
  let whole := fr.wellFormed && decide (starLen (starRecord fr) ≠ 255)
  if fr.finish.toNat < fr.start.toNat + 2000 then s
  else if w ∈ s.star.arbDone || ref + 2000 ≤ fr.start.toNat then loseArb n (whole && fr.crcOk) s
  else setStar { s.star with arb := s.star.arb ++ [⟨w, n, fr.start, fr.finish, fr.crcOk, whole, starRecord fr⟩] } s

/-- STAR_FRAME_RX (R239, R246). -/
def execStarFrameRx (n : Fin 24) (fr : StarRx) (s : State) : Res :=
  .next (if !running s || !starRunning s || brState s n = 0 then s
  else
    let t := fr.start.toNat
    match (guardWins s n).find? fun w => let (o, c, _) := guardOf s n w; o ≤ t && t < c with
    | some w =>
      let (_, close, ref) := guardOf s n w
      let s := measure n t ref s
      if winKind s w = 2 then rxArbitrating n w fr ref s else rxExclusive n w fr close s
    | none =>
      if (guardWins s n).any fun w => let (o, _, _) := guardOf s n w; decide (t < o) && decide (o < fr.finish.toNat) then
        violation n .STAR_BR_VIOL_EARLY s
      else if (brOf s n).outside then s
      else violation n .STAR_BR_VIOL_OUTSIDE (setBr n { brOf s n with outside := true } s))

/-- The arbitrating window of the current basic cycle whose decision has come. -/
def arbDue (s : State) : Option Nat :=
  (List.range (nwin s)).find? fun w =>
    winKind s w = 2 && activeIn (winW s w 2) (bcNum s) && w ∉ s.star.arbDone && decide (tBc s + winOpen s w + 6200 ≤ now s)

/-- The first of considered frames: lowest slot identifier, then lowest branch (R244). -/
def arbBest : List ArbFrame → Option ArbFrame
  | [] => none
  | f :: r =>
    match arbBest r with
    | none => some f
    | some g =>
      let a := starSlot f.record * 32 + f.branch
      let b := starSlot g.record * 32 + g.branch
      if a < b then some f else some g

/-- The frames considered in window `w` are decided: the first is repeated from open + 6.2 us, and is cut when its guardian closes
on it; the others have lost (R244-R246). -/
def arbDecide (w : Nat) (s : State) : State :=
  let fs := s.star.arb.filter (·.win = w)
  let s := setStar { s.star with arb := s.star.arb.filter (·.win ≠ w), arbDone := w :: s.star.arbDone } s
  match arbBest fs with
  | none => s
  | some f =>
    let s := (fs.filter (· ≠ f)).foldl (fun s g => loseArb g.branch (g.whole && g.crcOk) s) s
    let (_, close, _) := guardOf s f.branch w
    let out := tBc s + winOpen s w + 6200
    if close ≤ f.finish.toNat then violation f.branch .STAR_BR_VIOL_LATE (repeatFrame f.branch f.record out true s)
    else
      let s := repeatFrame f.branch f.record out false s
      if f.whole then starDeliver f.record f.crcOk f.start (rxCount f.branch f.crcOk s) else s

/-- ARBITRATION_DECISION (R244, R245). -/
def execArbitrationDecision (s : State) : Res :=
  .next (if !running s || !starRunning s then s
  else match arbDue s with
    | none => s
    | some w => arbDecide w s)

/-- The guardians of window `w` have closed in the current basic cycle, so that every frame it considers has been reported. -/
def arbClosed (s : State) (w : Nat) : Bool :=
  allBranches.all fun n => !(guards s n w) || (let (_, close, _) := guardOf s n w; decide (close ≤ now s))

/-- Decisions that no row has made (log 59). -/
def arbSettle (all : Bool) (s : State) : State :=
  (List.range (nwin s)).foldl (fun s w =>
    if winKind s w = 2 && activeIn (winW s w 2) (bcNum s) && w ∉ s.star.arbDone && (all || arbClosed s w) &&
        decide (tBc s + winOpen s w + 6200 ≤ now s) then arbDecide w s else s) s

/-! ### The next basic cycle (R256, R257) -/

/-- BASIC_CYCLE_START (R257): changes due at T_bc, and at a matrix-cycle start the Solstice switch, the mode switch and the
latch (R256). -/
def execBasicCycleStart (s : State) : Res :=
  .next (if !running s || !starRunning s || !isOn s .STAR_STAT 0 || decide (now s < tBc s + bcLen s) || bcLen s = 0 then s
  else
    let a := s.star.absBc + 1
    let s := ensureRef a (arbSettle true s)
    let bc := (bcNum s + 1) % 64
    let s := allBranches.foldl brAtBc s
    let s := setStar { s.star with tbc := s.star.tbc + BitVec.ofNat 64 (bcLen s), absBc := a, snaps := [], snapped := [], arb := [],
                                   arbDone := [], eqxDone := false } s
    let s := wr .STAR_BC 0 0 (BitVec.ofNat 32 bc) s
    if bc ≠ 0 then islCopy s
    else
      let mc := rd s .STAR_MC_NUM 0 0 + 1
      let s := solstice (wr .STAR_MC_NUM 0 0 mc s)
      let committed := s.star.committed.map (·.2) = some mc
      let m := modeFor s mc
      let s :=
        if !committed then s
        else
          let s := setStar { s.star with committed := none } s
          if modeValid s m then raise 218 (setF .STAR_STAT 0 0 14 12 m s) else raise 219 s
      let s := if modeValid s (curMode s) then setStar { s.star with latch := libMode s (curMode s) } s else s
      islCopy (matrixStart s))

/-! ### Slot buffers and device windows (R241-R243) -/

/-- SLOT_BUFFER_WRITE (R241). -/
def execSlotBufferWrite (rec_ : List Byte) (s : State) : Res := .next (if running s then slotWrite rec_ s else s)

/-- A device window is active now. -/
def deviceNow (s : State) (w : Nat) : Bool :=
  starRunning s && w < nwin s && winDevice s w && activeIn (winW s w 2) (bcNum s)

/-- SLOT_SNAPSHOT (R241-R243): empty bytes stand for a frame whose tag crypto did not give. -/
def execSlotSnapshot (w : Fin 64) (s : State) : Res :=
  .next (if !running s || !deviceNow s w || w.val ∈ s.star.snapped || decide (now s + 10000 < tBc s + winOpen s w) then s
  else
    let s := setStar { s.star with snapped := w.val :: s.star.snapped } s
    match nmFind s.star.slots (fld (winW s w 2) 13 4) with
    | none => s
    | some b =>
      let stale := b.written + 2 < s.star.absBc
      let n := starLen b.record
      let flags := (byteAt b.record 3 &&& 0xF9) ||| (if stale then 4 else 0)
      let l := [byteAt b.record 0, (byteAt b.record 1 &&& 0xC0) ||| BitVec.ofNat 8 (bcNum s), byteAt b.record 2, flags] ++ slice b.record 4 n
      if !bit (winW s w 2) 3 then setStar { s.star with snaps := nmPut s.star.snaps w l } s
      else
        let (st, t, s) := tagRecord (fld (winW s w 2) 31 24) userHw l 0 (BitVec.ofNat 64 (tBc s + winOpen s w)) s
        setStar { s.star with snaps := nmPut s.star.snaps w (if st = crOk then t else []) } s)

/-- DEVICE_FRAME_SEND (R241, R243). -/
def execDeviceFrameSend (w : Fin 64) (s : State) : Res :=
  .next (if !running s || !deviceNow s w || decide (now s < tBc s + winOpen s w) then s
  else match nmFind s.star.snaps w with
    | none => s
    | some l =>
      let s := setStar { s.star with snaps := nmErase s.star.snaps w } s
      if l.isEmpty then count32 .STAR_SLOT_DROP 0 0 s
      else
        let s := if (byteAt l 3).getLsbD 2 then count32 .STAR_STALE_CNT 0 0 s else s
        allBranches.foldl (fun s n => if brState s n = 0 then s else say (.star n l (BitVec.ofNat 64 (tBc s + winOpen s w))) s) s)

/-! ### Echo measurement (R250) -/

/-- An echo request of branch `n` is due: in LISTEN and MEASURE (R250), and requests continue to reach an isolated node (R247). -/
def echoDue (s : State) (n : Nat) : Bool :=
  starRunning s && (brState s n = 1 || brState s n = 2 || brState s n = 4) && decide ((brOf s n).echoBc < s.star.absBc + 1) &&
    (match firstFree s with
     | some o => decide (tBc s + o ≤ now s)
     | none => false)

/-- ECHO_REQUEST_SEND (R250): at the beginning of the first free interval. -/
def execEchoRequestSend (n : Fin 24) (s : State) : Res :=
  .next (if running s && echoDue s n then
    say (.star n (starHeader 0x3FE (bcNum s) 0 0) (BitVec.ofNat 64 (tBc s + (firstFree s).getD 0)))
      (setBr n { brOf s n with echoBc := s.star.absBc + 1, echoWait := true } s)
  else s)

/-- Eight values are judged (R250): the sum of twice the delays. -/
def echoSet (n : Nat) (vs : List Int) (s : State) : State :=
  let sum := vs.foldl (· + ·) 0
  let hi := vs.foldl max (vs.headD 0)
  let lo := vs.foldl min (vs.headD 0)
  let b : Branch := { brOf s n with echoes := [] }
  if hi - lo ≤ 40 && 0 ≤ sum && sum ≤ 32000 then
    wr .STAR_BR_DELAY 0 n (BitVec.ofNat 32 (0x8000 + ((sum + 8) / 16).toNat)) (setBr n { b with badSets := 0, due := 3 } s)
  else if b.badSets + 1 < 3 then setBr n { b with badSets := b.badSets + 1 } s
  else setBrState n 1 (brCause n 4 (setBr n { b with badSets := 0 } s))

/-- ECHO_RESPONSE_RX (R250). -/
def execEchoResponseRx (n : Fin 24) (roundTrip turnaround : Nat) (valid : Bool) (s : State) : Res :=
  .next (if !running s || !starRunning s || !(brState s n = 1 || brState s n = 2) then s
  else
    let s := if valid then count32 .STAR_BR_RX_OK 0 n s else count32 .STAR_BR_RX_CRC 0 n s
    let b := brOf s n
    if !valid || 10000 < turnaround || !b.echoWait || b.due ≠ 0 then s
    else
      let s := if brState s n = 1 then setBrState n 2 s else s
      let vs := b.echoes ++ [(roundTrip : Int) - turnaround]
      let s := setBr n { b with echoes := vs, echoWait := false } s
      if vs.length < 8 then s else echoSet n vs s)

/-! ### Branch control (R247, R248, R251) -/

/-- A later due change takes the place of a weaker one. -/
def brDue (n k : Nat) (s : State) : State := setBr n { brOf s n with due := max (brOf s n).due k } s

/-- A branch enabled in the middle of a basic cycle: its first reference frame is that of the next one, and the echo request of
the current one is left out when its instant has passed (R238, R250). -/
def brJoin (n : Nat) (s : State) : Branch :=
  let past := match firstFree s with
    | some o => decide (tBc s + o ≤ now s)
    | none => false
  { freshEchoes (brOf s n) with
    refBc := s.star.absBc + 1, echoBc := if past then s.star.absBc + 1 else (brOf s n).echoBc }

/-- A write of STAR_BR_CTRL of branch `n`; the ISL takes none. -/
def starBrWrite (n : Nat) (v : W32) (s : State) : State :=
  if 24 ≤ n then s
  else
    let old := rd s .STAR_BR_CTRL 0 n
    let s := plainWrite .STAR_BR_CTRL 0 n v s
    if !starRunning s then s
    else
      let s := if bit v 0 && !bit old 0 && brState s n = 0 then
          let s := wr .STAR_BR_DELAY 0 n 0 (setBr n (brJoin n s) s)
          if bit v 1 then isolate n s else setBrState n 1 s
        else s
      let s :=
        if bit v 1 && !bit old 1 then
          (if brState s n = 0 || brState s n = 4 then setBr n { brOf s n with due := 0 } s else isolate n s)
        else if !bit v 1 && bit old 1 && brState s n = 4 then brDue n 1 s
        else s
      let s := if bit v 2 && brState s n = 4 && !bit v 1 then brDue n 2 s else s
      if bit v 3 && (brState s n = 3 || brState s n = 4) then brDue n 4 s else s

/-- One write of STAR_BR_CTRL by a master, when it asks for what its row names. -/
def brCtrlRow (ok : Bool) (m : Fin 64) (v : W32) (s : State) : Res :=
  .next (if ok then withWrite m .STAR_BR_CTRL 0 v (fun s => starBrWrite (chanOf .STAR_BR_CTRL m s) v s) s else s)

/-- BRANCH_ENABLE (R251). -/
def execBranchEnable (m : Fin 64) (v : W32) (s : State) : Res := brCtrlRow (bit v 0) m v s
/-- BRANCH_DISABLE (R251). -/
def execBranchDisable (m : Fin 64) (v : W32) (s : State) : Res := brCtrlRow (!bit v 0) m v s
/-- BRANCH_READMIT (R247). -/
def execBranchReadmit (m : Fin 64) (v : W32) (s : State) : Res := brCtrlRow (bit v 2) m v s
/-- BRANCH_REMEASURE (R251). -/
def execBranchRemeasure (m : Fin 64) (v : W32) (s : State) : Res := brCtrlRow (bit v 3) m v s
/-- BRANCH_QUAR_SET (R248). -/
def execBranchQuarSet (m : Fin 64) (v : W32) (s : State) : Res := brCtrlRow (bit v 1) m v s
/-- BRANCH_QUAR_CLEAR (R248). -/
def execBranchQuarClear (m : Fin 64) (v : W32) (s : State) : Res := brCtrlRow (!bit v 1) m v s

/-! ### Equinox (R258, R259) -/

/-- The latched mode has an Equinox in basic cycle `bc`. -/
def eqxIn (s : State) (bc : Nat) : Bool :=
  bit (hdrW s 1) 31 && (bit (hdrW s 1) 30 || fld (hdrW s 1) 29 24 = bc)

/-- The Equinox of the current basic cycle has come. -/
def eqxDue (s : State) : Bool :=
  starRunning s && eqxIn s (bcNum s) && !s.star.eqxDone && decide (tBc s + fld (hdrW s 1) 23 0 ≤ now s)

/-- The Equinox frame of channel `c` (R258, R259). -/
def eqxFrame (c t : Nat) (s : State) : State :=
  let id := rd s .STAR_EQX_CANID 0 0
  if isOn s .CAN_STAT c && busOf s c = 0 then
    schedule c (leBytes 4 (fld id 29 0) ++ leBytes 4 (c + 8 * 2 ^ 16 + 8 * 2 ^ 28) ++ List.replicate 8 0 ++ beBytes 8 t) s.time.now s
  else count32 .CAN_SYNC_SKIP 0 c s

/-- EQUINOX (R258). -/
def execEquinox (s : State) : Res :=
  .next (if !running s || !eqxDue s then s
  else
    let t := tBc s + fld (hdrW s 1) 23 0
    let s := raise 216 (wr64 .STAR_EQX_LAST_LO .STAR_EQX_LAST_HI 0 0 t (setStar { s.star with eqxDone := true, eqxSeen := true } s))
    let s := [0, 1, 2, 3].foldl (fun s k =>
      let c := rd s .TIME_EQXOUT_CFG k 0
      if bit c 0 && fld c 31 16 = 0 then eqxPinStart k (BitVec.ofNat 64 t) s else s) s
    if bit (rd s .STAR_EQX_CANID 0 0) 31 then
      (List.range 32).foldl (fun s c => if bit (rd s .STAR_EQX_CAN 0 0) c then eqxFrame c t s else s) s
    else s)

/-- Equinox instants of the last, this and the next basic cycle. -/
def eqxNear (s : State) : List Int :=
  if !starRunning s then []
  else
    let o : Int := fld (hdrW s 1) 23 0
    let t : Int := tBc s
    let n : Int := bcLen s
    (if eqxIn s ((bcNum s + 63) % 64) && 0 < s.star.absBc then [t - n + o] else []) ++
      (if eqxIn s (bcNum s) then [t + o] else []) ++ (if eqxIn s ((bcNum s + 1) % 64) then [t + n + o] else [])

/-- EQX_OUT pulses with an offset begin as local time passes the instant plus the offset (R85); `before` is the time of the
last tick. -/
def eqxPins (before : Nat) (s : State) : State :=
  [0, 1, 2, 3].foldl (fun s k =>
    let c := rd s .TIME_EQXOUT_CFG k 0
    let ofs := sfld16 c 16
    if !(bit c 0 && ofs ≠ 0) then s
    else
      match (eqxNear s).find? fun t => (before : Int) < t + ofs && t + ofs ≤ (now s : Int) with
      | some t => eqxPinStart k (BitVec.ofInt 64 (t + ofs)) s
      | none => s) s

/-- Equinox instants still to come, as far ahead as the matrix of the latched mode reaches (R258). -/
def eqxAhead (s : State) : List Int :=
  if !starRunning s then []
  else
    ((List.range 65).filter fun k => eqxIn s ((bcNum s + k) % 64)).filterMap fun k =>
      let t := tBc s + k * bcLen s + fld (hdrW s 1) 23 0
      if now s < t then some (t : Int) else none

/-- An instant nearest to a stamp. -/
def nearest (stamp : Int) : List Int → Option Int
  | [] => none
  | a :: r =>
    match nearest stamp r with
    | none => some a
    | some b => if (stamp - a).natAbs ≤ (stamp - b).natAbs then some a else some b

/-- EQX_IN_EDGE (03 R86, R258): an accepted edge is compared with the nearest Equinox instant. -/
def execEqxInEdge (stamp : W64) (s : State) : Res :=
  .next (if running s && bit (rd s .TIME_CTRL 0 0) 3 then
    if guardPassed s.time.eqxLast (fld (rd s .TIME_PPSIN_GUARD 0 0) 19 10) stamp then
      let s := raise 319 (wr64 .TIME_EQXIN_LO .TIME_EQXIN_HI 0 0 stamp.toNat (setTime { s.time with eqxLast := some stamp } s))
      let seen : List Int := if s.star.eqxSeen then [(rd64 s .STAR_EQX_LAST_LO .STAR_EQX_LAST_HI 0 0 : Nat)] else []
      match starCtl s 6, nearest stamp.toNat (seen ++ eqxAhead s) with
      | true, some t =>
        let d : Int := (stamp.toNat : Int) - t
        wr .STAR_EQX_DIFF 0 0 (BitVec.ofInt 32 (max (-(2 ^ 31)) (min (2 ^ 31 - 1) d))) s
      | _, _ => s
    else pinReject s
  else s)

/-! ### Wake (R264) -/

/-- STAR_WAKE_PATTERN (R264): B0-B3 watch while the star is OFF. -/
def execStarWakePattern (n : Fin 4) (s : State) : Res :=
  .next (if isOff s .STAR_STAT 0 && bit (rd s .STAR_WAKE_CFG 0 0) n && s.pwr.st ≠ .off then
    let s := setB .STAR_WAKE_STAT 0 0 (oneBit n) s
    if running s then brCause n 5 s else s
  else s)

end Sys2Proof.Machine
end

