-- ==== Sys2Proof/Machine/Wake.lean ====
section
/-! DEFINITION. Wake rules of the policy (13 R355, R356, Table 13.5). -/

namespace Sys2Proof.Machine

/-- The framework runs: the policy core is ON. -/
def fwRuns (s : State) : Bool := running s && fbState s.pol.th.fb = 2

/-- The valid rules that a trigger fires. -/
def wakeRules (s : State) (trigger index : Nat) : List (List W32) :=
  ((List.range 64).map (tbl s 15)).filter fun e =>
    bit (wordAt e 0) 31 && fld (wordAt e 0) 2 0 = trigger && fld (wordAt e 0) 12 4 = index

/-- The envelope lets the framework make a register write. -/
def mayGovern (r : Reg) (c : Nat) (v : W32) (s : State) : Bool :=
  let (a, scope, bound) := governs r c v s
  (envCheck a scope bound s).isNone

/-- A governed write of the framework to a channel's register; its channel select is set first (R373). -/
def fwWriteAt (sel r : Reg) (c : Nat) (v : W32) (k : State → State) (s : State) : State :=
  withWrite 3 r 0 v k (wr sel 0 3 (BitVec.ofNat 32 c) s)

/-- CAN_SLEEP of a channel with a request. -/
def sleepWord (s : State) (c req : Nat) : W32 := putFld (rd s .CAN_SLEEP 0 c) 1 0 req

/-- A channel is woken by rules, the longest of whose holds is kept; 0 is never (R355). -/
def wakeChannel (hold c : Nat) (s : State) : State :=
  let v := sleepWord s c 2
  let ok := mayGovern .CAN_SLEEP c v s
  let s := fwWriteAt .CAN_CHSEL .CAN_SLEEP c v (sleepWrite c v) s
  if ok then { s with pol := { s.pol with wakeHold := nmSet (0, 0) s.pol.wakeHold c (hold, s.time.now) } } else s

/-- A branch is enabled by rules. -/
def wakeBranch (n : Nat) (s : State) : State :=
  let v := rd s .STAR_BR_CTRL 0 n ||| 1
  fwWriteAt .STAR_CHSEL .STAR_BR_CTRL n v (starBrWrite n v) s

/-- The longest hold of rules in seconds, 0 when one of them is never. -/
def longestHold (l : List Nat) : Nat := if 0 ∈ l then 0 else l.foldl max 0

/-- Rules apply: BUS actions for the union of their channels, then BRANCH actions (R355, R356). -/
def wakeApply (rs : List (List W32)) (s : State) : State :=
  let s := (List.range 32).foldl (fun s c =>
    match rs.filter fun e => bit (wordAt e 1) c with
    | [] => s
    | l => wakeChannel (longestHold (l.map fun e => fld (wordAt e 3) 15 0)) c s) s
  (List.range 24).foldl (fun s n => if rs.any fun e => bit (wordAt e 2) n then wakeBranch n s else s) s

/-- The event source of a wake source (Table 17.14). -/
def wakeSource (k : Nat) : Nat := if k < 12 then 12 else if k < 16 then 315 + (k - 12) else if k = 16 then 13 else 14

/-- The triggers that the recorded wake cause stands for: a channel, a branch, a pin, and the source that an enabled one fired. -/
def causeTriggers (s : State) : List (Nat × Nat) :=
  ((List.range 19).flatMap fun k =>
    if !bit (rd s .CLK_WAKE_CAUSE 0 0) k then []
    else (if k < 8 then [(1, k)] else if k < 12 then [(2, k - 8)] else if k < 16 then [(3, k - 12)] else []) ++
      (if bit (rd s .CLK_WAKE_EN 0 0) k then [(4, wakeSource k)] else [])).dedup

/-- A Thaw or a cold boot: the rules of the recorded wake cause are due. -/
def causeDue (s : State) : State := { s with pwr := { s.pwr with causeDue := true } }

/-- The framework applies them before it takes any other action (R355). -/
def causeApply (s : State) : State :=
  if !s.pwr.causeDue || !fwRuns s then s
  else wakeApply ((causeTriggers s).flatMap fun x => wakeRules s x.1 x.2) { s with pwr := { s.pwr with causeDue := false } }

end Sys2Proof.Machine
end

