-- ==== Sys2Proof/Machine/Boot.lean ====
section
/-! DEFINITION. Boot, software-level restarts from step 2 on, the framework's start, firmware update, watchdogs, and the
policy core's enable, load and envelope (02 R452; 13 R346-R347, R371; 14 R376-R383; 17 R422-R436). -/

namespace Sys2Proof.Machine

/-! ### The policy core as a function block (13 R346, R347) -/

/-- A write of POL_CTRL. -/
def polCtrlWrite (v : W32) (s : State) : State :=
  let s := plainWrite .POL_CTRL 0 0 v s
  if bit v 0 then setTh 96 { s.pol.th with fb := enableHeld s s.pol.th.fb } s else thStop 96 s

/-- POL_ENABLE (R346). -/
def execPolEnable (m : Fin 64) (v : W32) (s : State) : Res :=
  .next (if bit v 0 then withWrite m .POL_CTRL 0 v (polCtrlWrite v) s else s)

/-- POL_DISABLE (R346). -/
def execPolDisable (m : Fin 64) (v : W32) (s : State) : Res :=
  .next (if bit v 0 then s else withWrite m .POL_CTRL 0 v (polCtrlWrite v) s)

/-- Words written into the policy core's instruction memory (space 0) or data memory; their errors end. -/
def polMemWrite (space off : Nat) (ws : List W32) (s : State) : State :=
  let k := if space = 0 then off / 4 else polDWord off
  let st := s.stores
  singleEnd (2 ^ 21 + k) ws.length
    { s with stores := if space = 0 then { st with polI := memWriteN st.polI off (bytesOfWords ws) }
                       else { st with polD := memWriteN st.polD off (bytesOfWords ws) },
             pol := { s.pol with poison := s.pol.poison.filter fun w => w < k || k + ws.length ≤ w } }

/-- Parameters of POL_LOAD out of range (R347). -/
def polLoadBad (w : List W32) : Bool :=
  let space := cmdByte w 8
  let off := (wordAt w 3).toNat
  let len := (wordAt w 4).toNat
  1 < space || off % 4 ≠ 0 || len % 4 ≠ 0 || len < 4 || (if space = 0 then 0x80000 else 0x200000) < off + len

/-- POL_LOAD (R347). -/
def execPolLoad (ring : Fin 10) (slot : Nat) (data : List W32) (s : State) : Res :=
  .next (startCmd ring slot 0x38 polLoadBad (fun c w s =>
    let space := cmdByte w 8
    let off := (wordAt w 3).toNat
    let len := (wordAt w 4).toNat
    let go := bit (wordAt w 7) 0
    if s.pol.th.fb ≠ 0 || (go && levelsBlocked s) then complete c stBusy 0 s
    else
      let s := polMemWrite space off (hostWords (len / 4) false data) s
      if !go then complete c stOk 0 s
      else
        let s := wr .POL_START_SP 0 0 (wordAt w 9) (plainWrite .POL_START_PC 0 0 (wordAt w 8) s)
        polCtrlWrite 1 { s with pol := { s.pol with loadCmd := some c } }) s)

/-- STARTING of the policy core: its registers, MODE, exception enables, timer, PC and g29 (R346). -/
def polInit (s : State) : State :=
  let h := { s.pol.th with g := [], lk := 0, lvalid := false, sdepth := 0, ldepth := 0, loops := Thread.clear.loops, ov := false,
                           dz := false, faultCode := 0, pc := pcMask 96 (rd s .POL_START_PC 0 0), wait := .none }
  { s with pol := { s.pol with th := gW 29 (rd s .POL_START_SP 0 0) h, mode := 3, excEn := 0, tmrNext := none } }

/-! ### The framework's start of the instances (14 R376, R377, R381-R383) -/

/-- Engines per instance (Table 14.1); other codes are user firmware. -/
def instEngines (code : Nat) : Option Nat := if code = 3 || code = 11 then some 2 else if 1 ≤ code && code ≤ 12 then some 1 else none

/-- The engines of an entry, and its banks. -/
def plEngines (p : Placement) : List Nat := (List.range p.engines).map (p.engine + ·)
/-- The banks of the entry's process image. -/
def plBanks (p : Placement) : List Nat := (List.range p.banks).map (p.bank + ·)

/-- The envelope lets the policy core act on engine `e` (action ENGINES). -/
def envEngine (s : State) (e : Nat) : Bool := bit (envW s 13 0) 0 && bit (envW s 13 3) e

/-- A bank that the instance's engine holds already, or that the policy core can hand to it under the envelope (R377). -/
def plBankOk (s : State) (p : Placement) (b : Nat) : Bool :=
  b < 384 && ((bankOf s b).owner = BitVec.ofNat 8 (16 + p.engine) ||
    ((bankOf s b).owner = 2 && bit (envW s 10 0) 0 && inRange s 10 b))

/-- An entry agrees with R376, overlaps no other, and its banks can be handed over (R377). -/
def plOk (s : State) (i : Nat) (p : Placement) : Bool :=
  let apart (q : Placement) : Bool :=
    (plEngines p).all (· ∉ plEngines q) && (plBanks p).all (· ∉ plBanks q)
  1 ≤ p.engines && p.engine + p.engines ≤ 24 && (match instEngines p.code with
    | some n => p.engines = n
    | none => 0x80 ≤ p.code) &&
  (p.pio = 15 || (p.pio < 12 && p.engine / 2 = p.pio)) &&
  (plBanks p).all (plBankOk s p) &&
  (List.range s.pol.placement.length).all fun j => j = i || (match s.pol.placement[j]? with
    | some q => apart q
    | none => true)

/-- Every point of a process image carries invalid until its first update (R381, R383, Tables 14.6, 14.7). -/
def invalidate (p : Placement) (s : State) : State :=
  let base := p.bank * 0x40000
  let n := min (ofLe (memReadN s.stores.shared (base + 2) 2)) ((p.banks * 0x40000 - 64) / 16)
  setShared ((List.range n).foldl (fun m i =>
    let a := base + 64 + 16 * i + 5
    memWrite m a (memRead m a ||| 1)) s.stores.shared) s

/-- Word 0 of an instance's status block. -/
def statusWord (p : Placement) (state : Nat) : W32 := BitVec.ofNat 32 (p.code % 256 + p.inst % 256 * 256 + state * 65536)

/-- The framework reports an instance's state. -/
def plReport (i : Nat) (p : Placement) (state : Nat) (s : State) : State :=
  { s with pol := { s.pol with reports := nmSet [] s.pol.reports i [statusWord p state] } }

/-- A bank belongs to the instance's engine, its handover over. -/
def plHolds (p : Placement) (s : State) (b : Nat) : Bool :=
  (bankOf s b).owner = BitVec.ofNat 8 (16 + p.engine) && (bankOf s b).pend.isNone

/-- The framework starts the handover of a bank to the instance's engine, as the policy core's write of MEM_OWN (R377, 04 R99;
02 R60: no ownership changes without one). -/
def plHand (p : Placement) (b : Nat) (s : State) : State :=
  if plHolds p s b then s
  else memOwnWrite 3 (BitVec.ofNat 32 (2 ^ 31 + (16 + p.engine) * 65536)) (wr .MEM_CHSEL 0 3 (BitVec.ofNat 32 b) s)

/-- A placed instance: the handovers of its banks start, or its state is PLACEMENT. -/
def placeInstance (s : State) (i : Nat) : State :=
  match s.pol.placement[i]? with
  | none => s
  | some p =>
    if !plOk s i p then plReport i p 5 s
    else
      let s := (plBanks p).foldl (fun s b => plHand p b s) s
      if (plBanks p).any fun b => countedOwner (bankOf s b) ≠ BitVec.ofNat 8 (16 + p.engine) then plReport i p 5 s
      else { s with pwr := { s.pwr with starting := s.pwr.starting ++ [i] } }

/-- A placed instance whose banks are handed over starts: its map doorbell, its image, its threads, its connections begun anew
(R375, R377, R382, R383). -/
def startInstance (s : State) (i : Nat) : State :=
  match s.pol.placement[i]? with
  | none => { s with pwr := { s.pwr with starting := s.pwr.starting.filter (· ≠ i) } }
  | some p =>
    if !(plBanks p).all (plHolds p s) then s
    else
      let s := { s with pwr := { s.pwr with starting := s.pwr.starting.filter (· ≠ i) },
                        pol := { s.pol with conns := s.pol.conns.filter (·.1 / 16 ≠ i), refused := nmErase s.pol.refused i } }
      let s := if bit (rd s .MBX_BIND_LOCK 0 0) 0 then s
        else wr .MBX_BIND 0 p.doorbell (BitVec.ofNat 32 (2 ^ 31 + (8 + p.engine) * 256 + p.sender)) s
      let s := invalidate p s
      let s := (plEngines p).foldl (fun s e =>
        if envEngine s e then [0, 1, 2, 3].foldl (fun s k => thEnable true (4 * e + k) s) s else s) s
      plReport i p 1 s

/-- The 24-bit words of a PIO program section, one in every four bytes. -/
def pioWords (l : List Byte) : List (BitVec 24) := ((wordsOfBytes (min 64 (l.length / 4)) l)).map (·.setWidth 24)

/-- A PIO block whose program section differs from what it runs is reloaded: halt and restart, write, start (10 Table 10.4). -/
def pioReload (b : Nat) (ws : List (BitVec 24)) (s : State) : State :=
  if (List.range ws.length).all fun a => pioWord s b a = ws.getD a 0 then s
  else
    let on := [0, 1, 2, 3].filter fun m => (smOf s b m).running
    let s := [0, 1, 2, 3].foldl (fun s m => smRestart b m (smRun b m false s)) s
    let s := (List.range ws.length).foldl (fun s a => pioImemWrite b a ((ws.getD a 0).setWidth 32) s) s
    on.foldl (fun s m => smRun b m true s) s

/-- A section of the image reaches its engines or its PIO block, under the envelope (R424 step 3). -/
def loadSection (s : State) (x : Nat × Nat × List Byte) : State :=
  let (kind, dest, l) := x
  let ws := wordsOfBytes ((l.length + 3) / 4) l
  let each (f : Nat → State → State) : State :=
    (List.range 24).foldl (fun s e => if dest / 2 ^ e % 2 = 1 && envEngine s e then f e s else s) s
  match kind with
  | 3 => each fun e s => engIWrite e 0 (ws.take 0x4000) s
  | 4 => each fun e s => engLWrite e 0 (ws.take 0x8000) s
  | 5 => if dest % 16 < 12 && bit (envW s 14 0) 0 && bit (envW s 14 3) 13 then pioReload (dest % 16) (pioWords l) s else s
  | _ => s

/-- The framework loads the engines and PIO blocks from the image and places the instances (R424 step 3, R383). -/
def frameworkStart (s : State) : State :=
  let s := s.pwr.sections.foldl loadSection s
  let s := { s with pwr := { s.pwr with sections := [], placePending := false, starting := [] } }
  (List.range s.pol.placement.length).foldl placeInstance s

/-! ### The stored configuration set (02 R452) -/

/-- Owners of banks as a configuration set names them. -/
def ownersTake (l : List (Nat × W32)) (s : State) : State :=
  l.foldl (fun s (b, v) =>
    if b < 384 then setBank b { bankOf s b with owner := v.setWidth 8, del0 := (v >>> 8).setWidth 3, del1 := (v >>> 11).setWidth 3 } s else s) s

/-- Event routes that a configuration set names (02 R52). -/
def routesTake (l : List (Nat × W32)) (s : State) : State :=
  l.foldl (fun s (k, v) => if k < 320 then plainWrite .EVT_ROUTE k 0 v s else s) s

/-- The entries of a configuration set over another set. -/
def entriesOver (l : List (Nat × Nat × List W32)) (t : NMap (List W32)) : NMap (List W32) :=
  l.foldl (fun t (id, i, e) => if i < tblCount id then putEntry id i (e.take (tblWords id)) t else t) t

/-- The framework stages the stored set, checks it (source 33), and arms its commit for the next microsecond of R40; a set that
fails is discarded as by CFG_ABORT (02 R452, R41, R48; DESIGN CHOICE, log 42). -/
def storedStage (c : ConfigSet) (s : State) : State :=
  let new := entriesOver c.entries s.cfg.shadow
  let s := raise 33 { s with pwr := { s.pwr with storedSet := none } }
  if (setCheck s new).isSome then { s with cfg := { s.cfg with shadow := s.cfg.active, stager := none, check := none } }
  else
    let s := routesTake c.routes { s with cfg := { s.cfg with shadow := new, stager := some 3, check := some s.time.now } }
    arm none (some (BitVec.ofNat 64 (nextMicro s (now s)))) none s

/-- The framework's own commit is armed. -/
def storedArmed (s : State) : Bool := s.cfg.armed.any (·.cmd.isNone)

/-- The framework at work, the core being ON: the stored set, once no other identity stages or has a commit armed (R37, R43);
then the placed instances, as their banks are theirs; then ready (17 R431). -/
def fwAdvance (s : State) : State :=
  if fbState s.pol.th.fb ≠ 2 then s
  else
    match s.pwr.storedSet with
    | some c => if s.cfg.armed.isNone && s.cfg.stager.isNone then storedStage c s else s
    | none =>
      if storedArmed s then s
      else
        let s := if s.pwr.placePending then frameworkStart s else s
        let s := s.pwr.starting.foldl startInstance s
        if s.pwr.starting.isEmpty && s.pwr.booted then setB .GLB_STAT 0 0 1 s else s

/-- The policy core is ON: it ends a restart interval and starts the watchdogs (01 R15, 17 R423). -/
def polOn (s : State) : State :=
  let p := s.pwr
  let t : W64 := BitVec.ofNat 64 s.ticks
  { s with pwr := { p with restarting := false, wdt3At := some (p.wdt3At.getD t), wdt4At := some (p.wdt4At.getD t) } }

/-- The policy core leaves STARTING initialised, and POL_LOAD completes (R346, R347); with a disable pending it stops at once. -/
def polStarted (s : State) : State :=
  if fbState s.pol.th.fb ≠ 1 then s
  else
    let s := polInit s
    let s := setTh 96 { s.pol.th with fb := fbStarted s.pol.th.fb } s
    let s := if fbState s.pol.th.fb = 2 then polOn s else s
    match s.pol.loadCmd with
    | some c => complete c stOk 0 { s with pol := { s.pol with loadCmd := none } }
    | none => s

/-- The policy core reaches OFF once its accesses have completed (R346). -/
def polStopped (s : State) : State :=
  let h := s.pol.th
  if fbState h.fb = 3 && h.ops.isEmpty then setTh 96 { h with fb := stoppedHeld s h.fb } s else s

/-! ### Loading a slot (17 R428-R430) -/

/-- A little-endian word of a byte list. -/
def le32 (l : List Byte) (i : Nat) : W32 := BitVec.ofNat 32 (ofLe (slice l i 4))

/-- Bytes written into the boot area. -/
def areaWrite (l : List Byte) (s : State) : State :=
  let a := s.pwr.ctl.areaBank * 0x40000
  let keep (w : Nat) : Bool := w < a / 8 || (a + l.length + 7) / 8 ≤ w
  setShared (memWriteN s.stores.shared a l)
    { s with mem := { s.mem with poison := s.mem.poison.filter keep, single := s.mem.single.filter keep } }

/-- A section entry of an SZF header: type, offset, length, destination (Table 17.8). -/
def sectionAt (h : List Byte) (k : Nat) : Nat × Nat × Nat × Nat :=
  (fld (le32 h (0x100 + 16 * k)) 7 0, (le32 h (0x104 + 16 * k)).toNat, (le32 h (0x108 + 16 * k)).toNat, fld (le32 h (0x10C + 16 * k)) 23 0)

/-- The section table of a header. -/
def sectionsOf (h : List Byte) : List (Nat × Nat × Nat × Nat) := (List.range (fld (le32 h 0x18) 5 0)).map (sectionAt h)

/-- Step 1 of R429: the first failing check of the header. -/
def headerBad (s : State) (h : List Byte) : Option Nat :=
  let len := (le32 h 0x14).toNat
  let n := fld (le32 h 0x18) 5 0
  if le32 h 0 ≠ 0x31465A53 || fld (le32 h 4) 31 16 ≠ 4096 then some 1
  else if fld (le32 h 8) 23 0 ≠ 0xC50024 then some 2
  else if fld (le32 h 0xC) 6 0 < s.pwr.otp.toNat then some 3
  else if n = 0 || 32 < n || len % 16 ≠ 0 || s.pwr.ctl.areaCount * 0x40000 < len ||
      (sectionsOf h).any (fun x => len < x.2.1 + x.2.2.1) then some 7
  else none

/-- The image key (R429 step 4). PRESUMED: SP 800-108 with an 8-bit counter, no label, a zero byte, the context and the length in
bits in 32 bits (log 41). -/
def imageKey (h : List Byte) : List Byte := cmacDerive (leBytes 32 Config.deviceKey.toNat) (0 :: slice h 0x20 16 ++ beBytes 4 256) 2

/-- The plaintext of an image, when its tag checks (R429 step 4). -/
def imagePlain (h cipher : List Byte) : Option (List Byte) :=
  let key := imageKey h
  let iv := slice h 0x40 12
  if gcmTag key iv (h.take 0x40) cipher = slice h 0x50 16 then some (gcmText key iv cipher) else none

/-- A slot is checked, read into the boot area, verified and decrypted there (R429): the plaintext, or the reason. -/
def slotLoad (i : SlotImage) (s : State) : Except Nat (List Byte) × State :=
  let h := i.bytes.take 4096
  if i.readError || i.bytes.length < 4096 then (.error 8, s)
  else
    match headerBad s h with
    | some r => (.error r, s)
    | none =>
      let key := slice h 0x300 97
      let idx := fld (le32 h 0xC) 9 8
      let len := (le32 h 0x14).toNat
      if s.pwr.revoked.getLsbD idx || ofBe (sha384Of key) ≠ (Config.fusedHash idx).toNat then (.error 4, s)
      else if i.bytes.length < 4096 + len then (.error 8, s)
      else
        let cipher := slice i.bytes 4096 len
        let s := areaWrite cipher s
        if !ecdsaOk key (sha384Of (h.take 0xF00 ++ cipher)) (slice h 0xF00 96) then (.error 5, s)
        else
          match imagePlain h cipher with
          | none => (.error 6, s)
          | some plain => (.ok plain, areaWrite plain s)

/-- The slot's contents among what boot finds. -/
def slotOfBoot (img : BootIn) (b : Bool) : SlotImage := if b then img.slotB else img.slotA

/-- Section `x` of a plaintext. -/
def sectionBytes (plain : List Byte) (x : Nat × Nat × Nat × Nat) : List Byte := slice plain x.2.1 x.2.2.1

/-- A loaded image: the policy core's memories and start values, its versions, and the sections for the framework
(R429 step 5). -/
def imageTake (img : BootIn) (b : Bool) (plain : List Byte) (s : State) : State :=
  let h := (slotOfBoot img b).bytes.take 4096
  let s := (sectionsOf h).foldl (fun s x =>
    let l := sectionBytes plain x
    let ws := wordsOfBytes ((l.length + 3) / 4) l
    if x.1 = 1 then polMemWrite 0 0 (ws.take 0x20000) s else if x.1 = 2 then polMemWrite 1 0 (ws.take 0x80000) s else s) s
  let secs := ((sectionsOf h).filter fun x => 3 ≤ x.1 && x.1 ≤ 5).map fun x => (x.1, x.2.2.2, sectionBytes plain x)
  let s := { s with pwr := { s.pwr with imageRollback := BitVec.ofNat 7 (fld (le32 h 0xC) 6 0), sections := secs } }
  let s := wr (if b then .FWU_VER_B else .FWU_VER_A) 0 0 (le32 h 0x10) s
  wr .POL_START_SP 0 0 (le32 h 0x30) (wr .POL_START_PC 0 0 (le32 h 0x1C &&& 0x7FFFC) s)

/-- FW_FALLBACK: source 312 with the reason and the failed slot (R430). -/
def fwFallback (reason : Nat) (b : Bool) (s : State) : State :=
  raiseD 312 ([BitVec.ofNat 8 reason, BitVec.ofNat 8 (ofBool b)] ++ List.replicate 10 0)
    { s with pwr := { s.pwr with lastReason := BitVec.ofNat 8 reason } }

/-- Boot loads slot `b`, or the other one when it fails (R430): the loaded slot, and the first slot's reason when it failed. -/
def bootLoad (img : BootIn) (b : Bool) (s : State) : Option Bool × Option Nat × State :=
  match slotLoad (slotOfBoot img b) s with
  | (.ok plain, s) => (some b, none, imageTake img b plain s)
  | (.error r, s) =>
    let s := fwFallback r b s
    match slotLoad (slotOfBoot img !b) s with
    | (.ok plain, s) => (some !b, some r, imageTake img (!b) plain s)
    | (.error r', s) => (none, some r, { s with pwr := { s.pwr with lastReason := BitVec.ofNat 8 r' } })

/-- The policy core starts from an image. -/
def polBoot (s : State) : State :=
  wr .POL_CTRL 0 0 1 { s with pol := { s.pol with th := { Thread.clear with fb := 1 }, loadCmd := none } }

/-! ### Software-level restart, steps 2 and 3 (R424, R428, R434) -/

/-- Step 1 is over: every thread and the policy core are OFF. -/
def levelsOff (s : State) : Bool := (s.eng.threads.all fun e => e.2.fb = 0) && s.pol.th.fb = 0

/-- A bank of the boot area has another owner or delegate (R428). -/
def areaTaken (s : State) : Bool :=
  (List.range s.pwr.ctl.areaCount).any fun i =>
    let k := bankOf s (s.pwr.ctl.areaBank + i)
    k.owner ≠ 2 || k.del0 ≠ 3 || k.del1 ≠ 0

/-- The command that asked for the restart fails with a reason. -/
def restartCmdFail (reason : Nat) (s : State) : State :=
  match s.pwr.restartCmd with
  | some c => complete c stFailed (BitVec.ofNat 64 reason) { s with pwr := { s.pwr with restartCmd := none } }
  | none => s

/-- A restart that ends without levels 3 and 4. DESIGN CHOICE: its restart interval goes on until the policy core next reaches
ON, since R15 names no other end (log 42). -/
def restartEnd (reason : Nat) (s : State) : State :=
  restartCmdFail reason { s with pwr := { s.pwr with restartPending := false, restartLoaded := false, restartOther := false,
                                                     restartFail := none, lastReason := BitVec.ofNat 8 reason } }

/-- Engine memories are zeroed and every engine thread is cleared (R424 step 2, R305). -/
def enginesZero (s : State) : State :=
  let s := { s with stores := { s.stores with engI := [], engL := [] }, eng := { s.eng with imemPoison := [], lmemPoison := [], single := s.eng.single.filter fun w => 2 ^ 21 ≤ w } }
  (s.eng.threads.map (·.1)).foldl (fun s t => setTh t (engClean t 0 0 (thOf s t)) s) s

/-- The boot control record after a load at a restart: an activated slot goes on trial, a trial that failed ends
(R434, R436). -/
def restartCtl (loaded : Bool) (failed : Option Nat) (s : State) : State :=
  let c := s.pwr.ctl
  if !s.pwr.restartOther then s
  else if s.pwr.restartFail = some 10 then setCtl { c with active := !c.active, trial := false } s
  else if failed.isNone then setCtl { c with active := loaded, trial := true, trialFail := 0 } s
  else s

/-- Step 2: boot loads the slot, and step 3 begins with the policy core's start. -/
def restartStep2 (img : BootIn) (s : State) : State :=
  if areaTaken s then levelsHold (restartEnd 9 s)
  else
    let old := s.pwr.ctl.active
    let s := if s.pwr.restartOther && s.pwr.restartFail = some 10 then fwFallback 10 old s else s
    let (slot, failed, s) := bootLoad img (if s.pwr.restartOther then !old else old) (enginesZero s)
    match slot with
    | none => { restartEnd (failed.getD 8) s with pwr := { (restartEnd (failed.getD 8) s).pwr with recovery := true } }
    | some b =>
      let s := restartCtl b failed s
      let fail : Option (BitVec 8) := if s.pwr.restartCmd.isSome then failed.map (BitVec.ofNat 8) else none
      polBoot { s with pwr := { s.pwr with restartPending := false, restartLoaded := true, placePending := true, restartOther := false, restartFail := fail, recovery := false },
                       pol := { s.pol with placement := img.placement } }

/-- SOFTWARE_LEVEL_RESTART (R424, R428-R430): boot acts once levels 3 and 4 have stopped. -/
def execSoftwareLevelRestart (img : BootIn) (s : State) : Res :=
  .next (if running s && s.pwr.restartPending && levelsOff s then restartStep2 img s else s)

/-- Step 3 is over: the framework has started the instances; source 7, and FW_ACTIVATE completes (R424, R434). -/
def restartDone (s : State) : State :=
  let s := raise 7 { s with pwr := { s.pwr with restartLoaded := false } }
  match s.pwr.restartCmd with
  | none => s
  | some c =>
    let fail := s.pwr.restartFail
    let s := { s with pwr := { s.pwr with restartCmd := none, restartFail := none } }
    match fail with
    | some r => complete c stFailed (r.setWidth 64) s
    | none => complete c stOk (BitVec.ofNat 64 (ofBool s.pwr.ctl.active * 256)) s

/-- The framework goes on, and ends a restart once every placed instance is started or left out (R424). -/
def fwStep (s : State) : State :=
  let s := fwAdvance (causeApply s)
  if s.pwr.restartLoaded && fbState s.pol.th.fb = 2 && !s.pwr.placePending && s.pwr.starting.isEmpty then restartDone s else s

/-- RESTART_COMPLETE (R424). -/
def execRestartComplete (s : State) : Res := .next (if running s then fwStep s else s)

/-! ### Watchdogs (R423) -/

/-- A watchdog's period in ticks, 0 when it is disabled. -/
def wdtTicks (s : State) (four : Bool) : Nat :=
  min 1000 (if four then fld (rd s .GLB_WDT_CFG 0 0) 25 16 else fld (rd s .GLB_WDT_CFG 0 0) 9 0) * 250000

/-- A watchdog's period has passed. -/
def wdtDue (s : State) (four : Bool) : Bool :=
  match if four then s.pwr.wdt4At else s.pwr.wdt3At with
  | some t => wdtTicks s four ≠ 0 && decide (t.toNat + wdtTicks s four ≤ s.ticks)
  | none => false

/-- A watchdog expires: sources 4 and 5, a counted restart. -/
def wdtExpire (four : Bool) (s : State) : State :=
  let n := if four then 5 else 4
  restartCounted n (raise n s)

/-- WATCHDOG_EXPIRY (R423): `level` is level 4, else level 3. -/
def execWatchdogExpiry (level : Bool) (s : State) : Res := .next (if running s && wdtDue s level then wdtExpire level s else s)

/-- The level-3 watchdog's period starts again. -/
def wdt3Kick (s : State) : State :=
  { s with pwr := { s.pwr with wdt3At := s.pwr.wdt3At.map fun _ => BitVec.ofNat 64 s.ticks } }

/-- Every placed instance has written its status block within the level-3 period (R423); one in state PLACEMENT is not placed. -/
def instancesReport (s : State) : Bool :=
  (List.range s.pol.placement.length).all fun i =>
    let w := nmGet [] s.pol.reports i
    let updated := (wordAt w 8).toNat + (wordAt w 9).toNat * 2 ^ 32
    fld (wordAt w 0) 18 16 = 5 || (10 ≤ w.length && decide (now s < updated + 4 * wdtTicks s false))

/-- WDT3_KICK (R423): the framework writes only after every placed instance has reported. -/
def execWdt3Kick (m : Fin 64) (s : State) : Res :=
  .next (if m = 3 && !instancesReport s then s else withWrite m .GLB_WDT3_KICK 0 0 wdt3Kick s)

/-! ### Cold boot (R426-R431, 02 R452) -/

/-- A copy of the boot control record with its magic and CRC (Table 17.6, R427). -/
def ctlOf (l : List Byte) : Option BootCtl :=
  if l.length = 4096 && le32 l 0 = 0x4C435A53 && (le32 l 4092).toNat = crc32 (l.take 4092) then
    let f := byteAt l 8
    some ⟨le32 l 4, f.getLsbD 0, f.getLsbD 1, (f >>> 4).setWidth 4, le32 l 12, le32 l 16, (byteAt l 20).toNat, ofLe (slice l 28 2),
          (byteAt l 30).toNat⟩
  else none

/-- The valid copy with the greater seq, by signed difference. -/
def ctlPick (a b : Option BootCtl) : Option BootCtl :=
  match a, b with
  | some x, some y => if 0 < (y.seq - x.seq).toInt then some y else some x
  | some x, none => some x
  | none, y => y

/-- The envelope entries of an image of 64 words (R371). -/
def envEntries (ws : List W32) : NMap (List W32) :=
  (List.range 16).foldl (fun m a => nmSet [] m a (trimZeros (slice4 ws (4 * a)))) []
where
  /-- Four words. -/
  slice4 (l : List W32) (i : Nat) : List W32 := (l.drop i).take 4

/-- The persisted key slots are unwrapped; a blob that fails leaves its slot empty, source 278 (13 R367). -/
def keysUnwrap (bad : List Nat) (s : State) : State :=
  let good := s.cry.stored.filter fun e => e.1 ∉ bad
  let failed := s.cry.stored.filter fun e => e.1 ∈ bad
  failed.foldl (fun s _ => raise 278 s) { s with cry := { s.cry with slots := good, stored := [] } }

/-- Boot sets the recorder's flash map and starts it (16 R411). -/
def recBoot (m : List W32) (s : State) : State :=
  let s := [Reg.REC_RING_BASE, .REC_RING_SIZE, .REC_BOOT_BASE, .REC_CNT_BASE, .REC_STAGE_BANK].zip m |>.foldl
    (fun s (r, v) => plainWrite r 0 0 v s) s
  recCtrlWrite 1 s

/-- The boot area belongs to the policy core with crypto as delegate 0 (R428). -/
def areaOwn (s : State) : State :=
  (List.range s.pwr.ctl.areaCount).foldl (fun s i =>
    let b := s.pwr.ctl.areaBank + i
    if b < 384 then setBank b { bankOf s b with owner := 2, del0 := 3, del1 := 0 } s else s) s

/-- The device enters recovery: only HIF, FWU and the recorder start (R426). -/
def enterRecovery (s : State) : State := { s with pwr := { s.pwr with recovery := true } }

/-- The trial of a slot at a device reset: counted, and ended at the limit with the other slot active (R436); a power-on reset is
none (Table 17.4). -/
def trialCount (s : State) : State :=
  let c := s.pwr.ctl
  if !c.trial || !s.pwr.devReset then s
  else
    let n := min 15 (c.trialFail.toNat + 1)
    if restartLimit s ≤ n then setCtl { c with active := !c.active, trial := false, trialFail := BitVec.ofNat 4 n } (fwFallback 10 c.active s)
    else setCtl { c with trialFail := BitVec.ofNat 4 n } s

/-- An image is loaded: tables, routes and envelope of section 6; then, unless BOOTMODE holds levels 3 and 4, the policy core,
the stored set and the instances (R426, R431). -/
def bootStart (img : BootIn) (s : State) : State :=
  let act := entriesOver img.sect6.entries []
  let s := { s with cfg := { active := act, shadow := act, stager := none, check := none, armed := none },
                    pol := { s.pol with envelope := envEntries img.sect6.envelope, placement := img.placement } }
  let s := routesTake img.sect6.routes { s with pwr := { s.pwr with placePending := true, storedSet := img.stored } }
  if s.pwr.strapBoot = 3 then s else fwAdvance (causeApply (polStarted (polBoot s)))

/-- Boot after a device reset. -/
def coldBoot (img : BootIn) (s : State) : State :=
  let found := ctlPick (ctlOf img.ctlA) (ctlOf img.ctlB)
  let s := causeDue { s with pwr := { s.pwr with booted := true, ctl := found.getD State.reset.pwr.ctl } }
  let owners := img.sect6.owners ++ ((img.stored.map (·.owners)).getD [])
  let s := recBoot img.recMap (ownersTake owners (areaOwn (keysUnwrap img.badKeys s)))
  if found.isNone || s.pwr.strapBoot = 2 then enterRecovery s
  else
    let s := trialCount s
    match bootLoad img s.pwr.ctl.active s with
    | (none, _, s) => enterRecovery s
    | (some _, _, s) => bootStart img s

/-- The destructive march of all banks that BOOTMODE 1 asks for before boot (R426, 04 Table 4.5). -/
def bootMarch (s : State) : State :=
  let banks := List.range 384
  (clusterHeads banks).foldl (fun s b => testTake b s)
    { s with mem := { s.mem with test := some ⟨none, true, banks, 0, 0, 0⟩ }, pwr := { s.pwr with marched := true } }

/-- COLD_BOOT (R426-R431): once after a device reset; with BOOTMODE 1 the march comes first, and boot once it has ended. -/
def execColdBoot (img : BootIn) (s : State) : Res :=
  .next (if !running s || s.pwr.booted || s.mem.test.isSome then s
  else if s.pwr.strapBoot = 1 && !s.pwr.marched then bootMarch s
  else coldBoot img s)

/-! ### Firmware update (R432-R436) -/

/-- FW_WRITE or FW_ACTIVATE is in progress (R432). -/
def fwBusy (s : State) : Bool := s.pwr.fwWrite.isSome || s.pwr.restartCmd.isSome

/-- Parameters of FW_WRITE out of range, for slots of this many MiB (R432). -/
def fwWriteBad (mib : Nat) (w : List W32) : Bool :=
  let off := (wordAt w 2).toNat
  let len := (wordAt w 3).toNat
  off % 256 ≠ 0 || len % 256 ≠ 0 || len = 0 || 65536 < len || mib * 0x100000 < off + len

/-- FW_WRITE (R432). -/
def execFwWrite (ring : Fin 10) (slot : Nat) (data : List W32) (s : State) : Res :=
  .next (startCmd ring slot 0x40 (fwWriteBad s.pwr.ctl.slotMib) (fun c w s =>
    let off := (wordAt w 2).toNat
    let len := (wordAt w 3).toNat
    if fwBusy s then complete c stBusy 0 s
    else
      say (.fwWrite (!s.pwr.ctl.active) (bit (wordAt w 6) 0) off (bytesOfWords (hostWords (len / 4) false data)))
        { s with pwr := { s.pwr with fwWrite := some c } }) s)

/-- FW_WRITE_DONE (R432). -/
def execFwWriteDone (ok : Bool) (s : State) : Res :=
  .next (match s.pwr.fwWrite with
    | some c =>
      if running s then
        raise 313 (complete c (if ok then stOk else stFailed) 0 { s with pwr := { s.pwr with fwWrite := none } })
      else s
    | none => s)

/-- FW_ACTIVATE (R432, R434). -/
def execFwActivate (ring : Fin 10) (slot : Nat) (s : State) : Res :=
  .next (startCmd ring slot 0x41 noBad (fun c _ s =>
    if fwBusy s then complete c stBusy 0 s
    else if restartBusy s then complete c stBusy 0 (setB .GLB_RST_CAUSE 0 0 0x200 s)
    else restartPlain 9 { s with pwr := { s.pwr with restartCmd := some c, restartOther := true, restartFail := none } }) s)

/-- A write of FWU_CONFIRM (R436). -/
def fwuConfirm (v : W32) (s : State) : State :=
  if !bit v 0 then s
  else
    let s := if s.pwr.ctl.trial then setCtl { s.pwr.ctl with trial := false } s else s
    { s with pwr := { s.pwr with otp := if s.pwr.otp.toNat < s.pwr.imageRollback.toNat then s.pwr.imageRollback else s.pwr.otp } }

/-- FWU_CONFIRM (R436). -/
def execFwuConfirm (m : Fin 64) (v : W32) (s : State) : Res := .next (withWrite m .FWU_CONFIRM 0 v (fwuConfirm v) s)

/-! ### The policy envelope and the POL_TBL window (13 R371, Table 13.18) -/

/-- Scope bits that an action has (Table 13.14); where the scope is unused, any value. -/
def envScope (a : Nat) : W32 :=
  match a with
  | 1 => 0x01FFFFFF | 2 => 0xFFFF | 3 => 0xEE | 4 => 7 | 5 => 0xFFFF | 6 => 0xFFFFFF | 7 => 0xFF | 10 => 1 | 13 => 0xFFFFFF
  | 14 => 0x3FFFFF | _ => 0xFFFFFFFF

/-- An entry of an envelope image that R371 turns away. -/
def envBad (a : Nat) (e : List W32) : Bool :=
  let w0 := wordAt e 0
  let lo := (wordAt e 1).toNat
  let hi := (wordAt e 2).toNat
  if a = 0 || a = 15 then e.any (· ≠ 0)
  else w0 &&& ~~~0xFF01 ≠ 0 || wordAt e 3 &&& ~~~envScope a ≠ 0 ||
    (a ∈ [1, 2, 3, 4, 9, 10, 11, 12] && hi < lo) || (a = 9 && (lo < 32 || 320 < hi))

/-- POL_ENVELOPE (R371): the whole envelope switches at one tick. -/
def execPolEnvelope (ring : Fin 10) (slot : Nat) (data : List W32) (s : State) : Res :=
  let ws := hostWords 64 false data
  .next (startCmd ring slot 0x39 (fun _ => (List.range 16).any fun a => envBad a ((ws.drop (4 * a)).take 4)) (fun c _ s =>
    let s := { s with pol := { s.pol with envelope := envEntries ws } }
    let s := wr .POL_ENV_GEN 0 0 (rd s .POL_ENV_GEN 0 0 + 1) (wr64 .POL_ENV_TICK_LO .POL_ENV_TICK_HI 0 0 (now s) s)
    complete c stOk s.time.now (raise 269 s)) s)

/-- POL_TBL_CTRL.read by `m`: an entry of tables 0x0D to 0x0F, active or shadow. -/
def polTblRead (m : Nat) (s : State) : State :=
  let sel := rd s .POL_TBL_SEL 0 m
  let id := fld sel 23 16
  let i := fld sel 12 0
  if !(13 ≤ id && id ≤ 15) || tblCount id ≤ i then setF .POL_TBL_CTRL 0 m 9 8 2 s
  else
    let e := nmGet [] (if bit sel 24 then s.cfg.shadow else s.cfg.active) (tblKey id i)
    setF .POL_TBL_CTRL 0 m 9 8 0 ((List.range 8).foldl (fun s k => wr .POL_TBL_W k m (wordAt e k) s) s)

/-- POL_TBL_READ (13 Table 13.18). -/
def execPolTblRead (m : Fin 64) (s : State) : Res := .next (withWrite m .POL_TBL_CTRL 0 1 (polTblRead m) s)

end Sys2Proof.Machine
end

