-- ==== Sys2Proof/Machine/Gateway.lean ====
section
/-! DEFINITION. What Sodozal's runtime and framework do: signal routes, wake rules, status reports, map switches
(13 R350-R356; 14 R379, R382). -/

namespace Sys2Proof.Machine

/-! ### Signal routes (R350-R354) -/

/-- A bit of a byte list under the numbering of R350. -/
def sigBit (big : Bool) (l : List Byte) (k : Nat) : Bool := (byteAt l (k / 8)).getLsbD (if big then 7 - k % 8 else k % 8)

/-- A field of `n` bits at `at_` of a payload; the payload may end before it. -/
def sigGet (big : Bool) (l : List Byte) (at_ n : Nat) : Option W32 :=
  if l.length * 8 < at_ + n then none
  else some (BitVec.ofNat 32 ((List.range n).foldl (fun v i =>
    if big then v * 2 + ofBool (sigBit big l (at_ + i)) else v + ofBool (sigBit big l (at_ + i)) * 2 ^ i) 0))

/-- A field of `n` bits put at `at_` of a template, which is lengthened to hold it. -/
def sigPut (big : Bool) (l : List Byte) (at_ n : Nat) (v : W32) : List Byte :=
  let l := l ++ List.replicate ((at_ + n + 7) / 8 - l.length) 0
  (List.range n).foldl (fun l i =>
    let k := at_ + i
    let m : Byte := BitVec.ofNat 8 (2 ^ (if big then 7 - k % 8 else k % 8))
    let b := byteAt l (k / 8)
    l.set (k / 8) (if bit v (if big then n - 1 - i else i) then b ||| m else b &&& ~~~m)) l

/-- Fields of a signal route entry (Table 13.3): validity, engine, order, field length, template key. -/
def sgValid (e : List W32) : Bool := bit (wordAt e 0) 31
/-- The executing engine. -/
def sgEngine (e : List W32) : Nat := fld (wordAt e 0) 7 3
/-- Field bits. -/
def sgLen (e : List W32) : Nat := fld (wordAt e 2) 18 14 + 1
/-- Big-endian order. -/
def sgBig (e : List W32) : Bool := bit (wordAt e 2) 19
/-- The template among all engines' templates. -/
def sgTemplate (e : List W32) : Nat := sgEngine e * 1024 + fld (wordAt e 4) 9 0
/-- The queue from which the engine takes source frames. -/
def sgSrc (e : List W32) : Nat := fld (wordAt e 3) 11 0
/-- The rule has on change, or cyclic. -/
def sgRule (e : List W32) (k : Nat) : Bool := bit (wordAt e 5) k
/-- The cycle in us. -/
def sgCycle (e : List W32) : Nat := fld (wordAt e 5) 31 8

/-- The signal routes that were active at a stamp: those before the first switch after it (R354). -/
def sgSet (s : State) (stamp : W64) : NMap (List W32) :=
  match (s.pol.sigPrev.filter fun x => decide (stamp < x.1)).getLast? with
  | some (_, old) => old
  | none => sigRoutes s.cfg.active

/-- The valid routes as active at a stamp. -/
def sgRoutes (s : State) (stamp : W64) : List (Nat × List W32) :=
  ((sgSet s stamp).map fun e => (e.1 - tblKey 13 0, e.2)).filter fun e => sgValid e.2

/-- Run-time state of route `r`: until its first source frame its field counts as substituted (R352). -/
def sgState (s : State) (r : Nat) : SigRt := nmGet ⟨0, false, true, 0⟩ s.pol.sig r

/-- Run-time state set. -/
def setSig (r : Nat) (x : SigRt) (s : State) : State := { s with pol := { s.pol with sig := nmSet ⟨0, false, true, 0⟩ s.pol.sig r x } }

/-- What a route's field holds: its value, or subst. -/
def sgHolds (s : State) (r : Nat) (e : List W32) : W32 := if (sgState s r).substituted then wordAt e 7 else (sgState s r).value

/-- The PDU of template `k` with the fields of its routes. -/
def pduOf (s : State) (k : Nat) (routes : List (Nat × List W32)) : List Byte :=
  (routes.filter fun x => sgTemplate x.2 = k).foldl (fun l x =>
    sigPut (sgBig x.2) l (fld (wordAt x.2 4) 29 16) (sgLen x.2) (sgHolds s x.1 x.2)) (nmGet [] s.pol.templates k)

/-- Where the PDU of template `k` of engine `e` lies in the shared memory. -/
def pduAddr (e k : Nat) : Nat := Config.pduPlace e k % 6144 * 0x4000

/-- Engine `e` puts the PDU of its template `k` into queue `q` as one packet: its thread T3 writes the bytes and enqueues their
descriptor, bad when they cannot be written (R352; 05 R116; log 58). -/
def putPdu (e k q : Nat) (l : List Byte) (s : State) : State :=
  let a := pduAddr e k
  let (st, s) := shWriteRun (.thread (4 * e + 3)) a l s
  let bad := decide (st ≠ memOk) && decide (st ≠ memLost)
  let d := mkDesc
    [BitVec.ofNat 32 (a / 0x40000 * 2 ^ 18 + a % 0x40000), BitVec.ofNat 32 (3 * 2 ^ 30 + l.length % 2 ^ 14 * 2 ^ 16 + ofBool bad * 2 ^ 5),
     BitVec.ofNat 32 (now s), 0]
  (qEnqueue q (8 + e) (4 * e + 3) d s).2

/-- The PDUs of the routes `rs` leave, one for each template (R352). -/
def sendPdus (routes rs : List (Nat × List W32)) (s : State) : State :=
  (rs.map fun x => sgTemplate x.2).dedup.foldl (fun s k =>
    match rs.find? fun x => sgTemplate x.2 = k with
    | some x =>
      let q := fld (wordAt x.2 3) 27 16
      let l := pduOf s k routes
      throughThaw (putPdu (sgEngine x.2) k q l) 385 (say (.pdu q l) s)
    | none => s) s

/-- The gateway runtime of engine `e` runs: thread T3 is ON (14 R376). -/
def gwRuns (s : State) (e : Nat) : Bool := running s && fbState (thOf s (4 * e + 3)).fb = 2

/-- Counters of an engine's gateway runtime: short_src, substituted. -/
def gwBump (e : Nat) (short : Bool) (s : State) : State :=
  let (a, b) := nmGet (0, 0) s.pol.gwCount e
  let x := if short then (min 0xFFFFFFFF (a + 1), b) else (a, min 0xFFFFFFFF (b + 1))
  { s with pol := { s.pol with gwCount := nmSet (0, 0) s.pol.gwCount e x } }

/-- A source frame updates one route: whether that is a change, and the state (R350, R352, R353). -/
def sgUpdate (payload : List Byte) (stamp : W64) (r : Nat) (e : List W32) (s : State) : Bool × State :=
  match sigGet (sgBig e) payload (fld (wordAt e 2) 13 0) (sgLen e) with
  | none => (false, gwBump (sgEngine e) true s)
  | some v =>
    let o := sgState s r
    (o.substituted || o.value ≠ v, setSig r ⟨v, true, false, stamp⟩ s)

/-- A source frame is one that route `e` names, and its source payload: by medium, and where the descriptor shows the port it came
in at, only from a port of that medium (Table 13.3). -/
def sgPayload (e : List W32) (port ptag : Nat) (l : List Byte) : Option (List Byte) :=
  let src := fld (wordAt e 1) 28 0
  match fld (wordAt e 0) 1 0 with
  | 0 => if (port < 16 || 20 ≤ port) && ptag = src % 0x10000 then some (l.drop (ethL3 l)) else none
  | 1 => if 16 ≤ port && port ≠ 18 && canIde l = bit (wordAt e 0) 2 && canId l = src then some (canData l) else none
  | 2 => if 18 ≤ port && starSlot l = src % 1024 then some (slice l 4 (starLen l)) else none
  | _ => none

/-- A source frame updates every route of engine `n` on queue `q` that names it; changes of one template leave in one PDU
(R350-R354). -/
def sgFrame (n q port ptag : Nat) (l : List Byte) (stamp : W64) (s : State) : State :=
  let routes := sgRoutes s stamp
  let (sent, s) := (routes.filter fun x => sgEngine x.2 = n && sgSrc x.2 = q).foldl (fun (sent, s) x =>
    match sgPayload x.2 port ptag l with
    | none => (sent, s)
    | some payload =>
      let (c, s) := sgUpdate payload stamp x.1 x.2 s
      (if c && sgRule x.2 0 then sent ++ [x] else sent, s)) (([] : List (Nat × List W32)), s)
  sendPdus routes sent s

/-- Engine `n` takes the next source frame of queue `q` as its consumer and frees its descriptors (05 R127); a bad one is no source
frame. -/
def sgTake (n q : Nat) (s : State) : State :=
  match takePacket (.thread (4 * n + 3)) (qUse s q + 1) q (8 + n) [] false none s with
  | (none, s) => s
  | (some (l, bad, d), s) =>
    let s := if qFlushMode s q then s else (qRelease q (8 + n) s).2
    if bad then s else sgFrame n q (fld (dWord d 1) 10 6) (fld (dWord d 3) 31 16) l (widenStamp s (dWord d 2)) s

/-- Route `r` names queue `q` of engine `n` as its source, now or before a switch of the sets: a frame that came before the
switch may still wait there (R354). -/
def sgNames (s : State) (r n q : Nat) : Bool :=
  let names (e : List W32) : Bool := sgValid e && sgEngine e = n && sgSrc e = q
  names (tbl s 13 r) || s.pol.sigPrev.any fun x => names (nmGet [] x.2 (tblKey 13 r))

/-- SIGNAL_SOURCE_FRAME (R350-R354): engine `n` takes a frame from queue `q`, which route `r` names; the frame serves every route
that names it. -/
def execSignalSourceFrame (r : Fin 8192) (n : Fin 24) (q : Fin 4096) (s : State) : Res :=
  .next (if sgNames s r n q && gwRuns s n then throughThaw (sgTake n q) 385 s else s)

/-- A cyclic instant of a route falls on this tick: the first at or after a whole multiple of its cycle (R352). -/
def cyclicDue (s : State) (e : List W32) : Bool :=
  let c := sgCycle e * 1000
  sgValid e && sgRule e 1 && c ≠ 0 && gwRuns s (sgEngine e) &&
    decide (now s % c * 2 ^ 32 + s.time.frac.toNat < s.time.incr.toNat)

/-- The cyclic sends of this tick among `rs`. -/
def cyclicSends (rs : List (Nat × List W32)) (s : State) : State :=
  sendPdus (sgRoutes s s.time.now) (rs.filter fun x => cyclicDue s x.2) s

/-- SIGNAL_CYCLIC_SEND (R352). -/
def execSignalCyclicSend (r : Fin 8192) (s : State) : Res := .next (cyclicSends [(r.val, tbl s 13 r)] s)

/-- The deadline of a route has passed without a source frame (R353). -/
def sgLate (s : State) (r : Nat) (e : List W32) : Bool :=
  let x := sgState s r
  let d := fld (wordAt e 6) 23 0 * 1000
  sgValid e && d ≠ 0 && x.placed && !x.substituted && gwRuns s (sgEngine e) && decide (x.stamp.toNat + d ≤ now s)

/-- A route enters substitution, which is a change (R353). -/
def sgSubstitute (r : Nat) (e : List W32) (s : State) : State :=
  if !sgLate s r e then s
  else
    let s := gwBump (sgEngine e) false (setSig r { sgState s r with substituted := true } s)
    if sgRule e 0 then sendPdus (sgRoutes s s.time.now) [(r, e)] s else s

/-- SIGNAL_DEADLINE (R353). -/
def execSignalDeadline (r : Fin 8192) (s : State) : Res := .next (sgSubstitute r (tbl s 13 r) s)

/-! ### Wake rules (R355, R356, Table 13.5) -/

/-- WAKE_RULE_APPLY (R355, R356). -/
def execWakeRuleApply (trigger : Fin 8) (index : Nat) (s : State) : Res :=
  .next (if !fwRuns s then s else wakeApply (wakeRules s trigger index) s)

/-- The hold of a channel has passed with no frame on it. -/
def holdPassed (s : State) (c : Nat) : Bool :=
  let (hold, since) := nmGet (0, 0) s.pol.wakeHold c
  fwRuns s && hold ≠ 0 && decide (max since.toNat (chOf s c).lastFrame.toNat + hold * 1000000000 ≤ now s)

/-- The framework puts a channel to sleep. -/
def holdSleep (c : Nat) (s : State) : State :=
  let s := { s with pol := { s.pol with wakeHold := nmSet (0, 0) s.pol.wakeHold c (0, 0) } }
  let v := sleepWord s c 1
  fwWriteAt .CAN_CHSEL .CAN_SLEEP c v (sleepWrite c v) s

/-- WAKE_RULE_HOLD_EXPIRY (R355). -/
def execWakeRuleHoldExpiry (c : Fin 32) (s : State) : Res := .next (if holdPassed s c then holdSleep c s else s)

/-! ### Reports (14 R379) -/

/-- The report queue: producer F25, consumer host identity 0, ON. -/
def reportQueue (s : State) : Option Nat :=
  (s.regs.filterMap fun e => if e.1 % 1024 = Reg.QM_Q_BIND.ctorIdx then some (e.1 / 2 ^ 20) else none).find? fun q =>
    qProducer s q = 0x59 && qConsumer s q = 0 && isOn s .QM_Q_STAT q

/-- A packet of the framework. -/
def fwPacket (l : List Byte) (s : State) : Flight :=
  { id := 0, inPort := 24, kind := .eth, bytes := l, stamp := s.time.now, tc := 0, colour := 0, ptag := 0, vid := 0, dests := [],
    untag := 0, cells := [], multi := false, whole := true, bad := false, badAt := [], full := [], cut := [], red := [],
    asIs := false, born := s.time.now }

/-- The statistics block: offset, channel, 64-bit total of each counter (14 Table 14.5). -/
def statsBytes (s : State) : List Byte :=
  s.pol.stats.flatMap fun (k, n) =>
    match allRegs.find? fun r => r.ctorIdx = k % 1024 with
    | some r => leBytes 4 (regOff r (k / 1024 % 1024)) ++ leBytes 4 (if r.desc.per = 0 then 0xFFFF else k / 2 ^ 20) ++ leBytes 8 n
    | none => []

/-- What an instance limits, by personality code (14 Table 14.2): for each kind of thing that a peer may ask for, the most of them,
the most members or bytes of one (0 for no such limit), and whether it is a connection or node. -/
def connKinds (code : Nat) : List (Nat × Nat × Bool) :=
  match code with
  | 1 => [(2, 0, false), (32, 0, true), (32, 0, true), (4096, 0, false)]
  | 2 => [(32, 0, true), (8192, 0, false)]
  | 3 => [(4, 0, true), (32, 0, true), (8192, 0, false)]
  | 4 => [(8, 0, true), (4, 0, false), (8192, 0, false)]
  | 5 => [(2, 0, false), (32, 0, true), (4096, 0, false)]
  | 6 => [(32, 64, true), (128, 64, true)]
  | 7 => [(8, 24, true)]
  | 8 | 9 => [(127, 0, true), (512, 0, false), (512, 0, false)]
  | 10 => [(1, 0, false), (32, 0, true), (2048, 0, false)]
  | 11 => [(2, 1440, true)]
  | 12 => [(8, 1440, true), (16, 0, true)]
  | _ => []

/-- Things of kind `k` that instance `inst` has accepted. -/
def connsOf (s : State) (inst k : Nat) : Nat := nmGet 0 s.pol.conns (inst * 16 + k)

/-- A request beyond a limit is refused and counted; accepted ones stay until their peer closes them (R375). -/
def connAsk (inst : Nat) (kinds : List (Nat × Nat × Bool)) (q : ConnReq) (s : State) : State :=
  match kinds[q.kind]? with
  | none => s
  | some (most, size, _) =>
    let n := connsOf s inst q.kind
    if q.close then { s with pol := { s.pol with conns := nmSet 0 s.pol.conns (inst * 16 + q.kind) (n - 1) } }
    else if most ≤ n || (size ≠ 0 && size < q.size) then
      { s with pol := { s.pol with refused := nmSet 0 s.pol.refused inst (min 0xFFFFFFFF (nmGet 0 s.pol.refused inst + 1)) } }
    else { s with pol := { s.pol with conns := nmSet 0 s.pol.conns (inst * 16 + q.kind) (n + 1) } }

/-- Connections or nodes in use. -/
def connsUsed (s : State) (inst : Nat) (kinds : List (Nat × Nat × Bool)) : Nat :=
  ((List.range kinds.length).map fun k => if (kinds.getD k (0, 0, false)).2.2 then connsOf s inst k else 0).sum

/-- The gateway counters of an instance's engines: short_src, substituted. -/
def gwCounts (s : State) (p : Placement) : Nat × Nat :=
  (List.range p.engines).foldl (fun (a, b) k => let (x, y) := nmGet (0, 0) s.pol.gwCount (p.engine + k); (a + x, b + y)) (0, 0)

/-- The status block of an instance, written now: state, version, errors and scan time as its firmware says, the rest as the model
counts it (Table 14.5). -/
def statusBlock (s : State) (inst : Nat) (p : Placement) (words : List W32) : List W32 :=
  let sat (n : Nat) : W32 := BitVec.ofNat 32 (min 0xFFFFFFFF n)
  [statusWord p (fld (wordAt words 0) 18 16), wordAt words 1, BitVec.ofNat 32 (connsUsed s inst (connKinds p.code) % 0x10000),
   sat (nmGet 0 s.pol.refused inst), wordAt words 4, sat (gwCounts s p).1, sat (gwCounts s p).2, wordAt words 7,
   BitVec.ofNat 32 (now s), BitVec.ofNat 32 (now s / 2 ^ 32)] ++ List.replicate 6 0

/-- The instance writes its status block in its first bank (R379; its place there is free, log 43). -/
def statusWrite (inst : Nat) (p : Placement) (ws : List W32) (s : State) : State :=
  if p.banks = 0 then s
  else throughThaw (fun s =>
    (shWriteRun (.thread (4 * p.engine)) (p.bank * 0x40000 + Config.statusPlace inst % 4096 * 64) (bytesOfWords ws) s).2) 385 s

/-- STATUS_REPORT (R375, R379): an instance has served the requests of a report period and writes its status block; the framework
keeps its latest report and sends it, and its statistics block, on the report queue. -/
def execStatusReport (inst : Nat) (x : StatusIn) (s : State) : Res :=
  .next (match s.pol.placement[inst]? with
    | none => s
    | some p =>
      if !fwRuns s || !gwRuns s p.engine then s
      else
        let s := x.reqs.foldl (fun s q => connAsk inst (connKinds p.code) q s) s
        let ws := statusBlock s inst p x.words
        let s := statusWrite inst p ws s
        let s := say (.report ws) { s with pol := { s.pol with reports := nmSet [] s.pol.reports inst ws } }
        match reportQueue s with
        | none => s
        | some q =>
          [bytesOfWords ws, statsBytes s].foldl (fun s l =>
            if l.isEmpty then s else throughThaw (rxDeliver q (fwPacket l s) false) 385 s) s)

/-! ### Mapping tables (14 R382) -/

/-- MAP_SWITCH (R382): at the start of its scan an instance takes its map doorbell and copies the number to map_sel. -/
def execMapSwitch (inst : Nat) (s : State) : Res :=
  .next (match s.pol.placement[inst]? with
    | none => s
    | some p =>
      let t : Fin 97 := Fin.ofNat 97 (4 * p.engine)
      if !(running s && fbState (thOf s t).fb = 2 && p.doorbell < 64 && (mbxOf s p.doorbell).full) then s
      else
        let (v, s) := dbTake (.port t) p.doorbell s
        let s := { s with pol := { s.pol with mapSel := nmSet 0 s.pol.mapSel inst (ofBool (bit v 0)) } }
        throughThaw (fun s => (shWriteRun (.thread (4 * p.engine)) (p.bank * 0x40000 + 16) (leBytes 4 (ofBool (bit v 0))) s).2) 385 s)

end Sys2Proof.Machine
end

