-- ==== Sys2Proof/Machine/Ports.lean ====
section
/-! DEFINITION. The I/O ports of the engine threads and of the policy core (05 Table 5.5; 10 Table 10.5; 11 Tables 11.4-11.7;
12 Table 12.14; 13 Table 13.2). -/

namespace Sys2Proof.Machine

/-- What an IN or OUT meets: no such port in that direction, a privileged port in user mode, a wait, a wait for
a bank's thaw (04 R107), or its completion. -/
inductive PortRes where
  | bad
  | priv
  | wait
  | thaw (b : Nat)
  | done (v : W32) (s : State)

/-! ### The CRC unit (R303, Table 11.7) -/

/-- The width of a thread's CRC. -/
def crcWidth (h : Thread) : Nat := if fld h.crcCfg 5 0 = 0 then 32 else min 32 (fld h.crcCfg 5 0)

/-- Bits run through the register. -/
def crcRun (h : Thread) (bits : List Bool) : Thread :=
  let w := crcWidth h
  { h with crcReg := BitVec.ofNat 32 (bits.foldl (crcStepL w (h.crcPoly.toNat % 2 ^ w)) (h.crcReg.toNat % 2 ^ w)) }

/-- The bits of a byte in the order that the unit takes them. -/
def crcBits (h : Thread) (b : Byte) : List Bool := if bit h.crcCfg 8 then bitsLsb b else bitsMsb b

/-- A value of its `w` low bits in the opposite order. -/
def reflect (w : Nat) (v : W32) : W32 :=
  BitVec.ofNat 32 (((List.range w).map fun k => if bit v k then 2 ^ (w - 1 - k) else 0).sum)

/-- The value of port 0x606. -/
def crcResult (h : Thread) : W32 :=
  let w := crcWidth h
  let v : W32 := BitVec.ofNat 32 (h.crcReg.toNat % 2 ^ w)
  ((if bit h.crcCfg 9 then reflect w v else v) ^^^ h.crcXor) &&& maskOf (w - 1) 0

/-- A free value for thread register `f` is drawn. -/
def freeFor (t : Nat) (f : W32 → Thread → Thread) (s : State) : State :=
  setTh t (f (Config.freeWord s.freeCtr) (thOf s t)) { s with freeCtr := s.freeCtr + 1 }

/-- Ports 0x604, 0x605, 0x607: a byte, four bytes, a bit string. The spec gives no result for a count outside 1-24. -/
def crcFeed (t p : Nat) (v : W32) (s : State) : State :=
  let h := thOf s t
  let n := fld v 4 0
  if p = 0x604 then setTh t (crcRun h (crcBits h (BitVec.ofNat 8 v.toNat))) s
  else if p = 0x605 then setTh t (crcRun h ((leBytes 4 v.toNat).flatMap (crcBits h))) s
  else if n = 0 || 24 < n then freeFor t (fun x h => { h with crcReg := x }) s
  else setTh t (crcRun h ((List.range n).map fun k => bit v (31 - k))) s

/-- Port 0x601: the initial value, loaded into the register. -/
def crcInit (t : Nat) (v : W32) (s : State) : State := setTh t { thOf s t with crcReg := v } s

/-- CRC_INIT (R303). -/
def execCrcInit (t : Fin 97) (v : W32) (s : State) : Res := .next (if running s then crcInit t v s else s)

/-- CRC_FEED (R303): `port` 0 is 0x604, 1 is 0x605, 2 is 0x607. -/
def execCrcFeed (t : Fin 97) (port : Fin 3) (v : W32) (s : State) : Res :=
  .next (if running s then crcFeed t (if port.val = 2 then 0x607 else 0x604 + port) v s else s)

/-- OUT to the CRC unit. -/
def crcOut (t p : Nat) (v : W32) (s : State) : PortRes :=
  let h := thOf s t
  match p with
  | 0x600 => .done 0 (setTh t { h with crcPoly := v } s)
  | 0x601 => .done 0 (crcInit t v s)
  | 0x602 => .done 0 (setTh t { h with crcCfg := v } s)
  | 0x603 => .done 0 (setTh t { h with crcXor := v } s)
  | 0x604 => .done 0 (crcFeed t p v s)
  | 0x605 => .done 0 (crcFeed t p v s)
  | 0x607 => .done 0 (crcFeed t p v s)
  | _ => .bad

/-- IN from 0x606; the spec gives no result for a width above 32. -/
def crcIn (t : Nat) (s : State) : PortRes :=
  let h := thOf s t
  if 32 < fld h.crcCfg 5 0 then .done (Config.freeWord s.freeCtr) { s with freeCtr := s.freeCtr + 1 } else .done (crcResult h) s

/-! ### Feature and identity ports (R333, Table 12.14) -/

/-- FEAT0-FEAT3 and the identity, by port number less 0x500. -/
def featWord (t k : Nat) : W32 :=
  let n := t / 4
  match k with
  | 0 => if t = 96 then 0x00FF0102 else 0x000F0102
  | 1 => if t = 96 then 0x1007 else 0
  | 2 => feat2 t
  | 3 => if t = 96 then 0x80800000 else BitVec.ofNat 32 (0x08100001 + n / 2 * 2 + n % 2 * 32)
  | _ => if t = 96 then 0x0003001F else BitVec.ofNat 32 (n + t % 4 * 256 + (8 + n) * 65536)

/-! ### Ports of the policy core (Table 13.2) -/

/-- The level-4 watchdog's period starts again (17 R423). -/
def wdt4Kick (s : State) : State :=
  { s with pwr := { s.pwr with wdt4At := s.pwr.wdt4At.map fun _ => BitVec.ofNat 64 s.ticks } }

/-- WDT4_KICK (R423): port 0x710, privileged. -/
def execWdt4Kick (s : State) : Res := .next (if running s && supMode s then wdt4Kick s else s)

/-- Port 0x727: source 268 with the three words (14 R378). -/
def decisionRecord (s : State) : State := raiseD 268 (bytesOfWords ((List.range 3).map (wordAt s.pol.decision))) s

/-- DECISION_RECORD (R378): privileged. -/
def execDecisionRecord (_v : W32) (s : State) : Res := .next (if running s && supMode s then decisionRecord s else s)

/-- The policy timer has come to an expiry: at T_bc with bc_sync in a running star, else at its own instant (R349). -/
def polTimerDue (s : State) : Bool :=
  if s.pol.bcSync && starRunning s then s.pol.bcSeen ≠ some s.star.tbc && s.star.tbc ≤ s.time.now
  else match s.pol.tmrNext with
    | some v => atOrAfter (s.time.now.setWidth 32) v
    | none => false

/-- An expiry sets the latch of event line 63. -/
def polTimerExpire (s : State) : State :=
  let p := s.pol
  let p := if p.bcSync && starRunning s then { p with bcSeen := some s.star.tbc }
    else { p with tmrNext := if p.tmrPeriod = 0 then none else p.tmrNext.map (· + p.tmrPeriod) }
  polLine 63 { s with pol := p }

/-- POLICY_TIMER_EXPIRY (R349). -/
def execPolicyTimerExpiry (s : State) : Res :=
  .next (if running s && polTimerDue s then polTimerExpire s else s)

/-- A privileged port. -/
def sup (s : State) (r : PortRes) : PortRes := if supMode s then r else .priv

/-- A half of a 64-bit register replaced. -/
def setHalf (hi : Bool) (v : W32) (x : W64) : W64 := if hi then v ++ x.setWidth 32 else (x >>> 32).setWidth 32 ++ v

/-- A half of a 64-bit register. -/
def halfOf (hi : Bool) (x : W64) : W32 := if hi then (x >>> 32).setWidth 32 else x.setWidth 32

/-- OUT to ports 0x700-0x732. -/
def polOut (p : Nat) (v : W32) (s : State) : PortRes :=
  let q := s.pol
  match p with
  | 0x700 => sup s (.done 0 { s with pol := { q with excEn := setHalf false v q.excEn } })
  | 0x701 => sup s (.done 0 { s with pol := { q with excEn := setHalf true v q.excEn } })
  | 0x704 => sup s (.done 0 { s with evt := { s.evt with polLatch := s.evt.polLatch &&& ~~~(setHalf false v 0) } })
  | 0x705 => sup s (.done 0 { s with evt := { s.evt with polLatch := s.evt.polLatch &&& ~~~(setHalf true v 0) } })
  | 0x710 => sup s (.done 0 (wdt4Kick s))
  | 0x724 => sup s (.done 0 { s with pol := { q with decision := q.decision.set 0 v } })
  | 0x725 => sup s (.done 0 { s with pol := { q with decision := q.decision.set 1 v } })
  | 0x726 => sup s (.done 0 { s with pol := { q with decision := q.decision.set 2 v } })
  | 0x727 => sup s (.done 0 (decisionRecord s))
  | 0x730 => sup s (.done 0 { s with pol := { q with tmrPeriod := v, tmrNext := if v = 0 then none else q.tmrNext } })
  | 0x731 => sup s (.done 0 { s with pol := { q with tmrNext := some v } })
  | 0x732 => sup s (.done 0 { s with pol := { q with bcSync := bit v 0 } })
  | _ => .bad

/-- IN from ports 0x700-0x732. -/
def polIn (p : Nat) (s : State) : PortRes :=
  match p with
  | 0x700 => sup s (.done (halfOf false s.pol.excEn) s)
  | 0x701 => sup s (.done (halfOf true s.pol.excEn) s)
  | 0x702 => .done (halfOf false s.evt.polLatch) s
  | 0x703 => .done (halfOf true s.evt.polLatch) s
  | 0x720 => .done s.pol.lastCheck s
  | _ => .bad

/-! ### Ports of both profiles, and of the engines -/

/-- A pair as a completed IN. -/
def portDone (r : W32 × State) : PortRes := .done r.1 r.2

/-- IN from the ports of Tables 11.5 to 11.7 that both profiles have. -/
def bothIn (t : Fin 97) (p : Nat) (s : State) : PortRes :=
  let h := thOf s t
  let via : Via := .port t
  if p = 0 then .done (halfOf false s.time.now) (setTh t { h with timeHi := halfOf true s.time.now } s)
  else if p = 1 then .done h.timeHi s
  else if p = 0x010 then .done (h.mstat.setWidth 32) (setTh t { h with mstat := 0 } s)
  else if p = 0x301 then portDone (cryPop t s)
  else if p = 0x302 then .done (BitVec.ofNat 32 (cryFree s t)) s
  else if 0x400 ≤ p && p ≤ 0x43F then portDone (dbTake via (p - 0x400) s)
  else if p = 0x441 then .done (p441In t s) s
  else if 0x450 ≤ p && p ≤ 0x45F then portDone (blockRead via (64 + h.blkSel.toNat) (p - 0x450) s)
  else if 0x480 ≤ p && p ≤ 0x49F then portDone (lockTake (thMaster t) (p - 0x480) s)
  else if 0x500 ≤ p && p ≤ 0x504 then .done (featWord t (p - 0x500)) s
  else if p = 0x606 then crcIn t s
  else .bad

/-- OUT to the ports that both profiles have; a crypto request waits for a free slot (R366). -/
def bothOut (t : Fin 97) (p : Nat) (v : W32) (s : State) : PortRes :=
  let via : Via := .port t
  if p = 2 then .done 0 (timeoutArm t v s)
  else if p = 3 then .done 0 (timeoutDisarm t s)
  else if p = 0x300 then
    if cryFree s t = 0 then .wait
    else
      let s := crySubmit t v s
      match s.mem.stall with
      | some b => .thaw b
      | none => .done 0 s
  else if 0x400 ≤ p && p ≤ 0x43F then .done 0 (dbPost via (p - 0x400) v s)
  else if p = 0x440 then .done 0 (setTh t { thOf s t with blkSel := v.setWidth 4 } s)
  else if p = 0x441 then .done 0 (p441Out t v s)
  else if 0x450 ≤ p && p ≤ 0x45F then .done 0 (blockWrite via (64 + (thOf s t).blkSel.toNat) (p - 0x450) v s)
  else if 0x480 ≤ p && p ≤ 0x49F then .done 0 (lockWrite (thMaster t) (p - 0x480) v s)
  else if 0x600 ≤ p && p ≤ 0x607 then crcOut t p v s
  else .bad

/-- IN from the ports that only engines have: timer, queue and PIO ports (R282: a blocking read waits). -/
def engIn (t : Fin 97) (p : Nat) (s : State) : PortRes :=
  let h := thOf s t
  let b := t.val / 8
  let via : Via := .port t
  if p = 0x022 then .done (BitVec.ofNat 32 h.tmrCount) (setTh t { h with tmrCount := 0 } s)
  else if p = 0x101 then (let (st, s) := viaDequeue via s; .done (BitVec.ofNat 32 st) s)
  else if 0x102 ≤ p && p ≤ 0x105 then .done (wordAt h.qD (p - 0x102)) s
  else if p = 0x10C then .done (h.qStat.setWidth 32) s
  else if p = 0x118 then portDone (popEng (t / 4) s)
  else if p = 0x11C then .done (rd s .QM_Q_DONE 0 h.qsel.toNat) s
  else if 0x204 ≤ p && p ≤ 0x207 then portDone (rxfRead b (p - 0x204) s)
  else if 0x20C ≤ p && p ≤ 0x20F then (if (smOf s b (p - 0x20C)).rxf.isEmpty then .wait else portDone (rxfRead b (p - 0x20C) s))
  else if p = 0x210 then .done (BitVec.ofNat 32 (((List.range 4).map fun m => fifoLevels s b m * 256 ^ m).sum)) s
  else if p = 0x211 then .done ((blkOf s b).flags.setWidth 32) s
  else if p = 0x213 then .done (pioStat s b) s
  else if 0x240 ≤ p && p ≤ 0x27F then .done ((pioWord s b (p - 0x240)).setWidth 32) s
  else if 0x280 ≤ p && p ≤ 0x2BF && p % 16 < 12 then portDone (smRegRead b ((p - 0x280) / 16) (p % 16) s)
  else .bad

/-- OUT to the ports that only engines have (R282: a blocking write waits; R295: port 0x008 acts as ENG_CTRL). -/
def engOut (t : Fin 97) (p : Nat) (v : W32) (s : State) : PortRes :=
  let h := thOf s t
  let b := t.val / 8
  let via : Via := .port t
  if p = 0x008 then .done 0 (engCtrlWrite (t / 4) (v &&& 0xFF) s)
  else if p = 0x020 then .done 0 (timerPeriod t v s)
  else if p = 0x021 then .done 0 (timerStart t v s)
  else if p = 0x100 then .done 0 (setTh t { h with qsel := v.setWidth 12 } s)
  else if 0x108 ≤ p && p ≤ 0x10A then .done 0 (setTh t { h with qE := h.qE.set (p - 0x108) v } s)
  else if p = 0x10B then .done 0 (enqueueWord3 via v s)
  else if p = 0x110 then .done 0 (viaOp via qMark s)
  else if p = 0x111 then .done 0 (viaOp via qRewind s)
  else if p = 0x112 then .done 0 (viaOp via qRelease s)
  else if p = 0x113 then .done 0 (viaOp via qFlush s)
  else if 0x200 ≤ p && p ≤ 0x203 then .done 0 (txfWrite (thMaster t) b (p - 0x200) v s)
  else if 0x208 ≤ p && p ≤ 0x20B then (if txfBusy s b (p - 0x208) then .wait else .done 0 (txfWrite (thMaster t) b (p - 0x208) v s))
  else if p = 0x211 then .done 0 (flagWrite b (v.setWidth 8) ((v >>> 8).setWidth 8) s)
  else if p = 0x212 then .done 0 (pioCtrlWrite b v s)
  else if 0x240 ≤ p && p ≤ 0x27F then .done 0 (pioImemWrite b (p - 0x240) v s)
  else if 0x280 ≤ p && p ≤ 0x2BF && p % 16 < 12 then .done 0 (smRegWrite (thMaster t) b ((p - 0x280) / 16) (p % 16) v s)
  else .bad

/-- IN from port `p` by thread `t`. -/
def portIn (t : Fin 97) (p : Nat) (s : State) : PortRes :=
  match bothIn t p s with
  | .bad => if t.val = 96 then polIn p s else engIn t p s
  | r => r

/-- OUT to port `p` by thread `t`. -/
def portOut (t : Fin 97) (p : Nat) (v : W32) (s : State) : PortRes :=
  match bothOut t p v s with
  | .bad => if t.val = 96 then polOut p v s else engOut t p v s
  | r => r

/-- The place of a mailbox or lock access among those of its cycle: take, cancel, block words, post, flags (15 R389); writes of a
lock, then reads (15 R396). Other ports have none. -/
def mbxRank (isIn : Bool) (p : Nat) (v : W32) : Option Nat :=
  if 0x400 ≤ p && p ≤ 0x43F then some (if isIn then 0 else 3)
  else if p = 0x441 then some (if isIn then 4 else if fld v 1 0 = 1 then 3 else if fld v 1 0 = 3 then 1 else 0)
  else if 0x450 ≤ p && p ≤ 0x45F then some (if isIn then 0 else 2)
  else if 0x480 ≤ p && p ≤ 0x49F then some (if isIn then 1 else 0)
  else none

/-- Mailbox and lock accesses wait for the cycle that the next tick is, in which all of them are served (log 33). -/
def portHeld (isIn : Bool) (p : Nat) (v : W32) (r : PortRes) : PortRes :=
  match r with
  | .done x s => if (mbxRank isIn p v).isSome then .wait else .done x s
  | r => r

end Sys2Proof.Machine
end

