-- ==== Sys2Proof/Machine/Flags.lean ====
section
/-! DEFINITION. The sticky flags of the thread status register: what sets ov and dz (12 R314-R316, Tables 12.5, 12.6). -/

namespace Sys2Proof.Machine

/-- An exact signed result falls outside s32. -/
def outS32 (x : Int) : Bool := x < -0x80000000 || 0x80000000 ≤ x

/-- ov of ADD and ADDI (R315). -/
def addOv (a b : W32) : Bool := outS32 (a.toInt + b.toInt)

/-- ov of SUB (R315). -/
def subOv (a b : W32) : Bool := outS32 (a.toInt - b.toInt)

/-- ov of MUL (Table 12.6). -/
def mulOv (a b : W32) : Bool := outS32 (a.toInt * b.toInt)

/-- ov of NEG and ABS (R315). -/
def negOv (a : W32) : Bool := a = 0x80000000

/-- ov of DIVS (R316). -/
def divOv (a b : W32) : Bool := a = 0x80000000 && b = 0xFFFFFFFF

end Sys2Proof.Machine
end

