-- ==== Sys2Proof/Machine/Operands.lean ====
section
/-! DEFINITION. Eztiel's results and operand forms: arithmetic, shifts, bit fields, byte permutation, extensions (12 R315-R320). -/

namespace Sys2Proof.Machine

/-- sext of an immediate. -/
def sext16 (v : BitVec 16) : W32 := v.signExtend 32

/-- zext of an immediate. -/
def zext16 (v : BitVec 16) : W32 := v.setWidth 32

/-- The byte offset of a branch. -/
def offB (v : BitVec 16) : W32 := v.signExtend 32 * 4

/-- The byte offset of JMP and CALL. -/
def offJ (v : BitVec 26) : W32 := v.signExtend 32 * 4

/-- MIN. -/
def sMin (a b : W32) : W32 := if a.toInt ≤ b.toInt then a else b

/-- MAX. -/
def sMax (a b : W32) : W32 := if a.toInt ≤ b.toInt then b else a

/-- ABS. -/
def absV (a : W32) : W32 := if a.toInt < 0 then 0 - a else a

/-- CLZ (R318). -/
def clzV (a : W32) : W32 := BitVec.ofNat 32 ((List.range 32).takeWhile fun k => !a.getLsbD (31 - k)).length

/-- POPC (R318). -/
def popcV (a : W32) : W32 := BitVec.ofNat 32 ((List.range 32).filter fun k => a.getLsbD k).length

/-- SLL by a full 32-bit amount (R317). -/
def sllV (a : W32) (n : Nat) : W32 := a <<< min n 32

/-- SRL (R317). -/
def srlV (a : W32) (n : Nat) : W32 := a >>> min n 32

/-- SRA (R317). -/
def sraV (a : W32) (n : Nat) : W32 := a.sshiftRight (min n 32)

/-- ROR by the amount modulo 32 (R317). -/
def rorV (a : W32) (n : Nat) : W32 := a >>> (n % 32) ||| a <<< (32 - n % 32)

/-- MULHS: bits [63:32] of the signed product. -/
def mulhsV (a b : W32) : W32 := BitVec.ofInt 32 (a.toInt * b.toInt / 4294967296)

/-- MULHU: bits [63:32] of the unsigned product. -/
def mulhuV (a b : W32) : W32 := BitVec.ofNat 32 (a.toNat * b.toNat / 4294967296)

/-- DIVS (R316). -/
def divsV (a b : W32) : W32 := if b = 0 then 0xFFFFFFFF else BitVec.ofInt 32 (a.toInt.tdiv b.toInt)

/-- DIVU (R316). -/
def divuV (a b : W32) : W32 := if b = 0 then 0xFFFFFFFF else BitVec.ofNat 32 (a.toNat / b.toNat)

/-- REMS (R316). -/
def remsV (a b : W32) : W32 := if b = 0 then a else BitVec.ofInt 32 (a.toInt.tmod b.toInt)

/-- REMU (R316). -/
def remuV (a b : W32) : W32 := if b = 0 then a else BitVec.ofNat 32 (a.toNat % b.toNat)

/-- The bits of a field at `pos` with the encoded length `len1`, cut at bit 31 (R319). -/
def bfBits (pos len1 : Nat) : Nat := min (len1 + 1) (32 - pos)

/-- BFX (R319). -/
def bfxV (a : W32) (pos len1 : Nat) : W32 := BitVec.ofNat 32 (a.toNat / 2 ^ pos % 2 ^ bfBits pos len1)

/-- BFXS (R319). -/
def bfxsV (a : W32) (pos len1 : Nat) : W32 :=
  let n := bfBits pos len1
  if a.getLsbD (pos + n - 1) then bfxV a pos len1 - BitVec.ofNat 32 (2 ^ n) else bfxV a pos len1

/-- BFI (R319): `d` is the destination before. -/
def bfiV (d a : W32) (pos len1 : Nat) : W32 := putFld d (pos + bfBits pos len1 - 1) pos (a.toNat % 2 ^ bfBits pos len1)

/-- The result byte of a selector of BPERM (R320). -/
def bpermByte (src : List Byte) (sel : Nat) : Byte :=
  if sel < 8 then byteAt src sel
  else if sel = 15 then 0
  else if (byteAt src (sel - 8)).getLsbD 7 then 0xFF else 0

/-- BPERM (R320): `d` is the destination before. -/
def bpermV (d a : W32) (imm : BitVec 16) : W32 :=
  let src := leBytes 4 a.toNat ++ leBytes 4 d.toNat
  BitVec.ofNat 32 (ofLe ((List.range 4).map fun k => bpermByte src (imm.toNat / 16 ^ k % 16)))

end Sys2Proof.Machine
end

