-- ==== Sys2Proof/Machine/Eztiel.lean ====
section
/-! DEFINITION. The Eztiel instructions: each issues on a thread, or on the policy core, at its PC (12 R310-R343). -/

namespace Sys2Proof.Machine

/-! ### Arithmetic, logic and shifts (Tables 12.5-12.7) -/

/-- A result written to `rd`, with the flags it sets. -/
def putRes (t rd : Nat) (v : W32) (ov : Bool) (s : State) : Flow × State :=
  let h := thOf s t
  (.seq, setTh t (gW rd v { h with ov := h.ov || ov }) s)

/-- An instruction of two source registers. -/
def ezR3 (t rd ra rb : Nat) (f : W32 → W32 → W32) (ov : W32 → W32 → Bool) (s : State) : State :=
  ezIssue t [rd, ra, rb] (fun h s => putRes t rd (f (gR h ra) (gR h rb)) (ov (gR h ra) (gR h rb)) s) s

/-- An instruction of one source register. -/
def ezR2 (t rd ra : Nat) (f : W32 → W32) (ov : W32 → Bool) (s : State) : State :=
  ezIssue t [rd, ra] (fun h s => putRes t rd (f (gR h ra)) (ov (gR h ra)) s) s

/-- An instruction that also reads its destination. -/
def ezRD (t rd ra : Nat) (f : W32 → W32 → W32) (s : State) : State :=
  ezIssue t [rd, ra] (fun h s => putRes t rd (f (gR h rd) (gR h ra)) false s) s

/-- No flag. -/
def noOv (_ _ : W32) : Bool := false

/-- No flag. -/
def noOv1 (_ : W32) : Bool := false

/-- ADD. -/
def execAdd (t : Fin 97) (rd ra rb : Fin 32) (s : State) : Res := .next (ezR3 t rd ra rb (· + ·) addOv s)
/-- SUB. -/
def execSub (t : Fin 97) (rd ra rb : Fin 32) (s : State) : Res := .next (ezR3 t rd ra rb (· - ·) subOv s)
/-- AND. -/
def execAndd (t : Fin 97) (rd ra rb : Fin 32) (s : State) : Res := .next (ezR3 t rd ra rb (· &&& ·) noOv s)
/-- OR. -/
def execOrr (t : Fin 97) (rd ra rb : Fin 32) (s : State) : Res := .next (ezR3 t rd ra rb (· ||| ·) noOv s)
/-- XOR. -/
def execXor (t : Fin 97) (rd ra rb : Fin 32) (s : State) : Res := .next (ezR3 t rd ra rb (· ^^^ ·) noOv s)
/-- MIN. -/
def execEzMin (t : Fin 97) (rd ra rb : Fin 32) (s : State) : Res := .next (ezR3 t rd ra rb sMin noOv s)
/-- MAX. -/
def execEzMax (t : Fin 97) (rd ra rb : Fin 32) (s : State) : Res := .next (ezR3 t rd ra rb sMax noOv s)
/-- TDIF: the bits of SUB, and no flag (R315). -/
def execTdif (t : Fin 97) (rd ra rb : Fin 32) (s : State) : Res := .next (ezR3 t rd ra rb (fun a b => a - b) noOv s)
/-- NEG. -/
def execNeg (t : Fin 97) (rd ra : Fin 32) (s : State) : Res := .next (ezR2 t rd ra (fun a => 0 - a) negOv s)
/-- ABS. -/
def execAbs (t : Fin 97) (rd ra : Fin 32) (s : State) : Res := .next (ezR2 t rd ra absV negOv s)
/-- CLZ. -/
def execClz (t : Fin 97) (rd ra : Fin 32) (s : State) : Res := .next (ezR2 t rd ra clzV noOv1 s)
/-- POPC. -/
def execPopc (t : Fin 97) (rd ra : Fin 32) (s : State) : Res := .next (ezR2 t rd ra popcV noOv1 s)
/-- SLL. -/
def execSll (t : Fin 97) (rd ra rb : Fin 32) (s : State) : Res := .next (ezR3 t rd ra rb (fun a n => sllV a n.toNat) noOv s)
/-- SRL. -/
def execSrl (t : Fin 97) (rd ra rb : Fin 32) (s : State) : Res := .next (ezR3 t rd ra rb (fun a n => srlV a n.toNat) noOv s)
/-- SRA. -/
def execSra (t : Fin 97) (rd ra rb : Fin 32) (s : State) : Res := .next (ezR3 t rd ra rb (fun a n => sraV a n.toNat) noOv s)
/-- ROR. -/
def execRor (t : Fin 97) (rd ra rb : Fin 32) (s : State) : Res := .next (ezR3 t rd ra rb (fun a n => rorV a n.toNat) noOv s)
/-- SLLI. -/
def execSlli (t : Fin 97) (rd ra n : Fin 32) (s : State) : Res := .next (ezR2 t rd ra (fun a => sllV a n) noOv1 s)
/-- SRLI. -/
def execSrli (t : Fin 97) (rd ra n : Fin 32) (s : State) : Res := .next (ezR2 t rd ra (fun a => srlV a n) noOv1 s)
/-- SRAI. -/
def execSrai (t : Fin 97) (rd ra n : Fin 32) (s : State) : Res := .next (ezR2 t rd ra (fun a => sraV a n) noOv1 s)
/-- RORI. -/
def execRori (t : Fin 97) (rd ra n : Fin 32) (s : State) : Res := .next (ezR2 t rd ra (fun a => rorV a n) noOv1 s)
/-- ADDI. -/
def execAddi (t : Fin 97) (rd ra : Fin 32) (imm : BitVec 16) (s : State) : Res :=
  .next (ezR2 t rd ra (· + sext16 imm) (addOv · (sext16 imm)) s)
/-- ANDI. -/
def execAndi (t : Fin 97) (rd ra : Fin 32) (imm : BitVec 16) (s : State) : Res := .next (ezR2 t rd ra (· &&& zext16 imm) noOv1 s)
/-- ORI. -/
def execOri (t : Fin 97) (rd ra : Fin 32) (imm : BitVec 16) (s : State) : Res := .next (ezR2 t rd ra (· ||| zext16 imm) noOv1 s)
/-- XORI. -/
def execXori (t : Fin 97) (rd ra : Fin 32) (imm : BitVec 16) (s : State) : Res := .next (ezR2 t rd ra (· ^^^ zext16 imm) noOv1 s)
/-- LUI. -/
def execLui (t : Fin 97) (rd : Fin 32) (imm : BitVec 16) (s : State) : Res :=
  .next (ezIssue t [rd] (fun _ s => putRes t rd (zext16 imm <<< 16) false s) s)
/-- BPERM (R320). -/
def execBperm (t : Fin 97) (rd ra : Fin 32) (imm : BitVec 16) (s : State) : Res := .next (ezRD t rd ra (bpermV · · imm) s)
/-- MUL. -/
def execMul (t : Fin 97) (rd ra rb : Fin 32) (s : State) : Res := .next (ezR3 t rd ra rb (· * ·) mulOv s)
/-- MULHS. -/
def execMulhs (t : Fin 97) (rd ra rb : Fin 32) (s : State) : Res := .next (ezR3 t rd ra rb mulhsV noOv s)
/-- MULHU. -/
def execMulhu (t : Fin 97) (rd ra rb : Fin 32) (s : State) : Res := .next (ezR3 t rd ra rb mulhuV noOv s)

/-- A division: by zero it sets dz, or traps on a policy core with dzt set (R316, R339). -/
def ezDiv (t rd ra rb : Nat) (f : W32 → W32 → W32) (ov : W32 → W32 → Bool) (s : State) : State :=
  ezIssue t [rd, ra, rb] (fun h s =>
    let a := gR h ra
    let b := gR h rb
    if b = 0 then
      if t = 96 && s.pol.mode.getLsbD 5 then (.fault 0x15 0, s)
      else putRes t rd (f a b) false (setTh t { h with dz := true } s)
    else putRes t rd (f a b) (ov a b) s) s

/-- DIVS. -/
def execDivs (t : Fin 97) (rd ra rb : Fin 32) (s : State) : Res := .next (ezDiv t rd ra rb divsV divOv s)
/-- DIVU. -/
def execDivu (t : Fin 97) (rd ra rb : Fin 32) (s : State) : Res := .next (ezDiv t rd ra rb divuV noOv s)
/-- REMS. -/
def execRems (t : Fin 97) (rd ra rb : Fin 32) (s : State) : Res := .next (ezDiv t rd ra rb remsV noOv s)
/-- REMU. -/
def execRemu (t : Fin 97) (rd ra rb : Fin 32) (s : State) : Res := .next (ezDiv t rd ra rb remuV noOv s)
/-- BFX (R319). -/
def execBfx (t : Fin 97) (rd ra pos len1 : Fin 32) (s : State) : Res := .next (ezR2 t rd ra (bfxV · pos len1) noOv1 s)
/-- BFXS (R319). -/
def execBfxs (t : Fin 97) (rd ra pos len1 : Fin 32) (s : State) : Res := .next (ezR2 t rd ra (bfxsV · pos len1) noOv1 s)
/-- BFI (R319). -/
def execBfi (t : Fin 97) (rd ra pos len1 : Fin 32) (s : State) : Res := .next (ezRD t rd ra (bfiV · · pos len1) s)

/-! ### Control transfer (Table 12.8, R321, R322) -/

/-- A conditional branch to A + 4 sext(off). -/
def ezBranch (t ra rb : Nat) (off : BitVec 16) (c : W32 → W32 → Bool) (s : State) : State :=
  ezIssue t [ra, rb] (fun h s => (if c (gR h ra) (gR h rb) then .goto (h.pc + offB off) else .seq, s)) s

/-- BEQ. -/
def execBeq (t : Fin 97) (ra rb : Fin 32) (off : BitVec 16) (s : State) : Res := .next (ezBranch t ra rb off (· == ·) s)
/-- BNE. -/
def execBne (t : Fin 97) (ra rb : Fin 32) (off : BitVec 16) (s : State) : Res := .next (ezBranch t ra rb off (· != ·) s)
/-- BLT. -/
def execBlt (t : Fin 97) (ra rb : Fin 32) (off : BitVec 16) (s : State) : Res := .next (ezBranch t ra rb off (·.slt ·) s)
/-- BGE. -/
def execBge (t : Fin 97) (ra rb : Fin 32) (off : BitVec 16) (s : State) : Res := .next (ezBranch t ra rb off (!·.slt ·) s)
/-- BLTU. -/
def execBltu (t : Fin 97) (ra rb : Fin 32) (off : BitVec 16) (s : State) : Res := .next (ezBranch t ra rb off (·.ult ·) s)
/-- BGEU. -/
def execBgeu (t : Fin 97) (ra rb : Fin 32) (off : BitVec 16) (s : State) : Res := .next (ezBranch t ra rb off (!·.ult ·) s)
/-- JMP. -/
def execJmp (t : Fin 97) (off : BitVec 26) (s : State) : Res := .next (ezIssue t [] (fun h s => (.goto (h.pc + offJ off), s)) s)
/-- JR. -/
def execJr (t : Fin 97) (ra : Fin 32) (s : State) : Res := .next (ezIssue t [ra.val] (fun h s => (.goto (gR h ra), s)) s)

/-- The link is set to the return address, and control goes to the target. -/
def linkTo (t : Nat) (target : W32) (s : State) : Flow × State :=
  let h := thOf s t
  (.goto target, setTh t { h with lk := pcMask t (h.pc + 4), lvalid := true } s)

/-- A call: a valid link is spilled below sp first (R321). -/
def ezCall (t : Nat) (target : W32) (h : Thread) (s : State) : Flow × State :=
  if !h.lvalid then linkTo t target s
  else if h.sdepth = 255 then (.fault 0x0D 0, s)
  else
    let sp := gR h 29 - 4
    match dataOp t ⟨.store, sp, 4, false, 0, h.lk.setWidth 64, false, h.pc⟩ [3] s with
    | (.seq, s) => let h := thOf s t; linkTo t target (setTh t (gW 29 sp { h with sdepth := h.sdepth + 1 }) s)
    | r => r

/-- Registers that a call waits for. -/
def callUses (s : State) (t : Nat) : List Nat := if (thOf s t).lvalid then [29] else []

/-- CALL. -/
def execCall (t : Fin 97) (off : BitVec 26) (s : State) : Res :=
  .next (ezIssue t (callUses s t) (fun h s => ezCall t (h.pc + offJ off) h s) s)
/-- CALLR. -/
def execCallr (t : Fin 97) (ra : Fin 32) (s : State) : Res :=
  .next (ezIssue t (ra.val :: callUses s t) (fun h s => ezCall t (gR h ra) h s) s)

/-- A return: a spilled link is popped, and the thread waits for it (R322). -/
def ezRet (t : Nat) (h : Thread) (s : State) : Flow × State :=
  if !h.lvalid then (.goto h.lk, s)
  else if h.sdepth = 0 then (.goto h.lk, setTh t { h with lvalid := false } s)
  else
    let sp := gR h 29
    match dataOp t ⟨.load, sp, 4, false, 0, 0, true, h.pc⟩ [2] s with
    | (.seq, s) =>
      let h := thOf s t
      (.goto h.lk, setTh t (gW 29 (sp + 4) { h with sdepth := h.sdepth - 1, wait := .pop }) s)
    | r => r

/-- RET. -/
def execRet (t : Fin 97) (s : State) : Res :=
  .next (ezIssue t (if (thOf s t).lvalid && (thOf s t).sdepth ≠ 0 then [29] else []) (fun h s => ezRet t h s) s)

/-! ### Hardware loops (R324-R328) -/

/-- LOOP and LOOPI with their count; a length of 0 is ILLEGAL. -/
def ezLoop (t : Nat) (count : W32) (len : BitVec 16) (h : Thread) (s : State) : Flow × State :=
  let body := zext16 len * 4
  if len = 0 then (.fault 0x0A 0, s)
  else if count = 0 then (.goto (h.pc + 4 + body), s)
  else if 3 ≤ h.ldepth then (.fault 0x0B 0, s)
  else
    (.seq, setTh t { h with loops := h.loops.set h.ldepth ⟨pcMask t (h.pc + 4), pcMask t (h.pc + body), count⟩,
                            ldepth := h.ldepth + 1 } s)

/-- LOOP. -/
def execLoop (t : Fin 97) (ra : Fin 32) (len : BitVec 16) (s : State) : Res :=
  .next (ezIssue t [ra.val] (fun h s => ezLoop t (gR h ra) len h s) s)
/-- LOOPI. -/
def execLoopi (t : Fin 97) (count : BitVec 10) (len : BitVec 16) (s : State) : Res :=
  .next (ezIssue t [] (fun h s => ezLoop t (count.setWidth 32) len h s) s)
/-- LEAVE (R327). -/
def execLeave (t : Fin 97) (s : State) : Res :=
  .next (ezIssue t [] (fun h s => (.seq, setTh t { h with ldepth := h.ldepth - 1 } s)) s)

/-! ### Memory and atomics (Table 12.11, R329) -/

/-- A load. -/
def ezLoad (t rd ra : Nat) (imm : BitVec 16) (width : Nat) (sgn : Bool) (s : State) : State :=
  ezIssue t [rd, ra] (fun h s => dataOp t ⟨.load, gR h ra + sext16 imm, width, sgn, rd, 0, false, h.pc⟩ [2] s) s

/-- A store. -/
def ezStore (t rs ra : Nat) (imm : BitVec 16) (width : Nat) (s : State) : State :=
  ezIssue t [rs, ra] (fun h s =>
    dataOp t ⟨.store, gR h ra + sext16 imm, width, false, 0, (gR h rs).setWidth 64, false, h.pc⟩ [3] s) s

/-- An atomic: of a pair with `w`, whose registers are even. -/
def ezAtomic (k : OpKind) (t rd ra rb : Nat) (w : Bool) (s : State) : State :=
  ezIssue t ([rd, ra, rb] ++ if w then [rd + 1, rb + 1] else []) (fun h s =>
    if w && (rd % 2 = 1 || rb % 2 = 1) then (.fault 0x0A 0, s)
    else
      let v : W64 := if w then gR h (rb + 1) ++ gR h rb else (gR h rb).setWidth 64
      dataOp t ⟨k, gR h ra, if w then 8 else 4, false, rd, v, false, h.pc⟩ [2, 3] s) s

/-- LDB. -/
def execLdb (t : Fin 97) (rd ra : Fin 32) (imm : BitVec 16) (s : State) : Res := .next (ezLoad t rd ra imm 1 true s)
/-- LDBU. -/
def execLdbu (t : Fin 97) (rd ra : Fin 32) (imm : BitVec 16) (s : State) : Res := .next (ezLoad t rd ra imm 1 false s)
/-- LDH. -/
def execLdh (t : Fin 97) (rd ra : Fin 32) (imm : BitVec 16) (s : State) : Res := .next (ezLoad t rd ra imm 2 true s)
/-- LDHU. -/
def execLdhu (t : Fin 97) (rd ra : Fin 32) (imm : BitVec 16) (s : State) : Res := .next (ezLoad t rd ra imm 2 false s)
/-- LDW. -/
def execLdw (t : Fin 97) (rd ra : Fin 32) (imm : BitVec 16) (s : State) : Res := .next (ezLoad t rd ra imm 4 false s)
/-- STB. -/
def execStb (t : Fin 97) (rs ra : Fin 32) (imm : BitVec 16) (s : State) : Res := .next (ezStore t rs ra imm 1 s)
/-- STH. -/
def execSth (t : Fin 97) (rs ra : Fin 32) (imm : BitVec 16) (s : State) : Res := .next (ezStore t rs ra imm 2 s)
/-- STW. -/
def execStw (t : Fin 97) (rs ra : Fin 32) (imm : BitVec 16) (s : State) : Res := .next (ezStore t rs ra imm 4 s)
/-- AADD. -/
def execAadd (t : Fin 97) (rd ra rb : Fin 32) (w : Bool) (s : State) : Res := .next (ezAtomic .add t rd ra rb w s)
/-- ASWP. -/
def execAswp (t : Fin 97) (rd ra rb : Fin 32) (w : Bool) (s : State) : Res := .next (ezAtomic .swap t rd ra rb w s)

/-! ### I/O and special registers (R330, R334, R336, R343) -/

/-- The port that an IN or OUT names. -/
def portNum (h : Thread) (ra : Nat) (imm : BitVec 16) : Nat := (gR h ra + zext16 imm).toNat % 0x10000

/-- A thread waits at a blocking port (R282). -/
def ioWait (t : Nat) (isIn : Bool) (p reg : Nat) (v : W32) (s : State) : State :=
  setTh t { thOf s t with wait := .io isIn (BitVec.ofNat 16 p) reg v } s

/-- How an IN or OUT ends. -/
def ezPort (t : Nat) (isIn : Bool) (p reg : Nat) (v : W32) (r : PortRes) (s : State) : Flow × State :=
  match r with
  | .bad => (.fault 0x09 (BitVec.ofNat 32 p), s)
  | .priv => (.fault 0x11 (BitVec.ofNat 32 p), s)
  | .wait => (.stay, ioWait t isIn p reg v s)
  | .thaw b => (.stay, ioWait t isIn p reg v (bankTouch b s))
  | .done x s => (.seq, if isIn then setTh t (gW reg x (thOf s t)) s else s)

/-- An instruction that issues only with no data operation of the thread in flight (R292, R330). -/
def ezFenced (t : Nat) (uses : List Nat) (body : Thread → State → Flow × State) (s : State) : State :=
  ezIssue t uses (fun h s => if h.ops.isEmpty then body h s else (.stall, s)) s

/-- IN. -/
def execInPort (t : Fin 97) (rd ra : Fin 32) (imm : BitVec 16) (s : State) : Res :=
  .next (ezFenced t [rd.val, ra.val] (fun h s =>
    let p := portNum h ra imm
    ezPort t true p rd 0 (portHeld true p 0 (portIn t p s)) s) s)

/-- OUT. -/
def execOutPort (t : Fin 97) (rs ra : Fin 32) (imm : BitVec 16) (s : State) : Res :=
  .next (ezFenced t [rs.val, ra.val] (fun h s =>
    let p := portNum h ra imm
    ezPort t false p 0 (gR h rs) (portHeld false p (gR h rs) (portOut t p (gR h rs) s)) s) s)

/-- A thread that waits at a blocking port tries again. -/
def ioTry (t : Fin 97) (s : State) : State :=
  match (thOf s t).wait with
  | .io true p reg _ =>
    match portIn t p.toNat s with
    | .done x s => waitDone t false (setTh t (gW reg x (thOf s t)) s)
    | _ => s
  | .io false p _ v =>
    match portOut t p.toNat v s with
    | .done _ s => waitDone t false s
    | _ => s
  | _ => s

/-- The place of the mailbox or lock access that a thread waits for. -/
def ioRank (s : State) (t : Nat) : Option Nat :=
  match (thOf s t).wait with
  | .io isIn p _ v => mbxRank isIn p.toNat v
  | _ => none

/-- A special register of both profiles. -/
def spBoth (h : Thread) (n : Nat) : Option W32 :=
  if n = 0 then some (tsrOf h)
  else if n = 1 then some h.lk
  else if 4 ≤ n && n ≤ 12 then some (loopWord h ((n - 4) / 3) ((n - 4) % 3))
  else none

/-- A special register of the policy profile (Tables 12.2, 12.15, 12.17). -/
def spPol (s : State) (n : Nat) : Option W32 :=
  let r := mpuOf s s.pol.mpuSel.toNat
  match n with
  | 0x10 => some (s.pol.mode.setWidth 32)
  | 0x11 => some s.pol.epc
  | 0x12 => some s.pol.ecause
  | 0x13 => some s.pol.eval
  | 0x14 => some s.pol.vbase
  | 0x15 => some s.pol.sscratch
  | 0x18 => some (s.pol.mpuSel.setWidth 32)
  | 0x19 => some r.base
  | 0x1A => some r.limit
  | 0x1B => some (r.attr.setWidth 32)
  | _ => none

/-- IN of a special register. -/
def execInSpecial (t : Fin 97) (rd : Fin 32) (num : BitVec 16) (s : State) : Res :=
  .next (ezFenced t [rd.val] (fun h s =>
    match spBoth h num.toNat with
    | some v => putRes t rd v false s
    | none =>
      match if t.val = 96 then spPol s num.toNat else none with
      | some v => if supMode s then putRes t rd v false s else (.fault 0x11 0, s)
      | none => (.fault 0x0A 0, s)) s)

/-- The selected region changed. -/
def mpuSet (f : MpuRegion → MpuRegion) (s : State) : State :=
  let k := s.pol.mpuSel.toNat
  { s with pol := { s.pol with mpu := nmSet ⟨0, 0, 0⟩ s.pol.mpu k (f (mpuOf s k)) } }

/-- A special register of the policy profile written; ECAUSE and EVAL are read-only. -/
def spPolSet (n : Nat) (v : W32) (s : State) : State :=
  match n with
  | 0x10 => { s with pol := { s.pol with mode := v.setWidth 6 } }
  | 0x11 => { s with pol := { s.pol with epc := v } }
  | 0x14 => { s with pol := { s.pol with vbase := v &&& 0x7FF00 } }
  | 0x15 => { s with pol := { s.pol with sscratch := v } }
  | 0x18 => { s with pol := { s.pol with mpuSel := v.setWidth 4 } }
  | 0x19 => mpuSet (fun r => { r with base := v &&& 0xFFFFFFC0 }) s
  | 0x1A => mpuSet (fun r => { r with limit := v &&& 0xFFFFFFC0 }) s
  | 0x1B => mpuSet (fun r => { r with attr := v.setWidth 6 }) s
  | _ => s

/-- OUT to TSR: ov and dz, and in supervisor mode the fields of R336; in user mode a change of those raises PRIVILEGE. -/
def tsrOut (t : Nat) (v : W32) (h : Thread) (s : State) : Flow × State :=
  if t = 96 && !supMode s && (v &&& 0xFF1C) ≠ (tsrOf h &&& 0xFF1C) then (.fault 0x11 0, s)
  else (.seq, setTh t (tsrWrite (t = 96 && supMode s) v h) s)

/-- OUT to a special register. -/
def execOutSpecial (t : Fin 97) (rs : Fin 32) (num : BitVec 16) (s : State) : Res :=
  .next (ezFenced t [rs.val] (fun h s =>
    let n := num.toNat
    let v := gR h rs
    if n = 0 then tsrOut t v h s
    else if n = 1 then (.seq, setTh t { h with lk := v, lvalid := true } s)
    else if 4 ≤ n && n ≤ 12 then (.seq, setTh t (loopSet ((n - 4) / 3) ((n - 4) % 3) v h) s)
    else if t.val = 96 && (spPol s n).isSome then (if supMode s then (.seq, spPolSet n v s) else (.fault 0x11 0, s))
    else (.fault 0x0A 0, s)) s)

/-! ### Instruction space (R331) -/

/-- The size of a thread's instruction space. -/
def imemSize (t : Nat) : Nat := if t = 96 then 0x80000 else 0x10000

/-- Why an instruction-space access faults. -/
def imemFault (s : State) (t : Nat) (need : List Nat) (a : W32) : Option Nat :=
  if a.toNat % 4 ≠ 0 then some 2
  else if imemSize t ≤ a.toNat then some 1
  else mpuFault s t true need a

/-- LDC. -/
def execLdc (t : Fin 97) (rd ra : Fin 32) (imm : BitVec 16) (s : State) : Res :=
  .next (ezIssue t [rd.val, ra.val] (fun h s =>
    let a := gR h ra + sext16 imm
    match imemFault s t [2] a with
    | some c => (.fault c a, s)
    | none => if instrPoisoned s t a then (.fault 8 a, s) else putRes t rd (instrWord s t a) false (eccCorrect t true a.toNat 4 s)) s)

/-- A word of the policy core's instruction memory written. -/
def polIWrite (a : Nat) (ws : List W32) (s : State) : State :=
  singleEnd (eccKey 96 true a) ws.length
    { s with stores := { s.stores with polI := memWriteN s.stores.polI a (bytesOfWords ws) },
             pol := { s.pol with poison := s.pol.poison.filter fun w => w < a / 4 || a / 4 + ws.length ≤ w } }

/-- STC: policy supervisor only. -/
def execStc (t : Fin 97) (rs ra : Fin 32) (imm : BitVec 16) (s : State) : Res :=
  .next (ezIssue t [rs.val, ra.val] (fun h s =>
    let a := gR h ra + sext16 imm
    if t.val ≠ 96 then (.fault 0x0A 0, s)
    else if !supMode s then (.fault 0x11 0, s)
    else match imemFault s t [3] a with
      | some c => (.fault c a, s)
      | none => (.seq, polIWrite a.toNat [gR h rs] s)) s)

/-! ### Waits and thread control (Table 12.13) -/

/-- NOP. -/
def execEzNop (t : Fin 97) (s : State) : Res := .next (ezIssue t [] (fun _ s => (.seq, s)) s)

/-- The other threads of an engine that are ready. -/
def readySiblings (s : State) (t : Nat) : List Nat :=
  if t = 96 then [] else ([0, 1, 2, 3].map fun k => t / 4 * 4 + k).filter fun u => u ≠ t && thReady s u

/-- YIELD (R284). -/
def execYield (t : Fin 97) (s : State) : Res :=
  .next (ezIssue t [] (fun h s => (.seq, setTh t { h with yield_ := readySiblings s t } s)) s)

/-- HALT (R285). -/
def execHalt (t : Fin 97) (s : State) : Res :=
  .next (ezIssue t [] (fun h s =>
    let s := setTh t { h with halted := true, fb := fbDisable h.fb } s
    (.seq, if t.val = 96 then s else engCause (t / 4) (4 + t % 4) s)) s)

/-- WAITT: an instant already passed completes it at once (R297). -/
def execWaitt (t : Fin 97) (ra : Fin 32) (s : State) : Res :=
  .next (ezIssue t [ra.val] (fun h s =>
    if atOrAfter (s.time.now.setWidth 32) (gR h ra) then (.seq, s)
    else (.stay, setTh t { h with wait := .waitt (gR h ra) } s)) s)

/-- A wait that can complete at issue does; its timeout disarms (R300). -/
def ezWait (t : Nat) (w : Wait) (r : Option State) (s : State) : Flow × State :=
  match r with
  | some s => (.seq, setTh t { thOf s t with timeout := none } s)
  | none => (.stay, setTh t { thOf s t with wait := w } s)

/-- WAITE (R298); on the policy core the mask and the destination are pairs, whose registers are even (R332). -/
def execWaite (t : Fin 97) (rd ra : Fin 32) (s : State) : Res :=
  .next (ezIssue t ([rd.val, ra.val] ++ if t.val = 96 then [rd.val + 1, ra.val + 1] else []) (fun h s =>
    if t.val = 96 && (rd.val % 2 = 1 || ra.val % 2 = 1) then (.fault 0x0A 0, s)
    else
      let mask : W64 := if t.val = 96 then gR h (ra.val + 1) ++ gR h ra else (gR h ra &&& 0x1FFFF).setWidth 64
      ezWait t (.waite mask rd) (waiteTry t mask rd s) s) s)

/-- WAITQ (R299, R332). -/
def execWaitq (t : Fin 97) (rd : Fin 32) (s : State) : Res :=
  .next (ezIssue t [rd.val] (fun _ s => ezWait t (.waitq rd) (waitqTry t rd s) s) s)

/-- SYS: the exception SYS on the policy core (R335). -/
def execSys (t : Fin 97) (code : BitVec 10) (s : State) : Res :=
  .next (ezIssue t [] (fun _ s => (if t.val = 96 then .sys code.toNat else .fault 0x0A 0, s)) s)

/-- ERET (R338). -/
def execEret (t : Fin 97) (s : State) : Res :=
  .next (ezIssue t [] (fun _ s =>
    let m := s.pol.mode
    let m' : BitVec 6 := BitVec.ofNat 6 (ofBool (m.getLsbD 1) + ofBool (m.getLsbD 1) * 2 + ofBool (m.getLsbD 3) * 4 +
      ofBool (m.getLsbD 3) * 8 + ofBool (m.getLsbD 5) * 32)
    if t.val ≠ 96 then (.fault 0x0A 0, s)
    else if !supMode s then (.fault 0x11 0, s)
    else (.goto s.pol.epc, { s with pol := { s.pol with mode := m' } })) s)

/-! ### Encodings (Tables 12.3-12.13, R312) -/

/-- A register field. -/
def rF (w : W32) (lo : Nat) : Fin 32 := Fin.ofNat 32 (fld w (lo + 4) lo)

/-- The low half word. -/
def immF (w : W32) : BitVec 16 := w.setWidth 16

/-- Group 00: ALU on registers. -/
def decAlu (t : Fin 97) (w : W32) : Option (State → Res) :=
  let rd := rF w 21
  let ra := rF w 16
  let rb := rF w 11
  let one (i : State → Res) : Option (State → Res) := if rb = 0 then some i else none
  match fld w 10 0 with
  | 0x00 => some (execAdd t rd ra rb)
  | 0x01 => some (execSub t rd ra rb)
  | 0x02 => some (execAndd t rd ra rb)
  | 0x03 => some (execOrr t rd ra rb)
  | 0x04 => some (execXor t rd ra rb)
  | 0x05 => some (execEzMin t rd ra rb)
  | 0x06 => some (execEzMax t rd ra rb)
  | 0x07 => some (execTdif t rd ra rb)
  | 0x08 => one (execNeg t rd ra)
  | 0x09 => one (execAbs t rd ra)
  | 0x0A => one (execClz t rd ra)
  | 0x0B => one (execPopc t rd ra)
  | 0x10 => some (execSll t rd ra rb)
  | 0x11 => some (execSrl t rd ra rb)
  | 0x12 => some (execSra t rd ra rb)
  | 0x13 => some (execRor t rd ra rb)
  | _ => none

/-- Groups 01 and 02: multiply and divide, shifts by an immediate. -/
def decMulShift (t : Fin 97) (w : W32) : Option (State → Res) :=
  let rd := rF w 21
  let ra := rF w 16
  let rb := rF w 11
  match fld w 26 26, fld w 10 0 with
  | 1, 0x00 => some (execMul t rd ra rb)
  | 1, 0x01 => some (execMulhs t rd ra rb)
  | 1, 0x02 => some (execMulhu t rd ra rb)
  | 1, 0x04 => some (execDivs t rd ra rb)
  | 1, 0x05 => some (execDivu t rd ra rb)
  | 1, 0x06 => some (execRems t rd ra rb)
  | 1, 0x07 => some (execRemu t rd ra rb)
  | 0, 0x10 => some (execSlli t rd ra rb)
  | 0, 0x11 => some (execSrli t rd ra rb)
  | 0, 0x12 => some (execSrai t rd ra rb)
  | 0, 0x13 => some (execRori t rd ra rb)
  | _, _ => none

/-- Group 03: bit fields. -/
def decBits (t : Fin 97) (w : W32) : Option (State → Res) :=
  let rd := rF w 21
  let ra := rF w 16
  match fld w 5 0 with
  | 0 => some (execBfx t rd ra (rF w 11) (rF w 6))
  | 1 => some (execBfxs t rd ra (rF w 11) (rF w 6))
  | 2 => some (execBfi t rd ra (rF w 11) (rF w 6))
  | _ => none

/-- Group 1A: control; every field that the syntax does not name is 0. -/
def decControl (t : Fin 97) (w : W32) : Option (State → Res) :=
  let rd := rF w 21
  let ra := rF w 16
  let chk (d a : Bool) (i : State → Res) : Option (State → Res) :=
    if (d || rd = 0) && (a || ra = 0) && fld w 15 6 = 0 then some i else none
  match fld w 5 0 with
  | 0x00 => chk false false (execEzNop t)
  | 0x01 => chk false false (execYield t)
  | 0x02 => chk false false (execHalt t)
  | 0x08 => chk false true (execJr t ra)
  | 0x09 => chk false true (execCallr t ra)
  | 0x0A => chk false false (execRet t)
  | 0x0C => chk false false (execLeave t)
  | 0x10 => chk false true (execWaitt t ra)
  | 0x11 => chk true true (execWaite t rd ra)
  | 0x12 => chk true false (execWaitq t rd)
  | 0x20 => if rd = 0 && ra = 0 then some (execSys t (BitVec.ofNat 10 (fld w 15 6))) else none
  | 0x21 => chk false false (execEret t)
  | _ => none

/-- Group 2C: atomics. -/
def decAtomic (t : Fin 97) (w : W32) : Option (State → Res) :=
  if fld w 10 7 ≠ 0 then none
  else match fld w 5 0 with
    | 0 => some (execAadd t (rF w 21) (rF w 16) (rF w 11) (bit w 6))
    | 1 => some (execAswp t (rF w 21) (rF w 16) (rF w 11) (bit w 6))
    | _ => none

/-- The meaning of an instruction word on a thread; none is ILLEGAL (R312). -/
def ezDecode (t : Fin 97) (w : W32) : Option (State → Res) :=
  let rd := rF w 21
  let ra := rF w 16
  let imm := immF w
  match fld w 31 26 with
  | 0x00 => decAlu t w
  | 0x01 => decMulShift t w
  | 0x02 => decMulShift t w
  | 0x03 => decBits t w
  | 0x04 => some (execAddi t rd ra imm)
  | 0x05 => some (execAndi t rd ra imm)
  | 0x06 => some (execOri t rd ra imm)
  | 0x07 => some (execXori t rd ra imm)
  | 0x08 => if ra = 0 then some (execLui t rd imm) else none
  | 0x09 => some (execBperm t rd ra imm)
  | 0x10 => some (execBeq t rd ra imm)
  | 0x11 => some (execBne t rd ra imm)
  | 0x12 => some (execBlt t rd ra imm)
  | 0x13 => some (execBge t rd ra imm)
  | 0x14 => some (execBltu t rd ra imm)
  | 0x15 => some (execBgeu t rd ra imm)
  | 0x18 => some (execJmp t (w.setWidth 26))
  | 0x19 => some (execCall t (w.setWidth 26))
  | 0x1A => decControl t w
  | 0x1C => if ra = 0 && imm ≠ 0 then some (execLoop t rd imm) else none
  | 0x1D => if imm ≠ 0 then some (execLoopi t (BitVec.ofNat 10 (fld w 25 16)) imm) else none
  | 0x20 => some (execLdb t rd ra imm)
  | 0x21 => some (execLdbu t rd ra imm)
  | 0x22 => some (execLdh t rd ra imm)
  | 0x23 => some (execLdhu t rd ra imm)
  | 0x24 => some (execLdw t rd ra imm)
  | 0x28 => some (execStb t rd ra imm)
  | 0x29 => some (execSth t rd ra imm)
  | 0x2A => some (execStw t rd ra imm)
  | 0x2C => decAtomic t w
  | 0x30 => some (execInPort t rd ra imm)
  | 0x31 => some (execOutPort t rd ra imm)
  | 0x32 => if ra = 0 then some (execInSpecial t rd imm) else none
  | 0x33 => if ra = 0 then some (execOutSpecial t rd imm) else none
  | 0x34 => some (execLdc t rd ra imm)
  | 0x35 => some (execStc t rd ra imm)
  | _ => none

/-- ILLEGAL (R312): a word that no table defines faults; a word that is an instruction is not this event. -/
def execIllegal (t : Fin 97) (word : BitVec 32) (s : State) : Res :=
  .next (match ezDecode t word with
    | some _ => s
    | none => ezIssue t [] (fun _ s => (.fault 0x0A 0, s)) s)

end Sys2Proof.Machine
end

