-- ==== Sys2Proof/Machine/Power.lean ====
section
/-! DEFINITION. Power states, wake sources, dozing, real-time clock, PLLs, and the JTAG TAP (08 R233; 17 R413-R421; 18 R439). -/

namespace Sys2Proof.Machine

/-! ### Requests (R415, R416, R419) -/

/-- A bank is in march, handover or a power change. -/
def bankChanging (s : State) : Bool :=
  s.mem.test.isSome || s.mem.banks.any fun e => e.2.pend.isSome || e.2.underTest || e.2.thawing

/-- Why a request for Frost or Midwinter is refused: the first failing condition (R415). -/
def pwrReason (s : State) : Option Nat :=
  if (List.range 16).any fun p => !isOff s .ETH_STAT p then some 1
  else if !isOff s .STAR_STAT 0 then some 2
  else if (List.range 32).any fun c => !isOff s .CAN_STAT c && busOf s c ≠ 2 then some 3
  else if bankChanging s then some 4
  else if s.cfg.armed.isSome then some 5
  else if s.pwr.fwWrite.isSome || s.pwr.restartCmd.isSome || restartBusy s then some 6
  else if s.rings.any fun e => !e.2.inflight.isEmpty || !e.2.held.isEmpty then some 7
  else none

/-- The power state set. -/
def setPwr (p : PwrState) (s : State) : State := { s with pwr := { s.pwr with st := p } }

/-- A write of CLK_PWR_REQ with the key: refused, or accepted with source 9. -/
def pwrReqWrite (v : W32) (s : State) : State :=
  if fld v 31 16 ≠ 0x0C1D || fld v 1 0 = 0 || fld v 1 0 = 3 then s
  else
    match pwrReason s with
    | some why => raise 11 (setF .CLK_PWR_STAT 0 0 15 12 why (setB .CLK_PWR_STAT 0 0 0x100 s))
    | none => setPwr (if fld v 1 0 = 1 then .entering else .enteringMidwinter) (raise 9 s)

/-- FROST_REQUEST (R415, R416). -/
def execFrostRequest (m : Fin 64) (v : W32) (s : State) : Res :=
  .next (if fld v 1 0 = 1 then withWrite m .CLK_PWR_REQ 0 v (pwrReqWrite v) s else s)

/-- MIDWINTER_REQUEST (R415, R419). -/
def execMidwinterRequest (m : Fin 64) (v : W32) (s : State) : Res :=
  .next (if fld v 1 0 = 2 then withWrite m .CLK_PWR_REQ 0 v (pwrReqWrite v) s else s)

/-- Operations of threads, or accesses of hosts, are in flight. -/
def opsInFlight (s : State) : Bool :=
  (s.eng.threads.any fun e => !e.2.ops.isEmpty) || (s.pol.th.ops.any fun o => o.addr.toNat < 0x80000000) || !s.mem.bar2.isEmpty

/-- The entry to Frost ends once the accesses in flight have completed: every ON bank is in FROST (R416, 04 R110). -/
def frostEnter (s : State) : State :=
  if s.pwr.st = .entering && !opsInFlight s then
    setPwr .frost ((List.range 384).foldl (fun s b => if (bankOf s b).pwr = 0 then setBank b { bankOf s b with pwr := 1 } s else s) s)
  else s

/-- Midwinter is entered once the staging is empty and the counter area written (R410, R419); a wake detected meanwhile
takes effect at once. -/
def midwinterEnter (s : State) : State :=
  if s.pwr.st = .enteringMidwinter && s.recorder.staged.isEmpty then
    let wake := s.pwr.wakePend
    let s := setPwr .midwinter (counterWrite s)
    if wake then deviceReset 3 s else s
  else s

/-! ### Wake sources (R417-R420) -/

/-- WAKE_OUT_N is low. -/
def wakeOutLow (s : State) : Bool := bit (rd s .CLK_WAKEIN_CFG 0 0) 16 && rd s .CLK_WAKE_CAUSE 0 0 ≠ 0

/-- A change of the always-on registers, and of WAKE_OUT_N with them. -/
def withWakeOut (f : State → State) (s : State) : State :=
  let t := f s
  if wakeOutLow s = wakeOutLow t then t else say (.pin 10 (!wakeOutLow t)) t

/-- A write of CLK_WAKE_CAUSE or CLK_WAKEIN_CFG. -/
def wakeRegWrite (r : Reg) (v : W32) (s : State) : State := withWakeOut (plainWrite r 0 0 v) s

/-- A wake source is detected outside RUN: latched; an enabled one fires, and wakes the device (R417-R420). -/
def wakeDetect (k : Nat) (s : State) : State :=
  let s := withWakeOut (setB .CLK_WAKE_CAUSE 0 0 (oneBit k)) s
  if !bit (rd s .CLK_WAKE_EN 0 0) k then s
  else
    match s.pwr.st with
    | .entering => setPwr .thaw (raise (wakeSource k) s)
    | .frost => setPwr .thaw (raise (wakeSource k) s)
    | .thaw => raise (wakeSource k) s
    | .enteringMidwinter =>
      let s := raise (wakeSource k) s
      { s with pwr := { s.pwr with wakePend := true } }
    | .midwinter => deviceReset 3 (raise (wakeSource k) s)
    | _ => s

/-- WAKE_DETECT (R417, R418, R420): in RUN a WAKE_IN pin only fires its source. -/
def execWakeDetect (src : Fin 19) (s : State) : Res :=
  .next (if running s then (if 12 ≤ src.val && src.val < 16 then raise (315 + (src - 12)) s else s)
  else if s.pwr.st = .off then s
  else wakeDetect src s)

/-- The state that a bank's req names, after Frost: OFF banks stay OFF (04 R110). -/
def bankThawed (s : State) (b : Nat) : Bank :=
  let k := bankOf s b
  if k.pwr = 2 then k else { k with pwr := if fld (rd s .MEM_PWR 0 b) 1 0 = 1 then 1 else 0, thawing := false }

/-- THAW_COMPLETE (R418, 03 R66, 04 R110): banks at their req states, PLLs locked, the clock reloaded unless it ran, source 10;
and the rules of the wake cause (13 R355). -/
def execThawComplete (s : State) : Res :=
  .next (if s.pwr.st = .thaw then
    let s := (List.range 384).foldl (fun s b => setBank b (bankThawed s b) s) (setPwr .run s)
    let s := wr .CLK_PLL_STAT 0 0 0xF s
    causeApply (causeDue (raise 10 (if bit (rd s .TIME_CTRL 0 0) 0 then s else clockReload s)))
  else s)

/-! ### Wake detectors of CAN0-CAN7 (08 R233) -/

/-- The detectors of channel `c` watch: its bus is ASLEEP, or the channel is OFF outside RUN. -/
def canWatches (s : State) (c : Nat) : Bool :=
  s.pwr.st ≠ .off && ((!isOff s .CAN_STAT c && busOf s c = 2) || (isOff s .CAN_STAT c && !running s))

/-- A detection: cause and matcher latched; in RUN the bus wakes, else the device may. -/
def canDetected (c cause matcher : Nat) (s : State) : State :=
  let s := setF .CAN_WAKE_STAT 0 c 6 4 matcher (setF .CAN_WAKE_STAT 0 c 1 0 cause s)
  if running s then
    let settle := max 1 (fld (rd s .CAN_WAKE_TIM 0 c) 11 0)
    setBus c 3 (setCh c { chOf s c with wakeStep := 1, wakeLocal := true, wakeAt := s.time.now + BitVec.ofNat 64 (settle * 1000) } s)
  else wakeDetect c s

/-- WAKE_UP_PATTERN_DETECT (R233). -/
def execWakeUpPatternDetect (c : Fin 8) (s : State) : Res :=
  .next (if canWatches s c && bit (rd s .CAN_WAKE_CFG 0 c) 0 then canDetected c 1 0 s else s)

/-- Word `w` of wake matcher `k`. -/
def wufW (s : State) (c k w : Nat) : W32 := rd s .CAN_WUF (8 * k + w) c

/-- Matcher `k` of channel `c` matches a frame (R233). -/
def wufMatch (s : State) (c k : Nat) (f : WakeFrame) : Bool :=
  let w0 := wufW s c k 0
  let w2 := wufW s c k 2
  let mask : BitVec 64 := wufW s c k 5 ++ wufW s c k 4
  bit w0 31 && bit w0 29 = f.ide && ((w0.setWidth 29 ^^^ f.id) &&& (wufW s c k 1).setWidth 29) = 0 &&
    (!bit w2 4 || f.dlc = w2.setWidth 4) && (mask = 0 || f.data &&& mask ≠ 0)

/-- WAKE_UP_FRAME_MATCH (R233). -/
def execWakeUpFrameMatch (c : Fin 8) (fr : WakeFrame) (s : State) : Res :=
  .next (if canWatches s c && bit (rd s .CAN_WAKE_CFG 0 c) 1 then
    match (List.range 8).find? fun k => wufMatch s c k fr with
    | some k => canDetected c 2 k (wr .CAN_WAKE_ID 0 c (BitVec.ofNat 32 (fr.id.toNat + ofBool fr.ide * 2 ^ 29)) s)
    | none => s
  else s)

/-! ### Dozing (R413, R414, Table 17.3) -/

/-- The clock domain may doze now: it has no work. -/
def canDoze (s : State) (d : Nat) : Bool :=
  let portsOff (lo n : Nat) : Bool := (List.range n).all fun k => isOff s .ETH_STAT (lo + k)
  let quiet (t : Nat) : Bool := (thOf s t).fb = 0 || (thOf s t).wait ≠ .none
  match d with
  | 4 => quiet 96
  | 5 => (List.range 48).all quiet
  | 6 => (List.range 48).all fun t => quiet (48 + t)
  | 7 => portsOff 0 16
  | 8 => portsOff 0 16 || (List.range 384).all fun b => (bankOf s b).owner ≠ 1
  | 9 => (s.eng.threads.all fun e => e.2.cry.isEmpty) && s.pol.th.cry.isEmpty
  | 14 => portsOff 4 4
  | 15 => portsOff 8 4
  | 20 => (List.range 32).all fun c => isOff s .CAN_STAT c || busOf s c = 2
  | 21 => !starRunning s
  | 22 => !bit (rd s .STAR_STAT 0 0) 17
  | 23 => s.pio.sms.all fun e => !e.2.running
  | 24 => s.rings.all fun e => e.2.inflight.isEmpty
  | 25 => s.recorder.staged.isEmpty && s.pwr.fwWrite.isNone
  | _ => if 10 ≤ d && d ≤ 13 then portsOff (d - 10) 1 else if 16 ≤ d && d ≤ 19 then portsOff (d - 4) 1 else false

/-- A domain's doze bit set. -/
def setDoze (d : Nat) (on : Bool) (s : State) : State :=
  let m : BitVec 28 := BitVec.ofNat 28 (2 ^ d)
  { s with pwr := { s.pwr with dozing := if on then s.pwr.dozing ||| m else s.pwr.dozing &&& ~~~m } }

/-- DOZE_ENTER (R413, R414): after 64 idle cycles the domain's clock stops. -/
def execDozeEnter (d : Fin 28) (s : State) : Res :=
  .next (if running s && canDoze s d && !bit (rd s .CLK_DOZE_DIS 0 0) d then setDoze d true s else s)

/-- DOZE_EXIT (R414). -/
def execDozeExit (d : Fin 28) (s : State) : Res := .next (if running s then setDoze d false s else s)

/-- A write of CLK_DOZE_DIS: a domain it names runs. -/
def dozeDisWrite (v : W32) (s : State) : State :=
  let s := plainWrite .CLK_DOZE_DIS 0 0 v s
  { s with pwr := { s.pwr with dozing := s.pwr.dozing &&& ~~~(v.setWidth 28) } }

/-- The domains that are clocked: in RUN all but those that doze (Table 17.1). -/
def domRun (s : State) : W32 := ((~~~s.pwr.dozing : BitVec 28)).setWidth 32

/-! ### Real-time clock and PLLs (R421, Table 17.14) -/

/-- RTC_ALARM (R421): fires once and clears; outside RUN it is a wake source. -/
def execRtcAlarm (s : State) : Res :=
  .next (let a := rd s .CLK_RTC_ALARM 0 0
    if s.pwr.st = .off || a = 0 || rd s .CLK_RTC_S 0 0 ≠ a then s
    else
      let s := wr .CLK_RTC_ALARM 0 0 0 s
      if running s then raise 13 s
      else if bit (rd s .CLK_WAKE_EN 0 0) 16 then wakeDetect 16 s
      else wakeDetect 16 (raise 13 s))

/-- PLL_LOCK_LOSS (R50, Table 17.12). -/
def execPllLockLoss (pll : Fin 4) (s : State) : Res :=
  .next (if running s && bit (rd s .CLK_PLL_STAT 0 0) pll then raise 15 (clrB .CLK_PLL_STAT 0 0 (oneBit pll) s) else s)

/-- The always-on clock: one tick of operating time and of the real-time clock (16, R421). -/
def aonTick (s : State) : State :=
  let n := s.pwr.rtcFrac + 1
  let r := s.recorder
  let sec := decide (n = 250000000)
  let s := { s with pwr := { s.pwr with rtcFrac := if sec then 0 else n } }
  let s := if n % 250000 = 0 then
      (if r.opMs = 999 then setRec { r with opMs := 0, opS := r.opS + 1 } s else setRec { r with opMs := r.opMs + 1 } s)
    else s
  if sec then wr .CLK_RTC_S 0 0 (rd s .CLK_RTC_S 0 0 + 1) s else s

/-! ### JTAG (R439, Table 18.6): the TAP of IEEE 1149.1 with BYPASS, IDCODE, SAMPLE/PRELOAD and EXTEST -/

/-- The next TAP state. States by their IEEE 1149.1 codes: Test-Logic-Reset 15, Run-Test/Idle 12, Select/Capture/Shift/Exit1/
Pause/Exit2/Update-DR 7 6 2 1 3 0 5, and -IR 4 14 10 9 11 8 13. -/
def tapNext (st : Nat) (tms : Bool) : BitVec 4 :=
  match st with
  | 15 => if tms then 15 else 12
  | 12 => if tms then 7 else 12
  | 7 => if tms then 4 else 6
  | 6 => if tms then 1 else 2
  | 2 => if tms then 1 else 2
  | 1 => if tms then 5 else 3
  | 3 => if tms then 0 else 3
  | 0 => if tms then 5 else 2
  | 5 => if tms then 7 else 12
  | 4 => if tms then 15 else 14
  | 14 => if tms then 9 else 10
  | 10 => if tms then 9 else 10
  | 9 => if tms then 13 else 11
  | 11 => if tms then 8 else 11
  | 8 => if tms then 13 else 10
  | _ => if tms then 7 else 12

/-- Length of the data register that the instruction selects: IDCODE 32, the boundary register 128, BYPASS 1. -/
def tapLen (ir : BitVec 4) : Nat := if ir = 1 then 32 else if ir = 0 || ir = 2 then 128 else 1

/-- What the selected data register captures. -/
def tapCapture (s : State) : BitVec 128 :=
  let ir := s.pwr.tapIr
  if ir = 1 then (Reg.GLB_ID.desc.reset).setWidth 128 else if ir = 0 || ir = 2 then padLevels s else 0

/-- A shift toward TDO with TDI entering at the top. -/
def shiftDown (n : Nat) (v : Nat) (tdi : Bool) : Nat := v / 2 + ofBool tdi * 2 ^ (n - 1)

/-- A rising TCK edge: capture or shift of the present state, then the next state. -/
def tapRise (tms tdi : Bool) (s : State) : State :=
  let p := s.pwr
  let st := p.tap.toNat
  let p :=
    if st = 6 then { p with tapDr := tapCapture s }
    else if st = 2 then { p with tapDr := BitVec.ofNat 128 (shiftDown (tapLen p.tapIr) p.tapDr.toNat tdi) }
    else if st = 14 then { p with tapIrShift := 1 }
    else if st = 10 then { p with tapIrShift := BitVec.ofNat 4 (shiftDown 4 p.tapIrShift.toNat tdi) }
    else p
  { s with pwr := { p with tap := tapNext st tms } }

/-- A bit leaves at TDO. -/
def tdoShift (b : Bool) (s : State) : State := say (.pin 9 b) { s with pwr := { s.pwr with tdo := some b } }

/-- A falling TCK edge: updates, and TDO in the shift states. -/
def tapFall (s : State) : State :=
  let p := s.pwr
  match p.tap.toNat with
  | 13 => { s with pwr := { p with tapIr := p.tapIrShift, tdo := none } }
  | 15 => { s with pwr := { p with tapIr := 1, tdo := none } }
  | 2 => tdoShift (p.tapDr.getLsbD 0) s
  | 10 => tdoShift (p.tapIrShift.getLsbD 0) s
  | _ => { s with pwr := { p with tdo := none } }

/-- JTAG_TCK_EDGE (R439): TRST_N low holds the test logic in reset. -/
def execJtagTckEdge (rising tms tdi trstn : Bool) (s : State) : Res :=
  .next (if s.pwr.st = .off then s
  else if !trstn then { s with pwr := { s.pwr with tap := 15, tapIr := 1, tdo := none } }
  else if rising then tapRise tms tdi s else tapFall s)

end Sys2Proof.Machine
end

