-- ==== Sys2Proof/Machine/RegFile.lean ====
section
/-! DEFINITION. The register file as masters see it: every read and every write of a register by its address (02 R5-R7,
R20-R28, R454 and the register maps of each chapter). -/

namespace Sys2Proof.Machine

/-! ### Registers that show live state -/

/-- Bits `f 0` to `f (n - 1)` of a word. -/
def bitsOf (n : Nat) (f : Nat → Bool) : W32 := BitVec.ofNat 32 (((List.range n).map fun k => if f k then 2 ^ k else 0).sum)

/-- GLB, CLK, HIF and TIME. -/
def liveSys (r : Reg) (i : Nat) (s : State) : Option W32 :=
  match r with
  | .GLB_STAT => some (rd s r 0 0 &&& 9 ||| BitVec.ofNat 32 (ofBool s.pwr.ctl.trial * 2 + ofBool s.pwr.ctl.active * 4))
  | .GLB_STRAP => some (BitVec.ofNat 32 (s.pwr.strapBoot.toNat + s.pwr.strapStar.toNat * 16))
  | .GLB_RESTART_STAT => some (BitVec.ofNat 32 (min 15 (restartsCounted s).length + ofBool s.pwr.held * 16))
  | .GLB_OTP => some (BitVec.ofNat 32 (s.pwr.otp.toNat + s.pwr.revoked.toNat * 256))
  | .CLK_PWR_STAT =>
    some (rd s r 0 0 &&& 0xF100 ||| (match s.pwr.st with
      | .entering | .enteringMidwinter => 1
      | .thaw => 2
      | _ => 0))
  | .CLK_DOM_RUN => some (domRun s)
  | .HIF_RING_STAT =>
    let n := ringOf s i
    some (BitVec.ofNat 32 (n.fetch.toNat + ofBool n.cqFull * 256 + ofBool n.stopped * 512))
  | .TIME_STAT => some (rd s r 0 0 &&& 3 ||| BitVec.ofNat 32 (ofBool s.time.slew.isSome * 4 + ofBool s.time.step.isSome * 8))
  | .TIME_ADJ_CTRL =>
    some (rd s r 0 0 &&& 0x600 ||| BitVec.ofNat 32 (ofBool (s.time.slew.isSome || s.time.step.isSome) * 0x100))
  | .TIME_RXS_RDY => some (bitsOf 16 fun p => !(nmGet [] s.time.rxs p).isEmpty)
  | .TIME_TXS_RDY => some (bitsOf 16 fun p => !(nmGet [] s.time.txs p).isEmpty)
  | _ => none

/-- MEM and QM. -/
def liveMem (r : Reg) (i c : Nat) (s : State) : Option W32 :=
  let k := bankOf s c
  let q := queueOf s c
  match r with
  | .MEM_TEST_STAT =>
    some (match s.mem.test with
      | none => 0
      | some t => bitsOf 12 (fun n => t.left.any fun b => b / 32 = n) ||| oneBit 16)
  | .MEM_FAILED => some (bitsOf 32 fun j => (bankOf s (32 * i + j)).failed)
  | .MEM_COUNT => some (rd s r i 0 &&& 0x80000000 ||| BitVec.ofNat 32 (banksOf s (BitVec.ofNat 8 (i + 1))))
  | .MEM_OWN => some (BitVec.ofNat 32 (k.owner.toNat + k.del0.toNat * 2 ^ 8 + k.del1.toNat * 2 ^ 11))
  | .MEM_TEST_RES => some (rd s r 0 c &&& 7 ||| BitVec.ofNat 32 (sparesUsed s c 0 % 16 * 16 + sparesUsed s c 1 % 8 * 256))
  | .MEM_PWR => some (rd s r 0 c &&& 0x1FF03 ||| BitVec.ofNat 32 (k.pwr.toNat * 16))
  | .QM_DESC_FREE => some (BitVec.ofNat 32 (descFree s))
  | .QM_LIMIT_SUM =>
    let n := ((List.range 4096).map fun q => if isOff s .QM_Q_STAT q then 0 else qLimit s q).sum
    some (BitVec.ofNat 32 (n + ofBool (decide (131072 < n)) * 2 ^ 31))
  | .QM_Q_USE => some (BitVec.ofNat 32 q.descs.length)
  | .QM_Q_STAT => some (rd s r 0 c ||| BitVec.ofNat 32 (ofBool q.openBy.isSome * 0x40))
  | .QM_Q_POS => some (BitVec.ofNat 32 (min 65535 (q.vis - q.read) + min 65535 (q.read - q.base) * 65536))
  | _ => none

/-- FAB: the egress-queue registers show the queue that FAB_QSEL of the master names. -/
def liveFab (r : Reg) (m : Nat) (s : State) : Option W32 :=
  let eq := fld (rd s .FAB_QSEL 0 m) 7 0
  let q (v : Nat) : Option W32 := some (if 216 ≤ eq then 0 else BitVec.ofNat 32 v)
  match r with
  | .FAB_BUF_STAT => some (bitsOf 1 fun _ => bufCells s < reserveSum s + bufMargin s)
  | .FAB_BUF_CELLS => some (BitVec.ofNat 32 (bufCells s))
  | .FAB_BUF_FREE => some (BitVec.ofNat 32 (bufFree s))
  | .FAB_BUF_SHARED => some (BitVec.ofNat 32 (bufShared s))
  | .FAB_Q_USE => q (eqUse s eq)
  | .FAB_Q_AVG => q ((egressOf s eq).avg / 65536)
  | .FAB_Q_STAT =>
    q (ofBool (egressOf s eq).overQuota + ofBool (eq / 8 < 16 && classPaused s (eq / 8) (eq % 8)) * 2 +
      ofBool (16 ≤ eq / 8 || (portOf s (eq / 8)).gates.getLsbD (eq % 8)) * 4)
  | _ => none

/-- ETH, CAN and STAR. -/
def liveBus (r : Reg) (i c m : Nat) (s : State) : Option W32 :=
  let sc := fld (rd s .ETH_SC_SEL 0 (c * 64 + m)) 4 0
  let k := chOf s c
  let rt := fld (rd s .CAN_RT_SEL 0 m) 11 0
  match r with
  | .ETH_PFC_STAT =>
    some (bitsOf 8 (fun t => classPaused s c t) ||| BitVec.ofNat 32 ((portOf s c).pfcSent.toNat * 256))
  | .ETH_TXD => some ((Config.txd c ((rd s .ETH_MODE 0 c).setWidth 8)).setWidth 32)
  | .ETH_SC_CFG => some (secW s c sc 0)
  | .ETH_SCI_LO => some (secW s c sc 1)
  | .ETH_SCI_HI => some (secW s c sc 2)
  | .ETH_SA => some (secW s c sc (4 + i))
  | .CAN_ERRC => some (BitVec.ofNat 32 (k.tec % 512 + k.recv % 256 * 65536))
  | .CAN_TX_STAT =>
    some (BitVec.ofNat 32 (k.fifo.length + k.hold.length * 256 + ((k.fifo.head?.map (·.tag.toNat)).getD 0) * 65536))
  | .CAN_TX_HEAD_AGE => some (BitVec.ofNat 32 (if k.fifo.isEmpty then 0 else min 0xFFFFFF ((s.time.now - k.headSince).toInt.toNat / 1000)))
  | .CAN_TX_CMD_STAT => some ((nmGet 0 s.can.cmdStat (c * 64 + m)).setWidth 32)
  | .CAN_RT_RATE => some (nmGet 0 s.can.rtRate rt)
  | .CAN_RT_QUAR => some (nmGet 0 s.can.rtQuar rt)
  | .CAN_RT_HIT => some (nmGet 0 s.can.rtHit rt)
  | .STAR_ID => some (rd s r 0 0 &&& 0x1F00 ||| BitVec.ofNat 32 (starId s))
  | _ => none

/-- PIO and pads; SM registers are `smRegRead`. -/
def livePio (r : Reg) (i c : Nat) (s : State) : Option W32 :=
  match r with
  | .PIO_STAT => some (pioStat s c)
  | .PIO_FLAGS | .PIO_FLAG_SET => some ((blkOf s c).flags.setWidth 32)
  | .PIO_IMEM => some ((pioWord s c i).setWidth 32)
  | .PAD_FIO_IN => some (bitsOf 32 fun k => pinLevel s (32 * i + k))
  | _ => none

/-- The state after the instruction that a thread would issue now, if it can issue one. -/
def issueNow (t : Fin 97) (s : State) : Option State :=
  match ezDecode t (instrWord s t (thOf s t).pc) with
  | none => none
  | some f =>
    match f s with
    | .next s' => some s'
    | _ => none

/-- Activity of an engine thread (Table 11.10): what holds it now. -/
def activity (s : State) (t : Fin 97) : Nat :=
  let h := thOf s t
  if fbState h.fb ≠ 2 then 0
  else if budgetOf s t ≠ 0 && budgetOf s t ≤ h.used then 7
  else match h.wait with
    | .waitt _ => 4
    | .waite _ _ => 5
    | .waitq _ => 6
    | .io _ _ _ _ => 3
    | .pop => 2
    | .none =>
      if issueNow t s ≠ some s then 1
      else
        let s' := setTh t { h with ops := h.ops.map fun o => { o with dest := 0 } } s
        if issueNow t s' ≠ some s' then 2 else 3

/-- ENG_STAT and ENG_T_STAT states: state at bit 2t, pending request at bit 2t + 8. -/
def engStates (s : State) (e : Nat) : Nat :=
  ([0, 1, 2, 3].map fun t =>
    let f := (thOf s (4 * e + t)).fb.toNat
    f % 4 * 2 ^ (2 * t) + f / 4 * 2 ^ (2 * t + 8)).sum

/-- ENG: the ENG_T_ registers show the thread that ENG_TSEL of the master names. -/
def liveEng (r : Reg) (c m : Nat) (s : State) : Option W32 :=
  let t := tSel s m
  let h := thOf s t
  match r with
  | .ENG_RUN => some (bitsOf 24 (engBusy s))
  | .ENG_FAULT => some (bitsOf 24 fun e => [0, 1, 2, 3].any fun k => (thOf s (4 * e + k)).faulted)
  | .ENG_STAT => some (rd s r 0 c &&& 0x30000 ||| BitVec.ofNat 32 (engStates s c))
  | .ENG_EVT_LINES => some ((nmGet 0 s.evt.engLatch c).setWidth 32)
  | .ENG_T_STAT =>
    some (BitVec.ofNat 32 (h.fb.toNat + activity s (Fin.ofNat 97 t) * 16 + ofBool h.halted * 2 ^ 7 + ofBool h.faulted * 2 ^ 8 +
      ofBool h.broke * 2 ^ 9 + ofBool h.overQuota * 2 ^ 10 + min 16 (inFlight t h) * 2 ^ 16 + min 15 h.moreFaults * 2 ^ 24))
  | .ENG_T_PC => some h.pc
  | .ENG_T_FAULT => some (BitVec.ofNat 32 (h.faultCode.toNat + h.faultPc.toNat % 65536 * 65536))
  | .ENG_T_FADDR => some h.faultAddr
  | .ENG_T_BUDGET => some (rd s r 0 t &&& 0xFFFFF)
  | .ENG_T_BREAK => some (rd s r 0 t &&& 0xFFFD)
  | .ENG_T_USED => some (BitVec.ofNat 32 (min 0xFFFFF h.used))
  | .ENG_T_GDATA => some (gDataOf h (gSel s m))
  | _ => none

/-- POL and CRY. -/
def livePol (r : Reg) (i m : Nat) (s : State) : Option W32 :=
  let flow := fld (rd s .CRY_FLOW_SEL 0 m) 12 0
  match r with
  | .POL_STAT => some (rd s r 0 0 &&& 0x30 ||| BitVec.ofNat 32 (s.pol.th.fb.toNat + fld s.pol.ecause 7 0 * 256))
  | .POL_EPC => some s.pol.epc
  | .POL_ENV_W => some (envW s (fld (rd s .POL_ENV_SEL 0 m) 3 0) i)
  | .CRY_KEY_ATTR =>
    let k := slotOf s (keySel m s)
    some (k.attr ||| BitVec.ofNat 32 (ofBool k.loaded * 2 ^ 31))
  | .CRY_LOADED => some (bitsOf 32 fun j => (slotOf s (32 * i + j)).loaded)
  | .CRY_FLOW_STATE => some ((flowState s flow).getD (rd s r 0 flow))
  | .CRY_FLOW_VALID => some (bitsOf 1 fun _ => (flowState s flow).isSome)
  | _ => none

/-- MBX, REC and FWU. -/
def liveRec (r : Reg) (i c m : Nat) (s : State) : Option W32 :=
  match r with
  | .MBX_FULL_LO => some (bitsOf 32 fun k => (mbxOf s k).full)
  | .MBX_FULL_HI => some (bitsOf 32 fun k => (mbxOf s (32 + k)).full)
  | .MBX_FULL_BLK => some (bitsOf 16 fun k => (mbxOf s (64 + k)).full)
  | .MBX_LOCK_OWNER =>
    some (match lockOf s i with
      | some h => BitVec.ofNat 32 (0x80 + h)
      | none => 0)
  | .MBX_STAT => some (mbxStatWord s c m)
  | .REC_STAT => some (rd s r 0 0 &&& 0x2F ||| BitVec.ofNat 32 (ofBool s.recorder.erasing * 16))
  | .REC_HEAD_SEQ => some (recHead s)
  | .REC_TAIL_SEQ => some (recTail s)
  | .REC_FLASH_SEQ => some (recFlashHead s)
  | .REC_STAGED => some (BitVec.ofNat 32 (s.recorder.staged.length % 2 ^ 14 + s.recorder.fifo.length * 65536))
  | .REC_LOST => some (BitVec.ofNat 32 s.recorder.lost)
  | .FWU_STAT =>
    let k := s.pwr.ctl
    some (BitVec.ofNat 32 (ofBool k.active + ofBool k.trial * 2 + ofBool s.pwr.fwWrite.isSome * 4 +
      ofBool s.pwr.restartCmd.isSome * 8 + k.trialFail.toNat * 16 + s.pwr.lastReason.toNat * 256))
  | .FWU_AREA => some (BitVec.ofNat 32 (s.pwr.ctl.areaBank % 512 + s.pwr.ctl.areaCount % 128 * 65536))
  | _ => none

/-- The live value of a register, when it shows one. -/
def regLive (m : Nat) (r : Reg) (i : Nat) (s : State) : Option W32 :=
  let c := chanOf r m s
  (liveSys r i s).or <| (liveMem r i c s).or <| (liveFab r m s).or <| (liveBus r i c m s).or <|
    (livePio r i c s).or <| (liveEng r c m s).or <| (livePol r i m s).or (liveRec r i c m s)

/-- Bits that a register element has: some channels or elements lack fields (06 Table 6.17, 07 Table 7.8, 08 Table 8.10). -/
def present (r : Reg) (i c : Nat) : W32 :=
  match r with
  | .FAB_PORT_CFG => if 16 ≤ i then 0x700 else 0xFFFFFFFF
  | .ETH_PLCA_CFG => if c < 12 then 0 else 0xFFFFFFFF
  | .ETH_MACSEC_CTRL => if 12 ≤ c then 0 else 0xFFFFFFFF
  | .CAN_WAKE_CFG => if 8 ≤ c then 0 else 0xFFFFFFFF
  | .ETH_SA => if i % 4 = 0 then 0x1FF else 0xFFFFFFFF
  | .CAN_WUF =>
    match i % 8 with
    | 0 => 0xBFFFFFFF
    | 1 => 0x1FFFFFFF
    | 2 => 0x1F
    | 4 | 5 => 0xFFFFFFFF
    | _ => 0
  | _ => 0xFFFFFFFF

/-- Bits of a register that a read shows (Table 0.4); write-only and reserved fields read 0. -/
def readMask (r : Reg) : W32 := r.desc.rw ||| r.desc.w1c ||| r.desc.w1s ||| r.desc.rc ||| r.desc.ro

/-- Register k of a PIO machine. -/
def smIndex (r : Reg) : Option Nat := (List.range 12).find? fun k => smReg k = r

/-- A read of a register that stores its value; its read-clear fields return to reset (R5). -/
def plainRead (r : Reg) (i c chan : Nat) (s : State) : W32 × State :=
  let v := rd s r i c
  (v &&& readMask r &&& present r i chan,
   if r.desc.rc = 0 then s else wr r i c ((v &&& ~~~r.desc.rc) ||| (r.desc.reset &&& r.desc.rc)) s)

/-- A word of one of the policy core's memories through its data register, whose address moves on. -/
def polDataRead (space : Nat) (m : Nat) (s : State) : W32 × State :=
  let r := if space = 0 then Reg.POL_IMEM_ADDR else Reg.POL_DMEM_ADDR
  let a := (rd s r 0 m).toNat
  (memWord (if space = 0 then s.stores.polI else s.stores.polD) a, engAddrNext r m (eccCorrect 96 (space = 0) a 4 s))

/-- A write of POL_IMEM_DATA, only while the core is OFF, or of POL_DMEM_DATA. -/
def polDataWrite (space : Nat) (m : Nat) (v : W32) (s : State) : State :=
  if space = 0 then
    if s.pol.th.fb = 0 then engAddrNext .POL_IMEM_ADDR m (polMemWrite 0 (rd s .POL_IMEM_ADDR 0 m).toNat [v] s) else s
  else engAddrNext .POL_DMEM_ADDR m (polMemWrite 1 (rd s .POL_DMEM_ADDR 0 m).toNat [v] s)

/-- A read-clear counter outside the register file reads and clears. -/
def rtRead (r : Reg) (m : Nat) (s : State) : W32 × State :=
  let k := fld (rd s .CAN_RT_SEL 0 m) 11 0
  match r with
  | .CAN_RT_RATE => (nmGet 0 s.can.rtRate k, { s with can := { s.can with rtRate := nmErase s.can.rtRate k } })
  | .CAN_RT_QUAR => (nmGet 0 s.can.rtQuar k, { s with can := { s.can with rtQuar := nmErase s.can.rtQuar k } })
  | _ => (nmGet 0 s.can.rtHit k, { s with can := { s.can with rtHit := nmErase s.can.rtHit k } })

/-- A read of element `i` of register `r` by master `m`: its value, and what the read does. -/
def regRead (m : Nat) (r : Reg) (i : Nat) (s : State) : W32 × State :=
  let c := chanOf r m s
  let eq := fld (rd s .FAB_QSEL 0 m) 7 0
  let via : Via := .reg (Fin.ofNat 64 m)
  match r with
  | .TIME_NOW_LO => timeNowRead m s
  | .TIME_RXS_W0 => stampPop m false s
  | .TIME_TXS_W0 => stampPop m true s
  | .MEM_ECC_UE => eccUeRead c s
  | .QM_NOTICE_NEXT => popPol s
  | .QM_NGRP_NEXT => popGroup i s
  | .QM_Q_DEQ => let (st, s) := viaDequeue via s; (BitVec.ofNat 32 st, s)
  | .FAB_Q_DROP_RED | .FAB_Q_DROP_BUF | .FAB_Q_DROP_QM => if 216 ≤ eq then (0, s) else plainRead r 0 eq 0 s
  | .ETH_RX_OCT_LO => c64Read m c 0 s
  | .ETH_RX_FRM_LO => c64Read m c 1 s
  | .ETH_TX_OCT_LO => c64Read m c 2 s
  | .ETH_TX_FRM_LO => c64Read m c 3 s
  | .CAN_RT_RATE | .CAN_RT_QUAR | .CAN_RT_HIT => rtRead r m s
  | .CAN_TX_LOG => txLogPop m c s
  | .CAN_HPB_POP => hpbPop m c s
  | .ENG_IMEM_DATA => imemDataRead m s
  | .ENG_LMEM_DATA => lmemDataRead m s
  | .POL_IMEM_DATA => polDataRead 0 m s
  | .POL_DMEM_DATA => polDataRead 1 m s
  | .MBX_LOCK => lockTake m i s
  | .MBX_DB_DATA => dbTake via c s
  | .MBX_BLK_W => if c < 64 then (0, s) else blockRead via c i s
  | .REC_OPTIME_S => opTimeRead m s
  | .EVT_ACCERR_ID => (rd s r 0 0, wr r 0 0 0 s)
  | _ =>
    match smIndex r with
    | some k => smRegRead c i k s
    | none =>
      match regLive m r i s with
      | some v => (v &&& present r i c, s)
      | none => plainRead r i (partOf r m s) c s

/-! ### Writes -/

/-- A write by field types, to the fields that the element has. -/
def maskedWrite (r : Reg) (i : Nat) (m : Nat) (v : W32) (s : State) : State :=
  let c := partOf r m s
  let p := present r i (chanOf r m s)
  plainWrite r i c ((v &&& p) ||| (rd s r i c &&& r.desc.rw &&& ~~~p)) s

/-- A write of a flow's state or of its valid bit (R361). -/
def flowWrite (valid : Bool) (m : Nat) (v : W32) (s : State) : State :=
  let f := fld (rd s .CRY_FLOW_SEL 0 m) 12 0
  let cur := (flowState s f).getD (rd s .CRY_FLOW_STATE 0 f)
  if valid then
    if bit v 0 then setFlow f (some cur) s else setFlow f none (wr .CRY_FLOW_STATE 0 f cur s)
  else
    let s := wr .CRY_FLOW_STATE 0 f v s
    if (flowState s f).isSome then setFlow f (some v) s else s

/-- Writes of GLB, CLK, HIF, TIME, MEM and QM registers that do more than store. -/
def writeSys (m : Nat) (r : Reg) (i c : Nat) (v : W32) : Option (State → State) :=
  let via : Via := .reg (Fin.ofNat 64 m)
  match r with
  | .GLB_RST_CTRL => some (rstCtrlWrite v)
  | .GLB_WDT3_KICK => some wdt3Kick
  | .CLK_PWR_REQ => some (pwrReqWrite v)
  | .CLK_WAKE_CAUSE | .CLK_WAKEIN_CFG => some (wakeRegWrite r v)
  | .CLK_DOZE_DIS => some (dozeDisWrite v)
  | .HIF_RING_CTRL => some (ringCtrlWrite i v)
  | .HIF_CQ_HEAD => some (cqHeadWrite i v)
  | .TIME_CTRL => some (timeCtrlWrite v)
  | .TIME_INCR_NS => some (incrNsWrite v)
  | .TIME_ADJ_CTRL => some (adjCtrlWrite v)
  | .TIME_ALARM_CTRL => some (alarmCtrlWrite v)
  | .MEM_QUOTA => some (memQuotaWrite i v)
  | .MEM_BANK_CFG => some (fun s => reserveScan (plainWrite r 0 c v s))
  | .QM_Q_CTRL => some (qCtrlWrite c v)
  | .QM_Q_BIND => some (qBindWrite c v)
  | .QM_Q_LIMIT => some (qLimitWrite c v)
  | .QM_Q_OP => some (qOpWrite m v)
  | .QM_Q_E => if i = 3 then some (enqueueWord3 via v) else some (wr r i m v)
  | _ => none

/-- Writes of FAB, ETH, CAN and STAR registers that do more than store. -/
def writeBus (m : Nat) (r : Reg) (i c : Nat) (v : W32) : Option (State → State) :=
  match r with
  | .FAB_BUF_MARGIN => some (fun s => reserveScan (plainWrite r 0 0 v s))
  | .FAB_ACT_CTRL => some (actCtrlWrite fabWin m v)
  | .ETH_MDIO_CMD => some (mdioCmdWrite i v)
  | .ETH_MODE => some (ethModeWrite c v)
  | .ETH_CTRL => some (ethCtrlWrite c v)
  | .ETH_TX_THR => some (txThrWrite c v)
  | .ETH_PREEMPT_CFG => some (preemptCfgWrite c v)
  | .ETH_SC_CFG => some (fun s => setSecW c (fld (rd s .ETH_SC_SEL 0 (c * 64 + m)) 4 0) 0 (v &&& 0x1F) s)
  | .ETH_SCI_LO => some (fun s => setSecW c (fld (rd s .ETH_SC_SEL 0 (c * 64 + m)) 4 0) 1 v s)
  | .ETH_SCI_HI => some (fun s => setSecW c (fld (rd s .ETH_SC_SEL 0 (c * 64 + m)) 4 0) 2 v s)
  | .ETH_SA => some (fun s => setSecW c (fld (rd s .ETH_SC_SEL 0 (c * 64 + m)) 4 0) (4 + i) (v &&& present r i c) s)
  | .CAN_ACT_CTRL => some (actCtrlWrite canWin m v)
  | .CAN_CTRL => some (canCtrlWrite c v)
  | .CAN_NBT | .CAN_DBT | .CAN_XBT | .CAN_TDC => some (canCfgWrite r c v)
  | .CAN_TX_CMD => some (txCmdWrite m c v)
  | .CAN_SLEEP => some (sleepWrite c v)
  | .CAN_EVT_CAUSE =>
    some (fun s =>
      let s := plainWrite r 0 c v s
      if bit v 3 then wr .CAN_IDCOL 0 c 0 s else s)
  | .STAR_CTRL => some (starCtrlWrite v)
  | .STAR_MODE_REQ => some (modeReqWrite v)
  | .STAR_BR_CTRL => some (starBrWrite c v)
  | _ => none

/-- Writes of PIO, PAD, ENG, POL, CRY, MBX, REC and FWU registers that do more than store. -/
def writeEng (m : Nat) (r : Reg) (i c : Nat) (v : W32) : Option (State → State) :=
  let via : Via := .reg (Fin.ofNat 64 m)
  match r with
  | .PIO_GSTART_LO => some (gstartLoWrite v)
  | .PIO_GSTART_HI => some (gstartWrite v)
  | .PIO_CTRL => some (pioCtrlWrite c v)
  | .PIO_FLAGS => some (flagWrite c 0 (v.setWidth 8))
  | .PIO_FLAG_SET => some (flagWrite c (v.setWidth 8) 0)
  | .PIO_IMEM => some (pioImemWrite c i v)
  | .PAD_FIO => some (withPins (plainWrite r i 0 v))
  | .ENG_CTRL => some (engCtrlWrite c v)
  | .ENG_IMEM_DATA => some (imemDataWrite m v)
  | .ENG_LMEM_DATA => some (lmemDataWrite m v)
  | .ENG_T_PC => some (gDataWrite m true v)
  | .ENG_T_GDATA => some (gDataWrite m false v)
  | .ENG_T_BUDGET => some (fun s => budgetWrite (tSel s m) v s)
  | .ENG_T_BREAK => some (fun s => plainWrite r 0 (tSel s m) v s)
  | .POL_CTRL => some (polCtrlWrite v)
  | .POL_IMEM_DATA => some (polDataWrite 0 m v)
  | .POL_DMEM_DATA => some (polDataWrite 1 m v)
  | .POL_TBL_CTRL => some (fun s => if bit v 0 then polTblRead m s else s)
  | .CRY_PROV_LOCK => some (provLockWrite v)
  | .CRY_KEY_ATTR => some (keyAttrWrite m v)
  | .CRY_KEY_DATA => some (fun s => { s with cry := { s.cry with keyData := nmSet 0 s.cry.keyData i v } })
  | .CRY_FLOW_STATE => some (flowWrite false m v)
  | .CRY_FLOW_VALID => some (flowWrite true m v)
  | .MBX_BIND => some (mbxBindWrite c v)
  | .MBX_BIND_LOCK => some (bindLockWrite v)
  | .MBX_STAT => some (mbxStatWrite c v)
  | .MBX_CMD => some (mbxCmdWrite (Fin.ofNat 64 m) c v)
  | .MBX_DB_DATA => some (dbPost via c v)
  | .MBX_BLK_W => some (if c < 64 then id else blockWrite via c i v)
  | .MBX_LOCK => some (lockWrite m i v)
  | .MBX_LOCK_FORCE => some (lockForce v)
  | .REC_CTRL => some (recCtrlWrite v)
  | .REC_RING_BASE | .REC_RING_SIZE | .REC_BOOT_BASE | .REC_CNT_BASE | .REC_STAGE_BANK => some (recMapWrite r v)
  | .REC_SW_CODE => some (swRecord m v)
  | .REC_RD_CTRL => some (fun s => if bit v 0 then recRead m s else s)
  | .FWU_CONFIRM => some (fwuConfirm v)
  | _ => none

/-- What an accepted write of element `i` of register `r` by master `m` does. -/
def regAct (m : Nat) (r : Reg) (i : Nat) (v : W32) (s : State) : State :=
  let c := chanOf r m s
  match smIndex r with
  | some k => smRegWrite m c i k v s
  | none =>
    match ((writeSys m r i c v).or ((writeBus m r i c v).or (writeEng m r i c v))) with
    | some f => f s
    | none => maskedWrite r i m v s

/-- A write of element `i` of register `r` by master `m`, checked. -/
def regWrite (m : Nat) (r : Reg) (i : Nat) (v : W32) (s : State) : State :=
  match r with
  | .MEM_OWN => memOwnWrite m v s
  | .MEM_PWR => memPwrWrite m v s
  | .CRY_KEY_CTRL => keyCtrl m v s
  | _ => withWrite m r i v (regAct m r i v) s

/-! ### The bus -/

/-- Registers that answer: all of them in RUN, CLK_PWR_STAT also while a low-power state is entered or left. -/
def answers (r : Reg) (s : State) : Bool :=
  running s || (r = .CLK_PWR_STAT && (s.pwr.st = .entering || s.pwr.st = .enteringMidwinter || s.pwr.st = .thaw))

/-- A read at a BAR0 offset by identity `m` (R20-R22, R26): 0 with the access error where it is refused. -/
def busRead (m off size : Nat) (s : State) : W32 × State :=
  match regAt off with
  | none => if running s then (0, accessErr m 0 off s) else (0, s)
  | some (r, i) =>
    if !answers r s then (0, s)
    else if size ≠ 4 || off % 4 ≠ 0 || regBad false m r s then (0, accessErr m 0 off s)
    else regRead m r i s

/-- A write at a BAR0 offset by identity `m`. -/
def busWrite (m off size : Nat) (v : W32) (s : State) : State :=
  if !running s then s
  else
    match regAt off with
    | none => accessErr m 0 off s
    | some (r, i) => if size ≠ 4 || off % 4 ≠ 0 then accessErr m 0 off s else regWrite m r i v s

/-- REGISTER_WRITE (R5): a write at an offset, whatever register stands there. -/
def execRegisterWrite (m : Fin 64) (off size : Nat) (v : W32) (s : State) : Res := .next (busWrite m off size v s)

/-- COUNTER_READ_CLEAR (R5): a read at an offset, whatever register stands there. -/
def execCounterReadClear (m : Fin 64) (x : ReadAt) (s : State) : Res := .next (replyOf m (busRead m x.off x.size s))

/-- SPI_WRITE_REGISTER (R22). -/
def execSpiWriteRegister (off : Nat) (v : W32) (s : State) : Res := .next (busWrite 1 off 4 v s)

/-- SPI_READ_REGISTER (R22). -/
def execSpiReadRegister (off : Nat) (s : State) : Res := .next (replyOf 1 (busRead 1 off 4 s))

end Sys2Proof.Machine
end

