-- ==== Sys2Proof/Machine/Adapt.lean ====
section
/-! DEFINITION. The framework's adaptation periods (13 R373, R374; 14 R378). -/

namespace Sys2Proof.Machine

/-- A counter that the framework measures: read-clear, of the fabric, Ethernet, CAN or star block. -/
def measured (r : Reg) : Bool := r.desc.rc ≠ 0 && r.block ∈ [8, 10, 11, 12]

/-- The count of a counter, which clears; a 64-bit one whole. -/
def counterTake (r : Reg) (i c : Nat) (s : State) : Nat × State :=
  let v := (rd s r i c).toNat
  match [0, 1, 2, 3].find? fun k => (c64Reg k).1 = r with
  | some k =>
    let hi := (nmGet 0 s.eth.ctrHi (c * 4 + k)).toNat
    (v + hi * 2 ^ 32, wr r i c 0 { s with eth := { s.eth with ctrHi := nmErase s.eth.ctrHi (c * 4 + k) } })
  | none => (v, wr r i c 0 s)

/-- A count is added to the framework's total under a key. -/
def totalAdd (key n : Nat) (s : State) : State :=
  { s with pol := { s.pol with stats := nmSet 0 s.pol.stats key ((nmGet 0 s.pol.stats key + n) % 2 ^ 64) } }

/-- The framework reads a counter, which clears, and adds it to its total; queues of a block without channels share one (R374,
14 R379). -/
def measure1 (s : State) (key : Nat) : State :=
  match allRegs.find? fun r => r.ctorIdx = key % 1024 with
  | none => s
  | some r =>
    if !measured r then s
    else
      let (n, s) := counterTake r (key / 1024 % 1024) (key / 2 ^ 20) s
      totalAdd (if r.desc.per = 0 then key % 2 ^ 20 else key) n s

/-- The counters of all CAN routes, which stand beside the register file. -/
def measureRoutes (s : State) : State :=
  let all (m : NMap W32) : Nat := (m.map fun e => e.2.toNat).sum
  let (a, b, c) := (all s.can.rtRate, all s.can.rtQuar, all s.can.rtHit)
  totalAdd Reg.CAN_RT_RATE.ctorIdx a (totalAdd Reg.CAN_RT_QUAR.ctorIdx b (totalAdd Reg.CAN_RT_HIT.ctorIdx c
    { s with can := { s.can with rtRate := [], rtQuar := [], rtHit := [] } }))

/-- All the measurements of a period (R373). -/
def measureAll (s : State) : State := measureRoutes ((s.regs.map (·.1)).foldl measure1 s)

/-- The actions of a period in the order of Table 13.16. -/
def actOrder (l : List AdaptAct) : List AdaptAct :=
  let ranks := [1, 2, 5, 4, 6, 7, 8, 9]
  ranks.flatMap (fun k => l.filter fun a => a.code.toNat = k) ++ l.filter fun a => a.code.toNat ∉ ranks

/-- An action: its decision record, then its writes (R378). -/
def adaptTake (s : State) (a : AdaptAct) : State :=
  let w0 := BitVec.ofNat 32 (a.code.toNat + a.rule.toNat * 256 + s.pol.periods % 65536 * 65536)
  let s := decisionRecord { s with pol := { s.pol with decision := [w0, a.measured, a.target] } }
  a.writes.foldl (fun s w => busWrite 3 w.1 4 w.2 s) s

/-- ADAPTATION_PERIOD (R373, R374, R378): all the measurements, then the actions that the policy takes. -/
def execAdaptationPeriod (acts : List AdaptAct) (s : State) : Res :=
  .next (if fwRuns s then
    let s := measureAll s
    let s := (actOrder acts).foldl adaptTake s
    { s with pol := { s.pol with periods := s.pol.periods + 1 } }
  else s)

end Sys2Proof.Machine
end

