-- ==== Sys2Proof/Machine/CanRx.lean ====
section
/-! DEFINITION. Frames received on CAN: filter elements, the high-priority buffer, the hardware router (06 R170-R173; 08 R209-R215). -/

namespace Sys2Proof.Machine

/-- A masked identifier comparison on words 0 and 1 of a filter element or route. -/
def idHit (e : List W32) (l : List Byte) : Bool :=
  bit (wordAt e 0) 29 = canIde l && Nat.land (Nat.xor (canId l) (fld (wordAt e 0) 28 0)) (fld (wordAt e 1) 28 0) = 0

/-- The lowest-indexed entry of a table range that matches, with its index. -/
def findEntry (s : State) (id lo n : Nat) (hit : List W32 → Bool) : Option (Nat × List W32) :=
  (s.cfg.active.find? fun x => tblKey id lo ≤ x.1 && x.1 < tblKey id (lo + n) && bit (wordAt x.2 0) 31 && hit x.2).map
    fun x => (x.1 % 131072, x.2)

/-- A frame enters the fabric at its concentrator's port with chosen destinations (R141, R210). -/
def canEnter (c : Nat) (l : List Byte) (stamp : W64) (ds : List Dest) (s : State) : State :=
  fabWhole ⟨Fin.ofNat 32 (concPort c), none, .can, l, some (frameLen .can l), stamp⟩ false (some ds) s

/-! ### The router -/

/-- A counter of the CAN route table, saturating. -/
def rtBump (m : NMap W32) (k : Nat) : NMap W32 := nmSet 0 m k (if nmGet 0 m k = 0xFFFFFFFF then 0xFFFFFFFF else nmGet 0 m k + 1)

/-- The route of a frame from channel `c`. -/
def routeOf (s : State) (c : Nat) (l : List Byte) : Option (Nat × List W32) :=
  findEntry s 8 (c / 16 * 2048) 2048 fun e => bit (wordAt e 2) (c % 16) && idHit e l

/-- The window that holds a stamp, and the frames that passed in it (R214). -/
def rtWindow (s : State) (k : Nat) (e : List W32) (stamp : W64) : Nat × Nat :=
  let w := stamp.toNat / (fld (wordAt e 5) 31 16 * 1000)
  (w, (nmFind (nmGet [] s.fab.rateWin k) w).getD 0)

/-- A frame passes in window `w`; windows of `len` ns that ended over 0.1 s ago, which no stamp of a frame that still comes lies in,
are forgotten. -/
def rtPass (k w len n : Nat) (s : State) : State :=
  let l := (nmGet [] s.fab.rateWin k).filter fun x => now s ≤ (x.1 + 1) * len + 100000000
  setFab { s.fab with rateWin := nmSet [] s.fab.rateWin k (nmPut l w n) } s

/-- The record after the route's rewrite (R171). -/
def rewrite (e : List W32) (l : List Byte) : List Byte :=
  if bit (wordAt e 2) 18 then
    splice l 0 (leBytes 4 (putFld (putFld (canW l 0) 28 0 (fld (wordAt e 4) 28 0)) 29 29 (ofBool (bit (wordAt e 2) 19))).toNat)
  else l

/-- The copies of a routed frame (R172, R215): its own concentrator's channels at once, each for the other as a frame of its own through the
fabric. -/
def routeCopies (c : Nat) (e : List W32) (l : List Byte) (stamp : W64) (s : State) : State :=
  if bit (wordAt e 2) 16 then canEnter c l stamp [.queue (fld (wordAt e 2) 31 20)] s
  else
    let ds := (List.range 32).filter fun d => bit (wordAt e 3) d && d ≠ c
    let near := ds.filter fun d => d / 16 = c / 16
    let far := ds.filter fun d => d / 16 ≠ c / 16
    let s := near.foldl (fun s d => canArrive d l (fld (rd s .FAB_PORT_CFG (concPort d) 0) 10 8) none s) s
    far.foldl (fun s d => canEnter c l stamp [.can d] s) s

/-- A frame that a filter element sends to the router (R170-R173, R214, R215). -/
def canRoute (c : Nat) (l : List Byte) (stamp : W64) (s : State) : State :=
  match routeOf s c l with
  | none => count32 .CAN_RT_MISS 0 c s
  | some (k, e) =>
    let s := { s with can := { s.can with rtHit := rtBump s.can.rtHit k } }
    let limit := fld (wordAt e 5) 7 0
    let (w, n) := rtWindow s k e stamp
    if limit ≠ 0 && limit ≤ n then
      fabEvent (83 + c / 16) { s with can := { s.can with rtRate := rtBump s.can.rtRate k } }
    else
      let s := if limit = 0 then s else rtPass k w (fld (wordAt e 5) 31 16 * 1000) (n + 1) s
      if bit (wordAt e 2) 17 then { s with can := { s.can with rtQuar := rtBump s.can.rtQuar k } }
      else routeCopies c e (rewrite e l) stamp s

/-- CAN_ROUTER_FRAME (R170). -/
def execCanRouterFrame (ch : Fin 32) (rec_ : List Byte) (stamp : W64) (s : State) : Res :=
  .next (if running s then canRoute ch rec_ stamp s else s)

/-! ### Reception -/

/-- The high-priority buffer takes a frame of up to 64 data bytes, while it holds fewer than four (R211, R212). -/
def hpbPut (c : Nat) (l : List Byte) (stamp : W64) (s : State) : State :=
  let k := chOf s c
  if 4 ≤ k.hpb.length || 64 < canLen l then canCause c 9 (count32 .CAN_HPB_OVF 0 c s)
  else raise (129 + 2 * c) (setCh c { k with hpb := k.hpb ++ [(l, BitVec.ofNat 32 stamp.toNat)] } s)

/-- A frame dropped by its channel. -/
def canRxDrop (c : Nat) (s : State) : State := count32 .CAN_RX_DROP 0 c s

/-- The governing filter element, or CAN_RX_DEF, disposes of a frame (R209, R210). -/
def canFilter (c : Nat) (l : List Byte) (stamp : W64) (s : State) : State :=
  let hit (e : List W32) : Bool :=
    (fld (wordAt e 1) 31 29 = 0 || bit (wordAt e 1) (29 + canFmt l)) && idHit e l
  match findEntry s 9 (c * 128) 128 hit with
  | some (_, e) =>
    match fld (wordAt e 2) 1 0 with
    | 0 => canRxDrop c s
    | 1 => canRoute c l stamp s
    | 2 => canEnter c l stamp [.queue (fld (wordAt e 2) 15 4)] s
    | _ => hpbPut c l stamp s
  | none =>
    let d := rd s .CAN_RX_DEF 0 c
    if bit d 0 then canEnter c l stamp [.queue (fld d 15 4)] s else canRxDrop c s

/-- The record as the controller writes it: its own channel in the header, words 2 and 3 of XL frames only (Table 8.3). -/
def rxRecord (c : Nat) (l : List Byte) : List Byte :=
  let w0 := canW l 0 &&& 0x7FFFFFFF
  let w1 := putFld (canW l 1 &&& 0xFFFF03FF) 4 0 c
  let rest := if canFmt l = 2 then leBytes 4 (canW l 2 &&& 0xFFFF).toNat ++ slice l 12 4 else leBytes 8 0
  leBytes 4 w0.toNat ++ leBytes 4 w1.toNat ++ rest ++ canData l

/-- A channel receives: ON or stopping, integrated, its bus up, not bus-off. -/
def canHears (s : State) (c : Nat) : Bool := 2 ≤ fbState (fbOf s .CAN_STAT c) && busOf s c ≤ 1 && errOf s c ≤ 1

/-- CAN_RX_FRAME (R209): a frame received without error; its error counter falls as ISO 11898-1 has it (R2). -/
def execCanRxFrame (c : Fin 32) (rec_ : List Byte) (stamp : W64) (s : State) : Res :=
  .next <|
    if !running s || !canHears s c || canFmt rec_ = 3 || !fmtEnabled s c (canFmt rec_) ||
        rec_.length ≠ 16 + canLen rec_ || !canLenOk (canFmt rec_) (canLen rec_) then s
    else
      let k := chOf s c
      let s := confine c (setCh c { k with recv := min 127 (k.recv - 1), lastFrame := s.time.now } (count32 .CAN_RX_OK 0 c s))
      canFilter c (rxRecord c rec_) stamp s

end Sys2Proof.Machine
end

