-- ==== Sys2Proof/Machine/MemOps.lean ====
section
/-! DEFINITION. Data-memory operations of threads as they are performed and return (11 R289-R294; 12 R329, R341). -/

namespace Sys2Proof.Machine

/-- Operation `k` of a thread may be performed: every earlier one of the thread touches another 64-bit word (R291), and
accesses of the register window keep program order. -/
def opFree (l : List MemOp) (k : Nat) : Bool :=
  match l[k]? with
  | none => false
  | some o => (l.take k).all fun p =>
      p.addr.toNat / 8 ≠ o.addr.toNat / 8 && !(0x80000000 ≤ p.addr.toNat && 0x80000000 ≤ o.addr.toNat)

/-- What a load returns: its bytes, extended (12 Table 12.11). -/
def loadValue (o : MemOp) (l : List Byte) : W64 :=
  let v := ofLe l
  if o.sgn && o.width = 1 then (BitVec.ofNat 8 v).signExtend 64
  else if o.sgn && o.width = 2 then (BitVec.ofNat 16 v).signExtend 64
  else BitVec.ofNat 64 v

/-- The bytes that an operation writes over the bytes `old`. -/
def storeBytes (o : MemOp) (old : List Byte) : List Byte :=
  match o.kind with
  | .add => leBytes o.width (ofLe old + o.data.toNat)
  | _ => leBytes o.width o.data.toNat

/-- The result of an operation returns to its register, its pair, or the link register of a pop (R289, 12 R322). -/
def opReturn (t : Nat) (o : MemOp) (v : W64) (s : State) : State :=
  let h := thOf s t
  if o.isPop then
    stepDone t (setTh t { h with lk := v.setWidth 32, wait := if h.wait = .pop then .none else h.wait } s)
  else if o.kind = .store then s
  else
    let h := gW o.dest (v.setWidth 32) h
    setTh t (if o.width = 8 then gW (o.dest + 1) ((v >>> 32).setWidth 32) h else h) s

/-- Local memory is read or written (R287). -/
def opLocal (t : Nat) (o : MemOp) (s : State) : State :=
  let a := o.addr.toNat
  let base := if t = 96 then 0 else t / 4 * 0x20000
  let mem := if t = 96 then s.stores.polD else s.stores.engL
  let old := memReadN mem (base + a) o.width
  let s := if o.kind ≠ .store || o.width < 4 then eccCorrect t false a o.width s else s
  let s :=
    if o.kind = .load then s
    else if o.width < 4 then
      let mem := memWriteN mem (base + a) (storeBytes o old)
      { s with stores := if t = 96 then { s.stores with polD := mem } else { s.stores with engL := mem } }
    else
      let ws := wordsOfBytes (o.width / 4) (storeBytes o old)
      if t = 96 then polMemWrite 1 a ws s else engLWrite (t / 4) a ws s
  opReturn t o (loadValue o old) s

/-- The fault of a bank status (11 Table 11.2). -/
def opFaultCode (st : Nat) : Nat :=
  if st = memAccess then 3 else if st = memTest then 5 else if st = memPending then 6 else if st = memPoisoned then 7 else 4

/-- A bank refuses an operation: an imprecise fault (R294, 12 R341). -/
def opFault (t : Nat) (o : MemOp) (st : Nat) (s : State) : State :=
  let h := thOf s t
  thImprecise t (opFaultCode st) o.pc o.addr (setTh t { h with wait := if h.wait = .pop then .none else h.wait } s)

/-- An operation on a shared-memory bank that is not in FROST (R293, R294). -/
def opShared (t : Nat) (o : MemOp) (s : State) : State :=
  let a := o.addr.toNat - 0x40000000
  let ag := Agent.thread t
  match o.kind with
  | .store =>
    let (st, s) := shWrite ag a (storeBytes o []) s
    if st = memOk || st = memLost then s else opFault t o st s
  | .load =>
    let (st, l, s) := shRead ag a o.width s
    if st = memOk then opReturn t o (loadValue o l) s else opFault t o st s
  | _ =>
    let (st, l, s) := shAtomic ag a o.width (storeBytes o) s
    if st = memOk || st = memLost then opReturn t o (loadValue o l) s else opFault t o st s

/-- An access of the policy core's register window, as identity 3 (12 Table 12.16). -/
def opRegister (t : Nat) (o : MemOp) (s : State) : State :=
  let off := o.addr.toNat - 0x80000000
  if o.kind = .store then busWrite 3 off o.width (o.data.setWidth 32) s
  else
    let (v, s) := busRead 3 off o.width s
    let l := leBytes o.width v.toNat
    let s := if o.kind = .load then s else busWrite 3 off o.width (BitVec.ofNat 32 (ofLe (storeBytes o l))) s
    opReturn t o (loadValue o l) s

/-- The operation waits for its bank's thaw: the bank is in FROST and serves the thread (R107, R293). -/
def opThaws (t : Nat) (o : MemOp) (s : State) : Option Nat :=
  let b := (o.addr.toNat - 0x40000000) / 0x40000
  if dataSpace t o.addr = some 1 && bankAsleep (.thread t) s b then some b else none

/-- Operation `k` of thread `t` is performed and returns. -/
def opRun (t k : Nat) (s : State) : State :=
  let h := thOf s t
  match h.ops[k]? with
  | none => s
  | some o =>
    if !opFree h.ops k then s
    else
      match opThaws t o s with
      | some b =>
        if (bankOf s b).thawing then s else bankTouch b (setTh t { h with mstat := h.mstat ||| 2 } s)
      | none =>
        let s := setTh t { h with ops := h.ops.eraseIdx k } s
        match dataSpace t o.addr with
        | some 0 => opLocal t o s
        | some 1 => opShared t o s
        | _ => opRegister t o s

/-- Operations are performed: in RUN, and those in memory also while a low-power state is entered (17 R416). -/
def opServed (s : State) (t k : Nat) : Bool :=
  running s || ((s.pwr.st = .entering || s.pwr.st = .enteringMidwinter) &&
    (match (thOf s t).ops[k]? with
      | some o => o.addr.toNat < 0x80000000
      | none => false))

/-- MEMORY_OP_COMPLETE (R291, R293, R294): operation `k` of the thread, counted from its oldest. -/
def execMemoryOpComplete (t : Fin 97) (k : Nat) (s : State) : Res := .next (if opServed s t k then opRun t k s else s)

end Sys2Proof.Machine
end

