-- ==== Sys2Proof/Machine/Switch.lean ====
section
/-! DEFINITION. The switch core from its inputs to the egress: two stages, resequencers, cut-through (06 R163-R168). -/

namespace Sys2Proof.Machine

/-! ### A cell at the egress (R167, R168) -/

/-- A frame with class `tc` from port `i` leaves port `p` by cut-through, decided when its first cell reaches the egress (R167); a
frame that an HSR pair forwards (`asIs`) always may (07 R198). -/
def cutsTo (s : State) (i p tc : Nat) (asIs : Bool) : Bool :=
  let k := portOf s p
  let first := match pickClass s p false with | some (c, _) => decide (tc ≤ c) | none => false
  i < 16 && (asIs || bit (rd s .FAB_PORT_CFG i 0) tc) && decide (bitTenths s i ≤ bitTenths s p) &&
    k.leaving.isNone && k.remainder.isNone && decide (k.busy ≤ s.ticks) && (egressOf s (p * 8 + tc)).waiting.isEmpty && !first &&
    k.gates.getLsbD tc && !classPaused s p tc && !storeFirst s p

/-- A frame's first cell has reached a destination: at an Ethernet port it joins its queue, or is discarded where the port sends
nothing (07 R178). -/
def firstOut (f : Flight) (d : Dest) (s : State) : State :=
  match d with
  | .eth p =>
    if !portUp s p then discardWaiting p f.tc f.id (!bit (rd s .ETH_STAT 0 p) 4) s
    else
      let cut := cutsTo s f.inPort p f.tc f.asIs
      let s := mapFlights f.id (fun g => if d ∈ g.dests && cut then { g with cut := p :: g.cut } else g) s
      let eq := p * 8 + f.tc
      setEgress eq { egressOf s eq with waiting := (egressOf s eq).waiting ++ [f.id] } s
  | _ => s

/-- The flight of a cell, as far as the cell's destination still waits for it. -/
def cellFlight (s : State) (c : Cell) : Option Flight := s.fab.flights.find? fun f => f.id = c.flight && c.dest ∈ f.dests

/-- A cell leaves its resequencer. -/
def cellOut (c : Cell) (s : State) : State :=
  match cellFlight s c with
  | some f => if c.idx = 0 then firstOut f c.dest s else s
  | none => s

/-- Frames whose last cell has come to a destination. -/
def lastOuts (s : State) : State :=
  (s.fab.flights.flatMap fun f => if f.whole then f.dests.map fun d => (f.id, d) else []).foldl (fun s (id, d) =>
    match s.fab.flights.find? fun f => f.id = id && d ∈ f.dests && d ∉ f.full with
    | some f => if coreHas s id d then s else lastOut f d s
    | none => s) s

/-! ### Resequencers (R164) -/

/-- The next cell of a stream is released, or a lost one passed over: the held cells that follow it are released too. -/
def release : Nat → Nat → State → State
  | 0, _, s => s
  | fuel + 1, st, s =>
    let k := s.fab.core
    let n := nmGet 0 k.released st
    match k.held.find? fun h => h.2.stream = st && h.2.num = n with
    | none => s
    | some (_, c) =>
      release fuel st (cellOut c (setFab { s.fab with core :=
        { k with held := k.held.filter (fun h => h.2 ≠ c), released := nmSet 0 k.released st (n + 1) } } s))

/-- A cell comes to its output's resequencer in slot `t`. -/
def reseq (t : Nat) (c : Cell) (s : State) : State :=
  let k := s.fab.core
  release (k.held.length + 1) c.stream (setFab { s.fab with core := { k with held := k.held ++ [(t, c)] } } s)

/-- A cell is taken as lost: its frame ends bad, and the cells held for it are released. -/
def takeLost (c : Cell) (s : State) : State :=
  let k := s.fab.core
  let s := setFab { s.fab with core := { k with lost := k.lost.filter (· ≠ c), released := nmSet 0 k.released c.stream (c.num + 1) } } s
  release (k.held.length + 1) c.stream (fabEvent 77 (count16 .FAB_RESEQ_ERR 0 0 (loseCell c.dest c.flight s)))

/-- In slot `t`, the missing cells for which a held cell has waited 64 slots. -/
def reseqSettle (t : Nat) (s : State) : State :=
  s.fab.core.lost.foldl (fun s c =>
    let k := s.fab.core
    if nmGet 0 k.released c.stream = c.num && k.held.any (fun h => h.2.stream = c.stream && decide (h.1 + 64 ≤ t)) then takeLost c s
    else s) s

/-! ### The two stages (R163) -/

/-- The destination of a cell takes it: always, but for a ready-first multicast, which waits until the destination is ready; one
that has begun to leave goes on. -/
def cellReady (s : State) (c : Cell) : Bool :=
  match c.dest with
  | .eth p =>
    match cellFlight s c with
    | some f => !c.multi || begun s p f.id || (portUp s p && (portOf s p).gates.getLsbD f.tc && !classPaused s p f.tc)
    | none => true
  | _ => true

/-- Stage 2 in slot `t`: the cells that intermediate `j` delivers to the output it is connected to. -/
def stage2 (s : State) (t j : Nat) : List Cell :=
  let here := (s.fab.core.middle.filter fun e => e.1 = j && e.2.output = (j + t) % 32).map (·.2)
  match here.find? (cellReady s) with
  | none => []
  | some c => here.filter fun d => d.flight = c.flight && d.idx = c.idx && d.multi = c.multi

/-- The cells that move with a waiting cell: the copies of a ready-first multicast move as one. -/
def movesWith (l : List Cell) (c : Cell) : List Cell :=
  if c.multi then l.filter fun d => d.flight = c.flight && d.idx = c.idx else [c]

/-- Stage 1 in slot `t`: the cells that input `i` sends to the intermediate it is connected to, the first whose outputs have no
cell there. -/
def stage1 (k : SwitchCore) (t i : Nat) : List Cell :=
  let mine := k.inputs.filter fun c => c.input = i
  let free (c : Cell) : Bool := !k.middle.any fun e => e.1 = (i + t) % 32 && e.2.output = c.output && e.2.multi = c.multi
  match mine.find? fun c => (movesWith mine c).all free with
  | none => []
  | some c => movesWith mine c

/-- One slot of the core: both stages act on what the intermediates hold at its start. -/
def coreSlot (t : Nat) (s : State) : State :=
  let k := s.fab.core
  let out := (List.range 32).flatMap (stage2 s t)
  let up := (List.range 32).flatMap fun i => (stage1 k t i).map fun c => ((i + t) % 32, c)
  let s := setFab { s.fab with core :=
    { k with inputs := k.inputs.filter (fun c => c ∉ up.map (·.2)), middle := (k.middle.filter fun e => e.2 ∉ out) ++ up } } s
  lastOuts (reseqSettle t (out.foldl (fun s c => reseq t c s) s))

/-- The slots of 1.25 ns that end by a tick. -/
def slotsBy (ticks : Nat) : Nat := ticks * 16 / 5

/-- The core in one tick (log 51). -/
def coreTick (s : State) : State :=
  let k := s.fab.core
  let first := slotsBy (s.ticks - 1)
  if k.inputs.isEmpty && k.middle.isEmpty && k.lost.isEmpty then lastOuts s
  else (List.range (slotsBy s.ticks - first)).foldl (fun s i => coreSlot (first + i) s) s

/-- RESEQUENCING_LOSS (R164): the foremost cell of the frame in the core had bad parity, and its output discarded it. When no
earlier cell of its stream is on its way, it is the missing cell and is taken as lost. -/
def execResequencingLoss (fid : Nat) (s : State) : Res :=
  .next (if !running s then s
  else
    let k := s.fab.core
    match (k.middle.map (·.2) ++ k.inputs).find? fun c => c.flight = fid with
    | none => s
    | some c =>
      let s := setFab { s.fab with core :=
        { k with inputs := k.inputs.filter (· ≠ c), middle := k.middle.filter (fun e => e.2 ≠ c), lost := k.lost ++ [c] } } s
      lastOuts (if nmGet 0 k.released c.stream = c.num then takeLost c s else s))

end Sys2Proof.Machine
end

