-- ==== Sys2Proof/Machine/Dispatch.lean ====
section
/-! DEFINITION. One arm for each command of the table: a direct call of its meaning. -/

namespace Sys2Proof.Machine

/-- The effect of a command on everything but the queue of waiting commands. -/
def exec (i : Instr) (s : State) : Host.Outcome State Fault Refusal :=
  match i with
  | .sqTailDoorbell m ring v => Sys2Proof.Machine.execSqTailDoorbell m ring v s
  | .commandFetch ring words => Sys2Proof.Machine.execCommandFetch ring words s
  | .ringEnable m ring v => Sys2Proof.Machine.execRingEnable m ring v s
  | .ringDisable m ring v => Sys2Proof.Machine.execRingDisable m ring v s
  | .cqHeadAdvance m ring v => Sys2Proof.Machine.execCqHeadAdvance m ring v s
  | .ringPcieError ring isWrite => Sys2Proof.Machine.execRingPcieError ring isWrite s
  | .hifNop ring slot => Sys2Proof.Machine.execHifNop ring slot s
  | .spiWriteCommand words => Sys2Proof.Machine.execSpiWriteCommand words s
  | .spiReadCompletion => Sys2Proof.Machine.execSpiReadCompletion s
  | .spiWriteRegister off v => Sys2Proof.Machine.execSpiWriteRegister off v s
  | .spiReadRegister off => Sys2Proof.Machine.execSpiReadRegister off s
  | .inbandCommandFrame port bytes => Sys2Proof.Machine.execInbandCommandFrame port bytes s
  | .inbandSeqClear m => Sys2Proof.Machine.execInbandSeqClear m s
  | .bar2Access m off len wdata => Sys2Proof.Machine.execBar2Access m off len wdata s
  | .accerrIdRead m => Sys2Proof.Machine.execAccerrIdRead m s
  | .registerWrite m off size v => Sys2Proof.Machine.execRegisterWrite m off size v s
  | .counterReadClear m x => Sys2Proof.Machine.execCounterReadClear m x s
  | .cfgStage ring slot data => Sys2Proof.Machine.execCfgStage ring slot data s
  | .cfgStageCopy ring slot => Sys2Proof.Machine.execCfgStageCopy ring slot s
  | .cfgCheck ring slot => Sys2Proof.Machine.execCfgCheck ring slot s
  | .cfgCommit ring slot => Sys2Proof.Machine.execCfgCommit ring slot s
  | .solstice => Sys2Proof.Machine.execSolstice s
  | .cfgAbort ring slot => Sys2Proof.Machine.execCfgAbort ring slot s
  | .msixMessage x => Sys2Proof.Machine.execMsixMessage x s
  | .evtOutPulseEnd pin => Sys2Proof.Machine.execEvtOutPulseEnd pin s
  | .timeAdjustStep ring slot => Sys2Proof.Machine.execTimeAdjustStep ring slot s
  | .timeAdjustSlew ring slot => Sys2Proof.Machine.execTimeAdjustSlew ring slot s
  | .timeAdjustCancel ring slot => Sys2Proof.Machine.execTimeAdjustCancel ring slot s
  | .timeAdjCtrlStep m v => Sys2Proof.Machine.execTimeAdjCtrlStep m v s
  | .timeAdjCtrlSlew m v => Sys2Proof.Machine.execTimeAdjCtrlSlew m v s
  | .timeAdjCtrlCancel m v => Sys2Proof.Machine.execTimeAdjCtrlCancel m v s
  | .stepApply => Sys2Proof.Machine.execStepApply s
  | .slewEnd => Sys2Proof.Machine.execSlewEnd s
  | .incrFracWrite m v => Sys2Proof.Machine.execIncrFracWrite m v s
  | .incrNsWrite m v => Sys2Proof.Machine.execIncrNsWrite m v s
  | .timeNowRead m => Sys2Proof.Machine.execTimeNowRead m s
  | .stampQueuePop m tx => Sys2Proof.Machine.execStampQueuePop m tx s
  | .ppsInEdge stamp => Sys2Proof.Machine.execPpsInEdge stamp s
  | .ppsInMissing => Sys2Proof.Machine.execPpsInMissing s
  | .eqxInEdge stamp => Sys2Proof.Machine.execEqxInEdge stamp s
  | .ppsOutPulse => Sys2Proof.Machine.execPpsOutPulse s
  | .timePinPulseEnd pin => Sys2Proof.Machine.execTimePinPulseEnd pin s
  | .alarmArm m n => Sys2Proof.Machine.execAlarmArm m n s
  | .alarmDisarm m n => Sys2Proof.Machine.execAlarmDisarm m n s
  | .alarmFire n => Sys2Proof.Machine.execAlarmFire n s
  | .memOwnStart m v => Sys2Proof.Machine.execMemOwnStart m v s
  | .handoverDrained b => Sys2Proof.Machine.execHandoverDrained b s
  | .handoverDone b => Sys2Proof.Machine.execHandoverDone b s
  | .memHandover ring slot => Sys2Proof.Machine.execMemHandover ring slot s
  | .memTest ring slot => Sys2Proof.Machine.execMemTest ring slot s
  | .marchBankDone b rows cols again => Sys2Proof.Machine.execMarchBankDone b rows cols again s
  | .memEccUeRead m => Sys2Proof.Machine.execMemEccUeRead m s
  | .bankThawDone b => Sys2Proof.Machine.execBankThawDone b s
  | .bankFrostIdle b => Sys2Proof.Machine.execBankFrostIdle b s
  | .memPwrReq m v => Sys2Proof.Machine.execMemPwrReq m v s
  | .memQuotaWrite m c v => Sys2Proof.Machine.execMemQuotaWrite m c v s
  | .enqueue via v => Sys2Proof.Machine.execEnqueue via v s
  | .noticeCoalesceTimeout q => Sys2Proof.Machine.execNoticeCoalesceTimeout q s
  | .dequeue via => Sys2Proof.Machine.execDequeue via s
  | .qmark via => Sys2Proof.Machine.execQmark via s
  | .rewind via => Sys2Proof.Machine.execRewind via s
  | .release via => Sys2Proof.Machine.execRelease via s
  | .flush via => Sys2Proof.Machine.execFlush via s
  | .noticeListPop via => Sys2Proof.Machine.execNoticeListPop via s
  | .noticeGroupPop m g => Sys2Proof.Machine.execNoticeGroupPop m g s
  | .queueEnable m v => Sys2Proof.Machine.execQueueEnable m v s
  | .queueDisable m v => Sys2Proof.Machine.execQueueDisable m v s
  | .queueStarted q => Sys2Proof.Machine.execQueueStarted q s
  | .qmQBindWrite m v => Sys2Proof.Machine.execQmQBindWrite m v s
  | .qmQLimitWrite m v => Sys2Proof.Machine.execQmQLimitWrite m v s
  | .fabricFirstCell f => Sys2Proof.Machine.execFabricFirstCell f s
  | .fabricLastCell fid len ok => Sys2Proof.Machine.execFabricLastCell fid len ok s
  | .redIdleUpdate eq => Sys2Proof.Machine.execRedIdleUpdate eq s
  | .resequencingLoss fid => Sys2Proof.Machine.execResequencingLoss fid s
  | .ageSweep => Sys2Proof.Machine.execAgeSweep s
  | .mcResidueAged fid => Sys2Proof.Machine.execMcResidueAged fid s
  | .fabActRead m => Sys2Proof.Machine.execFabActRead m s
  | .fabActApply m => Sys2Proof.Machine.execFabActApply m s
  | .canRouterFrame ch rec_ stamp => Sys2Proof.Machine.execCanRouterFrame ch rec_ stamp s
  | .ethModeWrite m v => Sys2Proof.Machine.execEthModeWrite m v s
  | .portEnable m v => Sys2Proof.Machine.execPortEnable m v s
  | .portDisable m v => Sys2Proof.Machine.execPortDisable m v s
  | .portStarted p => Sys2Proof.Machine.execPortStarted p s
  | .portStopped p => Sys2Proof.Machine.execPortStopped p s
  | .linkChange p up rate => Sys2Proof.Machine.execLinkChange p up rate s
  | .ethRxFrame p rx => Sys2Proof.Machine.execEthRxFrame p rx s
  | .pfcFrameRx p en times => Sys2Proof.Machine.execPfcFrameRx p en times s
  | .pauseFrameRx p quanta => Sys2Proof.Machine.execPauseFrameRx p quanta s
  | .pauseExpired p c => Sys2Proof.Machine.execPauseExpired p c s
  | .pfcRefresh p => Sys2Proof.Machine.execPfcRefresh p s
  | .gateEntryChange p => Sys2Proof.Machine.execGateEntryChange p s
  | .ethTxStart p => Sys2Proof.Machine.execEthTxStart p s
  | .ethTxEnd p => Sys2Proof.Machine.execEthTxEnd p s
  | .txUnderrun p => Sys2Proof.Machine.execTxUnderrun p s
  | .txThrWrite m v => Sys2Proof.Machine.execTxThrWrite m v s
  | .preemptVerifySend p => Sys2Proof.Machine.execPreemptVerifySend p s
  | .preemptRespondRx p => Sys2Proof.Machine.execPreemptRespondRx p s
  | .eeeLpiEnter p => Sys2Proof.Machine.execEeeLpiEnter p s
  | .eeeLpiExit p => Sys2Proof.Machine.execEeeLpiExit p s
  | .prpEntryForget pair => Sys2Proof.Machine.execPrpEntryForget pair s
  | .mdioWrite m bus v => Sys2Proof.Machine.execMdioWrite m bus v s
  | .mdioRead m bus v => Sys2Proof.Machine.execMdioRead m bus v s
  | .mdioAddress m bus v => Sys2Proof.Machine.execMdioAddress m bus v s
  | .mdioDone bus data => Sys2Proof.Machine.execMdioDone bus data s
  | .counter64LoRead m k => Sys2Proof.Machine.execCounter64LoRead m k s
  | .channelEnable m v => Sys2Proof.Machine.execChannelEnable m v s
  | .channelDisable m v => Sys2Proof.Machine.execChannelDisable m v s
  | .channelIntegrated c => Sys2Proof.Machine.execChannelIntegrated c s
  | .channelStopped c => Sys2Proof.Machine.execChannelStopped c s
  | .canRxFrame c rec_ stamp => Sys2Proof.Machine.execCanRxFrame c rec_ stamp s
  | .hpbPop m => Sys2Proof.Machine.execHpbPop m s
  | .canTxArrive c rec_ cls => Sys2Proof.Machine.execCanTxArrive c rec_ cls s
  | .canTxAttempt c stamp => Sys2Proof.Machine.execCanTxAttempt c stamp s
  | .canAttemptEnd c x => Sys2Proof.Machine.execCanAttemptEnd c x s
  | .busOffRecover m v => Sys2Proof.Machine.execBusOffRecover m v s
  | .recoveryDone c => Sys2Proof.Machine.execRecoveryDone c s
  | .scheduledSlotRelease c => Sys2Proof.Machine.execScheduledSlotRelease c s
  | .txLogPop m => Sys2Proof.Machine.execTxLogPop m s
  | .cancelByTag m tag => Sys2Proof.Machine.execCancelByTag m tag s
  | .headAbort m => Sys2Proof.Machine.execHeadAbort m s
  | .headAbortRequeue m => Sys2Proof.Machine.execHeadAbortRequeue m s
  | .busSleepRequest m v => Sys2Proof.Machine.execBusSleepRequest m v s
  | .busWakeRequest m v => Sys2Proof.Machine.execBusWakeRequest m v s
  | .holdExpired c => Sys2Proof.Machine.execHoldExpired c s
  | .wakeSettleExpired c => Sys2Proof.Machine.execWakeSettleExpired c s
  | .wakeUpPatternSent c => Sys2Proof.Machine.execWakeUpPatternSent c s
  | .wakeUpPatternDetect c => Sys2Proof.Machine.execWakeUpPatternDetect c s
  | .wakeUpFrameMatch c fr => Sys2Proof.Machine.execWakeUpFrameMatch c fr s
  | .canActRead m => Sys2Proof.Machine.execCanActRead m s
  | .canActApply m => Sys2Proof.Machine.execCanActApply m s
  | .starEnable m v => Sys2Proof.Machine.execStarEnable m v s
  | .starStarted => Sys2Proof.Machine.execStarStarted s
  | .starDisable m v => Sys2Proof.Machine.execStarDisable m v s
  | .starStopped => Sys2Proof.Machine.execStarStopped s
  | .claimSend => Sys2Proof.Machine.execClaimSend s
  | .claimFrameRx id running mc now => Sys2Proof.Machine.execClaimFrameRx id running mc now s
  | .claimDecision => Sys2Proof.Machine.execClaimDecision s
  | .secondaryAlign islDelay refNow mc x start => Sys2Proof.Machine.execSecondaryAlign islDelay refNow mc x start s
  | .runStart => Sys2Proof.Machine.execRunStart s
  | .basicCycleStart => Sys2Proof.Machine.execBasicCycleStart s
  | .referenceFrameSend n => Sys2Proof.Machine.execReferenceFrameSend n s
  | .modeSwitchRequest m v => Sys2Proof.Machine.execModeSwitchRequest m v s
  | .guardianOpen n => Sys2Proof.Machine.execGuardianOpen n s
  | .guardianClose n => Sys2Proof.Machine.execGuardianClose n s
  | .starFrameRx n fr => Sys2Proof.Machine.execStarFrameRx n fr s
  | .arbitrationDecision => Sys2Proof.Machine.execArbitrationDecision s
  | .slotBufferWrite rec_ => Sys2Proof.Machine.execSlotBufferWrite rec_ s
  | .slotSnapshot w => Sys2Proof.Machine.execSlotSnapshot w s
  | .deviceFrameSend w => Sys2Proof.Machine.execDeviceFrameSend w s
  | .echoRequestSend n => Sys2Proof.Machine.execEchoRequestSend n s
  | .echoResponseRx n roundTrip turnaround valid => Sys2Proof.Machine.execEchoResponseRx n roundTrip turnaround valid s
  | .equinox => Sys2Proof.Machine.execEquinox s
  | .branchEnable m v => Sys2Proof.Machine.execBranchEnable m v s
  | .branchDisable m v => Sys2Proof.Machine.execBranchDisable m v s
  | .branchReadmit m v => Sys2Proof.Machine.execBranchReadmit m v s
  | .branchRemeasure m v => Sys2Proof.Machine.execBranchRemeasure m v s
  | .branchQuarSet m v => Sys2Proof.Machine.execBranchQuarSet m v s
  | .branchQuarClear m v => Sys2Proof.Machine.execBranchQuarClear m v s
  | .islUp => Sys2Proof.Machine.execIslUp s
  | .islDown => Sys2Proof.Machine.execIslDown s
  | .starWakePattern n => Sys2Proof.Machine.execStarWakePattern n s
  | .pioFetch b sm => Sys2Proof.Machine.execPioFetch b sm s
  | .pioJump b sm => Sys2Proof.Machine.execPioJump b sm s
  | .pioAwait b sm => Sys2Proof.Machine.execPioAwait b sm s
  | .pioShin b sm => Sys2Proof.Machine.execPioShin b sm s
  | .pioShout b sm => Sys2Proof.Machine.execPioShout b sm s
  | .pioTake b sm => Sys2Proof.Machine.execPioTake b sm s
  | .pioGive b sm => Sys2Proof.Machine.execPioGive b sm s
  | .pioCopy b sm => Sys2Proof.Machine.execPioCopy b sm s
  | .pioDrive b sm => Sys2Proof.Machine.execPioDrive b sm s
  | .pioSignal b sm => Sys2Proof.Machine.execPioSignal b sm s
  | .pioNoOperation b sm => Sys2Proof.Machine.execPioNoOperation b sm s
  | .pioHalt m v => Sys2Proof.Machine.execPioHalt m v s
  | .pioRestart m v => Sys2Proof.Machine.execPioRestart m v s
  | .pioPhaseRestart m v => Sys2Proof.Machine.execPioPhaseRestart m v s
  | .pioStart m v => Sys2Proof.Machine.execPioStart m v s
  | .pioGstartLoWrite m v => Sys2Proof.Machine.execPioGstartLoWrite m v s
  | .pioGstart m v => Sys2Proof.Machine.execPioGstart m v s
  | .pioTxFifoWrite via sm v blocking => Sys2Proof.Machine.execPioTxFifoWrite via sm v blocking s
  | .pioRxFifoRead via sm blocking => Sys2Proof.Machine.execPioRxFifoRead via sm blocking s
  | .pioFlagWrite via set clear => Sys2Proof.Machine.execPioFlagWrite via set clear s
  | .imemWrite via idx v => Sys2Proof.Machine.execImemWrite via idx v s
  | .smFrameWrite via sm v => Sys2Proof.Machine.execSmFrameWrite via sm v s
  | .engLoad ring slot data readError => Sys2Proof.Machine.execEngLoad ring slot data readError s
  | .engStart ring slot => Sys2Proof.Machine.execEngStart ring slot s
  | .engStop ring slot => Sys2Proof.Machine.execEngStop ring slot s
  | .engCtrlStart m v => Sys2Proof.Machine.execEngCtrlStart m v s
  | .engCtrlStop m v => Sys2Proof.Machine.execEngCtrlStop m v s
  | .engCtrlStep m v => Sys2Proof.Machine.execEngCtrlStep m v s
  | .threadStarted t => Sys2Proof.Machine.execThreadStarted t s
  | .threadStopped t => Sys2Proof.Machine.execThreadStopped t s
  | .breakpoint t => Sys2Proof.Machine.execBreakpoint t s
  | .memoryOpComplete t k => Sys2Proof.Machine.execMemoryOpComplete t k s
  | .budgetPeriodStart => Sys2Proof.Machine.execBudgetPeriodStart s
  | .engTBudgetWrite m v => Sys2Proof.Machine.execEngTBudgetWrite m v s
  | .engImemDataWrite m v => Sys2Proof.Machine.execEngImemDataWrite m v s
  | .engLmemDataAccess m wr => Sys2Proof.Machine.execEngLmemDataAccess m wr s
  | .engTGdataWrite m pc v => Sys2Proof.Machine.execEngTGdataWrite m pc v s
  | .timeoutArm t v => Sys2Proof.Machine.execTimeoutArm t v s
  | .timeoutDisarm t => Sys2Proof.Machine.execTimeoutDisarm t s
  | .waitTimeout t => Sys2Proof.Machine.execWaitTimeout t s
  | .localTimerStart t v => Sys2Proof.Machine.execLocalTimerStart t v s
  | .localTimerExpiry t => Sys2Proof.Machine.execLocalTimerExpiry t s
  | .waittDone t => Sys2Proof.Machine.execWaittDone t s
  | .waiteDone t => Sys2Proof.Machine.execWaiteDone t s
  | .waitqDone t => Sys2Proof.Machine.execWaitqDone t s
  | .crcInit t v => Sys2Proof.Machine.execCrcInit t v s
  | .crcFeed t port v => Sys2Proof.Machine.execCrcFeed t port v s
  | .add t rd ra rb => Sys2Proof.Machine.execAdd t rd ra rb s
  | .sub t rd ra rb => Sys2Proof.Machine.execSub t rd ra rb s
  | .andd t rd ra rb => Sys2Proof.Machine.execAndd t rd ra rb s
  | .orr t rd ra rb => Sys2Proof.Machine.execOrr t rd ra rb s
  | .xor t rd ra rb => Sys2Proof.Machine.execXor t rd ra rb s
  | .ezMin t rd ra rb => Sys2Proof.Machine.execEzMin t rd ra rb s
  | .ezMax t rd ra rb => Sys2Proof.Machine.execEzMax t rd ra rb s
  | .tdif t rd ra rb => Sys2Proof.Machine.execTdif t rd ra rb s
  | .neg t rd ra => Sys2Proof.Machine.execNeg t rd ra s
  | .abs t rd ra => Sys2Proof.Machine.execAbs t rd ra s
  | .clz t rd ra => Sys2Proof.Machine.execClz t rd ra s
  | .popc t rd ra => Sys2Proof.Machine.execPopc t rd ra s
  | .sll t rd ra rb => Sys2Proof.Machine.execSll t rd ra rb s
  | .srl t rd ra rb => Sys2Proof.Machine.execSrl t rd ra rb s
  | .sra t rd ra rb => Sys2Proof.Machine.execSra t rd ra rb s
  | .ror t rd ra rb => Sys2Proof.Machine.execRor t rd ra rb s
  | .slli t rd ra n => Sys2Proof.Machine.execSlli t rd ra n s
  | .srli t rd ra n => Sys2Proof.Machine.execSrli t rd ra n s
  | .srai t rd ra n => Sys2Proof.Machine.execSrai t rd ra n s
  | .rori t rd ra n => Sys2Proof.Machine.execRori t rd ra n s
  | .addi t rd ra imm => Sys2Proof.Machine.execAddi t rd ra imm s
  | .andi t rd ra imm => Sys2Proof.Machine.execAndi t rd ra imm s
  | .ori t rd ra imm => Sys2Proof.Machine.execOri t rd ra imm s
  | .xori t rd ra imm => Sys2Proof.Machine.execXori t rd ra imm s
  | .lui t rd imm => Sys2Proof.Machine.execLui t rd imm s
  | .bperm t rd ra imm => Sys2Proof.Machine.execBperm t rd ra imm s
  | .mul t rd ra rb => Sys2Proof.Machine.execMul t rd ra rb s
  | .mulhs t rd ra rb => Sys2Proof.Machine.execMulhs t rd ra rb s
  | .mulhu t rd ra rb => Sys2Proof.Machine.execMulhu t rd ra rb s
  | .divs t rd ra rb => Sys2Proof.Machine.execDivs t rd ra rb s
  | .divu t rd ra rb => Sys2Proof.Machine.execDivu t rd ra rb s
  | .rems t rd ra rb => Sys2Proof.Machine.execRems t rd ra rb s
  | .remu t rd ra rb => Sys2Proof.Machine.execRemu t rd ra rb s
  | .bfx t rd ra pos len1 => Sys2Proof.Machine.execBfx t rd ra pos len1 s
  | .bfxs t rd ra pos len1 => Sys2Proof.Machine.execBfxs t rd ra pos len1 s
  | .bfi t rd ra pos len1 => Sys2Proof.Machine.execBfi t rd ra pos len1 s
  | .beq t ra rb off => Sys2Proof.Machine.execBeq t ra rb off s
  | .bne t ra rb off => Sys2Proof.Machine.execBne t ra rb off s
  | .blt t ra rb off => Sys2Proof.Machine.execBlt t ra rb off s
  | .bge t ra rb off => Sys2Proof.Machine.execBge t ra rb off s
  | .bltu t ra rb off => Sys2Proof.Machine.execBltu t ra rb off s
  | .bgeu t ra rb off => Sys2Proof.Machine.execBgeu t ra rb off s
  | .jmp t off => Sys2Proof.Machine.execJmp t off s
  | .call t off => Sys2Proof.Machine.execCall t off s
  | .jr t ra => Sys2Proof.Machine.execJr t ra s
  | .callr t ra => Sys2Proof.Machine.execCallr t ra s
  | .ret t => Sys2Proof.Machine.execRet t s
  | .loop t ra len => Sys2Proof.Machine.execLoop t ra len s
  | .loopi t count len => Sys2Proof.Machine.execLoopi t count len s
  | .leave t => Sys2Proof.Machine.execLeave t s
  | .ldb t rd ra imm => Sys2Proof.Machine.execLdb t rd ra imm s
  | .ldbu t rd ra imm => Sys2Proof.Machine.execLdbu t rd ra imm s
  | .ldh t rd ra imm => Sys2Proof.Machine.execLdh t rd ra imm s
  | .ldhu t rd ra imm => Sys2Proof.Machine.execLdhu t rd ra imm s
  | .ldw t rd ra imm => Sys2Proof.Machine.execLdw t rd ra imm s
  | .stb t rs ra imm => Sys2Proof.Machine.execStb t rs ra imm s
  | .sth t rs ra imm => Sys2Proof.Machine.execSth t rs ra imm s
  | .stw t rs ra imm => Sys2Proof.Machine.execStw t rs ra imm s
  | .aadd t rd ra rb w => Sys2Proof.Machine.execAadd t rd ra rb w s
  | .aswp t rd ra rb w => Sys2Proof.Machine.execAswp t rd ra rb w s
  | .inPort t rd ra imm => Sys2Proof.Machine.execInPort t rd ra imm s
  | .outPort t rs ra imm => Sys2Proof.Machine.execOutPort t rs ra imm s
  | .inSpecial t rd num => Sys2Proof.Machine.execInSpecial t rd num s
  | .outSpecial t rs num => Sys2Proof.Machine.execOutSpecial t rs num s
  | .ldc t rd ra imm => Sys2Proof.Machine.execLdc t rd ra imm s
  | .stc t rs ra imm => Sys2Proof.Machine.execStc t rs ra imm s
  | .ezNop t => Sys2Proof.Machine.execEzNop t s
  | .yield t => Sys2Proof.Machine.execYield t s
  | .halt t => Sys2Proof.Machine.execHalt t s
  | .waitt t ra => Sys2Proof.Machine.execWaitt t ra s
  | .waite t rd ra => Sys2Proof.Machine.execWaite t rd ra s
  | .waitq t rd => Sys2Proof.Machine.execWaitq t rd s
  | .sys t code => Sys2Proof.Machine.execSys t code s
  | .eret t => Sys2Proof.Machine.execEret t s
  | .illegal t word => Sys2Proof.Machine.execIllegal t word s
  | .event => Sys2Proof.Machine.execEvent s
  | .lockstepMismatch => Sys2Proof.Machine.execLockstepMismatch s
  | .polEnable m v => Sys2Proof.Machine.execPolEnable m v s
  | .polDisable m v => Sys2Proof.Machine.execPolDisable m v s
  | .polLoad ring slot data => Sys2Proof.Machine.execPolLoad ring slot data s
  | .polEnvelope ring slot data => Sys2Proof.Machine.execPolEnvelope ring slot data s
  | .policyTimerExpiry => Sys2Proof.Machine.execPolicyTimerExpiry s
  | .wdt4Kick => Sys2Proof.Machine.execWdt4Kick s
  | .wdt3Kick m => Sys2Proof.Machine.execWdt3Kick m s
  | .watchdogExpiry level => Sys2Proof.Machine.execWatchdogExpiry level s
  | .decisionRecord v => Sys2Proof.Machine.execDecisionRecord v s
  | .polTblRead m => Sys2Proof.Machine.execPolTblRead m s
  | .signalSourceFrame r n q => Sys2Proof.Machine.execSignalSourceFrame r n q s
  | .signalCyclicSend r => Sys2Proof.Machine.execSignalCyclicSend r s
  | .signalDeadline r => Sys2Proof.Machine.execSignalDeadline r s
  | .wakeRuleApply trigger index => Sys2Proof.Machine.execWakeRuleApply trigger index s
  | .adaptationPeriod acts => Sys2Proof.Machine.execAdaptationPeriod acts s
  | .recircPacket q => Sys2Proof.Machine.execRecircPacket q s
  | .cryptoSubmit t addr => Sys2Proof.Machine.execCryptoSubmit t addr s
  | .cryptoCompletionPop t => Sys2Proof.Machine.execCryptoCompletionPop t s
  | .tag t k => Sys2Proof.Machine.execTag t k s
  | .verify t k => Sys2Proof.Machine.execVerify t k s
  | .cmac t k => Sys2Proof.Machine.execCmac t k s
  | .gcmEncrypt t k => Sys2Proof.Machine.execGcmEncrypt t k s
  | .gcmDecrypt t k => Sys2Proof.Machine.execGcmDecrypt t k s
  | .sha256 t k => Sys2Proof.Machine.execSha256 t k s
  | .hmacSha256 t k => Sys2Proof.Machine.execHmacSha256 t k s
  | .keyUnwrap t k => Sys2Proof.Machine.execKeyUnwrap t k s
  | .keyDerive t k => Sys2Proof.Machine.execKeyDerive t k s
  | .keyErase t k => Sys2Proof.Machine.execKeyErase t k s
  | .random t k => Sys2Proof.Machine.execRandom t k s
  | .keyInstall m v => Sys2Proof.Machine.execKeyInstall m v s
  | .keyCtrlErase m v => Sys2Proof.Machine.execKeyCtrlErase m v s
  | .provLockWrite m v => Sys2Proof.Machine.execProvLockWrite m v s
  | .statusReport inst x => Sys2Proof.Machine.execStatusReport inst x s
  | .mapSwitch inst => Sys2Proof.Machine.execMapSwitch inst s
  | .doorbellPost via ch v => Sys2Proof.Machine.execDoorbellPost via ch v s
  | .doorbellTake via ch => Sys2Proof.Machine.execDoorbellTake via ch s
  | .blockWordWrite via w v => Sys2Proof.Machine.execBlockWordWrite via w v s
  | .blockPost via tmo => Sys2Proof.Machine.execBlockPost via tmo s
  | .blockTake via => Sys2Proof.Machine.execBlockTake via s
  | .mailboxCancel via ch => Sys2Proof.Machine.execMailboxCancel via ch s
  | .mailboxQuery t ch => Sys2Proof.Machine.execMailboxQuery t ch s
  | .mailboxTimeout ch => Sys2Proof.Machine.execMailboxTimeout ch s
  | .mbxBindWrite m v => Sys2Proof.Machine.execMbxBindWrite m v s
  | .mbxBindLockWrite m v => Sys2Proof.Machine.execMbxBindLockWrite m v s
  | .lockRead via k => Sys2Proof.Machine.execLockRead via k s
  | .lockRelease via k v => Sys2Proof.Machine.execLockRelease via k v s
  | .lockForce m v => Sys2Proof.Machine.execLockForce m v s
  | .recordBuild => Sys2Proof.Machine.execRecordBuild s
  | .flashPageProgram ok => Sys2Proof.Machine.execFlashPageProgram ok s
  | .sectorEraseDone ok => Sys2Proof.Machine.execSectorEraseDone ok s
  | .counterPersist => Sys2Proof.Machine.execCounterPersist s
  | .pfwN => Sys2Proof.Machine.execPfwN s
  | .softwareRecord m v => Sys2Proof.Machine.execSoftwareRecord m v s
  | .recSnapshot ring slot => Sys2Proof.Machine.execRecSnapshot ring slot s
  | .recRdRead m => Sys2Proof.Machine.execRecRdRead m s
  | .recEnable m v => Sys2Proof.Machine.execRecEnable m v s
  | .recOptimeRead m => Sys2Proof.Machine.execRecOptimeRead m s
  | .fwWrite ring slot data => Sys2Proof.Machine.execFwWrite ring slot data s
  | .fwActivate ring slot => Sys2Proof.Machine.execFwActivate ring slot s
  | .fwuConfirm m v => Sys2Proof.Machine.execFwuConfirm m v s
  | .frostRequest m v => Sys2Proof.Machine.execFrostRequest m v s
  | .midwinterRequest m v => Sys2Proof.Machine.execMidwinterRequest m v s
  | .wakeDetect src => Sys2Proof.Machine.execWakeDetect src s
  | .thawComplete => Sys2Proof.Machine.execThawComplete s
  | .dozeEnter d => Sys2Proof.Machine.execDozeEnter d s
  | .dozeExit d => Sys2Proof.Machine.execDozeExit d s
  | .rtcAlarm => Sys2Proof.Machine.execRtcAlarm s
  | .powerOnReset straps => Sys2Proof.Machine.execPowerOnReset straps s
  | .resetN straps lowNs => Sys2Proof.Machine.execResetN straps lowNs s
  | .swDeviceReset m v => Sys2Proof.Machine.execSwDeviceReset m v s
  | .swLevelRestart m v => Sys2Proof.Machine.execSwLevelRestart m v s
  | .softwareLevelRestart img => Sys2Proof.Machine.execSoftwareLevelRestart img s
  | .restartComplete => Sys2Proof.Machine.execRestartComplete s
  | .pcieHotReset => Sys2Proof.Machine.execPcieHotReset s
  | .coldBoot img => Sys2Proof.Machine.execColdBoot img s
  | .powerLoss => Sys2Proof.Machine.execPowerLoss s
  | .collision p late => Sys2Proof.Machine.execCollision p late s
  | .canRxError c x => Sys2Proof.Machine.execCanRxError c x s
  | .fioPinEdge n level => Sys2Proof.Machine.execFioPinEdge n level s
  | .jtagTckEdge rising tms tdi trstn => Sys2Proof.Machine.execJtagTckEdge rising tms tdi trstn s
  | .fwWriteDone ok => Sys2Proof.Machine.execFwWriteDone ok s
  | .wakeRuleHoldExpiry c => Sys2Proof.Machine.execWakeRuleHoldExpiry c s
  | .pllLockLoss pll => Sys2Proof.Machine.execPllLockLoss pll s
  | .recDisable m v => Sys2Proof.Machine.execRecDisable m v s

end Sys2Proof.Machine
end

