-- ==== Sys2Proof/Machine/Tick.lean ====
section
/-! DEFINITION. One tick of the 250 MHz time base on an idle queue (log 2): clocks advance, and everything that time alone
brings about takes place, in the order of this file. -/

namespace Sys2Proof.Machine

/-! ### Helpers -/

/-- The next state of a meaning. -/
def did (f : State → Res) (s : State) : State :=
  match f s with
  | .next t => t
  | _ => s

/-- A meaning for each of `n` numbers in turn. -/
def each (n : Nat) (f : Nat → State → State) (s : State) : State := (List.range n).foldl (fun s k => f k s) s

/-- A meaning for each key of a list in turn. -/
def eachOf (l : List Nat) (f : Nat → State → State) (s : State) : State := l.foldl (fun s k => f k s) s

/-- Channels of a register that hold other than its reset value. -/
def chansOf (r : Reg) (s : State) : List Nat :=
  s.regs.filterMap fun e => if e.1 % 1024 = r.ctorIdx then some (e.1 / 2 ^ 20) else none

/-! ### Time base, events, configuration -/

/-- The local clock in the power state (03 R61, R66): 250 MHz, or 25 MHz by ten increments in Frost with frost_keep. -/
def tickClock (s : State) : State :=
  match s.pwr.st with
  | .run | .entering | .enteringMidwinter => clockTick s
  | .frost | .thaw =>
    if bit (rd s .TIME_CTRL 0 0) 0 && s.ticks % 10 = 0 then
      let v : Nat := s.time.now.toNat * 2 ^ 32 + s.time.frac.toNat + 10 * s.time.incr.toNat
      setTime { s.time with now := BitVec.ofNat 64 (v / 2 ^ 32), frac := BitVec.ofNat 32 v } s
    else s
  | _ => s

/-- Adjustments: slews cancelled in the last tick end, a step acts, a slew that is over ends (03 R67, R70, R72; the order is a
DESIGN CHOICE, log 53). -/
def tickAdjust (s : State) : State :=
  did execSlewEnd (did execStepApply (s.time.cancelled.foldl (fun s _ => did execSlewEnd s) s))

/-- Alarms (03 R88). -/
def tickAlarms (s : State) : State := each 2 (fun n => did (execAlarmFire (Fin.ofNat 2 n))) s

/-- Adjustments, alarms, pulses, EVT_OUT pins and an armed commit of an instant (03, 02). -/
def tickTime (s : State) : State :=
  let s := did execPpsInMissing (did execPpsOutPulse (tickAlarms (tickAdjust s)))
  let s := each 5 (fun n => did (execTimePinPulseEnd (Fin.ofNat 5 n))) (eqxPins s.time.ppsAt.toNat s)
  let s := each 4 (fun n s => did (execEvtOutPulseEnd (Fin.ofNat 4 n)) (evtRise n s)) s
  did execSolstice s

/-- Completions that wait are written to host memory, and messages leave (02 R30, R50, R450). -/
def tickHif (s : State) : State :=
  let s := each 8 (fun n s => if (ringOf s n).held.isEmpty then s else pumpRing n s) s
  (s.evt.msixPend.map (·.1)).foldl (fun s n => msixWrite n s) s

/-! ### Memory, queues, fabric -/

/-- A bank's thaw takes 1.5 us (04 R107). -/
def thawPassed (s : State) (b : Nat) : Bool :=
  let k := bankOf s b
  k.thawing && decide (k.lastAccess.toNat + 375 ≤ s.ticks)

/-- A bank that a handover clears is zero after 2.6 us (04 R101 step 3). -/
def scrubPassed (s : State) (b : Nat) : Bool :=
  match (bankOf s b).pend with
  | some h => !h.scrub || decide (h.since + 650 ≤ s.ticks)
  | none => true

/-- Handovers, thaws, idle banks, and the BAR2 accesses that waited for a thaw (04 R101, R107). -/
def tickMem (s : State) : State :=
  (fun s => bar2Pump (s.mem.bar2.length + 1) s) <| eachOf (s.mem.banks.map (·.1)) (fun b s =>
    let n := Fin.ofNat 384 b
    let s := did (execHandoverDrained n) (if scrubPassed s b then did (execHandoverDone n) s else s)
    did (execBankFrostIdle n) (if thawPassed s b then did (execBankThawDone n) s else s)) s

/-- A fabric port takes the packets of its queue, whole (06 R167; 13 R362). -/
def tickQueue (q : Nat) (s : State) : State := did (execRecircPacket (Fin.ofNat 4096 q)) (fabFromQueue (Fin.ofNat 4096 q) s)

/-- Queues start, notices fall due, fabric consumers take (05 R124, R132). -/
def tickQm (s : State) : State :=
  let s := eachOf (chansOf .QM_Q_STAT s) (fun q => did (execQueueStarted (Fin.ofNat 4096 q))) s
  eachOf (s.qm.queues.map (·.1)) (fun q s => tickQueue q (did (execNoticeCoalesceTimeout (Fin.ofNat 4096 q)) s)) s

/-- RED averages, aging, the switch core, receive areas, aged residues (06 R145, R156, R160, R163-R165; 05 R133). -/
def tickFab (s : State) : State :=
  let s := if s.ticks % 256 = 0 then each 216 (fun q => did (execRedIdleUpdate (Fin.ofNat 216 q))) s else s
  let age := fld (rd s .FAB_AGE_TIME 0 0) 15 0 * 250000000
  let s := if age ≠ 0 && s.ticks % age = 0 then did execAgeSweep s else s
  let s := reserveScan (rxPump (coreTick s))
  eachOf ((s.fab.flights.filter (mcAged s)).map (·.id)) (fun f => did (execMcResidueAged f)) s

/-! ### Media -/

/-- A frame has left: the rest of it, its FCS and the inter-packet gap have passed. -/
def leftPort (s : State) (p : Nat) (x : Leaving) : Bool := decide (x.bytes.length - x.sent + 16 ≤ sentNow s p x)

/-- A cut-through frame has no byte left to send before its next cell comes (07 R202). -/
def starved (s : State) (p : Nat) (x : Leaving) : Bool :=
  !x.bad && s.fab.flights.any fun f => f.id = x.flight && Dest.eth p ∉ f.full && decide (come s p f < x.sent + sentNow s p x)

/-- Ticks of a PLCA cycle of the coordinator: the BEACON's 20 bit times, and every node's opportunity (07 Table 7.9). -/
def plcaCycle (s : State) (p : Nat) : Nat :=
  let c := rd s .ETH_PLCA_CFG 0 p
  25 * (20 + max 1 (fld c 15 8) * max 1 (fld c 23 16))

/-- The coordinator's own transmit opportunity begins (DESIGN CHOICE, log 60); those of other nodes are ETH_TX_START's. -/
def plcaOpens (s : State) (p : Nat) : Bool :=
  plcaOn s p && fld (rd s .ETH_PLCA_CFG 0 p) 7 0 = 0 && s.ticks % plcaCycle s p = 0 && (portOf s p).leaving.isNone

/-- The leaving frame of a port ends, or has no more bytes to send. -/
def tickLeaving (p : Nat) (s : State) : State :=
  match (portOf s p).leaving with
  | none => s
  | some x =>
    if starved s p x then did (execTxUnderrun (Fin.ofNat 16 p)) s
    else if leftPort s p x then did (execEthTxEnd (Fin.ofNat 16 p)) s else s

/-- An Ethernet port (07). -/
def tickPort (p : Nat) (s : State) : State :=
  let n := Fin.ofNat 16 p
  let s := did (execPortStopped n) (did (execPortStarted n) s)
  let s := did (execGateEntryChange n) (each 8 (fun c => did (execPauseExpired n (Fin.ofNat 8 c))) s)
  let s := tickLeaving p (did (execPreemptVerifySend n) (did (execPfcRefresh n) s))
  let s := did (execEeeLpiEnter n) (did (execEeeLpiExit n) s)
  if plcaOpens s p then did (execEthTxStart n) s else txRun p s

/-- The Ethernet block. -/
def tickEth (s : State) : State :=
  each 6 (fun k => did (execPrpEntryForget (Fin.ofNat 6 k))) (each 16 tickPort s)

/-- The CAN channels: what no bus level decides (08). -/
def tickCan (s : State) : State :=
  each 32 (fun c s =>
    let n := Fin.ofNat 32 c
    let s := did (execHoldExpired n) (did (execScheduledSlotRelease n) (did (execChannelStopped n) s))
    did (execWakeUpPatternSent n) (did (execWakeSettleExpired n) s)) s

/-- A running star: reference frames, Equinox, the next basic cycle, windows, echo requests, decisions (09). -/
def tickStarRun (s : State) : State :=
  let s := each 24 (fun n => did (execReferenceFrameSend (Fin.ofNat 24 n))) s
  let s := did execEquinox (did execBasicCycleStart (did execEquinox s))
  let s := each 64 (fun w s => did (execDeviceFrameSend (Fin.ofNat 64 w)) (did (execSlotSnapshot (Fin.ofNat 64 w)) s)) s
  let s := each 24 (fun n s => did (execGuardianClose (Fin.ofNat 24 n)) (did (execGuardianOpen (Fin.ofNat 24 n)) s)) s
  arbSettle false (each 24 (fun n => did (execEchoRequestSend (Fin.ofNat 24 n))) s)

/-- The Rewick star (09): claim frames go every 100 us. -/
def tickStar (s : State) : State :=
  let s := did execClaimDecision (did execStarStarted s)
  let s := wakeAheadOfRun (if s.ticks % 25000 = 0 then did execClaimSend s else s)
  let s := did execStarStopped (did execRunStart s)
  if starRunning s then tickStarRun s else s

/-! ### Threads -/

/-- Threads in use, with the policy core. -/
def threadsOf (s : State) : List Nat := s.eng.threads.map (·.1) ++ [96]

/-- The operation of a thread that a tick performs: the oldest that may be and does not wait for a thaw under way (11 R291,
R293). -/
def nextOp (s : State) (t : Nat) : Option Nat :=
  let l := (thOf s t).ops
  (List.range l.length).find? fun k =>
    opServed s t k && opFree l k && (match (l[k]?).bind (fun o => opThaws t o s) with
      | some b => !(bankOf s b).thawing
      | none => true)

/-- The tick performs that operation. -/
def opTick (t : Nat) (s : State) : State :=
  match nextOp s t with
  | some k => did (execMemoryOpComplete (Fin.ofNat 97 t) k) s
  | none => s

/-- Timers, waits, operations in flight and I/O of a thread (11 R289-R300). -/
def tickThread (t : Nat) (s : State) : State :=
  let n := Fin.ofNat 97 t
  let s := opTick t s
  let s := if t < 96 then did (execLocalTimerExpiry (Fin.ofNat 96 t)) (did (execThreadStarted (Fin.ofNat 96 t)) s) else s
  let s := did (execWaitqDone n) (did (execWaiteDone n) (did (execWaittDone n) s))
  let s := did (execWaitTimeout n) s
  let s := if running s && (ioRank s t).isNone then ioTry n s else s
  let s := match (thOf s t).cry with
    | r :: _ => did (cryTake (fld (rqW r 0) 7 0) n 0) s
    | [] => s
  if t < 96 then did (execThreadStopped (Fin.ofNat 96 t)) (did (execBreakpoint (Fin.ofNat 96 t)) s) else s

/-- The mailbox and lock accesses of this cycle in their order, those of one kind in ascending identity and thread (15 R389,
R396). -/
def tickMailbox (s : State) : State :=
  if running s then
    each 5 (fun k => eachOf (96 :: s.eng.threads.map (·.1)) (fun t s => if ioRank s t = some k then ioTry (Fin.ofNat 97 t) s else s)) s
  else s

/-- The instruction at the PC of a ready thread issues, an illegal word among them. -/
def issueThread (t : Nat) (s : State) : State :=
  let n := Fin.ofNat 97 t
  let w := instrWord s t (thOf s t).pc
  match ezDecode n w with
  | some f => did f s
  | none => did (execIllegal n w) s

/-- One cycle of an engine: the first thread after the last issuer that can issue does (11 R284). -/
def engineCycle (e : Nat) (s : State) : State :=
  let l := nmGet 4 s.eng.lastIssue e
  let first := if 4 ≤ l then 0 else l + 1
  match [0, 1, 2, 3].findSome? fun k =>
      let t := 4 * e + (first + k) % 4
      if !thReady s t then none
      else
        let s' := issueThread t s
        if s' = s then none else some s' with
  | some s' => s'
  | none => s

/-- Four engine cycles of 1.0 GHz. -/
def tickEngine (e : Nat) (s : State) : State :=
  if [0, 1, 2, 3].all fun k => fbState (thOf s (4 * e + k)).fb ≠ 2 then s else each 4 (fun _ => engineCycle e) s

/-- One cycle of the policy core: an event exception, else an instruction. -/
def polCycle (s : State) : State := if (eventDue s).isSome then did execEvent s else issueThread 96 s

/-- The framework writes the RTC once per minute, with the seconds of the local clock while that is synced (R421; DESIGN CHOICE of
the instant, log 22). -/
def rtcSync (s : State) : State :=
  if s.ticks % 15000000000 = 0 && fwRuns s && bit (rd s .TIME_STAT 0 0) 0 then
    let v := BitVec.ofNat 32 (now s / 1000000000)
    withWrite 3 .CLK_RTC_S 0 v (plainWrite .CLK_RTC_S 0 0 v) s
  else s

/-- The policy core (12, 13): 24 cycles of 1.2 GHz in five ticks; its timer, the watchdogs, the framework. -/
def tickPol (s : State) : State :=
  let s := did execPolicyTimerExpiry s
  let s := each 2 (fun k => did (execWatchdogExpiry (k = 1))) (did execRestartComplete (rtcSync s))
  each (if s.ticks % 5 = 0 then 4 else 5) (fun _ => polCycle) s

/-- The protocol engines (11). -/
def tickEng (s : State) : State :=
  each 24 tickEngine (tickMailbox (eachOf (threadsOf s) tickThread (did execBudgetPeriodStart s)))

/-! ### Gateway, mailboxes, recorder -/

/-- Cyclic sends, deadlines, wake holds, mailbox timeouts (13 R352, R353, R355; 15 R390). -/
def tickGw (s : State) : State :=
  let rs := sgRoutes s s.time.now
  let s := rs.foldl (fun s x => sgSubstitute x.1 x.2 s) (cyclicSends rs s)
  let s := eachOf (s.pol.wakeHold.map (·.1)) (fun c s => if holdPassed s c then holdSleep c s else s) s
  eachOf (s.mbx.chans.map (·.1)) (fun c => did (execMailboxTimeout (Fin.ofNat 80 c))) s

/-- The event recorder (16). -/
def tickRec (s : State) : State := recSettle (did execCounterPersist (tickBuild s))

/-! ### The tick -/

/-- Everything that a tick of RUN brings about after the clocks. The sets switch before anything is classified or starts
(02 R45), and threads act before frames are stamped (03 R82). -/
def tickRun (s : State) : State :=
  let s := tickStar (tickTime (tickHif (polStopped (polStarted s))))
  let s := tickPol (tickEng (tickMem s))
  let s := tickCan (tickEth (tickFab (tickQm s)))
  tickRec (tickGw (pioClock s))

/-- The local clock's adjustments and alarms go on, and operations in flight complete, while a low-power state is entered
(03 R67, R70, R88; 17 R416, R419). -/
def tickEntering (s : State) : State :=
  let s := tickAlarms (tickAdjust s)
  midwinterEnter (frostEnter (tickRec (tickMem (eachOf (threadsOf s) opTick s))))

/-- No access has met a bank and no event fired in the tick that begins (04 R92; 16 R401). -/
def instantBegins (s : State) : State :=
  { s with mem := { s.mem with cycle := [] }, recorder := { s.recorder with fresh := 0, lostNow := 0 } }

/-- One tick of the 250 MHz time base. -/
def tick (s : State) : State :=
  let s := { s with ticks := s.ticks + 1 }
  if s.pwr.st = .off then s
  else
    let s := did execRtcAlarm (tickClock (aonTick (instantBegins s)))
    let s := match s.pwr.st with
      | .run => tickRun s
      | .entering | .enteringMidwinter => tickEntering s
      | _ => s
    setTime { s.time with ppsAt := s.time.now } s

end Sys2Proof.Machine
end

