-- ==== Sys2Proof/Machine/Pins.lean ====
section
/-! DEFINITION. The level at which each output pin stands, read off the state (18 R438-R440; 03 R85; 08 R206, R229; 09 R234; 10 R265). -/

namespace Sys2Proof.Machine

/-- Output pins whose level the state fixes; CANn_TXD and Bn_TXD while no frame is sent, the xSPI select
between accesses (log 50). -/
inductive OutPin where
  | irqN | wakeOutN | ppsOut | tdo | xspiCsN
  | evtOut (k : Fin 4)
  | eqxOut (k : Fin 4)
  | fio (n : Fin 128)
  | canStb (c : Fin 32)
  | canTxdIdle (c : Fin 32)
  | starTxen (n : Fin 24)
  | starTxdIdle (n : Fin 24)
  deriving DecidableEq, Repr

/-- The pin lies in bank IO_F, which keeps its pins in Midwinter (R439). -/
def OutPin.inBankF : OutPin → Bool
  | .irqN | .wakeOutN | .ppsOut | .tdo | .evtOut _ | .eqxOut _ => true
  | .xspiCsN | .fio _ | .canStb _ | .canTxdIdle _ | .starTxen _ | .starTxdIdle _ => false

/-- IRQ_N is driven low: an event source with msix_en in its route entry has its pending bit set (R440). -/
def irqLow (s : State) : Bool := (List.range 320).any fun k => bit (rd s .EVT_ROUTE k 0) 5 && bit (rd s .EVT_PEND (k / 32) 0) (k % 32)

/-- CANn_STB while it is driven: asserted in OFF and ASLEEP, with the polarity that stb_pol sets (08 R229). -/
def stbLevel (s : State) (c : Nat) : Bool :=
  (fbState (fbOf s .CAN_STAT c) = 0 || busOf s c = 2) != bit (rd s .CAN_CTRL 0 c) 12

/-- The pin as its own chapter drives it while the device has power; `none` is high-impedance. -/
def pinOwn (s : State) : OutPin → Option Bool
  | .irqN => if irqLow s then some false else none
  | .wakeOutN => if wakeOutLow s then some false else none
  | .ppsOut => if bit (rd s .TIME_CTRL 0 0) 1 then some s.time.ppsOutEnd.isSome else none
  | .tdo => if s.pwr.tap = 2 || s.pwr.tap = 10 then s.pwr.tdo else none
  | .xspiCsN => if s.pwr.booted then some true else none
  | .evtOut k => some (nmGet ⟨none, [], false, none, false⟩ s.evt.pins k).stop.isSome
  | .eqxOut k =>
    let c := rd s .TIME_EQXOUT_CFG k 0
    if bit c 0 then some ((nmFind s.time.eqxOutEnd k).isSome != bit c 1) else none
  | .fio n => pinDriven s n
  | .canStb c => if bit (rd s .CAN_CTRL 0 c) 11 then some (stbLevel s c) else none
  | .canTxdIdle c => if fbState (fbOf s .CAN_STAT c) = 0 then none else some true
  | .starTxen n => if fbState (fbOf s .STAR_STAT 0) = 0 || brState s n = 0 then none else some true
  | .starTxdIdle n => if fbState (fbOf s .STAR_STAT 0) = 0 || brState s n = 0 then none else some (s.ticks / 10 % 2 = 1)

/-- The pin as it stands: without power every pin is high-impedance (R438), in Midwinter every pin outside bank IO_F (R439). -/
def pinDrive (s : State) (p : OutPin) : Option Bool :=
  if s.pwr.st = .off || (s.pwr.st = .midwinter && !p.inBankF) then none else pinOwn s p

end Sys2Proof.Machine
end

