-- ==== Sys2Proof/Machine/Words.lean ====
section
/-! DEFINITION. The words of the Eztiel instructions, from Table 12.3 and the op and func columns of Tables 12.5 to 12.13. -/

namespace Sys2Proof.Machine

/-- R format: op, rd, ra, rb or amount, func. -/
def wordR (op rd ra rb fn : Nat) : W32 := BitVec.ofNat 32 (op * 2 ^ 26 + rd * 2 ^ 21 + ra * 2 ^ 16 + rb * 2 ^ 11 + fn)

/-- I, B, L and M formats: op, two register fields, 16 bits. -/
def wordI (op rd ra : Nat) (imm : BitVec 16) : W32 := BitVec.ofNat 32 (op * 2 ^ 26 + rd * 2 ^ 21 + ra * 2 ^ 16 + imm.toNat)

/-- J format: op, 26 bits. -/
def wordJ (op : Nat) (off : BitVec 26) : W32 := BitVec.ofNat 32 (op * 2 ^ 26 + off.toNat)

/-- The thread and the word of an instruction row; none for the other rows, for ILLEGAL, and for a loop of length 0, which no word
spells (R312). -/
def ezWord : Instr → Option (Fin 97 × W32)
  | .add t rd ra rb => some (t, wordR 0x00 rd ra rb 0x00)
  | .sub t rd ra rb => some (t, wordR 0x00 rd ra rb 0x01)
  | .andd t rd ra rb => some (t, wordR 0x00 rd ra rb 0x02)
  | .orr t rd ra rb => some (t, wordR 0x00 rd ra rb 0x03)
  | .xor t rd ra rb => some (t, wordR 0x00 rd ra rb 0x04)
  | .ezMin t rd ra rb => some (t, wordR 0x00 rd ra rb 0x05)
  | .ezMax t rd ra rb => some (t, wordR 0x00 rd ra rb 0x06)
  | .tdif t rd ra rb => some (t, wordR 0x00 rd ra rb 0x07)
  | .sll t rd ra rb => some (t, wordR 0x00 rd ra rb 0x10)
  | .srl t rd ra rb => some (t, wordR 0x00 rd ra rb 0x11)
  | .sra t rd ra rb => some (t, wordR 0x00 rd ra rb 0x12)
  | .ror t rd ra rb => some (t, wordR 0x00 rd ra rb 0x13)
  | .mul t rd ra rb => some (t, wordR 0x01 rd ra rb 0x00)
  | .mulhs t rd ra rb => some (t, wordR 0x01 rd ra rb 0x01)
  | .mulhu t rd ra rb => some (t, wordR 0x01 rd ra rb 0x02)
  | .divs t rd ra rb => some (t, wordR 0x01 rd ra rb 0x04)
  | .divu t rd ra rb => some (t, wordR 0x01 rd ra rb 0x05)
  | .rems t rd ra rb => some (t, wordR 0x01 rd ra rb 0x06)
  | .remu t rd ra rb => some (t, wordR 0x01 rd ra rb 0x07)
  | .slli t rd ra rb => some (t, wordR 0x02 rd ra rb 0x10)
  | .srli t rd ra rb => some (t, wordR 0x02 rd ra rb 0x11)
  | .srai t rd ra rb => some (t, wordR 0x02 rd ra rb 0x12)
  | .rori t rd ra rb => some (t, wordR 0x02 rd ra rb 0x13)
  | .neg t rd ra => some (t, wordR 0x00 rd ra 0 0x08)
  | .abs t rd ra => some (t, wordR 0x00 rd ra 0 0x09)
  | .clz t rd ra => some (t, wordR 0x00 rd ra 0 0x0A)
  | .popc t rd ra => some (t, wordR 0x00 rd ra 0 0x0B)
  | .bfx t rd ra pos len1 => some (t, wordR 0x03 rd ra pos (len1 * 64 + 0))
  | .bfxs t rd ra pos len1 => some (t, wordR 0x03 rd ra pos (len1 * 64 + 1))
  | .bfi t rd ra pos len1 => some (t, wordR 0x03 rd ra pos (len1 * 64 + 2))
  | .addi t rd ra imm => some (t, wordI 0x04 rd ra imm)
  | .andi t rd ra imm => some (t, wordI 0x05 rd ra imm)
  | .ori t rd ra imm => some (t, wordI 0x06 rd ra imm)
  | .xori t rd ra imm => some (t, wordI 0x07 rd ra imm)
  | .bperm t rd ra imm => some (t, wordI 0x09 rd ra imm)
  | .beq t rd ra imm => some (t, wordI 0x10 rd ra imm)
  | .bne t rd ra imm => some (t, wordI 0x11 rd ra imm)
  | .blt t rd ra imm => some (t, wordI 0x12 rd ra imm)
  | .bge t rd ra imm => some (t, wordI 0x13 rd ra imm)
  | .bltu t rd ra imm => some (t, wordI 0x14 rd ra imm)
  | .bgeu t rd ra imm => some (t, wordI 0x15 rd ra imm)
  | .ldb t rd ra imm => some (t, wordI 0x20 rd ra imm)
  | .ldbu t rd ra imm => some (t, wordI 0x21 rd ra imm)
  | .ldh t rd ra imm => some (t, wordI 0x22 rd ra imm)
  | .ldhu t rd ra imm => some (t, wordI 0x23 rd ra imm)
  | .ldw t rd ra imm => some (t, wordI 0x24 rd ra imm)
  | .stb t rd ra imm => some (t, wordI 0x28 rd ra imm)
  | .sth t rd ra imm => some (t, wordI 0x29 rd ra imm)
  | .stw t rd ra imm => some (t, wordI 0x2A rd ra imm)
  | .inPort t rd ra imm => some (t, wordI 0x30 rd ra imm)
  | .outPort t rd ra imm => some (t, wordI 0x31 rd ra imm)
  | .ldc t rd ra imm => some (t, wordI 0x34 rd ra imm)
  | .stc t rd ra imm => some (t, wordI 0x35 rd ra imm)
  | .lui t rd imm => some (t, wordI 0x08 rd 0 imm)
  | .inSpecial t rd imm => some (t, wordI 0x32 rd 0 imm)
  | .outSpecial t rd imm => some (t, wordI 0x33 rd 0 imm)
  | .jmp t off => some (t, wordJ 0x18 off)
  | .call t off => some (t, wordJ 0x19 off)
  | .loop t ra len => if len = 0 then none else some (t, wordI 0x1C ra 0 len)
  | .loopi t count len => if len = 0 then none else some (t, wordI 0x1D (count.toNat / 32) (count.toNat % 32) len)
  | .ezNop t => some (t, wordR 0x1A 0 0 0 0x00)
  | .yield t => some (t, wordR 0x1A 0 0 0 0x01)
  | .halt t => some (t, wordR 0x1A 0 0 0 0x02)
  | .jr t ra => some (t, wordR 0x1A 0 ra 0 0x08)
  | .callr t ra => some (t, wordR 0x1A 0 ra 0 0x09)
  | .ret t => some (t, wordR 0x1A 0 0 0 0x0A)
  | .leave t => some (t, wordR 0x1A 0 0 0 0x0C)
  | .waitt t ra => some (t, wordR 0x1A 0 ra 0 0x10)
  | .waite t rd ra => some (t, wordR 0x1A rd ra 0 0x11)
  | .waitq t rd => some (t, wordR 0x1A rd 0 0 0x12)
  | .eret t => some (t, wordR 0x1A 0 0 0 0x21)
  | .sys t code => some (t, wordR 0x1A 0 0 0 (code.toNat * 64 + 0x20))
  | .aadd t rd ra rb w => some (t, wordR 0x2C rd ra rb (ofBool w * 64))
  | .aswp t rd ra rb w => some (t, wordR 0x2C rd ra rb (ofBool w * 64 + 1))
  | _ => none

end Sys2Proof.Machine
end

