-- ==== Sys2Proof/Safety.lean ====
section
/-! DEFINITION. What counts as a safe run, and the terms that claims use: the canonical form of the memories, when an access is
admitted, which register a command writes. -/

namespace Sys2Proof

open Machine

/-- Every byte memory is in canonical form. -/
def storesWf (s : State) : Bool :=
  Memory.wf s.stores.shared && Memory.wf s.stores.engI && Memory.wf s.stores.engL && Memory.wf s.stores.polI &&
    Memory.wf s.stores.polD

/-- The machine goes on after a step. -/
def goesOn (s : State) : Prop := ∃ t, step s = .next t

/-- Identity `m` may write register `r` now, and the policy envelope has no say: the device runs, R22, R26 and R454 admit the
write, and `m` is not the policy core unless the register is banked per master. -/
def writes (m : Fin 64) (r : Reg) (s : State) : Prop :=
  running s = true ∧ regBad true m r s = false ∧ (m.val = 3 → r.desc.banked = true)

/-- Identity `m` may read register `r` now (R22, R26). -/
def reads (m : Fin 64) (r : Reg) (s : State) : Prop := running s = true ∧ regBad false m r s = false

/-- A register write, or an OUT of a thread, is served. -/
def writesVia (via : Via) (r : Reg) (s : State) : Prop :=
  match via with
  | .reg m => writes m r s
  | .port _ => running s = true

/-- A register read, or an IN of a thread, is served. -/
def readsVia (via : Via) (r : Reg) (s : State) : Prop :=
  match via with
  | .reg m => reads m r s
  | .port _ => running s = true

/-- Thread `t` issues the instruction at its PC now: it is ready, the registers `uses` have returned, its fetch succeeds, and no
stale loop end stands there (11 R284, R289; 12 R328, R342). -/
def issues (t : Nat) (uses : List Nat) (s : State) : Prop :=
  thReady s t = true ∧ stalled s t uses = false ∧ fetchFault s t = none ∧ loopStale t (thOf s t) = false

/-- The PC of a thread that has issued moves on to the successor (12 R325). -/
def advanced (t : Nat) (c : State) : State := stepDone t (ezAdvance t c)

/-- Control of a thread that has issued goes to `a` (12 R311). -/
def jumped (t : Nat) (a : W32) (c : State) : State := stepDone t (setTh t { thOf c t with pc := pcMask t a } c)

/-- Thread `t` has issued an instruction that writes `v` to `rd`; `ov` and `dz` say which sticky flags it sets (12 R314). -/
def retired (t rd : Nat) (v : W32) (ov dz : Bool) (s : State) : State :=
  let c := countIssue t s
  let c := if dz then setTh t { thOf c t with dz := true } c else c
  advanced t (setTh t (gW rd v { thOf c t with ov := (thOf c t).ov || ov }) c)

/-- The register write that a command is: identity, register, array element, value. REGISTER_WRITE, whose register is named by
its offset, and the rows with rules of their own for a refused writer (MEM_OWN, MEM_PWR, CRY_KEY_CTRL, MBX, locks) apart. -/
def writeOf : Instr → Option (Fin 64 × Reg × Nat × W32)
  | .sqTailDoorbell m n v => some (m, .HIF_SQ_TAIL, n, v)
  | .ringEnable m n v => if bit v 0 then some (m, .HIF_RING_CTRL, n, v) else none
  | .ringDisable m n v => if bit v 0 then none else some (m, .HIF_RING_CTRL, n, v)
  | .cqHeadAdvance m n v => some (m, .HIF_CQ_HEAD, n, v)
  | .inbandSeqClear m => some (m, .HIF_INBAND_CTRL, 0, 1)
  | .timeAdjCtrlStep m v => if fld v 1 0 = 1 then some (m, .TIME_ADJ_CTRL, 0, v) else none
  | .timeAdjCtrlSlew m v => if fld v 1 0 = 2 then some (m, .TIME_ADJ_CTRL, 0, v) else none
  | .timeAdjCtrlCancel m v => if fld v 1 0 = 3 then some (m, .TIME_ADJ_CTRL, 0, v) else none
  | .incrFracWrite m v => some (m, .TIME_INCR_FRAC, 0, v)
  | .incrNsWrite m v => some (m, .TIME_INCR_NS, 0, v)
  | .alarmArm m n => some (m, .TIME_ALARM_CTRL, 0, oneBit n)
  | .alarmDisarm m n => some (m, .TIME_ALARM_CTRL, 0, oneBit (16 + n))
  | .memQuotaWrite m c v => some (m, .MEM_QUOTA, c, v)
  | .enqueue via v => match via with
    | .reg m => some (m, .QM_Q_E, 3, v)
    | .port _ => none
  | .queueEnable m v => if bit v 0 then some (m, .QM_Q_CTRL, 0, v) else none
  | .queueDisable m v => if bit v 0 then none else some (m, .QM_Q_CTRL, 0, v)
  | .qmQBindWrite m v => some (m, .QM_Q_BIND, 0, v)
  | .qmQLimitWrite m v => some (m, .QM_Q_LIMIT, 0, v)
  | .fabActRead m => some (m, .FAB_ACT_CTRL, 0, 1)
  | .fabActApply m => some (m, .FAB_ACT_CTRL, 0, 2)
  | .canActRead m => some (m, .CAN_ACT_CTRL, 0, 1)
  | .canActApply m => some (m, .CAN_ACT_CTRL, 0, 2)
  | .ethModeWrite m v => some (m, .ETH_MODE, 0, v)
  | .portEnable m v => if bit v 0 then some (m, .ETH_CTRL, 0, v) else none
  | .portDisable m v => if bit v 0 then none else some (m, .ETH_CTRL, 0, v)
  | .txThrWrite m v => some (m, .ETH_TX_THR, 0, v)
  | .mdioWrite m b v => if bit v 31 && fld v 29 28 = 0 then some (m, .ETH_MDIO_CMD, b, v) else none
  | .mdioRead m b v => if bit v 31 && bit v 28 then some (m, .ETH_MDIO_CMD, b, v) else none
  | .mdioAddress m b v => if bit v 31 && fld v 29 28 = 2 then some (m, .ETH_MDIO_CMD, b, v) else none
  | .channelEnable m v => if bit v 0 then some (m, .CAN_CTRL, 0, v) else none
  | .channelDisable m v => if bit v 0 then none else some (m, .CAN_CTRL, 0, v)
  | .busOffRecover m v => if bit v 9 then some (m, .CAN_CTRL, 0, v) else none
  | .cancelByTag m tag => some (m, .CAN_TX_CMD, 0, BitVec.ofNat 32 (1 + tag.toNat * 256))
  | .headAbort m => some (m, .CAN_TX_CMD, 0, 2)
  | .headAbortRequeue m => some (m, .CAN_TX_CMD, 0, 3)
  | .busSleepRequest m v => if fld v 1 0 = 1 then some (m, .CAN_SLEEP, 0, v) else none
  | .busWakeRequest m v => if fld v 1 0 = 2 then some (m, .CAN_SLEEP, 0, v) else none
  | .starEnable m v => if bit v 0 then some (m, .STAR_CTRL, 0, v) else none
  | .starDisable m v => if bit v 0 then none else some (m, .STAR_CTRL, 0, v)
  | .modeSwitchRequest m v => if bit v 31 then some (m, .STAR_MODE_REQ, 0, v) else none
  | .pioGstartLoWrite m v => some (m, .PIO_GSTART_LO, 0, v)
  | .pioGstart m v => some (m, .PIO_GSTART_HI, 0, v)
  | .pioTxFifoWrite via sm v _ => match via with
    | .reg m => some (m, .SM_TXF, sm, v)
    | .port _ => none
  | .imemWrite via i v => match via with
    | .reg m => some (m, .PIO_IMEM, i, v)
    | .port _ => none
  | .smFrameWrite via sm v => match via with
    | .reg m => some (m, .SM_FRAME, sm, v)
    | .port _ => none
  | .engTBudgetWrite m v => some (m, .ENG_T_BUDGET, 0, v)
  | .engImemDataWrite m v => some (m, .ENG_IMEM_DATA, 0, v)
  | .engTGdataWrite m pc v => some (m, if pc then .ENG_T_PC else .ENG_T_GDATA, 0, v)
  | .polEnable m v => if bit v 0 then some (m, .POL_CTRL, 0, v) else none
  | .polDisable m v => if bit v 0 then none else some (m, .POL_CTRL, 0, v)
  | .wdt3Kick m => some (m, .GLB_WDT3_KICK, 0, 0)
  | .polTblRead m => some (m, .POL_TBL_CTRL, 0, 1)
  | .provLockWrite m v => some (m, .CRY_PROV_LOCK, 0, v)
  | .mbxBindWrite m v => some (m, .MBX_BIND, 0, v)
  | .mbxBindLockWrite m v => some (m, .MBX_BIND_LOCK, 0, v)
  | .lockForce m v => some (m, .MBX_LOCK_FORCE, 0, v)
  | .softwareRecord m v => some (m, .REC_SW_CODE, 0, v)
  | .recRdRead m => some (m, .REC_RD_CTRL, 0, 1)
  | .recEnable m v => if bit v 0 then some (m, .REC_CTRL, 0, v) else none
  | .recDisable m v => if bit v 0 then none else some (m, .REC_CTRL, 0, v)
  | .fwuConfirm m v => some (m, .FWU_CONFIRM, 0, v)
  | .frostRequest m v => if fld v 1 0 = 1 then some (m, .CLK_PWR_REQ, 0, v) else none
  | .midwinterRequest m v => if fld v 1 0 = 2 then some (m, .CLK_PWR_REQ, 0, v) else none
  | .swDeviceReset m v => if bit v 16 then some (m, .GLB_RST_CTRL, 0, v) else none
  | .swLevelRestart m v => if bit v 16 then none else some (m, .GLB_RST_CTRL, 0, v)
  | _ => none

/-- Command `c` of a ring can start as a command of opcode `op`: it waits there, not yet started, its fence satisfied, and
recovery lets it run (R29; 17 R426). -/
def cmdStarts (s : State) (ring slot : Nat) (op : Byte) (c : Cmd) : Prop :=
  running s = true ∧ findCmd s ring slot = some c ∧ c.opcode = op ∧
    (c.fence = true → ((ringOf s ring).inflight.head?.map (·.tag)) = some c.tag ∧ (ringOf s ring).held = []) ∧
    (s.pwr.recovery = true → op = 0x40 ∨ op = 0x41)

/-- The command of a ring with a tag has started. -/
def begunCmd (ring tag : Nat) (s : State) : State :=
  setRing ring { ringOf s ring with
    inflight := (ringOf s ring).inflight.map fun d => if d.tag = tag then { d with started := true } else d } s

/-- The ring, slot and opcode of a command of the host command interface (02 Table 2.8). -/
def ringCommand : Instr → Option (Fin 10 × Nat × Byte)
  | .hifNop r k => some (r, k, 0x00)
  | .cfgStage r k _ | .cfgStageCopy r k => some (r, k, 0x10)
  | .cfgCheck r k => some (r, k, 0x11)
  | .cfgCommit r k => some (r, k, 0x12)
  | .cfgAbort r k => some (r, k, 0x13)
  | .memHandover r k => some (r, k, 0x20)
  | .memTest r k => some (r, k, 0x21)
  | .engLoad r k _ _ => some (r, k, 0x30)
  | .engStart r k => some (r, k, 0x31)
  | .engStop r k => some (r, k, 0x32)
  | .polLoad r k _ => some (r, k, 0x38)
  | .polEnvelope r k _ => some (r, k, 0x39)
  | .fwWrite r k _ => some (r, k, 0x40)
  | .fwActivate r k => some (r, k, 0x41)
  | .recSnapshot r k => some (r, k, 0x50)
  | .timeAdjustStep r k | .timeAdjustSlew r k | .timeAdjustCancel r k => some (r, k, 0x60)
  | _ => none

end Sys2Proof
end

