-- ==== Sys2Proof/WellFormed.lean ====
section
/-! DEFINITION. Well-formed commands: operands that their types leave wider than the hardware. `exec` answers for every
command; what it answers for an ill-formed one speaks of no command of the hardware. -/

namespace Sys2Proof

/-- Submission-ring index: 256 entries in host memory, 16 on die (02 R34, Table 2.5). -/
def slotWf (ring : Fin 10) (slot : Nat) : Bool := slot < if ring.val < 8 then 256 else 16

/-- A command is 64 bytes (02 Table 2.6). -/
def wordsWf (ws : List (BitVec 32)) : Bool := ws.length = 16

/-- BAR0 is 16 MiB (02 R20). -/
def offWf (off : Nat) : Bool := off < 0x1000000

/-- A CAN record has a header of 16 bytes and at most 2048 bytes of data (08 Table 8.3). -/
def canRecWf (l : List (BitVec 8)) : Bool := 16 ≤ l.length && l.length ≤ 16 + 2048

/-- A star record has a header of 4 bytes and at most 255 bytes of payload, with a tag of at most 8 (09 Table 9.3). -/
def starRecWf (l : List (BitVec 8)) : Bool := 4 ≤ l.length && l.length ≤ 4 + 255 + 8

/-- An Ethernet frame has addresses and an EtherType (06 Table 6.2). -/
def ethWf (l : List (BitVec 8)) : Bool := 14 ≤ l.length

/-- A frame at a fabric ingress: its record, and a source queue just at F20 to F26 (06 Table 6.1). -/
def fabWf (f : FabIn) : Bool :=
  (match f.kind with
    | .eth => ethWf f.bytes
    | .can => canRecWf f.bytes
    | .star => starRecWf f.bytes) &&
  (f.port.val < 27) && (f.queue.isSome = decide (20 ≤ f.port.val))

/-- A bank's failing rows and columns (04 R113, R114). -/
def marchWf (rows cols : List Nat) : Bool := rows.all (· < 2048) && cols.all (· < 72) && rows.Nodup && cols.Nodup

/-- The operands of a command are ones that the hardware can meet. -/
def Instr.wf : Instr → Bool
  | .commandFetch ring ws => ring.val < 8 && wordsWf ws
  | .spiWriteCommand ws => wordsWf ws
  | .hifNop r k | .cfgStage r k _ | .cfgStageCopy r k | .cfgCheck r k | .cfgCommit r k | .cfgAbort r k | .timeAdjustStep r k
  | .timeAdjustSlew r k | .timeAdjustCancel r k | .memHandover r k | .memTest r k | .engLoad r k _ _ | .engStart r k
  | .engStop r k | .polLoad r k _ | .polEnvelope r k _ | .recSnapshot r k | .fwWrite r k _ | .fwActivate r k => slotWf r k
  | .spiWriteRegister off _ | .spiReadRegister off => offWf off
  | .counterReadClear _ x => offWf x.off && x.size ∈ [1, 2, 4, 8]
  | .registerWrite _ off size _ => offWf off && size ∈ [1, 2, 4, 8]
  | .inbandCommandFrame _ l => ethWf l
  | .bar2Access _ off len wdata => off + max len wdata.length ≤ 0x8000000 && (len = 0 || wdata.isEmpty)
  | .marchBankDone _ rows cols _ => marchWf rows cols
  | .fabricFirstCell f => fabWf f
  | .ethRxFrame _ rx => ethWf rx.bytes
  | .pfcFrameRx _ _ times => times.length = 8
  | .canRouterFrame _ l _ | .canRxFrame _ l _ | .canTxArrive _ l _ => canRecWf l
  | .slotBufferWrite l => starRecWf l
  | .starFrameRx _ fr => fr.payload.length ≤ 255 && fr.tag.length ≤ 8
  | .memoryOpComplete t k => k < if t.val = 96 then 4096 else 1024
  | .statusReport inst x => inst < 24 && x.words.length ≤ 16 && x.reqs.all fun r => r.kind < 4
  | .mapSwitch inst => inst < 24
  | .tag _ k | .verify _ k | .cmac _ k | .gcmEncrypt _ k | .gcmDecrypt _ k | .sha256 _ k | .hmacSha256 _ k | .keyUnwrap _ k
  | .keyDerive _ k | .keyErase _ k | .random _ k => k < 32
  | .blockPost _ tmo => tmo < 2 ^ 20
  | _ => true

end Sys2Proof
end

