-- ==== Sys2Proof/Certificates/Slice0/Obligations.lean ====
section
/-! DEFINITION. The statements of this row, taken from the rules of spec/. -/

open Sys2Proof Sys2Proof.Machine

/-- A step of a state whose queue begins with a command is exec of that command on the state with the queue's rest: first in,
first out, and nothing else happens in that step. (95_what_each_step_holds.md) -/
def Obligations.StepRunsFrontCommand : Prop :=
  ∀ (s : State) (c : Instr) (rest : List Instr), s.pending = c :: rest → step s = exec c { s with pending := rest }

/-- On an empty queue a step is one tick of the 250 MHz time base (the model's choice, log 2), which always goes on; while the
device has no power only the tick count moves; a tick of the local clock without a slew adds the increment, the carry of its
fraction with it. (03 Clock and increment; notes/assumptions/2.md) -/
def Obligations.IdleStepTicks : Prop :=
  (∀ s : State, s.pending = [] → step s = .next (tick s)) ∧
  (∀ s : State, s.pwr.st = .off → tick s = { s with ticks := s.ticks + 1 }) ∧
  (∀ s : State, (clockTick { s with time := { s.time with slew := none } }).time.now.toNat =
    (s.time.now.toNat + (s.time.frac.toNat + s.time.incr.toNat) / 2 ^ 32) % 2 ^ 64)

/-- Every command, whatever its operands, takes the machine from every state to a next state: the spec stops the device nowhere,
so no meaning answers with a fault or a refusal. (95_what_each_step_holds.md) -/
def Obligations.EveryCommandGoesOn : Prop :=
  ∀ (c : Instr) (s : State), ∃ t, exec c s = .next t

/-- In the register file, an element of a register (its array index below 1024) reads as what was last written to it, and a write
leaves every other register, element, channel and per-master copy as it was, and nothing of the state beside the register
file. (R5; 02 Register space; R25) -/
def Obligations.RegisterFileKeepsOthers : Prop :=
  ∀ (s : State) (r q : Reg) (i j c d : Nat) (v : W32), i < 1024 → j < 1024 →
    rd (wr r i c v s) r i c = v ∧
    ((q, j, d) ≠ (r, i, c) → rd (wr r i c v s) q j d = rd s q j d) ∧
    wr r i c v s = { s with regs := (wr r i c v s).regs }

/-- A write of a word to a register acts on each bit by the type of its field: a read-write bit takes the written value, a
write-1-to-clear bit is cleared by 1 and kept by 0, a write-1-to-set bit is set by 1 and kept by 0, and every other bit,
reserved ones among them, ignores the write. (R5; R7; 00 Table 0.4) -/
def Obligations.FieldTypesGovernWrites : Prop :=
  ∀ (s : State) (r : Reg) (i c k : Nat) (v : W32),
    let old := (rd s r i c).getLsbD k
    let new := (rd (plainWrite r i c v s) r i c).getLsbD k
    let rw := r.desc.rw.getLsbD k
    let w1c := r.desc.w1c.getLsbD k
    let w1s := r.desc.w1s.getLsbD k
    (rw = true → w1c = false → w1s = false → new = v.getLsbD k) ∧
    (rw = false → w1c = true → w1s = false → new = (old && !v.getLsbD k)) ∧
    (rw = false → w1c = false → w1s = true → new = (old || v.getLsbD k)) ∧
    (rw = false → w1c = false → w1s = false → new = old)

/-- For every command that is a write of a register: where the identity is not admitted (R22), its channel select lies outside the
block's range (R26) or it is no writer of the register (R454), the command raises the access error with its identity and
offset and has no other effect; while the device is not in RUN, it has no effect at all. (The framework's own kick of the
level-3 watchdog, WDT3_KICK of identity 3, is made only when the instances have reported.) (R22; R26; R454; R28; 17 Power
states) -/
def Obligations.WritesRefusedByAccessRules : Prop :=
  ∀ (c : Instr) (m : Fin 64) (r : Reg) (i : Nat) (v : W32) (s : State), writeOf c = some (m, r, i, v) → (c = .wdt3Kick 3 → instancesReport s = true) →
    (running s = true → regBad true m r s = true → exec c s = .next (accessErr m 0 (regOff r i) s)) ∧
    (running s = false → exec c s = .next s)

/-- For every command that is a write of a register, by the policy core and not of a register banked per master (the framework's
kick of the level-3 watchdog being made only when the instances have reported): where the envelope's check fails (action not
enabled, outside the scope, outside the bounds, rate used up), the command is refused: POL_ACT_REFUSED counts it, source 266
records it, and nothing else changes. FAB_ACT_CTRL and CAN_ACT_CTRL are banked: their entries are checked as they are applied.
(R10; R369; R370; R372) -/
def Obligations.EnvelopeRefusesPolicyWrites : Prop :=
  ∀ (c : Instr) (r : Reg) (i : Nat) (v : W32) (s : State) (why : Nat), writeOf c = some (3, r, i, v) → (c = .wdt3Kick 3 → instancesReport s = true) →
    running s = true → regBad true 3 r s = false → r.desc.banked = false →
    (let g := governs r (partOf r 3 s) v s; envCheck g.1 g.2.1 g.2.2 s = some why) →
    exec c s = .next (govRefuse (governs r (partOf r 3 s) v s).1 why r.block (regOff r i % 0x10000) v s)

/-- When a source below 320 fires, its pending bit sets; no other register changes but other bits of no word of EVT_PEND and the
lost-record total; the policy core's latch of the named line sets exactly when pol_en is set, the engine latch of the named
line sets when eng_en names an engine, when msix_en is set, a message of this source waits for the vector that the entry
names, or, that vector being masked, one message of some source; and outside the registers, the router, the PIO event latches
and the recorder nothing changes. (R50; R51; 02 Table 2.14) -/
def Obligations.EventRouterLatchesAndDelivers : Prop :=
  ∀ (s : State) (src : Nat), src < 320 →
    let t := raise src s
    let e := rd s .EVT_ROUTE src 0
    t = { s with regs := t.regs, evt := t.evt, pio := t.pio, recorder := t.recorder } ∧
    rd t .EVT_PEND (src / 32) 0 = rd s .EVT_PEND (src / 32) 0 ||| oneBit (src % 32) ∧
    (∀ (r : Reg) (i c : Nat), i < 1024 → (r, i, c) ≠ (.EVT_PEND, src / 32, 0) → (r, i, c) ≠ (.REC_LOST_TOTAL, 0, 0) →
      rd t r i c = rd s r i c) ∧
    (bit e 12 = true → t.evt.polLatch = s.evt.polLatch ||| BitVec.ofNat 64 (2 ^ fld e 11 6)) ∧
    (bit e 12 = false → t.evt.polLatch = s.evt.polLatch) ∧
    (bit e 22 = true → fld e 17 13 < 24 →
      nmGet 0 t.evt.engLatch (fld e 17 13) = nmGet 0 s.evt.engLatch (fld e 17 13) ||| BitVec.ofNat 16 (2 ^ fld e 21 18)) ∧
    (bit e 22 = false → t.evt.engLatch = s.evt.engLatch) ∧
    (bit e 5 = true → (t.evt.msixPend.any fun x => decide (x.2 = fld e 4 0) &&
      (decide (x.1 = src) || msixMasked s (fld e 4 0))) = true) ∧
    (bit e 23 = false → ¬(266 ≤ src ∧ src ≤ 268) → t.recorder = s.recorder)

/-- An enable written in OFF begins STARTING, and a disable written in ON begins STOPPING; the end of STARTING is ON and the end
of STOPPING is OFF. An enable written during STOPPING only sets PENDING_ENABLE, and the block then starts when it reaches OFF;
a disable written during STARTING only sets PENDING_DISABLE, and the block then stops when it reaches ON. The opposite write
clears a pending request. An enable in ON or STARTING, or a disable in OFF or STOPPING, with no pending request has no effect.
(R56; R57; R58) -/
def Obligations.FunctionBlockMoves : Prop :=
  -- the field holds the state OFF 0, STARTING 1, ON 2, STOPPING 3, plus 4 for PENDING_ENABLE, 8 for PENDING_DISABLE
  fbEnable 0 = 1 ∧ fbStarted 1 = 2 ∧ fbDisable 2 = 3 ∧ fbStopped 3 = 0 ∧
  fbEnable 3 = 7 ∧ fbStopped 7 = 1 ∧ fbDisable 1 = 9 ∧ fbStarted 9 = 3 ∧
  fbDisable 7 = 3 ∧ fbEnable 9 = 1 ∧
  fbEnable 2 = 2 ∧ fbEnable 1 = 1 ∧ fbDisable 0 = 0 ∧ fbDisable 3 = 3 ∧
  (∀ f ∈ ([0, 1, 2, 3, 7, 9] : List (BitVec 4)),
    fbEnable f ∈ ([0, 1, 2, 3, 7, 9] : List (BitVec 4)) ∧ fbDisable f ∈ ([0, 1, 2, 3, 7, 9] : List (BitVec 4)) ∧
    fbStarted f ∈ ([0, 1, 2, 3, 7, 9] : List (BitVec 4)) ∧ fbStopped f ∈ ([0, 1, 2, 3, 7, 9] : List (BitVec 4)))

/-- A write of HIF_SQ_TAIL by an admitted writer stores the tail; a write of 1 to enable stores the register; a write of
HIF_CQ_HEAD stores it and shows whether the completion ring is full; a write of 0 to enable stores the register and clears
stopped; a write of 1 to seq_valid of HIF_INBAND_CTRL clears it; a read of EVT_ACCERR_ID returns its contents and clears
valid. A failed fetch, and the failed write of a completion, which stays held with its place in the order, set stopped and
change nothing else; with no completion to write nothing happens. The held completions of a ring that operates and has room
are written in order, and no more than its room. (R449; R459; R32; R36; R28; 02 Table 2.5) -/
def Obligations.RingRegistersControlTheRing : Prop :=
  (∀ (s : State) (m : Fin 64) (n : Fin 8) (v : W32),
    (writes m .HIF_SQ_TAIL s → exec (.sqTailDoorbell m n v) s = .next (plainWrite .HIF_SQ_TAIL n 0 v s)) ∧
    (writes m .HIF_RING_CTRL s → bit v 0 = true →
      exec (.ringEnable m n v) s = .next (plainWrite .HIF_RING_CTRL n 0 v s)) ∧
    (writes m .HIF_RING_CTRL s → bit v 0 = false →
      exec (.ringDisable m n v) s =
        .next (setRing n { ringOf s n with stopped := false } (plainWrite .HIF_RING_CTRL n 0 v s))) ∧
    (writes m .HIF_CQ_HEAD s → exec (.cqHeadAdvance m n v) s = .next (ringShow n (plainWrite .HIF_CQ_HEAD n 0 v s))) ∧
    (writes m .HIF_INBAND_CTRL s → exec (.inbandSeqClear m) s = .next (plainWrite .HIF_INBAND_CTRL 0 0 1 s)) ∧
    (reads m .EVT_ACCERR_ID s →
      exec (.accerrIdRead m) s = .next (say (.readData m (rd s .EVT_ACCERR_ID 0 0)) (wr .EVT_ACCERR_ID 0 0 0 s)))) ∧
  (∀ (s : State) (n : Fin 8),
    exec (.ringPcieError n false) s = .next (setRing n { ringOf s n with stopped := true } s) ∧
    ((ringOf s n).held ≠ [] → exec (.ringPcieError n true) s = .next (setRing n { ringOf s n with stopped := true } s)) ∧
    ((ringOf s n).held = [] → exec (.ringPcieError n true) s = .next s)) ∧
  (∀ (s : State) (n : Nat) (c : Compl), ringLive s n = true → cqFull s n = false → (ringOf s n).held = [c] →
    ∃ t, emitCompl n c (setRing n { ringOf s n with held := [] } s) = t ∧ pumpRing n s = ringShow n t)

/-- The entry that a PCIe ring fetches moves the fetch index on by one. With a free tag and an opcode of Table 2.8 the command
joins the ring's outstanding commands and nothing else changes; a tag that is outstanding completes TAG_IN_USE, and else an
unknown opcode completes BAD_OPCODE, without any other effect than the fetch index. A command written over SPI joins the
on-die pair in the same way. Where a ring cannot fetch, nothing happens. (R449; R29; R31; R34; 02 Table 2.6) -/
def Obligations.FetchedCommandsEnterTheRing : Prop :=
  ∀ (s : State) (ring : Fin 10) (ws : List W32),
    let r := ringOf s ring
    let w := wordAt ws 0
    let tag := fld w 24 16
    let op : Byte := BitVec.ofNat 8 (fld w 7 0)
    let moved := setRing ring { r with fetch := r.fetch + 1 } s
    (canFetch s ring = true →
      (tagOut moved ring tag = false → op.toNat ∈ opcodes → ∃ t, exec (.commandFetch ring ws) s = .next t ∧
        t = { s with rings := t.rings } ∧
        ringOf t ring =
          { r with fetch := r.fetch + 1, inflight := r.inflight ++ [⟨r.fetch.toNat, tag, bit w 8, op, ws, false, []⟩] } ∧
        ∀ k, k ≠ ring.val → ringOf t k = ringOf s k) ∧
      (tagOut moved ring tag = true →
        exec (.commandFetch ring ws) s = .next (postCompl ring ⟨op, 4, tag, r.fetch.toNat, 0, []⟩ moved)) ∧
      (tagOut moved ring tag = false → op.toNat ∉ opcodes →
        exec (.commandFetch ring ws) s = .next (postCompl ring ⟨op, 5, tag, r.fetch.toNat, 0, []⟩ moved))) ∧
    (canFetch s ring = false → exec (.commandFetch ring ws) s = .next s) ∧
    (let q := ringOf s 8
     let moved := setRing 8 { q with fetch := BitVec.ofNat 8 ((q.fetch.toNat + 1) % 16) } s
     running s = true → dieUsed s 8 < 15 → tagOut moved 8 tag = false → op.toNat ∈ opcodes → tag < 16 →
      ∃ t, exec (.spiWriteCommand ws) s = .next t ∧ t = { s with rings := t.rings } ∧
        (ringOf t 8).inflight = q.inflight ++ [⟨q.fetch.toNat % 16, tag, bit w 8, op, ws, false, []⟩])

/-- While a ring pair does not operate (enable clear or stopped), or its completion ring is full, a completion that arises joins
the held ones in order and nothing is written, then or when the ring's completions are next looked at: no output leaves the
device, the write index stays, and at most cq_full of the ring is shown. (R32; R449; R459) -/
def Obligations.CompletionsAreNeverOverwritten : Prop :=
  ∀ (s : State) (n : Nat) (c : Compl), (ringLive s n = false ∨ cqFull s n = true) →
    pumpRing n s = ringShow n s ∧
    let t := postCompl n c s
    (ringOf t n).held = (ringOf s n).held ++ [c] ∧ (ringOf t n).write = (ringOf s n).write ∧ t.outbox = s.outbox ∧
    t.stores = s.stores ∧ t.cfg = s.cfg

/-- For every command of the host command interface: where no command waits in that slot that has not started, where the oldest
such command has another opcode, or where its fence is set and an earlier command of its ring is outstanding, nothing happens.
(A fenced command also waits for the ring's held completions: the model's choice, log 20.) (R29; 02 Table 2.8;
notes/assumptions/20.md) -/
def Obligations.CommandsStartOnceAndInFenceOrder : Prop :=
  ∀ (c : Instr) (ring : Fin 10) (slot : Nat) (op : Byte) (s : State), ringCommand c = some (ring, slot, op) →
    (findCmd s ring slot = none ∨
      ∃ d, findCmd s ring slot = some d ∧ (d.opcode ≠ op ∨
        (d.fence = true ∧ (((ringOf s ring).inflight.head?.map (·.tag)) ≠ some d.tag ∨ (ringOf s ring).held ≠ [])))) →
    exec c s = .next s

/-- A NOP that can start completes with status OK and result 0. A read of the oldest completion over SPI, from the on-die pair,
returns its words with the phase of the place it was written to, consumes it and lets a held one follow; with none waiting it
has no effect. A frame with EtherType 0x88B5 and sub-type 0x5A01 that fails any test of R35 and R36 only counts in
HIF_INBAND_REJ and fires source 36. A frame of one command that passes them all sets HIF_INBAND_SEQ to its seq and seq_valid,
and its command enters the in-band pair. (R34; R32; 02 Tables 2.7, 2.8; R35; R36; 02 Table 2.16) -/
def Obligations.NopOnDieAndInbandCommands : Prop :=
  (
  (∀ (s : State) (ring : Fin 10) (slot : Nat) (c : Cmd), cmdStarts s ring slot 0x00 c →
    exec (.hifNop ring slot) s = .next (complete ⟨ring, slot, c.tag, 0x00⟩ stOk 0 (begunCmd ring c.tag s))) ∧
  (∀ (s : State) (c : Compl) (rest : List Compl), running s = true → (ringOf s 8).unread = c :: rest →
    exec .spiReadCompletion s = .next (pumpRing 8 (setRing 8 { ringOf s 8 with unread := rest }
      (say (.completion 8 (BitVec.ofNat 32 (c.opcode.toNat * 2 ^ 24 + c.status.toNat * 2 ^ 16 + c.tag))
        (BitVec.ofNat 32 (ofBool (if (ringOf s 8).unread.length ≤ (ringOf s 8).write.toNat then (ringOf s 8).phase else !(ringOf s 8).phase) * 2 ^ 31 +
          c.slot % 256)) c.result) s)))) ∧
  (∀ s : State, (ringOf s 8).unread = [] → exec .spiReadCompletion s = .next s)) ∧
  (
  ∀ (s : State) (p : Fin 16) (l : List Byte), running s = true → isInband l = true →
    (inbandOk s p l = false → exec (.inbandCommandFrame p l) s = .next (raise 36 (count16 .HIF_INBAND_REJ 0 0 s))) ∧
    (inbandOk s p l = true → byteAt l (inbandTypeAt l + 4) = 1 →
      ∃ rep, exec (.inbandCommandFrame p l) s = .next (inbandTake
        ((List.range 16).map fun w => BitVec.ofNat 32 (ofLe (slice l (inbandTypeAt l + 10 + 4 * w) 4))) rep
        (setB .HIF_INBAND_CTRL 0 0 1 (wr .HIF_INBAND_SEQ 0 0 (inbandSeq l) s)))))

/-- An aligned 32-bit access at the offset of a register is the write or the read of that register by its master (identity 1 for
SPI); an access of another size or alignment, or at an unmapped offset, has no effect, reads 0 and raises the access error. A
read-clear counter returns to its reset value when it is read, and the value returned is the one before. A BAR2 access within
one 64-bit word, with none waiting before it, is one bank access, which reaches host-owned banks only whatever identity it
carries; where its bank is in FROST, the bank thaws and the access waits; one above the mapped banks reads zeros, writes
nothing and raises the access error. (R5; R20; R21; R22; R26; R107) -/
def Obligations.BusAccessesByOffset : Prop :=
  ∀ (s : State) (m : Fin 64) (off : Nat) (v : W32), running s = true →
    (∀ r i, regAt off = some (r, i) → off % 4 = 0 →
      exec (.registerWrite m off 4 v) s = .next (regWrite m r i v s) ∧
      exec (.spiWriteRegister off v) s = .next (regWrite 1 r i v s) ∧
      (regBad false m r s = false → exec (.counterReadClear m ⟨off, 4⟩) s = .next (replyOf m (regRead m r i s))) ∧
      (regBad false m r s = true → exec (.counterReadClear m ⟨off, 4⟩) s = .next (reply m 0 (accessErr m 0 off s))) ∧
      (regBad false 1 r s = false → exec (.spiReadRegister off) s = .next (replyOf 1 (regRead 1 r i s)))) ∧
    (regAt off = none →
      exec (.registerWrite m off 4 v) s = .next (accessErr m 0 off s) ∧
      exec (.counterReadClear m ⟨off, 4⟩) s = .next (reply m 0 (accessErr m 0 off s)) ∧
      exec (.spiWriteRegister off v) s = .next (accessErr 1 0 off s) ∧
      exec (.spiReadRegister off) s = .next (reply 1 0 (accessErr 1 0 off s))) ∧
    (∀ size, size ≠ 4 → exec (.registerWrite m off size v) s = .next (accessErr m 0 off s) ∧
      exec (.counterReadClear m ⟨off, size⟩) s = .next (reply m 0 (accessErr m 0 off s))) ∧
    (off % 4 ≠ 0 → exec (.registerWrite m off 4 v) s = .next (accessErr m 0 off s) ∧
      exec (.counterReadClear m ⟨off, 4⟩) s = .next (reply m 0 (accessErr m 0 off s))) ∧
    (regRead m .HIF_INBAND_REJ 0 s = (rd s .HIF_INBAND_REJ 0 0 &&& 0xFFFF,
      wr .HIF_INBAND_REJ 0 0 (rd s .HIF_INBAND_REJ 0 0 &&& 0xFFFF0000) s)) ∧
    (∀ len, 0 < len → off % 8 + len ≤ 8 → off + len ≤ bar2End → s.mem.bar2 = [] →
      (let x := shRead (.bar2 m) off len s
       (x.2.2.mem.stall = none → exec (.bar2Access m off len []) s = .next (say (.readBytes m x.2.1) x.2.2)) ∧
       ∀ b, x.2.2.mem.stall = some b → exec (.bar2Access m off len []) s =
        .next (bankTouch b { s with mem := { s.mem with bar2 := [⟨m, off, len, []⟩] } })) ∧
      ∀ d : List (Option Byte), d.length = len →
        (let t := (shWriteMask (.bar2 m) off d s).2
         (t.mem.stall = none → exec (.bar2Access m off 0 d) s = .next t) ∧
         ∀ b, t.mem.stall = some b → exec (.bar2Access m off 0 d) s =
          .next (bankTouch b { s with mem := { s.mem with bar2 := [⟨m, off, 0, d⟩] } }))) ∧
    (∀ len, 0 < len → bar2End ≤ off → s.mem.bar2 = [] → s.mem.stall = none →
      exec (.bar2Access m off len []) s = .next (say (.readBytes m (List.replicate len 0)) (accessErr m 1 off s)) ∧
      ∀ d : List (Option Byte), d.length = len → exec (.bar2Access m off 0 d) s = .next (accessErr m 1 off s))

/-- A CFG_STAGE within its ranges writes its entries, or the whole active set, into the shadow set, records its stager and
invalidates the check. A CFG_CHECK answers the first failure, or records the check-pass tick; source 33 fires. A CFG_COMMIT
without a valid check completes NOT_CHECKED, one earlier than the check plus 20 us TOO_EARLY, and otherwise it is armed at its
instant, or at the next whole microsecond. A CFG_ABORT discards the shadow set, disarms an armed commit with ABORTED, or
completes TOO_LATE after the switch. BAD_PARAM, RESTARTING and BUSY come before all of these, in that order. (R15; R34; R37;
R38; R40; R41; R43; R47; R48; R451; R453) -/
def Obligations.ConfigurationCommands : Prop :=
  ∀ (s : State) (ring : Fin 10) (slot : Nat) (c : Cmd),
    let b := begunCmd ring c.tag s
    let w := c.words
    let ref (op : Byte) : CmdRef := ⟨ring, slot, c.tag, op⟩
    (cmdStarts s ring slot 0x10 c → cmdByte w 9 ≠ 1 → ∀ data,
      (stageOk w = false → exec (.cfgStage ring slot data) s = .next (complete (ref 0x10) stBadParam 0 b)) ∧
      (stageOk w = true → inRestart s = true → exec (.cfgStage ring slot data) s = .next (complete (ref 0x10) stRestarting 0 b)) ∧
      (stageOk w = true → inRestart s = false → stageBusy ring s = true →
        exec (.cfgStage ring slot data) s = .next (complete (ref 0x10) stBusy 0 b)) ∧
      (stageOk w = true → inRestart s = false → stageBusy ring s = false →
        exec (.cfgStage ring slot data) s = .next (complete (ref 0x10) stOk 0 (stageWrite ring
          (putEntries (cmdByte w 8) (wordAt w 3).toNat (wordAt w 4).toNat data s.cfg.shadow) b)))) ∧
    (cmdStarts s ring slot 0x10 c → cmdByte w 9 = 1 → inRestart s = false → stageBusy ring s = false →
      exec (.cfgStageCopy ring slot) s = .next (complete (ref 0x10) stOk 0 (stageWrite ring s.cfg.active b))) ∧
    (cmdStarts s ring slot 0x11 c → inRestart s = false → stageBusy ring s = false →
      (∀ res, setCheck b s.cfg.shadow = some res → exec (.cfgCheck ring slot) s =
        .next (complete (ref 0x11) stCheckFailed res (raise 33 { b with cfg := { s.cfg with check := none } }))) ∧
      (setCheck b s.cfg.shadow = none → exec (.cfgCheck ring slot) s =
        .next (complete (ref 0x11) stOk s.time.now (raise 33 { b with cfg := { s.cfg with check := some s.time.now } })))) ∧
    (cmdStarts s ring slot 0x12 c →
      (¬(1 ≤ cmdByte w 8 ∧ cmdByte w 8 ≤ 3) → exec (.cfgCommit ring slot) s = .next (complete (ref 0x12) stBadParam 0 b)) ∧
      (1 ≤ cmdByte w 8 → cmdByte w 8 ≤ 3 → (cmdByte w 8 = 2 → wordAt w 5 = 0) → inRestart s = false → stageBusy ring s = false →
        (s.cfg.check = none → exec (.cfgCommit ring slot) s = .next (complete (ref 0x12) stNotChecked 0 b)) ∧
        ∀ t, s.cfg.check = some t →
          (cmdByte w 8 = 1 → cmd64 w 16 < t.toNat + 20000 →
            exec (.cfgCommit ring slot) s = .next (complete (ref 0x12) stTooEarly 0 b)) ∧
          (cmdByte w 8 = 1 → t.toNat + 20000 ≤ cmd64 w 16 →
            exec (.cfgCommit ring slot) s = .next (arm (some (ref 0x12)) (some (BitVec.ofNat 64 (cmd64 w 16))) none b)) ∧
          (cmdByte w 8 = 2 → starOnRunning s = false → exec (.cfgCommit ring slot) s = .next (complete (ref 0x12) stBadParam 0 b)) ∧
          (cmdByte w 8 = 2 → starOnRunning s = true → (rd s .STAR_MC_NUM 0 0).toNat + 1 < (wordAt w 4).toNat →
            exec (.cfgCommit ring slot) s = .next (arm (some (ref 0x12)) none (some (wordAt w 4)) b)) ∧
          (cmdByte w 8 = 3 →
            exec (.cfgCommit ring slot) s = .next (arm (some (ref 0x12)) (some (BitVec.ofNat 64 (nextMicro s t.toNat))) none b)))) ∧
    (cmdStarts s ring slot 0x13 c →
      (s.cfg.armed = none → inRestart s = false → exec (.cfgAbort ring slot) s =
        .next (complete (ref 0x13) stOk 0 { b with cfg := { s.cfg with shadow := s.cfg.active, stager := none, check := none } })) ∧
      ∀ a, s.cfg.armed = some a →
        (a.switched = none → exec (.cfgAbort ring slot) s = .next (complete (ref 0x13) stOk 0 (disarm stAborted b))) ∧
        (a.switched.isSome = true → exec (.cfgAbort ring slot) s = .next (complete (ref 0x13) stTooLate 0 b)))

/-- At the first tick whose local time is at or after the instant of an armed commit, SOLSTICE swaps the sets: the old active set
becomes the shadow set, counts as checked at that tick and has no stager; what follows in the fabric, the gates and the signal
routes happens on the new set; source 34 fires and the commit's command completes OK with the tick, the framework's own commit
being over. Within a restart interval the commit ends RESTARTING; before its instant nothing happens. The oldest message of an
event whose vector no mask holds leaves; while the function is masked none does. A pulse on EVT_OUT ends, and a pending one
rises a tick later. (R15; R44; R46; R47; R50; R450; R452; R448) -/
def Obligations.SolsticeSwitchesTheSets : Prop :=
  (∀ (s : State) (a : Armed), running s = true → s.cfg.armed = some a → commitDue s a = true → inRestart s = false →
    let switched (armed : Option Armed) : State := raise 34 (afterSwitch s.cfg.active
      { s with cfg := { active := s.cfg.shadow, shadow := s.cfg.active, stager := none, check := some s.time.now, armed := armed } })
    (∀ r, a.cmd = some r → exec .solstice s = .next (complete r stOk s.time.now (switched (some { a with switched := some s.time.now })))) ∧
    (a.cmd = none → exec .solstice s = .next (switched none))) ∧
  (∀ (s : State) (a : Armed), running s = true → s.cfg.armed = some a → commitDue s a = true → inRestart s = true →
    exec .solstice s = .next (disarm stRestarting s)) ∧
  (∀ (s : State) (a : Armed), s.cfg.armed = some a → commitDue s a = false → exec .solstice s = .next s) ∧
  (∀ (s : State) (src : Fin 328) (vec : Nat) (mask : W32) (rest : List (Nat × Nat)), running s = true →
    s.evt.msixPend = (src.val, vec) :: rest →
    (bit mask vec = false → ∃ l, exec (.msixMessage ⟨src, mask, false⟩) s = .next (say (.msix vec src)
      { s with evt := { s.evt with msixMask := mask, msixFnMask := false, msixPend := l } }) ∧ ∀ x ∈ l, x ∈ s.evt.msixPend) ∧
    ∃ l, exec (.msixMessage ⟨src, mask, true⟩) s = .next { s with evt := { s.evt with msixMask := mask, msixFnMask := true, msixPend := l } } ∧
      ∀ x ∈ l, x ∈ s.evt.msixPend) ∧
  (∀ (s : State) (pin : Fin 4) (e : Nat), let p := nmGet ⟨none, [], false, none, false⟩ s.evt.pins pin
    p.stop = some e → e ≤ s.ticks →
    ∃ t q, exec (.evtOutPulseEnd pin) s = .next t ∧ t = { s with evt := t.evt, outbox := .pin pin false :: s.outbox } ∧
      nmGet ⟨none, [], false, none, false⟩ t.evt.pins pin = q ∧ q.stop = none ∧
      (p.pend = true → p.rise = none → q.rise = some (e + 1)))

/-- A step request, of the command or of TIME_ADJ_CTRL, is recorded while the star does not run (in its running phase and ON) and
no adjustment is in progress, and else answers BUSY or refused. A slew request within 1,000 to 1,000,000,000 us and 100 ppm
starts over interval x 250 ticks, is BAD_PARAM or refused outside them, and BUSY or refused while an adjustment is in
progress. A cancel ends the running slew at the next tick, when the slew completes ABORTED with the whole nanoseconds already
added, aborted is set, and then the cancel completes OK; without a running slew it completes FAILED or sets refused. A pending
step adds its signed offset to the nanoseconds, keeps the fraction, lets the gates of every port follow, records the tick in
TIME_ADJ_DONE with source 21, and completes its command with the time before the step. A slew that is done ends in the same
way. A write of the whole nanoseconds of the increment applies both parts within 200 ppm of 4 ns, and else keeps the
increment, sets incr_err and fires source 18. (R62; R63; R67; R68; R69; R70; R71; R72; 03 Table 3.8) -/
def Obligations.TimeAdjustments : Prop :=
  ((∀ (s : State) (ring : Fin 10) (slot : Nat) (c : Cmd), cmdStarts s ring slot 0x60 c →
    let b := begunCmd ring c.tag s
    let w := c.words
    let ref : CmdRef := ⟨ring, slot, c.tag, 0x60⟩
    let ofs := (BitVec.ofNat 64 (cmd64 w 8)).toInt
    let us := (wordAt w 5).toNat
    (cmdByte w 16 = 1 →
      (starOnRunning s = false → adjBusy s = false → exec (.timeAdjustStep ring slot) s =
        .next (setTime { s.time with step := some (.cmd ref, ofs) } b)) ∧
      ((starOnRunning s = true ∨ adjBusy s = true) → exec (.timeAdjustStep ring slot) s = .next (complete ref stBusy 0 b))) ∧
    (cmdByte w 16 ∉ [1, 2, 3] → exec (.timeAdjustStep ring slot) s = .next (complete ref stBadParam 0 b)) ∧
    (cmdByte w 16 = 2 →
      (1000 ≤ us → us ≤ 1000000000 → slewTooFast ofs us = false → adjBusy s = false →
        exec (.timeAdjustSlew ring slot) s =
          .next (setTime { s.time with slew := some ⟨.cmd ref, ofs, us * 250, 0⟩ } b)) ∧
      ((us < 1000 ∨ 1000000000 < us ∨ slewTooFast ofs us = true) →
        exec (.timeAdjustSlew ring slot) s = .next (complete ref stBadParam 0 b)) ∧
      (1000 ≤ us → us ≤ 1000000000 → slewTooFast ofs us = false → adjBusy s = true →
        exec (.timeAdjustSlew ring slot) s = .next (complete ref stBusy 0 b))) ∧
    (cmdByte w 16 = 3 →
      (∀ x, s.time.slew = some x → exec (.timeAdjustCancel ring slot) s =
        .next (setTime { s.time with slew := none, cancelled := s.time.cancelled ++ [(x, .cmd ref)] } b)) ∧
      (s.time.slew = none → exec (.timeAdjustCancel ring slot) s = .next (complete ref stFailed 0 b)))) ∧
  (∀ (s : State) (m : Fin 64) (v : W32), writes m .TIME_ADJ_CTRL s →
    let b := plainWrite .TIME_ADJ_CTRL 0 0 v s
    let ofs := (BitVec.ofNat 64 (rd64 b .TIME_ADJ_OFS_LO .TIME_ADJ_OFS_HI 0 0)).toInt
    let us := (rd b .TIME_ADJ_INTV 0 0).toNat
    (fld v 1 0 = 1 →
      (starOnRunning b = false → adjBusy b = false → exec (.timeAdjCtrlStep m v) s =
        .next (setTime { s.time with step := some (.regs, ofs) } b)) ∧
      ((starOnRunning b = true ∨ adjBusy b = true) → exec (.timeAdjCtrlStep m v) s = .next (adjRefused b))) ∧
    (fld v 1 0 = 2 →
      (1000 ≤ us → us ≤ 1000000000 → slewTooFast ofs us = false → adjBusy b = false →
        exec (.timeAdjCtrlSlew m v) s = .next (setTime { s.time with slew := some ⟨.regs, ofs, us * 250, 0⟩ } b)) ∧
      ((adjBusy b = true ∨ us < 1000 ∨ 1000000000 < us ∨ slewTooFast ofs us = true) →
        exec (.timeAdjCtrlSlew m v) s = .next (adjRefused b))) ∧
    (fld v 1 0 = 3 →
      (∀ x, s.time.slew = some x → exec (.timeAdjCtrlCancel m v) s =
        .next (setTime { s.time with slew := none, cancelled := s.time.cancelled ++ [(x, .regs)] } b)) ∧
      (s.time.slew = none → exec (.timeAdjCtrlCancel m v) s = .next (adjRefused b))))) ∧
  ((∀ (s : State) (src : AdjSrc) (ofs : Int), s.time.step = some (src, ofs) →
    let b := adjDone s.time.now.toNat (gatesJump (setTime { s.time with now := s.time.now + BitVec.ofInt 64 ofs, step := none } s))
    (src = .regs → exec .stepApply s = .next b) ∧
    (∀ c, src = .cmd c → exec .stepApply s = .next (complete c stOk s.time.now b)) ∧
    b.time.now = s.time.now + BitVec.ofInt 64 ofs ∧ b.time.frac = s.time.frac ∧ b.time.incr = s.time.incr ∧
    rd b .TIME_ADJ_DONE_LO 0 0 = BitVec.ofNat 32 s.time.now.toNat) ∧
  (∀ (s : State) (w : Slew), s.time.cancelled = [] → s.time.slew = some w →
    let b := adjDone s.time.now.toNat (setTime { s.time with slew := none } s)
    (w.total ≤ w.done →
      (w.src = .regs → exec .slewEnd s = .next b) ∧
      (∀ c, w.src = .cmd c → exec .slewEnd s = .next (complete c stOk s.time.now b))) ∧
    (w.done < w.total → exec .slewEnd s = .next s)) ∧
  (∀ (s : State) (w : Slew) (by_ : AdjSrc) (es : List (Slew × AdjSrc)), s.time.cancelled = (w, by_) :: es →
    let b := setB .TIME_ADJ_CTRL 0 0 0x400 (adjDone s.time.now.toNat (setTime { s.time with cancelled := es } s))
    let sum := BitVec.ofInt 64 (Int.tdiv (slewSum w.offset w.total w.done) (2 ^ 32))
    (w.src = .regs → by_ = .regs → exec .slewEnd s = .next b) ∧
    (∀ c, w.src = .cmd c → by_ = .regs → exec .slewEnd s = .next (complete c stAborted sum b)) ∧
    (∀ d, w.src = .regs → by_ = .cmd d → exec .slewEnd s = .next (complete d stOk 0 b)) ∧
    (∀ c d, w.src = .cmd c → by_ = .cmd d → exec .slewEnd s = .next (complete d stOk 0 (complete c stAborted sum b)))) ∧
  (∀ (s : State) (m : Fin 64) (v : W32),
    (writes m .TIME_INCR_FRAC s → exec (.incrFracWrite m v) s = .next (plainWrite .TIME_INCR_FRAC 0 0 v s)) ∧
    (writes m .TIME_INCR_NS s →
      let n := fld v 3 0 * 2 ^ 32 + (rd s .TIME_INCR_FRAC 0 0).toNat
      (0x3FF800000 ≤ n → n ≤ 0x400800000 → exec (.incrNsWrite m v) s =
        .next (setTime { s.time with incr := BitVec.ofNat 36 n } (plainWrite .TIME_INCR_NS 0 0 v s))) ∧
      (n < 0x3FF800000 ∨ 0x400800000 < n → exec (.incrNsWrite m v) s = .next (raise 18 (setB .TIME_STAT 0 0 2 s))))))

/-- A read of TIME_NOW_LO returns the low word and latches the high word and the fraction of that instant for its master. A read
of a stamp queue's W0 pops the oldest entry of its lowest non-empty port, and reads 0 when all are empty. An accepted edge of
PPS_IN is stamped with source 16; one within the guard time is only counted. The missing-edge time fires source 17 once. A
pulse of PPS_OUT starts at its edge's local time and ends after its width, or one tick before its next edge; a pulse of
EQX_OUT ends after its width. Arming captures the alarm's instant, disarming drops it, and an alarm fires once, at or after
its instant, with source 22 or 23. (R65; R80; R85; R86; R87; R88) -/
def Obligations.TimePinsStampsAndAlarms : Prop :=
  ∀ (s : State) (m : Fin 64), running s = true →
    (reads m .TIME_NOW_LO s → exec (.timeNowRead m) s = .next (reply m (BitVec.ofNat 32 s.time.now.toNat)
      (wr .TIME_NOW_FRAC 0 m s.time.frac (wr .TIME_NOW_HI 0 m (BitVec.ofNat 32 (s.time.now.toNat / 2 ^ 32)) s)))) ∧
    (∀ tx : Bool, reads m (if tx then .TIME_TXS_W0 else .TIME_RXS_W0) s →
      (firstStamp (if tx then s.time.txs else s.time.rxs) = none → exec (.stampQueuePop m tx) s = .next (reply m 0 s)) ∧
      ∀ p e, firstStamp (if tx then s.time.txs else s.time.rxs) = some (p, e) → ∃ t,
        exec (.stampQueuePop m tx) s = .next (reply m (BitVec.ofNat 32 (2 ^ 31 + p)) t) ∧
        t = { s with regs := t.regs, time := t.time } ∧
        nmGet [] (if tx then t.time.txs else t.time.rxs) p = (nmGet [] (if tx then s.time.txs else s.time.rxs) p).drop 1 ∧
        rd t (if tx then .TIME_TXS_W2 else .TIME_RXS_W2) 0 m = BitVec.ofNat 32 e.ns.toNat) ∧
    (∀ stamp, bit (rd s .TIME_CTRL 0 0) 2 = true →
      (guardPassed s.time.ppsLast (fld (rd s .TIME_PPSIN_GUARD 0 0) 9 0) stamp = true → exec (.ppsInEdge stamp) s =
        .next (raise 16 (wr64 .TIME_PPSIN_LO .TIME_PPSIN_HI 0 0 stamp.toNat
          (setTime { s.time with ppsLast := some stamp, ppsBase := stamp, ppsMissFired := false } s)))) ∧
      (guardPassed s.time.ppsLast (fld (rd s .TIME_PPSIN_GUARD 0 0) 9 0) stamp = false →
        exec (.ppsInEdge stamp) s = .next (pinReject s))) ∧
    (ppsMissing s = true → exec .ppsInMissing s = .next (raise 17 (setTime { s.time with ppsMissFired := true } s))) ∧
    (ppsOutDue s = true → exec .ppsOutPulse s = .next (say (.timePin 4 true (BitVec.ofNat 64 (ppsEdge s))) (setTime
      { s.time with ppsAt := s.time.now, ppsOutEnd := some (BitVec.ofNat 64 (ppsEdge s + min 500000 (max 1 (fld (rd s .TIME_PPSOUT_CFG 0 0) 19 0)) * 1000)) } s))) ∧
    (∀ e, s.time.ppsOutEnd = some e →
      (e.toNat ≤ now s → exec (.timePinPulseEnd 0) s = .next (say (.timePin 4 false e) (setTime { s.time with ppsOutEnd := none } s))) ∧
      (now s < e.toNat → ppsCount s (now s) < ppsCount s (now s + s.time.incr.toNat / 2 ^ 32 + 1) →
        exec (.timePinPulseEnd 0) s = .next (say (.timePin 4 false s.time.now) (setTime { s.time with ppsOutEnd := none } s)))) ∧
    (∀ (k : Fin 4) (e : W64), nmFind s.time.eqxOutEnd k = some e → e.toNat ≤ now s →
      exec (.timePinPulseEnd ⟨k + 1, by omega⟩) s = .next (say (.timePin (5 + k) (bit (rd s .TIME_EQXOUT_CFG k 0) 1) e)
        (setTime { s.time with eqxOutEnd := nmErase s.time.eqxOutEnd k } s))) ∧
    (∀ n : Fin 2,
      (writes m .TIME_ALARM_CTRL s →
        exec (.alarmArm m n) s = .next (setB .TIME_ALARM_CTRL 0 0 (oneBit n)
          (setAlarm n (some (BitVec.ofNat 64 (rd64 s .TIME_ALARM_LO .TIME_ALARM_HI n 0))) s)) ∧
        exec (.alarmDisarm m n) s = .next (clrB .TIME_ALARM_CTRL 0 0 (oneBit n) (setAlarm n none s))) ∧
      (∀ t, alarmOf s n = some t →
        (t.toNat ≤ now s → exec (.alarmFire n) s = .next (raise (22 + n) (alarmDisarm n s))) ∧
        (now s < t.toNat → exec (.alarmFire n) s = .next s)))

/-- A bank access is refused by the first status that applies: failed, OFF, under test, handover pending, not owner nor delegate;
a refused read returns zeros, a refused access changes no byte. BAR2 reaches host-owned banks, a thread the banks of its own
processor, and a block those it owns or is delegate of. A read changes no byte. An access that a bank in FROST would serve
waits and changes nothing. With no other access of the bank in its memory cycle, a write of fewer than 8 bytes, or any read,
of a poisoned word answers POISONED and writes nothing; every other read returns the bytes that stand there, and every other
write of n bytes writes exactly these n bytes. Where the other port writes the same word in the same cycle, a read returns the
bytes from before the write, and of two writes port B's is discarded with LOST_WRITE, whichever the queue brought first (how
accesses pair up in cycles is the model's choice, log 17). (R89; R90; R91; R92; R93; R97; R107; 04 Tables 4.1, 4.2;
notes/assumptions/17.md) -/
def Obligations.BankAccessesAreChecked : Prop :=
  ∀ (s : State) (ag : Agent) (a : Nat),
    let k := bankOf s (a / 0x40000)
    let c := cycleOf s (a / 0x40000)
    (bankStatus k ag =
      if k.failed then memFailed else if k.pwr = 2 then memOff else if k.underTest then memTest
      else if k.pend.isSome then memPending else if mayAccess k ag = false then memAccess else memOk) ∧
    ((∀ m, mayAccess k (.bar2 m) = decide (k.owner = 3)) ∧
      (∀ t, t ≤ 96 → mayAccess k (.thread t) = decide (k.owner.toNat = if t = 96 then 2 else 16 + t / 4)) ∧
      mayAccess k .fabric = (k.owner = 1 || k.del0 = 1 || k.del1 = 1) ∧ mayAccess k .qm = (k.del0 = 2 || k.del1 = 2) ∧
      mayAccess k .crypto = (k.owner = 5 || k.del0 = 3 || k.del1 = 3) ∧
      mayAccess k .recorder = (k.owner = 4 || k.del0 = 4 || k.del1 = 4)) ∧
    (∀ n, (shRead ag a n s).2.2.stores = s.stores) ∧
    (∀ n, bankStatus k ag ≠ memOk → (shRead ag a n s).1 = bankStatus k ag ∧ (shRead ag a n s).2.1 = List.replicate n 0) ∧
    (∀ d, bankStatus k ag ≠ memOk → (shWrite ag a d s).1 = bankStatus k ag ∧ (shWrite ag a d s).2.stores = s.stores) ∧
    (bankStatus k ag = memOk → k.pwr = 1 → ∀ n d,
      shRead ag a n s = (memOk, List.replicate n 0, stallAt (a / 0x40000) s) ∧
      shWrite ag a d s = (memOk, stallAt (a / 0x40000) s)) ∧
    (bankStatus k ag = memOk → k.pwr ≠ 1 → c = ⟨none, none⟩ →
      (∀ n, a % 8 + n ≤ 8 → a / 8 ∉ s.mem.poison →
        (shRead ag a n s).1 = memOk ∧ (shRead ag a n s).2.1 = memReadN s.stores.shared a n) ∧
      (∀ n, a / 8 ∈ s.mem.poison → (shRead ag a n s).1 = memPoisoned) ∧
      (∀ d : List Byte, d.length ≠ 8 → a / 8 ∈ s.mem.poison →
        (shWrite ag a d s).1 = memPoisoned ∧ (shWrite ag a d s).2.stores = s.stores) ∧
      (∀ d : List Byte, (d.length = 8 ∨ a / 8 ∉ s.mem.poison) →
        let t := (shWrite ag a d s).2
        (shWrite ag a d s).1 = memOk ∧ (∀ i, i < d.length → memRead t.stores.shared (a + i) = byteAt d i) ∧
        (∀ x, x < a ∨ a + d.length ≤ x → memRead t.stores.shared x = memRead s.stores.shared x) ∧
        t.stores = { s.stores with shared := t.stores.shared })) ∧
    (bankStatus k ag = memOk → k.pwr ≠ 1 → ∀ u : PortUse, u.word = a / 8 → u.writes = true →
      c = (if onPortB ag then ⟨some u, none⟩ else ⟨none, some u⟩) →
      (∀ n, u.poison = false → (shRead ag a n s).1 = memOk ∧ (shRead ag a n s).2.1 = slice u.before (a % 8) n) ∧
      (onPortB ag = true → ∀ d : List Byte, (shWrite ag a d s).1 = memLost ∧ (shWrite ag a d s).2.stores = s.stores) ∧
      (onPortB ag = false → ∀ d : List Byte, d.length = 8 →
        (shWrite ag a d s).1 = memOk ∧ ∀ i, i < 8 → memRead (shWrite ag a d s).2.stores.shared (a + i) = byteAt d i))

/-- A start of a handover through MEM_OWN is overrun while one is pending, refused with its reason (state REFUSED, source 43)
where Table 4.3 fails, and else accepted: the bank is PENDING with the requested owner and delegates, with a scrub where the
owner changes and force, the bank's own setting or OFF asks for it. The envelope's refusal of the policy core has reason 8.
MEM_HANDOVER checks all its banks, the counts over the whole set, and accepts all of them, or none, naming the first bank and
reason. When a pending handover has drained, its end gives the bank the requested owner and delegates, records DONE with the
previous owner, raises source 43, turns an OFF bank with a new owner ON, zeroes the bank's bytes where a scrub was due, and
changes no other byte; a handover that is not drained, or a bank without one, is left as it is. The memory handover commands
complete with their last bank. (R99; R100; R101; R102; R103; R104; R106; 04 Table 4.3; 04 Table 4.9) -/
def Obligations.Handovers : Prop :=
  (
  (∀ (s : State) (m : Fin 64) (v : W32), running s = true → regBad true m .MEM_OWN s = false →
    let b := chanOf .MEM_OWN m s
    let why (s : State) := handoverReason m [b] (fld v 23 16) (fld v 26 24) (fld v 29 27) false s b
    (bit v 31 = false → exec (.memOwnStart m v) s = .next s) ∧
    (bit v 31 = true → fld (rd s .MEM_OWN_STAT 0 b) 1 0 = 1 →
      exec (.memOwnStart m v) s = .next (setB .MEM_OWN_STAT 0 b 0x10000 s)) ∧
    (bit v 31 = true → fld (rd s .MEM_OWN_STAT 0 b) 1 0 ≠ 1 →
      (m.val ≠ 3 → 2 < m.val ∨ (bankOf s b).owner ≠ 3 → exec (.memOwnStart m v) s = .next (handoverRefuse m b 2 s)) ∧
      (m.val ≤ 2 → (bankOf s b).owner = 3 →
        (∀ x, why s = some x → exec (.memOwnStart m v) s = .next (handoverRefuse m b x s)) ∧
        (why s = none → exec (.memOwnStart m v) s =
          .next (handoverAccept m b (fld v 23 16) (fld v 26 24) (fld v 29 27) false s))) ∧
      (m.val = 3 →
        let g := governs .MEM_OWN b v s
        let ok := govAccept g.1 Reg.MEM_OWN.block (regOff .MEM_OWN 0 % 0x10000) v s
        (∀ x, envCheck g.1 g.2.1 g.2.2 s = some x → exec (.memOwnStart m v) s =
          .next (handoverRefuse 3 b 8 (govRefuse g.1 x Reg.MEM_OWN.block (regOff .MEM_OWN 0 % 0x10000) v s))) ∧
        (envCheck g.1 g.2.1 g.2.2 s = none →
          (∀ x, why ok = some x → exec (.memOwnStart m v) s = .next (handoverRefuse 3 b x ok)) ∧
          (why ok = none → exec (.memOwnStart m v) s =
            .next (handoverAccept 3 b (fld v 23 16) (fld v 26 24) (fld v 29 27) false ok)))))) ∧
  (∀ (s : State) (ring : Fin 10) (slot : Nat) (c : Cmd), cmdStarts s ring slot 0x20 c →
    let g := begunCmd ring c.tag s
    let w := c.words
    let banks := maskBanks w
    let bad := banks.findSome? fun b =>
      (handoverReason (ringMaster ring) banks (cmdByte w 56) (cmdByte w 57) (cmdByte w 58) true g b).map fun why => (b, why)
    (banks = [] → exec (.memHandover ring slot) s = .next (complete ⟨ring, slot, c.tag, 0x20⟩ stBadParam 0 g)) ∧
    (banks ≠ [] →
      (∀ b why, bad = some (b, why) → exec (.memHandover ring slot) s =
        .next (complete ⟨ring, slot, c.tag, 0x20⟩ stFailed (BitVec.ofNat 64 b ||| BitVec.ofNat 64 (why * 256)) g)) ∧
      (bad = none → ∃ t, banks.foldl (fun s b => handoverAccept (ringMaster ring) b (cmdByte w 56) (cmdByte w 57) (cmdByte w 58)
          (decide (cmdByte w 59 % 2 = 1)) s) g = t ∧
        exec (.memHandover ring slot) s = .next { t with mem := { t.mem with
          handovers := (⟨ring, slot, c.tag, 0x20⟩, banks, banks.length) :: t.mem.handovers } })))) ∧
  (
  ∀ (s : State) (b : Fin 384),
    ((bankOf s b).pend = none → exec (.handoverDrained b) s = .next s ∧ exec (.handoverDone b) s = .next s) ∧
    (∀ h, (bankOf s b).pend = some h →
      (h.drained = false → exec (.handoverDone b) s = .next s ∧ exec (.handoverDrained b) s =
        .next (setBank b { bankOf s b with pend := some { h with drained := true, since := s.ticks } } s)) ∧
      (h.drained = true → exec (.handoverDrained b) s = .next s) ∧
      (h.drained = true → ∃ t, exec (.handoverDone b) s = .next t ∧
        (bankOf t b).owner = h.owner ∧ (bankOf t b).del0 = h.del0 ∧ (bankOf t b).del1 = h.del1 ∧ (bankOf t b).pend = none ∧
        (∀ j, j ≠ b.val → bankOf t j = bankOf s j) ∧
        (∀ a, a / 0x40000 ≠ b.val → memRead t.stores.shared a = memRead s.stores.shared a) ∧
        (h.scrub = true → ∀ a, a / 0x40000 = b.val → memRead t.stores.shared a = 0) ∧
        (h.scrub = false → t.stores = s.stores))))

/-- A MEM_TEST of eligible banks begins the march and takes the first selected bank of each cluster under test; a second one is
BUSY, an ineligible bank fails it with its reason. The march's end in a bank ends its test; with the last bank source 44 fires
and the command, where there is one (the boot's test has none), completes with its counts. A thaw ends in ON; an idle bank
whose request is FROST enters it; a power request is refused or takes its state; a quota written below the use sets over_quota
with source 46; a read of MEM_ECC_UE returns and clears the count and the latched word's valid bit. (R59; R97; R107; R108;
R111; R112; R113; 04 Table 4.9) -/
def Obligations.BankTestsPowerAndQuota : Prop :=
  (∀ (s : State) (ring : Fin 10) (slot : Nat) (c : Cmd), cmdStarts s ring slot 0x21 c →
    let g := begunCmd ring c.tag s
    let banks := maskBanks c.words
    let alg := cmdByte c.words 56
    let ref : CmdRef := ⟨ring, slot, c.tag, 0x21⟩
    let bad := banks.findSome? fun b => (testReason (ringMaster ring) (decide (alg = 1)) b g).map fun why => (b, why)
    ((banks = [] ∨ (alg ≠ 1 ∧ alg ≠ 2)) → exec (.memTest ring slot) s = .next (complete ref stBadParam 0 g)) ∧
    (banks ≠ [] → alg = 1 ∨ alg = 2 →
      (s.mem.test.isSome = true → exec (.memTest ring slot) s = .next (complete ref stBusy 0 g)) ∧
      (s.mem.test = none →
        (∀ b why, bad = some (b, why) → exec (.memTest ring slot) s =
          .next (complete ref stFailed (BitVec.ofNat 64 b ||| BitVec.ofNat 64 (why * 256)) g)) ∧
        (bad = none → exec (.memTest ring slot) s = .next ((clusterHeads banks).foldl (fun s b => testTake b s)
          { g with mem := { g.mem with test := some ⟨some ref, decide (alg = 1), banks, 0, 0, 0⟩ } }))))) ∧
  (∀ (s : State) (b : Fin 384) (t : MemTest) (again : Bool), s.mem.test = some t → b.val ∈ t.left → (bankOf s b).underTest = true →
    t.destructive = false → t.left.filter (· ≠ b.val) = [] →
    let back : BitVec 2 := if fld (rd s .MEM_PWR 0 b) 1 0 = 1 then 1 else 0
    let k := { bankOf s b with underTest := false, pwr := back }
    let u := setF .MEM_TEST_RES 0 b 2 2 0 (setBank b k (setF .MEM_TEST_RES 0 b 1 0 1 s))
    (∀ r, t.cmd = some r → exec (.marchBankDone b [] [] again) s = .next (complete r stOk
      (BitVec.ofNat 64 (t.passed + 1 + t.repaired * 2 ^ 16 + t.failed * 2 ^ 32))
      (raise 44 { u with mem := { u.mem with test := none } }))) ∧
    (t.cmd = none → exec (.marchBankDone b [] [] again) s = .next (raise 44 { u with mem := { u.mem with test := none } }))) ∧
  (∀ (s : State) (b : Fin 384),
    ((bankOf s b).thawing = true → exec (.bankThawDone b) s = .next (setBank b { bankOf s b with pwr := 0, thawing := false } s)) ∧
    (frostIdleDue b s = true → exec (.bankFrostIdle b) s = .next (setBank b { bankOf s b with pwr := 1 } s))) ∧
  (∀ (s : State) (m : Fin 64), reads m .MEM_ECC_UE s →
    let b := chanOf .MEM_ECC_UE m s
    exec (.memEccUeRead m) s = .next (reply m (rd s .MEM_ECC_UE 0 b)
      (clrB .MEM_UE_WORD 0 b 0x80000000 (wr .MEM_ECC_UE 0 b 0 s)))) ∧
  (∀ (s : State) (m : Fin 64) (v : W32), running s = true → regBad true m .MEM_PWR s = false → m.val ≠ 3 →
    let b := chanOf .MEM_PWR m s
    let u := setF .MEM_PWR 0 b 15 8 (fld v 15 8) (if bit v 16 then clrB .MEM_PWR 0 b 0x10000 s else s)
    ((m.val ≤ 2 ∧ (bankOf s b).owner ≠ 3) → exec (.memPwrReq m v) s = .next (accessErr m 0 (regOff .MEM_PWR 0) s)) ∧
    (¬(m.val ≤ 2 ∧ (bankOf s b).owner ≠ 3) →
      (pwrRefused b (fld v 1 0) u = true → exec (.memPwrReq m v) s = .next (setB .MEM_PWR 0 b 0x10000 u)) ∧
      (pwrRefused b (fld v 1 0) u = false →
        exec (.memPwrReq m v) s = .next (pwrTake b (fld v 1 0) (setF .MEM_PWR 0 b 1 0 (fld v 1 0) u))))) ∧
  (∀ (s : State) (m : Fin 64) (c : Fin 39) (v : W32), writes m .MEM_QUOTA s →
    let u := plainWrite .MEM_QUOTA c 0 v s
    (fld v 8 0 < banksOf u (BitVec.ofNat 8 (c + 1)) → exec (.memQuotaWrite m c v) s = .next (raise 46 (setB .MEM_COUNT c 0 0x80000000 u))) ∧
    (banksOf u (BitVec.ofNat 8 (c + 1)) ≤ fld v 8 0 → exec (.memQuotaWrite m c v) s = .next (refreshQuota u)))

/-- An enqueue answers the first status of R458's order that applies: NOT_BOUND where the queue is not bound to its producer, OPEN
while another thread's packet is open, the discard status for a later descriptor of a discarded packet, BAD_DESC, OFF, REFUSED
at the depth limit, NO_DESC at a full descriptor RAM; a first descriptor that none of these stops joins the end of the queue
and opens its packet, or completes it with last. Every answer leaves every other queue, all memory and the other producers'
descriptors alone. (R116; R117; R118; R119; R121; R122; R457; R458) -/
def Obligations.EnqueuesAreCheckedInOrder : Prop :=
  ∀ (s : State) (q p th : Nat) (d : BitVec 128),
    let k := queueOf s q
    let x := qEnqueue q p th d s
    let dis := k.discard.find? fun e => e.1 = p && e.2.1 = th
    (∀ j, j ≠ q → queueOf x.2 j = queueOf s j) ∧ x.2.stores = s.stores ∧ x.2.eng = s.eng ∧ x.2.pol = s.pol ∧
    ((boundCode (qProducer s q) = false ∨ qProducer s q ≠ p) → x = qRefuse q qNotBound s) ∧
    (boundCode (qProducer s q) = true → qProducer s q = p →
      (k.openBy.isSome = true → k.openBy ≠ some (p, th) → x = qRefuse q qOpen (setQueue q (undiscard p th k) s)) ∧
      (k.openBy = none →
        (∀ e, dis = some e → dFirst d = false → x = qDrop q p th e.2.2 (dLast d) s) ∧
        (dis = none ∨ dFirst d = true →
          let t := setQueue q (undiscard p th k) s
          ((descBad d = true ∨ dFirst d = false) → x = qRefuse q qBadDesc t) ∧
          (descBad d = false → dFirst d = true →
            (isOn s .QM_Q_STAT q = false → x = qRefuse q qOff t) ∧
            (isOn s .QM_Q_STAT q = true →
              (qLimit s q ≤ k.descs.length → x = qRefuse q qRefused t) ∧
              (k.descs.length < qLimit s q →
                (descFree t = 0 → x = qRefuse q qNoDesc t) ∧
                (descFree t ≠ 0 → x.1 = qOk ∧ (queueOf x.2 q).descs = k.descs ++ [d] ∧
                  (dLast d = false → (queueOf x.2 q).openBy = some (p, th) ∧ (queueOf x.2 q).vis = k.vis) ∧
                  (dLast d = true → (queueOf x.2 q).openBy = none ∧ (queueOf x.2 q).vis = k.base + k.descs.length + 1)))))))) ∧
    ∀ st, (queueOf (qRefuse q st s).2 q) = k ∧ (qRefuse q st s).1 = st

/-- An enqueue, a dequeue, MARK, REWIND, RELEASE, flush and the pops of the notice lists act on the queue that the access names,
for the identity that makes it, and leave their status. A dequeue returns the oldest unread descriptor of a complete packet,
else EMPTY; MARK records the read position, REWIND moves back to it, RELEASE frees what was read; each answers WRONG_MODE with
source 50 in FLUSH mode and NOT_BOUND for another identity. A waiting notice follows when its coalescing time has passed.
(R119; R124; R125; R126; R127; R128; R129; 05 Table 5.2) -/
def Obligations.QueueAccesses : Prop :=
  (∀ (s : State) (t : Fin 97) (v : W32) (g : Fin 12) (m : Fin 64),
    exec (.enqueue (.port t) v) s = .next (enqueueWord3 (.port t) v s) ∧
    (writes m .QM_Q_E s → exec (.enqueue (.reg m) v) s = .next (enqueueWord3 (.reg m) v s)) ∧
    exec (.dequeue (.port t)) s = .next (dequeueRead (.port t) s) ∧
    (reads m .QM_Q_DEQ s → exec (.dequeue (.reg m)) s = .next (dequeueRead (.reg m) s)) ∧
    (writes m .QM_Q_OP s →
      exec (.qmark (.reg m)) s = .next (viaOp (.reg m) qMark s) ∧ exec (.rewind (.reg m)) s = .next (viaOp (.reg m) qRewind s) ∧
      exec (.release (.reg m)) s = .next (viaOp (.reg m) qRelease s) ∧ exec (.flush (.reg m)) s = .next (viaOp (.reg m) qFlush s)) ∧
    exec (.qmark (.port t)) s = .next (viaOp (.port t) qMark s) ∧ exec (.rewind (.port t)) s = .next (viaOp (.port t) qRewind s) ∧
    exec (.release (.port t)) s = .next (viaOp (.port t) qRelease s) ∧ exec (.flush (.port t)) s = .next (viaOp (.port t) qFlush s) ∧
    (reads m .QM_NOTICE_NEXT s → exec (.noticeListPop (.reg m)) s = .next (reply m (popPol s).1 (popPol s).2)) ∧
    (t.val ≠ 96 → exec (.noticeListPop (.port t)) s = .next (reply (thMaster t) (popEng (t / 4) s).1 (popEng (t / 4) s).2)) ∧
    (reads m .QM_NGRP_NEXT s → exec (.noticeGroupPop m g) s = .next (reply m (popGroup g s).1 (popGroup g s).2)) ∧
    (∀ q : Fin 4096, running s = true → coalDue s q = true → exec (.noticeCoalesceTimeout q) s = .next (notice q s))) ∧
  (∀ (s : State) (q c : Nat),
    let k := queueOf s q
    (boundCode (qConsumer s q) = true → qConsumer s q = c →
      (qStatBit s q 5 = false → k.read < k.vis → (qDequeue q c s).1 = qOk ∧ (qDequeue q c s).2.1 = k.descs.getD (k.read - k.base) 0) ∧
      (qStatBit s q 5 = false → k.vis ≤ k.read → qDequeue q c s = (qEmpty, 0, s)) ∧
      (qFlushMode s q = false →
        qMark q c s = (qOk, setQueue q { k with mark := some k.read } s) ∧
        qRewind q c s = (qOk, setQueue q { k with read := k.mark.getD k.base } s) ∧
        qRelease q c s = (qOk, qFreeTo q k.read s) ∧ (3 < c → (qFlush q c s).1 = qWrongMode)) ∧
      (qFlushMode s q = true → qMark q c s = (qWrongMode, raise 50 s) ∧ qRewind q c s = (qWrongMode, raise 50 s) ∧
        qRelease q c s = (qWrongMode, raise 50 s) ∧ (qFlush q c s).1 = qOk)) ∧
    (qConsumer s q ≠ c → qDequeue q c s = (qNotBound, 0, s) ∧ qMark q c s = (qNotBound, s) ∧ qRewind q c s = (qNotBound, s) ∧
      qRelease q c s = (qNotBound, s)))

/-- QM_Q_BIND is written only while the queue is OFF, and so is QM_Q_CTRL's mode, whose change ends the queue's mark; a change in
another state sets bind_err. A limit below the use sets over_quota with source 48. The enable of a queue bound on both sides
starts it, an enable that R132 refuses sets bind_err and leaves en as it was, a disable begins the drain, which ends at use 0;
the end of STARTING is ON. (R59; R122; R131; R132; R455; R56) -/
def Obligations.QueueControl : Prop :=
  ∀ (s : State) (m : Fin 64) (v : W32),
    (writes m .QM_Q_CTRL s → let q := chanOf .QM_Q_CTRL m s
      let old := rd s .QM_Q_CTRL 0 q
      (isOff s .QM_Q_STAT q = true →
        let w := wr .QM_Q_CTRL 0 q (v &&& 0xF7) s
        let u := if bit old 1 = bit v 1 then w else setQueue q { queueOf w q with mark := none } w
        (bit v 0 = true → qEnableBad u q = false →
          exec (.queueEnable m v) s = .next (qSettle q (fbPut .QM_Q_STAT q (fbEnable (fbOf u .QM_Q_STAT q)) u))) ∧
        (bit v 0 = true → qEnableBad u q = true → exec (.queueEnable m v) s =
          .next (setB .QM_Q_STAT 0 q 0x100 (wr .QM_Q_CTRL 0 q (putFld (rd u .QM_Q_CTRL 0 q) 0 0 (fld old 0 0)) u))) ∧
        (bit v 0 = false → exec (.queueDisable m v) s = .next (qSettle q (fbPut .QM_Q_STAT q (fbDisable (fbOf u .QM_Q_STAT q)) u)))) ∧
      (isOff s .QM_Q_STAT q = false → bit v 0 = false → (old ^^^ v) &&& 0xF6 = 0 →
        let u := wr .QM_Q_CTRL 0 q (putFld old 0 0 0) s
        exec (.queueDisable m v) s = .next (qSettle q (fbPut .QM_Q_STAT q (fbDisable (fbOf u .QM_Q_STAT q)) u)))) ∧
    (∀ q : Fin 4096, running s = true → fbState (fbOf s .QM_Q_STAT q) = 1 →
      exec (.queueStarted q) s = .next (qSettle q (fbPut .QM_Q_STAT q (fbStarted (fbOf s .QM_Q_STAT q)) s))) ∧
    (writes m .QM_Q_BIND s → let q := chanOf .QM_Q_BIND m s
      (isOff s .QM_Q_STAT q = true → exec (.qmQBindWrite m v) s = .next (plainWrite .QM_Q_BIND 0 q v s)) ∧
      (isOff s .QM_Q_STAT q = false → (rd s .QM_Q_BIND 0 q ^^^ v) &&& 0x7F7F ≠ 0 →
        exec (.qmQBindWrite m v) s = .next (setB .QM_Q_STAT 0 q 0x100 s))) ∧
    (writes m .QM_Q_LIMIT s → let q := chanOf .QM_Q_LIMIT m s
      let u := plainWrite .QM_Q_LIMIT 0 q v s
      (qLimit u q < qUse u q → exec (.qmQLimitWrite m v) s = .next (raise 48 (setB .QM_Q_STAT 0 q 0x10 u))) ∧
      (qUse u q ≤ qLimit u q → exec (.qmQLimitWrite m v) s = .next (qSettle q u)))

/-- At a port outside a redundancy pair, a frame that its Ethernet port does not receive, a MAC control frame or an in-band one
does not enter the fabric at its first cell; every other one does, and so does a frame of a CAN or star port. A frame whose
VLAN its port is not a member of, or that the receive filter stops, goes no further, and the check it failed is kept for its
last cell. Otherwise its source address is learned, and the classifier's entry of lowest index decides class, filter, meter
and destination; a frame that no entry matches counts a miss, fires source 80, and is looked up. A frame that its stream
filter or meter drops goes no further; destination 0xFFFF drops it. A packet of a queue consumed by F20 to F25 is taken whole,
and waits where a bank of it sleeps. (R137; R138; R140; R141; R142; R148; R150; R153; 07 R180; 07 R177; 04 R107) -/
def Obligations.FramesEnterTheFabric : Prop :=
  (∀ (s : State) (f : FabIn), running s = true → f.queue = none →
    let p := f.port.val
    (p < 16 → f.kind = .eth →
      ((receives s p f.stamp = false ∨ macControl f.bytes = true ∨ isInband f.bytes = true) → exec (.fabricFirstCell f) s = .next s) ∧
      (receives s p f.stamp = true → macControl f.bytes = false → isInband f.bytes = false →
        let u := if p < 12 ∧ bit (rd s .ETH_PREEMPT_CFG 0 p) 0 = true then s else cutArrivals p s
        redMode u p f.bytes ≠ 1 → redMode u p f.bytes ≠ 2 → exec (.fabricFirstCell f) s = .next (fabFirst f none false none u))) ∧
    (16 ≤ p → p < 20 → exec (.fabricFirstCell f) s = .next (fabFirst f none false none s))) ∧
  (∀ (s : State) (f : FabIn) (queueTc : Option Nat) (bad : Bool) (pre : Option (List Dest)),
    let p := f.port.val
    let id := s.fab.nextId
    let vid := if f.kind = .eth then ethVid f.bytes (portVid s p) else 0
    let u := arrive p f.kind f.bytes s
    (∀ r, p < 16 → f.kind = .eth → portRefuses u p f.bytes = some r → fabFirst f queueTc bad pre s = arrivalDropped id r u) ∧
    ((p < 16 → f.kind = .eth → portRefuses u p f.bytes = none) →
      let t := if p < 16 ∧ f.kind = .eth then learn p vid (ethSrc f.bytes) u else u
      (classify t (clsKey p f.kind f.bytes (portVid s p)) = none → fabFirst f queueTc bad pre s =
        let v := raise 80 (count16 .FAB_CLS_MISS 0 0 t)
        forward f id 0xFFFE vid (defaultTc v p f.kind f.bytes queueTc) 3 0 bad pre v) ∧
      (∀ e, classify t (clsKey p f.kind f.bytes (portVid s p)) = some e →
        let tc := if bit (wordAt e 8) 19 then fld (wordAt e 8) 18 16 else defaultTc t p f.kind f.bytes queueTc
        let x := filterMeter f e tc t
        (x.1 = none → fabFirst f queueTc bad pre s = x.2) ∧
        (∀ colour, x.1 = some colour → fabFirst f queueTc bad pre s =
          forward f id (fld (wordAt e 8) 15 0) vid tc colour (BitVec.ofNat 16 (fld (wordAt e 9) 24 9)) bad pre
            (mapArrival id (governed f e tc colour x.2) x.2))))) ∧
  (∀ (s : State) (p : Nat) (l : List Byte),
    (vlanMember s (ethVid l (portVid s p)) p = false → portRefuses s p l = some .ETH_RX_VLAN) ∧
    (vlanMember s (ethVid l (portVid s p)) p = true → ethFiltered s p l = true → portRefuses s p l = some .ETH_RX_FILTER) ∧
    (vlanMember s (ethVid l (portVid s p)) p = true → ethFiltered s p l = false → portRefuses s p l = none)) ∧
  (∀ (s : State) (f : FabIn) (q : Fin 4096), running s = true → f.queue = some q → 0x54 ≤ qConsumer s q → qConsumer s q ≤ 0x59 →
    ∀ l bad d t, takePacket .fabric (qUse s q + 1) q (qConsumer s q) [] false none s = (some (l, bad, d), t) →
      let r := fabTake (queueFrame q l d t) (some (fld (dWord d 1) 15 13)) bad none t
      (r.mem.stall = none → exec (.fabricFirstCell f) s = .next r) ∧
      (∀ b, r.mem.stall = some b → exec (.fabricFirstCell f) s = .next (bankTouch b s))) ∧
  (∀ (s : State) (f : FabIn) (id vid tc colour : Nat) (ptag : BitVec 16) (bad : Bool) (pre : Option (List Dest)),
    forward f id 0xFFFF vid tc colour ptag bad pre s = mapArrival id (fun a => { a with filter := none }) (inDrop f.port 2 tc s))

/-- A frame is refused by a queue whose link is down, and by a queue without RED it is admitted exactly when its cap allows it,
its use is below its reserve or within alpha times the free shared pool, and a cell is free; a refusal counts in
FAB_Q_DROP_BUF of the queue. The RED average follows avg + (q - avg) / 2^n, and below the minimum a frame is never dropped by
RED, at or above the maximum always. (R156; R157; R158; R161; 07 R178) -/
def Obligations.AdmissionToEgressQueues : Prop :=
  (∀ (s : State) (d : Dest) (tc colour : Nat),
    let eq := destPort s d * 8 + tc
    let refused := fabEvent (64 + tc) (count32 .FAB_Q_DROP_BUF 0 eq s)
    (∀ p, d = .eth p → portUp s p = false → takeAt d tc colour s = (false, refused)) ∧
    ((∀ p, d = .eth p → portUp s p = true) → eqRed s eq = none →
      let ok := (∀ c, eqCap s eq = some c → eqUse s eq < c) ∧
        (eqUse s eq < eqReserve s eq ∨ (eqUse s eq - eqReserve s eq) * 64 < 2 ^ eqAlpha s eq * sharedFree s) ∧ 0 < bufFree s
      (ok → takeAt d tc colour s = (true, s)) ∧ (¬ok → takeAt d tc colour s = (false, refused)))) ∧
  (∀ (prof : List W32) (avg : Nat),
    (avg < fld (wordAt prof 0) 20 0 * 65536 → redP prof 0 avg = 0) ∧
    (fld (wordAt prof 0) 20 0 * 65536 ≤ avg → fld (wordAt prof 1) 20 0 * 65536 ≤ avg → redP prof 0 avg = 65536)) ∧
  (∀ (s : State) (eq : Fin 216) (r : Nat), running s = true → eqRed s eq = some r → eqUse s eq = 0 →
    exec (.redIdleUpdate eq) s = .next (setEgress eq { egressOf s eq with
      avg := redAvg (egressOf s eq).avg 0 (fld (tblW s 4 r 6) 30 27) } s))

/-- The last cell of a frame counts a check of its port that its first cell failed, checks the maximum SDU of the filter that
governed the frame, charges its meter with the whole length, and ends every copy, bad where the frame is. A cell lost in the
core counts FAB_RESEQ_ERR and fires source 77, at once when it is the next of its stream and else when its turn comes, and the
frame is bad at its destination; a ready-first frame whose residue has aged loses the destinations that have not taken it,
with source 82. A sweep removes the learned addresses that were not seen since the last one, and clears the mark of the
others; the address table is kept while the age time is 0. (R137; R145; R152; R154; R164; R165) -/
def Obligations.FramesLeaveTheFabric : Prop :=
  (∀ (s : State) (fid len : Nat) (ok : Bool) (a : Arrival), running s = true → s.fab.arrivals.find? (fun a => a.id = fid) = some a →
    let u := setFab { s.fab with arrivals := s.fab.arrivals.filter fun b => b.id ≠ fid } s
    let ends (bad : Bool) (v : State) : State :=
      let v := match a.meter with
        | some k => meterCharge k a.colour len v
        | none => v
      (v.fab.flights.filter fun g => g.id = fid && !g.whole).foldl (fun v g => lastCellOf g bad v) v
    (∀ r, a.dropped = some r → ok = true → a.filter = none → exec (.fabricLastCell fid len ok) s = .next (ends false (dropRx a.port r u))) ∧
    (a.dropped = none →
      ((a.filter = none ∨ ∃ sf w, a.filter = some (sf, w) ∧ sfExceeds w len = false) →
        exec (.fabricLastCell fid len ok) s = .next (ends (!ok) u)) ∧
      (∀ sf w, a.filter = some (sf, w) → sfExceeds w len = true →
        exec (.fabricLastCell fid len ok) s = .next (ends true (sfOversize a.port sf a.tc w u))))) ∧
  (∀ (s : State) (fid : Nat) (c : Cell), running s = true →
    let k := s.fab.core
    (k.middle.map (·.2) ++ k.inputs).find? (fun c => c.flight = fid) = some c →
    let u := setFab { s.fab with core :=
      { k with inputs := k.inputs.filter (· ≠ c), middle := k.middle.filter (fun e => e.2 ≠ c), lost := k.lost ++ [c] } } s
    (nmGet 0 k.released c.stream = c.num → exec (.resequencingLoss fid) s = .next (lastOuts (takeLost c u))) ∧
    (nmGet 0 k.released c.stream ≠ c.num → exec (.resequencingLoss fid) s = .next (lastOuts u)) ∧
    (∀ v : State, takeLost c v = release (v.fab.core.held.length + 1) c.stream (fabEvent 77 (count16 .FAB_RESEQ_ERR 0 0
      (loseCell c.dest c.flight (setFab { v.fab with core := { v.fab.core with
        lost := v.fab.core.lost.filter (· ≠ c), released := nmSet 0 v.fab.core.released c.stream (c.num + 1) } } v)))))) ∧
  (∀ (s : State) (fid : Nat) (f : Flight), s.fab.flights.find? (fun f => f.id = fid && mcAged s f) = some f →
    exec (.mcResidueAged fid) s = .next (fabEvent 82 (count16 .FAB_MC_AGED 0 0
      ((f.dests.filter (· ∉ f.full)).foldl (fun s d => serveDest fid d (unwait d f s)) s)))) ∧
  (∀ s : State, fld (rd s .FAB_AGE_TIME 0 0) 15 0 = 0 → exec .ageSweep s = .next s) ∧
  (∀ (s : State) (i : Nat) (e : List W32), running s = true → inRestart s = false → fld (rd s .FAB_AGE_TIME 0 0) 15 0 ≠ 0 →
    s.cfg.active = [(tblKey 6 i, e)] → i < 65536 → bit (wordAt e 3) 31 = true → bit (wordAt e 2) 16 = true →
    (bit (wordAt e 2) 17 = false → exec .ageSweep s = .next (setActive 6 i [] s)) ∧
    (bit (wordAt e 2) 17 = true → exec .ageSweep s =
      .next (setActive 6 i [wordAt e 0, wordAt e 1, wordAt e 2 &&& 0xFFFDFFFF, wordAt e 3] s)))

/-- The read bit of FAB_ACT_CTRL or CAN_ACT_CTRL copies the active entry that the selection names into the window, or answers
BAD_INDEX. The apply bit answers REFUSED to every master but the policy core and within a restart, then BAD_INDEX, BAD_ENTRY,
then REFUSED where the envelope refuses; otherwise the entry takes effect. Each of the refusals leaves the active set as it
was. (R174; R175; 08 R218; 13 R369; 06 Table 6.17) -/
def Obligations.ActiveSetWindows : Prop :=
  ∀ (s : State) (m : Fin 64) (w : ActWin), (w = fabWin ∨ w = canWin) → writes m w.ctrl s →
    let id := (actSel w m s).1
    let i := (actSel w m s).2
    let e := (List.range (tblWords id)).map fun k => rd s w.words k m
    let badE := entryRange id i e || (decide (id = 2) && decide (2048 ≤ i) && decide (fld (wordAt e 0) 29 0 = 0)) || intervalBad s.cfg.active id i e || (decide (id = 6) && entryValid id i e && macBad s.cfg.active i e)
    let g := actGoverns id i e s
    let apply : Instr := if w = fabWin then .fabActApply m else .canActApply m
    let read : Instr := if w = fabWin then .fabActRead m else .canActRead m
    (actInRange w id i = true → exec read s =
      .next (actStatus w m actOk ((List.range w.words.desc.n).foldl (fun s k => wr w.words k m (tblW s id i k) s) s))) ∧
    (actInRange w id i = false → exec read s = .next (actStatus w m actBadIndex s)) ∧
    ((m.val ≠ 3 ∨ inRestart s = true) → exec apply s = .next (actStatus w m actRefused s)) ∧
    (m.val = 3 → inRestart s = false →
      (actInRange w id i = false → exec apply s = .next (actStatus w m actBadIndex s)) ∧
      (actInRange w id i = true →
        (badE = true → exec apply s = .next (actStatus w m actBadEntry s)) ∧
        (badE = false →
          (∀ why, envCheck g.1 g.2.1 g.2.2 s = some why → ∃ t, exec apply s = .next t ∧
            t = actStatus w m actRefused (govRefuse g.1 why id i (wordAt e 0) s) ∧ t.cfg = s.cfg) ∧
          (envCheck g.1 g.2.1 g.2.2 s = none → exec apply s =
            .next (actStatus w m actOk (actPut id i e (govAccept g.1 id i (wordAt e 0) s))))))) ∧
    ∀ st, (actStatus w m st s).cfg = s.cfg

/-- ETH_MODE is written only while the port is OFF, an unoffered mode counting as no interface; a change in another state sets
mode_err. ETH_CTRL stores, starts or stops the port, and queued frames are discarded unless it is ON; the time at which it
leaves ON is kept. The port is ON when its start ends; its stop ends, with the link down, when nothing is leaving or on its
way in. A change of the link is taken unless it would bring up the link of an OFF port. A threshold below 64 is taken as 64. A
go of ETH_MDIO_CMD puts a frame on the bus, whose end clears go and returns the data of a read. The read of a counter's low
half returns it, latches the high half for its reader and clears the counter. (R176; R177; R178; R203; R204; 07 Tables 7.1,
7.9) -/
def Obligations.EthernetPortControl : Prop :=
  (∀ (s : State) (m : Fin 64) (v : W32),
    (writes m .ETH_MODE s → let p := chanOf .ETH_MODE m s
      let w := if modeOffered p (v &&& 0xFF) then v &&& 0xFF else putFld (v &&& 0xFF) 3 0 0
      (isOff s .ETH_STAT p = true → exec (.ethModeWrite m v) s = .next (wr .ETH_MODE 0 p w s)) ∧
      (isOff s .ETH_STAT p = false → w ≠ rd s .ETH_MODE 0 p → exec (.ethModeWrite m v) s = .next (setB .ETH_STAT 0 p 0x100 s))) ∧
    (writes m .ETH_CTRL s → let p := chanOf .ETH_CTRL m s
      let u (en : Bool) := fbWrite .ETH_STAT p en (plainWrite .ETH_CTRL 0 p v s)
      let t (en : Bool) := if isOn (u en) .ETH_STAT p then u en
        else if isOn s .ETH_STAT p then discardQueued p false (setPort p { portOf (u en) p with stopAt := (u en).time.now } (u en))
        else discardQueued p false (u en)
      (bit v 0 = true → exec (.portEnable m v) s = .next (t true)) ∧
      (bit v 0 = false → exec (.portDisable m v) s = .next (t false))) ∧
    (writes m .ETH_TX_THR s → let p := chanOf .ETH_TX_THR m s
      exec (.txThrWrite m v) s = .next (wr .ETH_TX_THR 0 p (BitVec.ofNat 32 (max 64 (fld v 13 0))) s)) ∧
    (∀ b : Fin 2, writes m .ETH_MDIO_CMD s → bit v 31 = true →
      let u := plainWrite .ETH_MDIO_CMD b 0 v s
      let t := say (.mdio b (rd u .ETH_MDIO_CMD b 0) (BitVec.ofNat 16 (rd u .ETH_MDIO_DATA b 0).toNat)) u
      (fld v 29 28 = 0 → exec (.mdioWrite m b v) s = .next t) ∧ (bit v 28 = true → exec (.mdioRead m b v) s = .next t) ∧
      (fld v 29 28 = 2 → exec (.mdioAddress m b v) s = .next t)) ∧
    (∀ k : Fin 4, reads m (c64Reg k).1 s → let p := chanOf (c64Reg k).1 m s
      exec (.counter64LoRead m k) s = .next (reply m (rd s (c64Reg k).1 0 p) (wr (c64Reg k).1 0 p 0
        (let u := wr (c64Reg k).2 0 (p * 64 + m) (nmGet 0 s.eth.ctrHi (p * 4 + k)) s
         { u with eth := { u.eth with ctrHi := nmErase u.eth.ctrHi (p * 4 + k) } }))))) ∧
  (∀ (s : State) (p : Fin 16), running s = true →
    exec (.portStarted p) s = .next (fbPut .ETH_STAT p (fbStarted (fbOf s .ETH_STAT p)) s) ∧
    (fbState (fbOf s .ETH_STAT p) = 3 → (portOf s p).leaving = none → (portOf s p).remainder = none → arrivalsAt s p = [] →
      exec (.portStopped p) s =
        .next (linkSet p false (fld (rd s .ETH_STAT 0 p) 7 5) (fbPut .ETH_STAT p (fbStopped (fbOf s .ETH_STAT p)) s))) ∧
    (∀ (up : Bool) (rate : Fin 8), (up = false ∨ isOff s .ETH_STAT p = false) →
      exec (.linkChange p up rate) s = .next (linkSet p up rate s))) ∧
  (∀ (s : State) (b : Fin 2) (d : BitVec 16), running s = true → bit (rd s .ETH_MDIO_CMD b 0) 31 = true →
    let u := clrB .ETH_MDIO_CMD b 0 0x80000000 s
    (bit (rd s .ETH_MDIO_CMD b 0) 28 = true → exec (.mdioDone b d) s = .next (setF .ETH_MDIO_DATA b 0 15 0 d.toNat u)) ∧
    (bit (rd s .ETH_MDIO_CMD b 0) 28 = false → exec (.mdioDone b d) s = .next u))

/-- A received frame is checked in the order of Table 7.3: a pre-emption fragment error, code errors, runt, giant, alignment at 10
and 100 Mbit/s, FCS; the first failure counts the frame in its counter and drops it, and a frame that the fabric has begun
ends bad. A good verify mPacket is answered. A frame that passes and is not under MACsec is taken with the ingress correction
added to its stamp: a MAC control frame is consumed, a VLAN or address that does not let it in is counted and drops it, and it
is counted and goes to the in-band commands, its redundancy pair or the fabric. Pause and PFC frames set the pauses of the
classes that their priorities map to; a pause ends with its time; a pause request that holds is sent again when its time has
come. Entries of a duplicate table that are old enough are forgotten. (R180; R181; R183; R188; R189; R192; R193; R194; R197;
03 R79; 07 Table 7.3) -/
def Obligations.EthernetReceive : Prop :=
  (∀ (s : State) (p : Fin 16) (rx : EthRx), running s = true → receives s p rx.stamp = true →
    let n := rxLen s p rx.bytes
    (rx.fragErr = true → p.val < 12 → bit (rd s .ETH_PREEMPT_CFG 0 p) 0 = true →
      exec (.ethRxFrame p rx) s = .next (rxBroken p rx.bytes (count32 .ETH_RX_FRAG_ERR 0 p s))) ∧
    (rx.fragErr = false → rx.smdV = true →
      ((rx.symbolErr = true ∨ crc32 rx.bytes ≠ rx.fcs.toNat) → exec (.ethRxFrame p rx) s = .next s) ∧
      (rx.symbolErr = false → crc32 rx.bytes = rx.fcs.toNat → exec (.ethRxFrame p rx) s = .next (verifyRx p s))) ∧
    (rx.fragErr = false → rx.smdV = false →
      (rx.symbolErr = true → exec (.ethRxFrame p rx) s = .next (rxDrop p .ETH_RX_SYMBOL rx.bytes s)) ∧
      (rx.symbolErr = false →
        (n < 64 → exec (.ethRxFrame p rx) s = .next (rxDrop p .ETH_RX_RUNT rx.bytes s)) ∧
        (64 ≤ n → maxFrm s p < n → exec (.ethRxFrame p rx) s = .next (rxDrop p .ETH_RX_GIANT rx.bytes s)) ∧
        (64 ≤ n → n ≤ maxFrm s p →
          (rx.alignErr = true → (bitTenths s p = 100 ∨ bitTenths s p = 1000) →
            exec (.ethRxFrame p rx) s = .next (rxDrop p .ETH_RX_ALIGN rx.bytes s)) ∧
          (rx.alignErr = false →
            (crc32 rx.bytes ≠ rx.fcs.toNat → exec (.ethRxFrame p rx) s = .next (rxDrop p .ETH_RX_FCS rx.bytes s)) ∧
            (crc32 rx.bytes = rx.fcs.toNat → bit (rd s .ETH_MACSEC_CTRL 0 p) 1 = false →
              exec (.ethRxFrame p rx) s = .next (rxAccept p n rx.bytes (rx.stamp + BitVec.ofInt 64 (sfld16 (rd s .TIME_LATC p 0) 0)) s))))))) ∧
  (∀ (s : State) (p n : Nat) (l : List Byte) (stamp : W64),
    (macControl l = true → rxAccept p n l stamp s = controlRx p l (countGood p n s)) ∧
    (macControl l = false → let u := rxStamp p l stamp s
      (∀ r, arrivalOf u p l = none → portRefuses u (ingressOf u p l) l = some r → rxAccept p n l stamp s = dropRx p r u) ∧
      ((arrivalOf u p l = none → portRefuses u (ingressOf u p l) l = none) →
        let v := if ((arrivalOf u p l).bind (·.dropped)).isSome then u else countGood p n u
        (isInband l = true → rxAccept p n l stamp s = inbandRx p l v) ∧
        (isInband l = false → (redMode v p l = 1 ∨ redMode v p l = 2) → rxAccept p n l stamp s = pairRx p l stamp v) ∧
        (isInband l = false → redMode v p l ≠ 1 → redMode v p l ≠ 2 → rxAccept p n l stamp s = rxIntoFabric p l stamp v)))) ∧
  (∀ (s : State) (p : Fin 16), running s = true →
    (portUp s p = true → ∀ en times q, exec (.pfcFrameRx p en times) s = .next (pfcRx p en times s) ∧
      exec (.pauseFrameRx p q) s = .next (pauseRx p q.toNat s)) ∧
    (∀ (c : Fin 8) (t : W64), nmFind (portOf s p).pausedUntil c = some t → t.toNat ≤ now s →
      exec (.pauseExpired p c) s = .next (setPort p { portOf s p with pausedUntil := nmErase (portOf s p).pausedUntil c } s)) ∧
    ((∀ c : Fin 8, (nmGet 0 s.fab.pauseReq p).getLsbD c = false) → exec (.pfcRefresh p) s = .next s) ∧
    (∀ c : Fin 8, (∀ d : Fin 8, d ≠ c → (nmGet 0 s.fab.pauseReq p).getLsbD d = false) → (nmGet 0 s.fab.pauseReq p).getLsbD c = true →
      (portOf s p).control = [] →
      (now s < (nmGet 0 (portOf s p).pfcNext c).toNat → exec (.pfcRefresh p) s = .next s) ∧
      ((nmGet 0 (portOf s p).pfcNext c).toNat ≤ now s →
        exec (.pfcRefresh p) s = .next (pfcSend p c (fld (rd s .ETH_PFC_CFG 0 p) 15 0) s))) ∧
    (∀ k : Fin 6, exec (.prpEntryForget k) s = .next (setPair k { pairOf s k with dups := freshDups s k (pairOf s k).dups } s)) ∧
    (verifying s p = true → fld (rd s .ETH_PREEMPT_STAT 0 p) 2 0 = 2 →
      exec (.preemptRespondRx p) s = .next (wr .ETH_PREEMPT_STAT 0 p 0xB s)))

/-- A port with its link up that sends nothing sends a waiting MAC control frame at its frame boundary and then the frame of the
highest class that may start, under PLCA within its transmit opportunity, which it has for one frame and its burst; an express
frame or a hold pre-empts a preemptable one where both parts reach the minimum. A frame that ends leaves as sent, counts its
octets and itself, and serves its destination; one that runs dry ends bad with what has been sent, counts an underrun and
raises the threshold by 64, or to its end value. A collision of a frame discards it after the attempts allowed, or queues it
again at the head of its class. Gates follow the entry that covers the local time. Verification sends at most three requests,
then fails; low-power idle begins after the idle time and ends when a frame waits or a wake gate is near. (R179; R182; R185;
R186; R188; R189; R190; R195; R202; R204) -/
def Obligations.EthernetTransmit : Prop :=
  (∀ (s : State) (p : Fin 16), running s = true →
    let t := if plcaOn s p = true ∧ (portOf s p).leaving = none then setPort p { portOf s p with opp := some (plcaBurst s p) } s else s
    let u := fallBack p t
    (bit (rd t .ETH_STAT 0 p) 4 = true → (isOn t .ETH_STAT p = true ∨ (portOf t p).remainder.isSome = true) →
      ((portOf u p).leaving = none → exec (.ethTxStart p) s = .next (txSelect p (sendControl p u))) ∧
      (∀ x, (portOf u p).leaving = some x →
        (∀ n, preemptAt u p x = some n → exec (.ethTxStart p) s = .next (preempt p x n u)) ∧
        (preemptAt u p x = none → exec (.ethTxStart p) s = .next u))) ∧
    (∀ (x : Leaving), canPreempt s p x (sentNow s p x) = true → closePoint s p x = none →
      ((portOf s p).hold = true ∨ (pickClass s p true).isSome = true) → preemptAt s p x = some (sentNow s p x)) ∧
    (∀ x, (portOf s p).leaving = some x →
      ((x.bad = true ∨ s.fab.flights.any (fun f => decide (f.id = x.flight) && decide (Dest.eth p ∈ f.dests) && decide (Dest.eth p ∉ f.full)) = false) →
        exec (.ethTxEnd p) s = .next (noteEmpty p (serveDest x.flight (.eth p) (count64 p 3 1 (count64 p 2 (x.bytes.length + 4)
          (say (.eth p x.bytes x.bad) (setPort p { portOf s p with leaving := none, retry := none } s))))))) ∧
      (let thr := fld (rd s .ETH_TX_THR 0 p) 13 0
       let u := ethCause p 1 (count32 .ETH_TX_UNDERRUN 0 p (serveDest x.flight (.eth p)
          (setPort p { portOf s p with leaving := some (cutBad (x.sent + sentNow s p x) x) } s)))
       thr ≠ 0x3FFF → x.bad = false → exec (.txUnderrun p) s = .next (wr .ETH_TX_THR 0 p
         (BitVec.ofNat 32 (if 9216 < thr + 64 then 0x3FFF else thr + 64)) u))) ∧
    exec (.gateEntryChange p) s = .next (gateUpdate p false s) ∧
    (verifying s p = true → (portOf s p).verifyNext.toNat ≤ now s →
      ((portOf s p).verifySent < 3 → exec (.preemptVerifySend p) s = .next (setF .ETH_PREEMPT_STAT 0 p 2 0 2
        (setPort p { portOf s p with verifySent := (portOf s p).verifySent + 1,
                                     verifyNext := s.time.now + BitVec.ofNat 64 (verifyTime s p),
                                     control := (portOf s p).control ++ [.verify] } s))) ∧
      (3 ≤ (portOf s p).verifySent → exec (.preemptVerifySend p) s = .next (ethCause p 4 (wr .ETH_PREEMPT_STAT 0 p 4 s)))) ∧
    (portUp s p = true → eeeOn s p = true → (portOf s p).lpi = false → portEmpty s p = true →
      wakeAhead s p (fld (rd s .ETH_EEE_CFG 0 p) 31 24 * 1000) = false →
      elapsed s (portOf s p).emptySince (max 1 (fld (rd s .ETH_EEE_CFG 0 p) 23 16) * 1000) = true →
      exec (.eeeLpiEnter p) s = .next (setPort p { portOf s p with lpi := true } s)) ∧
    ((portOf s p).lpi = true → (portEmpty s p = false ∨ wakeAhead s p (fld (rd s .ETH_EEE_CFG 0 p) 31 24 * 1000) = true) →
      exec (.eeeLpiExit p) s = .next (setPort p { portOf s p with
        lpi := false, lpiReady := s.time.now + BitVec.ofNat 64 (fld (rd s .ETH_EEE_CFG 0 p) 31 24 * 1000) } s))) ∧
  (∀ (s : State) (p : Fin 4) (late : Bool) (x : Leaving), running s = true →
    let q := 12 + p.val
    let k := portOf s q
    let csma := fld (rd s .ETH_PLCA_CFG 0 q) 7 0 = 255
    let n := 1 + (if k.retry.map (·.1) = some x.flight then (k.retry.map (·.2)).getD 0 else 0)
    k.leaving = some x → csma →
      ((x.bad = true ∨ late = true ∨ 16 ≤ n) → exec (.collision p late) s =
        .next (noteEmpty q (serveDest x.flight (.eth q) (setPort q { k with leaving := none, retry := none, opp := none } (count32 .ETH_TX_COLL 0 q s))))) ∧
      (x.bad = false → late = false → n < 16 → exec (.collision p late) s =
        .next (setEgress (q * 8 + x.cls) { egressOf s (q * 8 + x.cls) with waiting := x.flight :: (egressOf s (q * 8 + x.cls)).waiting }
          (setPort q { k with leaving := none, retry := some (x.flight, n), opp := none } s))))

/-- A write of CAN_CTRL to an OFF channel stores all its fields and starts or leaves the channel; in another state the option
fields stay, and a change of them sets cfg_err. A write of recover, or one that leaves auto_recover set, to a bus-off channel
starts the recovery, whose end makes it error-active with zero error counters. A starting channel that has integrated is ON
with its bus awake; a stopping one with no attempt left frees its frames as discarded and is OFF. A read of the transmit log
or of the high-priority buffer pops its oldest entry, and returns 0 from an empty one. (R205; R206; R211; R223; R225; R455) -/
def Obligations.CanChannelControl : Prop :=
  (∀ (s : State) (m : Fin 64) (v : W32), writes m .CAN_CTRL s →
    let c := chanOf .CAN_CTRL m s
    (isOff s .CAN_STAT c = true → errOf s c ≠ 2 →
      let u := fbWrite .CAN_STAT c (bit v 0) (wr .CAN_CTRL 0 c (v &&& 0x1DFF) s)
      errOf u c ≠ 2 →
      (bit v 0 = true → exec (.channelEnable m v) s = .next u) ∧ (bit v 0 = false → exec (.channelDisable m v) s = .next u)) ∧
    (isOff s .CAN_STAT c = false → (rd s .CAN_CTRL 0 c ^^^ v) &&& 0xF8 ≠ 0 → bit v 8 = false → bit v 9 = false → bit v 0 = false →
      exec (.channelDisable m v) s = .next (fbWrite .CAN_STAT c false (setB .CAN_STAT 0 c 0x100
        (wr .CAN_CTRL 0 c ((v &&& 0x1D07) ||| (rd s .CAN_CTRL 0 c &&& 0xF8)) s)))) ∧
    (bit v 9 = true → exec (.busOffRecover m v) s = .next (canCtrlWrite c v s)) ∧
    (∀ u, (bit v 8 = true ∨ bit v 9 = true) → isOff s .CAN_STAT c = false → (rd s .CAN_CTRL 0 c ^^^ v) &&& 0xF8 = 0 →
      u = fbWrite .CAN_STAT c (bit v 0) (wr .CAN_CTRL 0 c ((v &&& 0x1D07) ||| (rd s .CAN_CTRL 0 c &&& 0xF8)) s) →
      errOf u c = 2 → canCtrlWrite c v s = setF .CAN_STAT 0 c 5 4 3 u)) ∧
  (∀ (s : State) (c : Fin 32),
    (running s = true → errOf s c = 3 →
      exec (.recoveryDone c) s = .next (canCause c 2 (setF .CAN_STAT 0 c 5 4 0 (setCh c { chOf s c with tec := 0, recv := 0 } s)))) ∧
    (running s = true → fbState (fbOf s .CAN_STAT c) = 1 →
      exec (.channelIntegrated c) s = .next (canSettle c (setBus c 0 (fbPut .CAN_STAT c (fbStarted (fbOf s .CAN_STAT c)) s)))) ∧
    (fbState (fbOf s .CAN_STAT c) = 3 → (chOf s c).attempt = none →
      let u := ((chOf s c).fifo ++ (chOf s c).hold).foldl (fun s e => txFree c false 5 e s) s
      exec (.channelStopped c) s = .next (setBus c 0 (fbPut .CAN_STAT c (fbStopped (fbOf u .CAN_STAT c))
        (setCh c { chOf u c with fifo := [], hold := [], wakeStep := 0 } u))))) ∧
  (∀ (s : State) (m : Fin 64),
    (reads m .CAN_TX_LOG s → let c := chanOf .CAN_TX_LOG m s
      ((chOf s c).log = [] → exec (.txLogPop m) s = .next (reply m 0 s)) ∧
      (∀ slot st tag stamp r, (chOf s c).log = (slot, st, tag, stamp) :: r → exec (.txLogPop m) s = .next (reply m
        (BitVec.ofNat 32 (2 ^ 31 + ofBool slot * 2 ^ 30 + st.toNat * 2 ^ 16 + tag.toNat))
        (wr .CAN_TX_LOG_STAMP 0 (c * 64 + m) stamp (setCh c { chOf s c with log := r } s))))) ∧
    (reads m .CAN_HPB_POP s → let c := chanOf .CAN_HPB_POP m s
      ((chOf s c).hpb = [] → exec (.hpbPop m) s = .next (reply m 0 s)) ∧
      (∀ l stamp r, (chOf s c).hpb = (l, stamp) :: r → ∃ t,
        exec (.hpbPop m) s = .next (reply m (BitVec.ofNat 32 (2 ^ 31 + r.length)) t) ∧ t = { s with regs := t.regs, can := t.can } ∧
        (chOf t c).hpb = r ∧ rd t .CAN_HPB_STAMP 0 (c * 64 + m) = stamp)))

/-- A frame for a channel is dropped and counted as arriving at a channel that is not ON, as bad, at a full FIFO of 32, or at a
full hold list of an unawake bus; otherwise it joins the end of the FIFO, or the hold list. An attempt takes the scheduled
slot before the head of the FIFO. A sent attempt counts CAN_TX_OK, lowers the error counter, and its entry leaves; lost
arbitration leaves the entry in place; an error raises the error counter by 8, but for the acknowledgement and stuff errors
that ISO 11898-1 excepts, and by 8 more for each eight dominant bits after the error flag; three bit errors in a row are an
identifier collision. A scheduled frame takes its slot at its instant, and an unsent one there is logged as removed and counts
as missed. (00 R2; R207; R219; R220; R221; R222; R224; R225; R228; R231) -/
def Obligations.CanTransmission : Prop :=
  (∀ (s : State) (c : Fin 32) (l : List Byte) (cls : Fin 8), running s = true →
    let k := chOf s c
    (isOn s .CAN_STAT c = false → exec (.canTxArrive c l cls) s = .next (count32 .CAN_TX_OFF_DROP 0 c s)) ∧
    (isOn s .CAN_STAT c = true → recBad s c l = true → exec (.canTxArrive c l cls) s = .next (canCause c 7 (count32 .CAN_TX_BAD 0 c s))) ∧
    (recBad s c l = false → isOn s .CAN_STAT c = true →
      (busOf s c = 0 → 32 ≤ k.fifo.length → exec (.canTxArrive c l cls) s = .next (canCause c 5 (count32 .CAN_TX_FULL_DROP 0 c s))) ∧
      (busOf s c ≠ 0 → holdMax s c ≤ k.hold.length →
        exec (.canTxArrive c l cls) s = .next (canCause c 6 (count32 .CAN_HOLD_DROP 0 c s))) ∧
      (let u := (ensureFlight c l cls none s).2
       let e : CanTx := ⟨l, (chOf u c).nextTag, u.time.now, cls, 0, (ensureFlight c l cls none s).1⟩
       let k' := { chOf u c with nextTag := (chOf u c).nextTag + 1 }
       (busOf s c = 0 → k.fifo.length < 32 →
         exec (.canTxArrive c l cls) s = .next (setFifo c (k'.fifo ++ [e]) (setCh c k' u))) ∧
       (busOf s c ≠ 0 → k.hold.length < holdMax s c →
         exec (.canTxArrive c l cls) s = .next (canSettle c (setCh c { k' with hold := k'.hold ++ [e] } u)))))) ∧
  (∀ (s : State) (c : Fin 32) (stamp : W64), canStart s c = true →
    let k := chOf s c
    let sof := BitVec.ofNat 32 stamp.toNat
    (∀ e, k.sched = some e → exec (.canTxAttempt c stamp) s =
      .next (setCh c { k with sched := some { e with lastSof := sof }, attempt := some ⟨true, stamp, false, false, []⟩ } s)) ∧
    (∀ e r, k.sched = none → k.fifo = e :: r → exec (.canTxAttempt c stamp) s =
      .next (setCh c { k with fifo := { e with lastSof := sof } :: r, attempt := some ⟨false, stamp, false, false, []⟩ } s))) ∧
  (∀ (s : State) (c n : Fin 32) (a : Attempt) (e : CanTx) (r : List CanTx), let k := chOf s c
    k.attempt = some a → a.slot = false → a.cancelled = false → k.fifo = e :: r →
    let u := cmdDone c a.askers (setCh c { k with attempt := none } s)
    let fails (run adds : Nat) : State :=
      let x := confine c (setCh c { chOf u c with tec := (chOf u c).tec + (adds + 8 * n), idColRun := run } (count32 .CAN_TX_ERR 0 c u))
      canSettle c (if 3 ≤ (chOf x c).idColRun then idCollision c e.record x else x)
    (let v := say (.can c (onBus u c e.record)) (count32 .CAN_TX_OK 0 c u)
     exec (.canAttemptEnd c ⟨.sent, n⟩) s = .next (canSettle c (frameLeave c false 0 (confine c
       (setCh c { chOf v c with tec := (chOf v c).tec - 1, idColRun := 0, lastFrame := v.time.now } v))))) ∧
    exec (.canAttemptEnd c ⟨.arbLost, n⟩) s = .next (canSettle c (count32 .CAN_ARB_LOST 0 c u)) ∧
    exec (.canAttemptEnd c ⟨.bitErr, n⟩) s = .next (fails ((chOf u c).idColRun + 1) 8) ∧
    exec (.canAttemptEnd c ⟨.otherErr, n⟩) s = .next (fails 0 8) ∧
    (∀ d, exec (.canAttemptEnd c ⟨(.ackErr d), n⟩) s = .next (fails 0 (if errOf u c = 1 ∧ d = false then 0 else 8))) ∧
    (∀ b, exec (.canAttemptEnd c ⟨(.stuffErr b), n⟩) s = .next (fails 0 (if b then 0 else 8)))) ∧
  (∀ (s : State) (c st : Nat) (e : CanTx) (r : List CanTx), (chOf s c).fifo = e :: r →
    frameLeave c false st s = txFree c false st e (setFifo c r s)) ∧
  (∀ (s : State) (c : Fin 32) (l : List Byte) (t : W64), let k := chOf s c
    k.release = some (l, t) → running s = true →
    (now s < t.toNat → exec (.scheduledSlotRelease c) s = .next s) ∧
    (t.toNat ≤ now s →
      let u := setCh c { k with release := none } s
      let e : CanTx := ⟨l, 0, s.time.now, 0, 0, 0⟩
      (k.sched = none → exec (.scheduledSlotRelease c) s = .next (setCh c { chOf u c with sched := some e } u)) ∧
      (∀ old, k.sched = some old →
        let v := canCause c 10 (count32 .CAN_SYNC_MISS 0 c (txLog c true 1 old u))
        exec (.scheduledSlotRelease c) s =
          .next (setCh c { chOf v c with sched := some e, attempt := (chOf v c).attempt.filter fun a => !a.slot } v))))

/-- A channel that hears its bus counts a received frame, lowers its receive error counter, and gives it to its filter: the lowest
matching element drops it, routes it, sends it to its queue or puts it into the high-priority buffer; without one CAN_RX_DEF
decides. The buffer takes four frames of up to 64 data bytes. The router counts a miss, and for a route the hit; a frame above
the route's rate limit in the window of its stamp or of a quarantined route is counted and dropped. Errors seen in reception
count, protocol exceptions apart, and raise the receive error counter by 1, and by 8 for the dominant bits after the error
flag. (00 R2; R209; R210; R211; R212; R214; R215; 06 R170; 06 R171) -/
def Obligations.CanReception : Prop :=
  (∀ (s : State) (c : Fin 32) (l : List Byte) (stamp : W64), running s = true →
    (canHears s c = true → canFmt l ≠ 3 → fmtEnabled s c (canFmt l) = true → l.length = 16 + canLen l →
      canLenOk (canFmt l) (canLen l) = true →
      exec (.canRxFrame c l stamp) s = .next (canFilter c (rxRecord c l) stamp (confine c
        (setCh c { chOf s c with recv := min 127 ((chOf s c).recv - 1), lastFrame := s.time.now } (count32 .CAN_RX_OK 0 c s))))) ∧
    (canHears s c = false → exec (.canRxFrame c l stamp) s = .next s) ∧
    exec (.canRouterFrame c l stamp) s = .next (canRoute c l stamp s) ∧
    (2 ≤ fbState (fbOf s .CAN_STAT c) → errOf s c < 2 →
      ∀ n : Fin 32, exec (.canRxError c ⟨true, n⟩) s = .next (canCause c 8 (count32 .CAN_PEXC 0 c s)) ∧
      exec (.canRxError c ⟨false, n⟩) s =
        .next (confine c (setCh c { chOf s c with recv := (chOf s c).recv + 1 + 8 * n } (count32 .CAN_RX_ERR 0 c s))))) ∧
  (∀ (s : State) (c : Nat) (l : List Byte) (stamp : W64),
    let hit (e : List W32) : Bool := (decide (fld (wordAt e 1) 31 29 = 0) || bit (wordAt e 1) (29 + canFmt l)) && idHit e l
    let el := findEntry s 9 (c * 128) 128 hit
    (∀ i e, el = some (i, e) →
      (fld (wordAt e 2) 1 0 = 0 → canFilter c l stamp s = count32 .CAN_RX_DROP 0 c s) ∧
      (fld (wordAt e 2) 1 0 = 1 → canFilter c l stamp s = canRoute c l stamp s) ∧
      (fld (wordAt e 2) 1 0 = 2 → canFilter c l stamp s = canEnter c l stamp [.queue (fld (wordAt e 2) 15 4)] s) ∧
      (fld (wordAt e 2) 1 0 = 3 → canFilter c l stamp s = hpbPut c l stamp s)) ∧
    (el = none → canFilter c l stamp s =
      if bit (rd s .CAN_RX_DEF 0 c) 0 then canEnter c l stamp [.queue (fld (rd s .CAN_RX_DEF 0 c) 15 4)] s else count32 .CAN_RX_DROP 0 c s) ∧
    ((4 ≤ (chOf s c).hpb.length ∨ 64 < canLen l) → hpbPut c l stamp s = canCause c 9 (count32 .CAN_HPB_OVF 0 c s)) ∧
    ((chOf s c).hpb.length < 4 → canLen l ≤ 64 → hpbPut c l stamp s =
      raise (129 + 2 * c) (setCh c { chOf s c with hpb := (chOf s c).hpb ++ [(l, BitVec.ofNat 32 stamp.toNat)] } s)) ∧
    (routeOf s c l = none → canRoute c l stamp s = count32 .CAN_RT_MISS 0 c s) ∧
    (∀ k e, routeOf s c l = some (k, e) →
      let t := { s with can := { s.can with rtHit := rtBump s.can.rtHit k } }
      (fld (wordAt e 5) 7 0 = 0 → bit (wordAt e 2) 17 = true →
        canRoute c l stamp s = { t with can := { t.can with rtQuar := rtBump t.can.rtQuar k } }) ∧
      (fld (wordAt e 5) 7 0 = 0 → bit (wordAt e 2) 17 = false → canRoute c l stamp s = routeCopies c e (rewrite e l) stamp t) ∧
      (fld (wordAt e 5) 7 0 ≠ 0 → (rtWindow t k e stamp).2 < fld (wordAt e 5) 7 0 → bit (wordAt e 2) 17 = false →
        canRoute c l stamp s = routeCopies c e (rewrite e l) stamp
          (rtPass k (rtWindow t k e stamp).1 (fld (wordAt e 5) 31 16 * 1000) ((rtWindow t k e stamp).2 + 1) t)) ∧
      (fld (wordAt e 5) 7 0 ≠ 0 → fld (wordAt e 5) 7 0 ≤ (rtWindow t k e stamp).2 →
        canRoute c l stamp s = fabEvent (83 + c / 16) { t with can := { t.can with rtRate := rtBump t.can.rtRate k } })))

/-- A cancellation answers EMPTY when neither the slot nor the FIFO has a frame, NOT_FOUND for an unknown tag; the head without an
attempt, or one whose first identifier bit is not sampled yet, leaves with CANCELLED, or goes to the end with requeue, the
slot's frame being the head when it would make the next attempt (the model's reading, log 57); later the attempt ends first. A
sleep request of an ON channel drains the bus, a wake request wakes an asleep one: its settle time, the wake-up pattern of
three phases, integration, AWAKE. A held frame that waits too long is dropped and counted. The detectors of a channel that is
asleep latch the cause, and wake the bus, or outside RUN the device. (R226; R227; R230; R231; R232; R233; 08 Table 8.7; 08
Table 8.9) -/
def Obligations.CanSleepWakeAndCancel : Prop :=
  (∀ (s : State) (m : Fin 64) (tag : Byte), writes m .CAN_TX_CMD s →
    let c := chanOf .CAN_TX_CMD m s
    let k := chOf s c
    exec (.cancelByTag m tag) s = .next (cancelTag c m tag s) ∧ exec (.headAbort m) s = .next (cancelHead c m false s) ∧
    exec (.headAbortRequeue m) s = .next (cancelHead c m true s) ∧
    (k.fifo = [] → headIsSlot k = false → cancelHead c m false s = cmdStat c m 4 s ∧ cancelHead c m true s = cmdStat c m 4 s) ∧
    ((∀ e ∈ k.fifo, e.tag ≠ tag) → (∀ e ∈ k.hold, e.tag ≠ tag) → (headIsSlot k = false ∨ tag ≠ 0) → cancelTag c m tag s = cmdStat c m 3 s) ∧
    (∀ e r, k.fifo = e :: r →
      (k.attempt = none → k.sched = none →
        cancelHead c m false s = canSettle c (cmdStat c m 2 (txFree c false 1 e (setFifo c r s))) ∧
        cancelHead c m true s = canSettle c (cmdStat c m 2 (txLog c false 4 e (setFifo c (r ++ [e]) s)))) ∧
      (∀ a requeue, k.attempt = some a → a.slot = false → firstSample s c ≤ (s.time.now - a.sof).toNat * 1000 →
        cancelHead c m requeue s = cmdStat c m 1 (setCh c
          { k with attempt := some { a with cancelled := true, requeue := requeue, askers := m :: a.askers } } s))) ∧
    (∀ e, k.attempt = none → k.sched = some e →
      cancelHead c m false s = canSettle c (cmdStat c m 2 (txLog c true 1 e (setCh c { k with sched := none } s))))) ∧
  (∀ (s : State) (m : Fin 64) (v : W32), writes m .CAN_SLEEP s →
    let c := chanOf .CAN_SLEEP m s
    let u := plainWrite .CAN_SLEEP 0 c v s
    (fld v 1 0 = 1 → isOn u .CAN_STAT c = true →
      (busOf u c = 0 → exec (.busSleepRequest m v) s = .next (canSettle c (setBus c 1 u))) ∧
      (busOf u c = 3 → exec (.busSleepRequest m v) s = .next (setB .CAN_SLEEP 0 c 0x10 u))) ∧
    (fld v 1 0 = 2 → isOn u .CAN_STAT c = true →
      (busOf u c = 1 → exec (.busWakeRequest m v) s = .next (canSettle c (setBus c 0 u))) ∧
      (busOf u c = 2 → exec (.busWakeRequest m v) s = .next (wakeBegin c u)) ∧
      (busOf u c = 3 → exec (.busWakeRequest m v) s = .next (clrB .CAN_SLEEP 0 c 0x10 u)))) ∧
  (∀ (s : State) (c : Fin 32) (e : CanTx) (r : List CanTx), (chOf s c).hold = e :: r → holdDue s c = true →
    exec (.holdExpired c) s = .next (canCause c 6 (count32 .CAN_HOLD_DROP 0 c (txFree c false 6 e (setCh c { chOf s c with hold := r } s))))) ∧
  (∀ (s : State) (c : Fin 32), running s = true → busOf s c = 3 → (chOf s c).wakeAt.toNat ≤ now s →
    let k := chOf s c
    let wup := max 1 (fld (rd s .CAN_WAKE_TIM 0 c) 19 12)
    (k.wakeStep = 1 → k.wakeLocal = false → exec (.wakeSettleExpired c) s =
      .next (say (.canWup c) (setCh c { k with wakeStep := 2, wakeAt := k.wakeAt + BitVec.ofNat 64 (3 * wup * 1000) } s))) ∧
    (k.wakeStep = 1 → k.wakeLocal = true → exec (.wakeSettleExpired c) s = .next (setCh c { k with wakeStep := 3 } s)) ∧
    (k.wakeStep = 2 → exec (.wakeUpPatternSent c) s = .next (setCh c { k with wakeStep := 3 } s))) ∧
  (∀ (s : State) (c : Fin 8) (fr : WakeFrame), canWatches s c = true →
    (bit (rd s .CAN_WAKE_CFG 0 c) 0 = true → exec (.wakeUpPatternDetect c) s = .next (canDetected c 1 0 s)) ∧
    (bit (rd s .CAN_WAKE_CFG 0 c) 1 = true → ∀ k, (List.range 8).find? (fun k => wufMatch s c k fr) = some k →
      exec (.wakeUpFrameMatch c fr) s =
        .next (canDetected c 2 k (wr .CAN_WAKE_ID 0 c (BitVec.ofNat 32 (fr.id.toNat + ofBool fr.ide * 2 ^ 29)) s))))

/-- A write of STAR_CTRL to an OFF star stores all its fields, else only en, and a change of another field then sets cfg_err; it
starts or stops the star, and ends a commit armed for a matrix cycle unless the star then runs in ON. A started star of a pair
claims, another waits for its start. The claim decision picks the role: equal star IDs are a conflict, at which also a running
star ends its run, with the link down the star waits alone or refuses, a running peer or one with the lower ID is the primary.
A reference copy of the primary lets an aligning secondary take its clock, and a running one hold its offset and follow its
switches. With the link down a secondary is alone, and claims anew if it does not run yet. A stopped star ends its run at the
end of a basic cycle. A mode switch is refused, or announced for its matrix cycle. (R253; R254; R255; R260; R261; R262; R455;
02 R42) -/
def Obligations.StarControl : Prop :=
  (∀ (s : State) (m : Fin 64) (v : W32), writes m .STAR_CTRL s →
    let old := rd s .STAR_CTRL 0 0
    let w := v &&& 0xFFFF
    let u := wr .STAR_CTRL 0 0 ((old &&& ~~~1) ||| (w &&& 1)) s
    let fin (t : State) : State := if starOnRunning t then t else runCommitEnd t
    (isOff s .STAR_STAT 0 = true → (bit v 0 = true → exec (.starEnable m v) s = .next (fin (fbWrite .STAR_STAT 0 true (wr .STAR_CTRL 0 0 w s)))) ∧
      (bit v 0 = false → exec (.starDisable m v) s = .next (fin (fbWrite .STAR_STAT 0 false (wr .STAR_CTRL 0 0 w s))))) ∧
    (isOff s .STAR_STAT 0 = false → (old &&& ~~~1) = (w &&& ~~~1) → bit v 0 = false → exec (.starDisable m v) s = .next (fin (fbWrite .STAR_STAT 0 false u))) ∧
    (isOff s .STAR_STAT 0 = false → (old &&& ~~~1) ≠ (w &&& ~~~1) → bit v 0 = true →
      exec (.starEnable m v) s = .next (fin (fbWrite .STAR_STAT 0 true (setB .STAR_STAT 0 0 0x40000 u))))) ∧
  (∀ s : State, running s = true → fbState (fbOf s .STAR_STAT 0) = 1 →
    let u := fbPut .STAR_STAT 0 (fbStarted (fbOf s .STAR_STAT 0)) s
    (isOn u .STAR_STAT 0 = true → starCtl u 1 = true →
      exec .starStarted s = .next (setPhase 1 (setStar { u.star with claimSince := u.time.now, peer := none, wakeSent := false } u))) ∧
    (isOn u .STAR_STAT 0 = true → starCtl u 1 = false →
      exec .starStarted s = .next (setPhase 3 (setStar { u.star with waitSince := u.time.now, wakeSent := false } u))) ∧
    (isOn u .STAR_STAT 0 = false → exec .starStarted s = .next u)) ∧
  (∀ s : State, running s = true → fbState (fbOf s .STAR_STAT 0) = 3 → (starRunning s = false ∨ tBc s + bcLen s ≤ now s) →
    exec .starStopped s = .next (fbPut .STAR_STAT 0 (fbStopped (fbOf s .STAR_STAT 0)) (runEnd s))) ∧
  (∀ (s : State) (m : Fin 64) (v : W32), writes m .STAR_MODE_REQ s → bit v 31 = true →
    let u := wr .STAR_MODE_REQ 0 0 (v &&& 7) s
    let g := fld v 2 0
    let n := rd u .STAR_MC_NUM 0 0
    let k := rd u .STAR_MODE_TARGET 0 0
    let no := starOnRunning u = false ∨ inRestart u = true ∨ u.star.swLive = true ∨ modeValid u g = false ∨ g = curMode u ∨
      (k ≠ 0 ∧ k.toNat < n.toNat + 3)
    (no → exec (.modeSwitchRequest m v) s = .next (setF .STAR_MODE_STAT 0 0 2 0 5 u)) ∧
    (¬ no → exec (.modeSwitchRequest m v) s = .next (setModeStat 1 g (wr .STAR_ACK 0 0 0 (setStar
      { u.star with swLive := true, swMode := g, swTarget := if k = 0 then n + 3 else k, lastReq := some n } u))))) ∧
  (∀ s : State, running s = true →
    exec .islUp s = .next (setB .STAR_STAT 0 0 0x20000 s) ∧
    (bit (rd s .STAR_STAT 0 0) 17 = true →
      let u := raise 221 (clrB .STAR_STAT 0 0 0x20000 s)
      let v := setF .STAR_STAT 0 0 9 8 0 u
      (roleOf u ≠ 2 → exec .islDown s = .next u) ∧ (roleOf u = 2 → runPhase v ≠ 2 → exec .islDown s = .next v) ∧
      (roleOf u = 2 → runPhase v = 2 → exec .islDown s = .next (claimBegin (setStar { v.star with align := none } v)))) ∧
    (claiming s = true → exec .claimSend s = .next (say (.star 24 (claimFrame s) s.time.now) s)) ∧
    (∀ (id : Fin 16) (run : Bool) (mc : W32) (t : W64), isOn s .STAR_STAT 0 = true → starCtl s 1 = true →
      let w := count32 .STAR_BR_RX_OK 0 24 s
      let u := setF .STAR_ID 0 0 12 12 1 (setF .STAR_ID 0 0 11 8 id (setStar { w.star with peer := some (BitVec.ofNat 4 id, run, mc, t) } w))
      (¬ (starRunning u = true ∧ id = starId u) → exec (.claimFrameRx id run mc t) s = .next u) ∧
      (starRunning u = true → id = starId u → exec (.claimFrameRx id run mc t) s = .next (idConflict u))) ∧
    (∀ (d : Nat) (t : W64) (mc : W32) (x : RefCopy) (t0 : W64), isOn s .STAR_STAT 0 = true → roleOf s = 2 →
      let u := count32 .STAR_BR_RX_OK 0 24 (wr .STAR_BR_DELAY 0 24 (BitVec.ofNat 32 (d % 4096 + 0x8000)) s)
      let ofs : Int := ((now u : Int) - d) - tBc u
      let near : Int := if 2 * ofs ≤ bcLen u then ofs else ofs - bcLen u
      let v := wr .STAR_ISL_OFS 0 0 (BitVec.ofInt 32 (max (-(2 ^ 31)) (min (2 ^ 31 - 1) near))) u
      (runPhase u = 2 → exec (.secondaryAlign d t mc x t0) s =
        .next (setTime { u.time with now := t + BitVec.ofNat 64 d } (setStar { u.star with align := some (mc, x.mode.val, t0) } u))) ∧
      (starRunning u = true →
        (x.sw = 0 → exec (.secondaryAlign d t mc x t0) s = .next v) ∧
        (x.sw = 1 → v.star.swLive = true → exec (.secondaryAlign d t mc x t0) s =
          .next (setModeStat 2 x.swMode (setStar { v.star with swLive := true, swMode := x.swMode, swTarget := x.target } v))) ∧
        (x.sw = 2 → exec (.secondaryAlign d t mc x t0) s =
          .next (setModeStat 3 x.swMode (setStar { v.star with swLive := false, committed := some (x.swMode.val, x.target) } v))) ∧
        (x.sw = 3 → exec (.secondaryAlign d t mc x t0) s =
          .next (raise 219 (setModeStat 4 x.swMode (setStar { v.star with swLive := false, committed := none } v))))))) ∧
  (∀ s : State, running s = true → isOn s .STAR_STAT 0 = true → (runPhase s = 1 ∨ runPhase s = 5) → bit (rd s .STAR_STAT 0 0) 16 = false →
    s.star.claimSince.toNat + max 1 (fld (rd s .STAR_CLAIM_CFG 0 0) 7 0) * 1000000 ≤ now s →
    let up := bit (rd s .STAR_STAT 0 0) 17
    let again := setStar { s.star with claimSince := s.time.now } s
    (∀ id run mc t, s.star.peer = some (id, run, mc, t) →
      (id.toNat = starId s → exec .claimDecision s = .next (idConflict s)) ∧
      (id.toNat ≠ starId s → up = true → (run = true ∨ id.toNat < starId s) → exec .claimDecision s = .next (setPhase 2 (setF .STAR_STAT 0 0 9 8 2 s))) ∧
      (up = true → run = false → starId s < id.toNat → exec .claimDecision s = .next (waitStart (setF .STAR_STAT 0 0 9 8 1 s))) ∧
      (id.toNat ≠ starId s → up = false → starCtl s 2 = true → exec .claimDecision s = .next (waitStart (setF .STAR_STAT 0 0 9 8 0 s))) ∧
      (id.toNat ≠ starId s → up = false → starCtl s 2 = false → exec .claimDecision s = .next (setPhase 5 again))) ∧
    (s.star.peer = none → up = true → exec .claimDecision s = .next again) ∧
    (s.star.peer = none → up = false → starCtl s 2 = true → exec .claimDecision s = .next (waitStart (setF .STAR_STAT 0 0 9 8 0 s))) ∧
    (s.star.peer = none → up = false → starCtl s 2 = false → exec .claimDecision s = .next (setPhase 5 again))) ∧
  (∀ s : State, (starRunning s = false → idConflict s = raise 220 (setB .STAR_STAT 0 0 0x10000 (setPhase 1 s))) ∧
    (starRunning s = true → idConflict s = raise 220 (setB .STAR_STAT 0 0 0x10000 (setPhase 1 (runEnd s)))))

/-- A due run, its wake patterns sent, begins with basic cycle 0 of its matrix cycle in its mode, with the schedule latched and
every branch begun. A basic-cycle start makes the arbitration decisions still open, takes the changes that are due, moves T_bc
on by the basic-cycle length, and at a matrix-cycle start first switches the sets, then the mode of a COMMIT, then latches the
schedule. The reference frame of the next basic cycle leaves on a branch at T_bc less its delay, and of the current one at
T_bc on the link of a pair whose star is no secondary. The Equinox fires source 216, starts the pins and schedules the CAN
frames; an input edge inside the guard time is rejected. A wake pattern on B0 to B3 sets its status bit. (R238; R253; R255;
R256; R257; R258; R259; R264; 03 R85; 03 R86) -/
def Obligations.StarCycles : Prop :=
  (∀ s : State, running s = true → isOn s .STAR_STAT 0 = true →
    (∀ m mc, runDue s = some (m, mc) →
      let x := wakeBranches s
      let u := setStar { x.star with latch := libMode x m, tbc := x.time.now, absBc := 0, branches := [], slots := [], snaps := [], snapped := [], swLive := false, committed := none, refFrame := none, align := none, arb := [], arbDone := [], eqxDone := false, eqxSeen := false } x
      exec .runStart s = .next (islCopy (matrixStart (allBranches.foldl brBegin (wr .STAR_MODE_STAT 0 0 0 (wr .STAR_ACK 0 0 0
        (wr .STAR_BC 0 0 0 (wr .STAR_MC_NUM 0 0 mc (setF .STAR_STAT 0 0 14 12 m (setPhase 4 u)))))))))) ∧
    (starRunning s = true → bcLen s ≠ 0 → tBc s + bcLen s ≤ now s →
      let a := s.star.absBc + 1
      let v := ensureRef a (arbSettle true s)
      let bc := (bcNum v + 1) % 64
      let u := allBranches.foldl brAtBc v
      let w := wr .STAR_BC 0 0 (BitVec.ofNat 32 bc) (setStar { u.star with tbc := u.star.tbc + BitVec.ofNat 64 (bcLen u), absBc := a, snaps := [], snapped := [], arb := [], arbDone := [], eqxDone := false } u)
      let mc := rd w .STAR_MC_NUM 0 0 + 1
      let x := solstice (wr .STAR_MC_NUM 0 0 mc w)
      let latched (y : State) : State := if modeValid y (curMode y) then setStar { y.star with latch := libMode y (curMode y) } y else y
      let y := setStar { x.star with committed := none } x
      (bc ≠ 0 → exec .basicCycleStart s = .next (islCopy w)) ∧
      (bc = 0 → x.star.committed.map (·.2) ≠ some mc → exec .basicCycleStart s = .next (islCopy (matrixStart (latched x)))) ∧
      (bc = 0 → x.star.committed.map (·.2) = some mc →
        (modeValid y (modeFor x mc) = true →
          exec .basicCycleStart s = .next (islCopy (matrixStart (latched (raise 218 (setF .STAR_STAT 0 0 14 12 (modeFor x mc) y)))))) ∧
        (modeValid y (modeFor x mc) = false → exec .basicCycleStart s = .next (islCopy (matrixStart (latched (raise 219 y)))))))) ∧
  (∀ (s : State) (n : Fin 24) (l : List Byte), running s = true → starRunning s = true →
    let a := s.star.absBc + 1
    (isOn s .STAR_STAT 0 = true → (brPlan s n).1 ≠ 0 → tBc s + bcLen s ≤ now s + (brPlan s n).2 →
      exec (.referenceFrameSend n) s = .next (sendRef a n (tBc s + bcLen s - (brPlan s n).2) s) ∧
      ((brOf s n).refBc ≤ a → s.star.refFrame = some (a, l) → exec (.referenceFrameSend n) s =
        .next (say (.star n l (BitVec.ofNat 64 (tBc s + bcLen s - (brPlan s n).2))) (setBr n { brOf s n with refBc := a + 1 } s))) ∧
      (a < (brOf s n).refBc → exec (.referenceFrameSend n) s = .next s))) ∧
  (∀ (s : State) (l : List Byte), let on := starCtl s 1 = true ∧ bit (rd s .STAR_STAT 0 0) 17 = true ∧ roleOf s ≠ 2
    (on → s.star.refFrame = some (s.star.absBc, l) → islCopy s = say (.star 24 l s.star.tbc) s) ∧ (¬ on → islCopy s = s)) ∧
  (∀ s : State, running s = true → eqxDue s = true →
    let t := tBc s + fld (hdrW s 1) 23 0
    let u := raise 216 (wr64 .STAR_EQX_LAST_LO .STAR_EQX_LAST_HI 0 0 t (setStar { s.star with eqxDone := true, eqxSeen := true } s))
    let v := [0, 1, 2, 3].foldl (fun s k =>
      if bit (rd s .TIME_EQXOUT_CFG k 0) 0 && fld (rd s .TIME_EQXOUT_CFG k 0) 31 16 = 0 then eqxPinStart k (BitVec.ofNat 64 t) s else s) u
    (bit (rd v .STAR_EQX_CANID 0 0) 31 = false → exec .equinox s = .next v) ∧
    (bit (rd v .STAR_EQX_CANID 0 0) 31 = true → exec .equinox s =
      .next ((List.range 32).foldl (fun s c => if bit (rd s .STAR_EQX_CAN 0 0) c then eqxFrame c t s else s) v))) ∧
  (∀ (s : State) (c t : Nat),
    (isOn s .CAN_STAT c = true → busOf s c = 0 → eqxFrame c t s = setCh c { chOf s c with release := some (leBytes 4 (fld (rd s .STAR_EQX_CANID 0 0) 29 0) ++
      leBytes 4 (c + 8 * 2 ^ 16 + 8 * 2 ^ 28) ++ List.replicate 8 0 ++ beBytes 8 t, s.time.now) } s) ∧
    (isOn s .CAN_STAT c = false ∨ busOf s c ≠ 0 → eqxFrame c t s = count32 .CAN_SYNC_SKIP 0 c s)) ∧
  (∀ (s : State) (stamp : W64), running s = true → bit (rd s .TIME_CTRL 0 0) 3 = true →
    let ok := guardPassed s.time.eqxLast (fld (rd s .TIME_PPSIN_GUARD 0 0) 19 10) stamp
    let u := raise 319 (wr64 .TIME_EQXIN_LO .TIME_EQXIN_HI 0 0 stamp.toNat (setTime { s.time with eqxLast := some stamp } s))
    (ok = false → exec (.eqxInEdge stamp) s = .next (pinReject s)) ∧
    (ok = true → starCtl u 6 = false → exec (.eqxInEdge stamp) s = .next u)) ∧
  (∀ (s : State) (n : Fin 4), isOff s .STAR_STAT 0 = true → bit (rd s .STAR_WAKE_CFG 0 0) n = true →
    let u := setB .STAR_WAKE_STAT 0 0 (oneBit n) s
    (running u = true → s.pwr.st ≠ .off → exec (.starWakePattern n) s = .next (brCause n 5 u)) ∧
    (running u = false → s.pwr.st ≠ .off → exec (.starWakePattern n) s = .next u))

/-- While the star runs, an enable takes an OFF branch to LISTEN, or to ISOLATED where its quarantine stands, with its delay
invalid, a quarantine isolates it at once, and a cleared quarantine, a readmission and a new measurement are due at the next
T_bc. The guardian of a branch is open inside its windows. A frame outside all of them is a violation, counted once a basic
cycle; in its exclusive window one that lasts too long, or carries another slot or cycle, is cut off on the other branches and
is a violation, and a right one is repeated, counted and delivered. An echo request waits for its response; a valid response
joins the measured values. (R239; R240; R246; R247; R248; R249; R250; R251) -/
def Obligations.StarBranches : Prop :=
  (∀ (s : State) (m : Fin 64) (v : W32), writes m .STAR_BR_CTRL s →
    let n := chanOf .STAR_BR_CTRL m s
    let old := rd s .STAR_BR_CTRL 0 n
    let u := plainWrite .STAR_BR_CTRL 0 n v s
    (bit v 0 = true → exec (.branchEnable m v) s = .next (starBrWrite n v s)) ∧
    (bit v 0 = false → exec (.branchDisable m v) s = .next (starBrWrite n v s)) ∧
    (bit v 2 = true → exec (.branchReadmit m v) s = .next (starBrWrite n v s)) ∧
    (bit v 3 = true → exec (.branchRemeasure m v) s = .next (starBrWrite n v s)) ∧
    (bit v 1 = true → exec (.branchQuarSet m v) s = .next (starBrWrite n v s)) ∧
    (bit v 1 = false → exec (.branchQuarClear m v) s = .next (starBrWrite n v s)) ∧
    (n < 24 → starRunning u = false → starBrWrite n v s = u) ∧
    (n < 24 → starRunning u = true → bit v 0 = bit old 0 →
      (bit v 1 = true → bit old 1 = false → bit v 2 = false → bit v 3 = false → brState u n ≠ 0 → brState u n ≠ 4 → starBrWrite n v s = isolate n u) ∧
      (bit v 1 = false → bit old 1 = true → bit v 2 = false → bit v 3 = false → brState u n = 4 → starBrWrite n v s = brDue n 1 u) ∧
      (bit v 1 = false → bit old 1 = false → bit v 2 = true → bit v 3 = false → brState u n = 4 → starBrWrite n v s = brDue n 2 u) ∧
      (bit v 1 = false → bit old 1 = false → bit v 2 = false → bit v 3 = true → (brState u n = 3 ∨ brState u n = 4) → starBrWrite n v s = brDue n 4 u)) ∧
    (n < 24 → starRunning u = true → bit v 0 = true → bit old 0 = false → bit v 2 = false → bit v 3 = false → brState u n = 0 →
      let w := wr .STAR_BR_DELAY 0 n 0 (setBr n (brJoin n u) u)
      (bit v 1 = false → bit old 1 = false → starBrWrite n v s = setBrState n 1 w) ∧
      (bit v 1 = true → bit old 1 = true → starBrWrite n v s = isolate n w))) ∧
  (∀ (s : State) (n : Fin 24), running s = true → starRunning s = true →
    (guardAt s n (now s) = true → exec (.guardianOpen n) s = .next (setBr n { brOf s n with guardOpen := true } s)) ∧
    (guardAt s n (now s) = false → exec (.guardianClose n) s = .next (setBr n { brOf s n with guardOpen := false } s)) ∧
    (∀ fr : StarRx, brState s n ≠ 0 →
      let w? := (guardWins s n).find? fun w => let (o, c, _) := guardOf s n w; o ≤ fr.start.toNat && fr.start.toNat < c
      let early := (guardWins s n).any fun w => let (o, _, _) := guardOf s n w; decide (fr.start.toNat < o) && decide (o < fr.finish.toNat)
      (w? = none → early = true → exec (.starFrameRx n fr) s = .next (violation n .STAR_BR_VIOL_EARLY s)) ∧
      (w? = none → early = false → (brOf s n).outside = false →
        exec (.starFrameRx n fr) s = .next (violation n .STAR_BR_VIOL_OUTSIDE (setBr n { brOf s n with outside := true } s))) ∧
      (∀ w, w? = some w →
        let close := (guardOf s n w).2.1
        let u := measure n fr.start.toNat (guardOf s n w).2.2 s
        (winKind u w = 2 → exec (.starFrameRx n fr) s = .next (rxArbitrating n w fr (guardOf s n w).2.2 u)) ∧
        (winKind u w ≠ 2 → exec (.starFrameRx n fr) s = .next (rxExclusive n w fr close u)))) ∧
    (echoDue s n = true → exec (.echoRequestSend n) s = .next (say (.star n (starHeader 0x3FE (bcNum s) 0 0) (BitVec.ofNat 64 (tBc s + (firstFree s).getD 0)))
      (setBr n { brOf s n with echoBc := s.star.absBc + 1, echoWait := true } s))) ∧
    (∀ (rt ta : Nat), (brState s n = 1 ∨ brState s n = 2) →
      exec (.echoResponseRx n rt ta false) s = .next (count32 .STAR_BR_RX_CRC 0 n s) ∧
      (let u := count32 .STAR_BR_RX_OK 0 n s
       let b := brOf u n
       let v := if brState u n = 1 then setBrState n 2 u else u
       ta ≤ 10000 → b.echoWait = true → b.due = 0 → b.echoes.length + 1 < 8 → exec (.echoResponseRx n rt ta true) s =
         .next (setBr n { b with echoes := b.echoes ++ [(rt : Int) - ta], echoWait := false } v)))) ∧
  (∀ (s : State) (n w close : Nat) (fr : StarRx),
    let l := starRecord fr
    let rep (cut : Bool) := repeatFrame n l (fr.start.toNat + 160) cut s
    let wrong := fr.start.toNat + 2000 ≤ fr.finish.toNat ∧ (starSlot l ≠ fld (winW s w 2) 13 4 ∨ starCycle l ≠ bcNum s)
    (close ≤ fr.finish.toNat → close ≤ fr.start.toNat + 2000 → rxExclusive n w fr close s = violation n .STAR_BR_VIOL_LATE (rep true)) ∧
    (¬ (close ≤ fr.finish.toNat ∧ close ≤ fr.start.toNat + 2000) → wrong → rxExclusive n w fr close s = violation n .STAR_BR_VIOL_SLOT (rep true)) ∧
    (close ≤ fr.finish.toNat → ¬ wrong → rxExclusive n w fr close s = violation n .STAR_BR_VIOL_LATE (rep true)) ∧
    (fr.finish.toNat < close → ¬ wrong → fr.wellFormed = true → starLen l ≠ 255 →
      (fr.crcOk = true → rxExclusive n w fr close s = starDeliver l true fr.start (ackRx n l fr.finish.toNat (validFrame n (rep false)))) ∧
      (fr.crcOk = false → rxExclusive n w fr close s = starDeliver l false fr.start (count32 .STAR_BR_RX_CRC 0 n (rep false)))))

/-- A frame whose header has come takes part in the arbitration of its window when it began within 2 us of the window's open as
its branch sees it, and the decision is not made yet; else it has lost. At the decision of an arbitrating window the frame
with the lowest slot identifier wins, and of equal ones that of the lowest branch; every other one is counted as lost. The
winner is repeated on the other branches, and counted and delivered, or cut off and a violation when it ends after the
guardian closes. A frame for a device slot of the schedule replaces the contents of its slot buffer, any other is counted as
dropped. A snapshot takes the buffer's frame into the window, with its stale flag after more than two basic cycles without a
write; at the window's open it leaves on every branch that is not OFF. (R241; R242; R243; R244; R245; R246) -/
def Obligations.StarWindows : Prop :=
  (∀ (fs : List ArbFrame), ∀ f, arbBest fs = some f → f ∈ fs ∧
    ∀ g ∈ fs, starSlot f.record * 32 + f.branch ≤ starSlot g.record * 32 + g.branch) ∧
  (∀ (s : State) (n w ref : Nat) (fr : StarRx), let l := starRecord fr
    let whole := fr.wellFormed && decide (starLen l ≠ 255)
    (fr.finish.toNat < fr.start.toNat + 2000 → rxArbitrating n w fr ref s = s) ∧
    (fr.start.toNat + 2000 ≤ fr.finish.toNat →
      ((w ∈ s.star.arbDone ∨ ref + 2000 ≤ fr.start.toNat) → rxArbitrating n w fr ref s = loseArb n (whole && fr.crcOk) s) ∧
      (w ∉ s.star.arbDone → fr.start.toNat < ref + 2000 →
        rxArbitrating n w fr ref s = setStar { s.star with arb := s.star.arb ++ [⟨w, n, fr.start, fr.finish, fr.crcOk, whole, l⟩] } s))) ∧
  (∀ (s : State) (w : Nat), running s = true → starRunning s = true → arbDue s = some w →
    let fs := s.star.arb.filter (·.win = w)
    let u := setStar { s.star with arb := s.star.arb.filter (·.win ≠ w), arbDone := w :: s.star.arbDone } s
    (arbBest fs = none → exec .arbitrationDecision s = .next u) ∧
    (∀ f, arbBest fs = some f →
      let v := (fs.filter (· ≠ f)).foldl (fun s g => loseArb g.branch (g.whole && g.crcOk) s) u
      let close := (guardOf v f.branch w).2.1
      let rep (cut : Bool) := repeatFrame f.branch f.record (tBc v + winOpen v w + 6200) cut v
      (close ≤ f.finish.toNat → exec .arbitrationDecision s = .next (violation f.branch .STAR_BR_VIOL_LATE (rep true))) ∧
      (f.finish.toNat < close → f.whole = true → exec .arbitrationDecision s =
        .next (starDeliver f.record f.crcOk f.start (rxCount f.branch f.crcOk (rep false)))) ∧
      (f.finish.toNat < close → f.whole = false → exec .arbitrationDecision s = .next (rep false)))) ∧
  (∀ (s : State) (l : List Byte), running s = true →
    (starLenOk l = true → deviceSlot s (starSlot l) = true → exec (.slotBufferWrite l) s =
      .next { s with star := { s.star with slots := nmPut s.star.slots (starSlot l) ⟨l, s.star.absBc⟩ } }) ∧
    (starLenOk l = false ∨ deviceSlot s (starSlot l) = false → exec (.slotBufferWrite l) s = .next (count32 .STAR_SLOT_DROP 0 0 s))) ∧
  (∀ (s : State) (w : Fin 64), running s = true → deviceNow s w = true →
    (w.val ∉ s.star.snapped → tBc s + winOpen s w ≤ now s + 10000 →
      let u := setStar { s.star with snapped := w.val :: s.star.snapped } s
      (nmFind s.star.slots (fld (winW s w 2) 13 4) = none → exec (.slotSnapshot w) s = .next u) ∧
      (∀ b, nmFind s.star.slots (fld (winW s w 2) 13 4) = some b → bit (winW s w 2) 3 = false →
        let frame (flags : Byte) : List Byte := [byteAt b.record 0, (byteAt b.record 1 &&& 0xC0) ||| BitVec.ofNat 8 (bcNum s), byteAt b.record 2, flags] ++ slice b.record 4 (starLen b.record)
        (s.star.absBc ≤ b.written + 2 → exec (.slotSnapshot w) s =
          .next (setStar { u.star with snaps := nmPut u.star.snaps w (frame ((byteAt b.record 3 &&& 0xF9) ||| 0)) } u)))) ∧
    (tBc s + winOpen s w ≤ now s → ∀ l, nmFind s.star.snaps w = some l →
      let u := setStar { s.star with snaps := nmErase s.star.snaps w } s
      let v := if (byteAt l 3).getLsbD 2 then count32 .STAR_STALE_CNT 0 0 u else u
      (l ≠ [] → exec (.deviceFrameSend w) s =
        .next (allBranches.foldl (fun s n => if brState s n = 0 then s else say (.star n l (BitVec.ofNat 64 (tBc s + winOpen s w))) s) v)) ∧
      (l = [] → exec (.deviceFrameSend w) s = .next (count32 .STAR_SLOT_DROP 0 0 u))))

/-- A running machine without a latched instruction or hold fetches the word at PC. It executes its latched instruction as Table
10.1 states: JUMP tests and counts, AWAIT stalls until its pin or flag, as the cycle began, has the level, SHIN and SHOUT move
one bit a cycle, TAKE and GIVE use the FIFOs, stall or err, COPY and DRIVE write their destination, SIGNAL changes a flag; any
other opcode only completes. Completing frees the latch, sets the hold, and moves PC to the target, the ring's base after its
last address, or on by one; no other machine changes. (R268; R269; R270; R271; R272; R274; R278; R280; 10 Table 10.1; 10 Table
10.2) -/
def Obligations.PioInstructions : Prop :=
  (∀ (s : State) (b m : Nat) (target : Option Nat),
    let k := smOf s b m
    let ring := rd s .SM_RING m b
    let u := smDone b m target s
    u = setSm b m (smOf u b m) s ∧ (smOf u b m).latch = none ∧ (smOf u b m).step = 0 ∧ (smOf u b m).stall = 0 ∧
    (smOf u b m).hold = smFld (k.latch.getD 0) 19 16 ∧
    (∀ a, target = some a → (smOf u b m).pc = BitVec.ofNat 6 a) ∧
    (target = none → k.pc.toNat = (fld ring 5 0 + fld ring 13 8) % 64 → (smOf u b m).pc = BitVec.ofNat 6 (fld ring 5 0)) ∧
    (target = none → k.pc.toNat ≠ (fld ring 5 0 + fld ring 13 8) % 64 → (smOf u b m).pc = k.pc + 1)) ∧
  (∀ (s : State) (b : Fin 12) (m : Fin 4), running s = true → (smOf s b m).running = true →
    let k := smOf s b m
    let done (t : Option Nat) (s : State) : Host.Outcome State Fault Refusal := .next (flagChange b [] [] (smDone b m t s))
    let wait (why : Nat) (s : State) : Host.Outcome State Fault Refusal := .next (flagChange b [] [] (smStall b m why s))
    (k.latch = none → k.hold = 0 → exec (.pioFetch b m) s = .next (setSm b m { k with latch := some (pioWord s b k.pc.toNat) } s)) ∧
    (∀ w, k.latch = some w →
      (smFld w 23 20 = 0 → let x := smFld w 15 13
        let t := some (smFld w 5 0)
        (x = 0 → exec (.pioJump b m) s = done t s) ∧
        (x = 1 → k.c0 ≠ 0 → exec (.pioJump b m) s = done t (setSm b m { k with c0 := k.c0 - 1 } s)) ∧
        (x = 1 → k.c0 = 0 → exec (.pioJump b m) s = done none (setSm b m { k with c0 := 0 } s)) ∧
        (x = 2 → k.c1 ≠ 0 → exec (.pioJump b m) s = done t (setSm b m { k with c1 := k.c1 - 1 } s)) ∧
        (x = 2 → k.c1 = 0 → exec (.pioJump b m) s = done none (setSm b m { k with c1 := 0 } s)) ∧
        (x = 3 → exec (.pioJump b m) s = done (if k.s = 0 then t else none) s) ∧
        (x = 4 → exec (.pioJump b m) s = done (if k.s = 0 then none else t) s) ∧
        (x = 5 → exec (.pioJump b m) s = done (if pinLevel s (smFld w 12 6) = true then t else none) s) ∧
        (x = 6 → exec (.pioJump b m) s = done (if pinLevel s (smFld w 12 6) = true then none else t) s) ∧
        (x = 7 → exec (.pioJump b m) s = done (if k.tRem = 0 then t else none) s)) ∧
      (smFld w 23 20 = 1 → let pol := w.getLsbD 15
        let idx := smFld w 12 6
        (smFld w 14 13 = 0 → (pinLevel s idx = pol → exec (.pioAwait b m) s = done none s) ∧
          (pinLevel s idx ≠ pol → exec (.pioAwait b m) s = wait 3 s)) ∧
        (smFld w 14 13 = 1 → k.began = true → k.edge = true → exec (.pioAwait b m) s = done none s) ∧
        (smFld w 14 13 = 2 → let f := (blkOf s b).seen.getLsbD (idx % 8)
          (f = pol → pol = true → exec (.pioAwait b m) s = .next (flagChange b [idx % 8] [] (smDone b m none s))) ∧
          (f = pol → pol = false → exec (.pioAwait b m) s = done none s) ∧ (f ≠ pol → exec (.pioAwait b m) s = wait 3 s))) ∧
      (smFld w 23 20 = 2 → smFld w 15 13 = 0 → k.stall ≠ 2 → bit (rd s .SM_FRAME m b) 14 = false →
        let r := shiftIn k.rw k.rFill (rxFrame s b m) (bit (rd s .SM_FRAME m b) 13) (pinLevel s (smFld w 12 6))
        let u := setSm b m { k with rw := r.1, rFill := r.2, step := k.step + 1 } s
        (smFld w 5 0 ≤ k.step → exec (.pioShin b m) s = done none u) ∧
        (k.step < smFld w 5 0 → exec (.pioShin b m) s = .next (flagChange b [] [] (setSm b m { smOf u b m with stall := 0 } u)))) ∧
      (smFld w 23 20 = 3 → smFld w 15 13 = 0 → k.tRem ≠ 0 →
        let v : W32 := if k.tw.getLsbD (if bit (rd s .SM_FRAME m b) 5 then txFrame s b m - k.tRem else k.tRem - 1) then 1 else 0
        let u := putPins b false [smFld w 12 6] v (setSm b m { k with tRem := k.tRem - 1, step := k.step + 1, stall := 0 } s)
        (smFld w 5 0 + 1 ≤ (smOf u b m).step → exec (.pioShout b m) s = done none u) ∧
        ((smOf u b m).step < smFld w 5 0 + 1 → exec (.pioShout b m) s = .next (flagChange b [] [] u))) ∧
      (smFld w 23 20 = 4 → (∀ v r, k.txf = v :: r → exec (.pioTake b m) s = done none (setSm b m { k with tw := v, txf := r, tRem := txFrame s b m } s)) ∧
        (k.txf = [] → w.getLsbD 15 = true → exec (.pioTake b m) s = wait 1 s) ∧
        (k.txf = [] → w.getLsbD 15 = false →
          exec (.pioTake b m) s = done none (fifoErr b m 1 (setSm b m { k with tw := k.s, tRem := txFrame s b m } s)))) ∧
      (smFld w 23 20 = 5 → (rxFull s b m = false → exec (.pioGive b m) s = done none (setSm b m { k with rxf := k.rxf ++ [k.rw], rw := 0, rFill := 0 } s)) ∧
        (rxFull s b m = true → w.getLsbD 15 = true → exec (.pioGive b m) s = wait 2 s) ∧
        (rxFull s b m = true → w.getLsbD 15 = false → exec (.pioGive b m) s = done none (fifoErr b m 0 (setSm b m { k with rw := 0, rFill := 0 } s)))) ∧
      (smFld w 23 20 = 6 → smFld w 11 8 = 1 → let v := copyOp (smFld w 7 6) k.s
        (smFld w 15 12 = 0 → exec (.pioCopy b m) s = done none (putPins b false (lanes s b m) v s)) ∧
        (smFld w 15 12 = 1 → exec (.pioCopy b m) s = done none (setSm b m { k with s := v } s)) ∧
        (smFld w 15 12 = 2 → exec (.pioCopy b m) s = done none (setSm b m { k with c0 := v.setWidth 16 } s)) ∧
        (smFld w 15 12 = 4 → exec (.pioCopy b m) s = done none (setSm b m { k with rw := v, rFill := 0 } s)) ∧
        (smFld w 15 12 = 5 → exec (.pioCopy b m) s = done none (setSm b m { k with tw := v, tRem := txFrame s b m } s)) ∧
        (smFld w 15 12 = 7 → exec (.pioCopy b m) s = done (some (v.toNat % 64)) s)) ∧
      (smFld w 23 20 = 7 → let v := BitVec.ofNat 32 (smFld w 11 0)
        (smFld w 15 13 = 0 → exec (.pioDrive b m) s = done none (putPins b false (lanes s b m) v s)) ∧
        (smFld w 15 13 = 1 → exec (.pioDrive b m) s = done none (putPins b true (lanes s b m) v s)) ∧
        (smFld w 15 13 = 2 → exec (.pioDrive b m) s = done none (setSm b m { k with c0 := v.setWidth 16 } s)) ∧
        (smFld w 15 13 = 3 → exec (.pioDrive b m) s = done none (setSm b m { k with c1 := v.setWidth 16 } s)) ∧
        (smFld w 15 13 = 4 → exec (.pioDrive b m) s = done none (setSm b m { k with s := v } s))) ∧
      (smFld w 23 20 = 8 → let u := raiseIf (w.getLsbD 13 && !k.began) (224 + b) s
        (smFld w 15 14 = 0 → exec (.pioSignal b m) s = .next (flagChange b [] [smFld w 2 0] (smDone b m none u))) ∧
        (smFld w 15 14 = 1 → exec (.pioSignal b m) s = .next (flagChange b [smFld w 2 0] [] (smDone b m none u)))) ∧
      (9 ≤ smFld w 23 20 → exec (.pioNoOperation b m) s = done none s)))

/-- A write of PIO_CTRL halts, restarts, clears the phase of and starts the machines it names, in that order; a global start acts
on the machines of both words. A word written to a transmit FIFO waits for the end of the PIO clock cycle and then joins it
behind the machines' pulls, the lower identity first, or at a full one is an error; a read of a receive FIFO pops it, or at an
empty one returns 0 with an error; a blocking port access waits instead. Flags, instruction words and frame settings are
written; a change of the FIFO depths empties the FIFOs of a stopped machine and leaves those of a running one. A pin's
external level follows its edge; a machine reads a pin behind two clock edges, or at once with sync_byp, inverted by in_inv.
The flags that a cycle leaves are those the next one tests. Without power every pin is high-impedance, in Midwinter every pin
outside bank IO_F, and IRQ_N is low exactly while a source with msix_en is pending. (R265; R273; R275; R276; R277; R278; R279;
R280; R282; R438; R439; R440) -/
def Obligations.PioControl : Prop :=
  (∀ (s : State) (i : Fin 64) (v : W32), writes i .PIO_CTRL s →
    let b := chanOf .PIO_CTRL i s
    (fld v 3 0 ≠ 0 → exec (.pioHalt i v) s = .next (pioCtrlWrite b v s)) ∧ (fld v 7 4 ≠ 0 → exec (.pioRestart i v) s = .next (pioCtrlWrite b v s)) ∧
    (fld v 11 8 ≠ 0 → exec (.pioPhaseRestart i v) s = .next (pioCtrlWrite b v s)) ∧ (fld v 15 12 ≠ 0 → exec (.pioStart i v) s = .next (pioCtrlWrite b v s)) ∧
    (∀ m : Fin 4, pioCtrlWrite b (oneBit m) s = setSm b m { smOf s b m with running := false } s ∧
      pioCtrlWrite b (oneBit (4 + m)) s = smRestart b m s ∧ pioCtrlWrite b (oneBit (8 + m)) s = setSm b m { smOf s b m with phase := 0 } s ∧
      pioCtrlWrite b (oneBit (12 + m)) s = setSm b m { smOf s b m with running := true } s ∧
      pioCtrlWrite b (oneBit m ||| oneBit (12 + m)) s = smRun b m true (smRun b m false s))) ∧
  (∀ (s : State) (b m : Nat), let k := smOf (smRestart b m s) b m
    k.running = false ∧ k.latch = none ∧ k.txf = [] ∧ k.rxf = [] ∧ k.hold = 0 ∧ k.tRem = 0 ∧ k.rFill = 0 ∧ k.evt = 0 ∧
    k.pc = BitVec.ofNat 6 (fld (rd s .SM_RING m b) 21 16) ∧ k.s = (smOf s b m).s ∧ k.c0 = (smOf s b m).c0) ∧
  (∀ (s : State) (i : Fin 64) (v : W32),
    (writes i .PIO_GSTART_LO s → exec (.pioGstartLoWrite i v) s = .next { s with pio := { s.pio with gstartLo := v } }) ∧
    (writes i .PIO_GSTART_HI s →
      let names := (List.range 48).filter fun k => if k < 32 then s.pio.gstartLo.getLsbD k else bit v (k - 32)
      let u := if bit v 30 then names.foldl (fun s k => smPhase (k / 4) (k % 4) s) s else s
      exec (.pioGstart i v) s = .next (if bit v 31 then names.foldl (fun s k => smRun (k / 4) (k % 4) true s) u else u))) ∧
  (∀ (s : State) (b m : Nat) (v : W32),
    (txFull s b m = true → txfEnter b m v s = fifoErr b m 3 s) ∧
    (txFull s b m = false → txfEnter b m v s = setSm b m { smOf s b m with txf := (smOf s b m).txf ++ [v] } s) ∧
    (∀ i j k l w x, i < j → j < 64 → s.pio.txIn = [(j, k, w), (i, l, x)] → txfSettle s =
      txfEnter (k / 4) (k % 4) w (txfEnter (l / 4) (l % 4) x { s with pio := { s.pio with txIn := [] } })) ∧
    ((smOf s b m).rxf = [] → rxfRead b m s = (0, fifoErr b m 2 s)) ∧
    (∀ x r, (smOf s b m).rxf = x :: r → rxfRead b m s = (x, setSm b m { smOf s b m with rxf := r } s))) ∧
  (∀ (s : State) (i : Fin 64) (t : Fin 97) (sm : Fin 4) (v : W32) (w : Bool) (idx : Fin 64) (set clear : BitVec 8), running s = true →
    let b := t.val / 8
    (writes i .SM_TXF s → exec (.pioTxFifoWrite (.reg i) sm v w) s =
      .next { s with pio := { s.pio with txIn := s.pio.txIn ++ [(i.val, 4 * chanOf .SM_TXF i s + sm, v)] } }) ∧
    (let free := (smOf s b sm).txf.length + (s.pio.txIn.filter (·.2.1 = 4 * b + sm)).length < txDepth s b sm
     (t.val < 96 → (w = false ∨ free) → exec (.pioTxFifoWrite (.port t) sm v w) s =
      .next { s with pio := { s.pio with txIn := s.pio.txIn ++ [(thMaster t, 4 * b + sm, v)] } }) ∧
     (t.val < 96 → w = true → ¬ free → exec (.pioTxFifoWrite (.port t) sm v w) s = .next s)) ∧
    (reads i .SM_RXF s → exec (.pioRxFifoRead (.reg i) sm w) s =
      .next (reply i (rxfRead (chanOf .SM_RXF i s) sm s).1 (rxfRead (chanOf .SM_RXF i s) sm s).2)) ∧
    (t.val < 96 → (w = false ∨ (smOf s b sm).rxf ≠ []) → exec (.pioRxFifoRead (.port t) sm w) s = .next (reply (thMaster t) (rxfRead b sm s).1 (rxfRead b sm s).2)) ∧
    (t.val < 96 → w = true → (smOf s b sm).rxf = [] → exec (.pioRxFifoRead (.port t) sm w) s = .next s) ∧
    (t.val < 96 → exec (.pioFlagWrite (.port t) set clear) s =
      .next (setBlk b { blkOf s b with flags := ((blkOf s b).flags ||| set) &&& ~~~clear } s)) ∧
    (writes i .PIO_FLAG_SET s → set ≠ 0 → exec (.pioFlagWrite (.reg i) set 0) s = .next (flagWrite (chanOf .PIO_FLAG_SET i s) set 0 s)) ∧
    (writes i .PIO_IMEM s → exec (.imemWrite (.reg i) idx v) s =
      .next { s with pio := { s.pio with imem := nmSet 0 s.pio.imem (chanOf .PIO_IMEM i s * 64 + idx) (v.setWidth 24) } }) ∧
    (t.val < 96 → exec (.imemWrite (.port t) idx v) s = .next { s with pio := { s.pio with imem := nmSet 0 s.pio.imem (b * 64 + idx) (v.setWidth 24) } }) ∧
    (writes i .SM_FRAME s → exec (.smFrameWrite (.reg i) sm v) s = .next (smFrameWrite (chanOf .SM_FRAME i s) sm v s)) ∧
    (t.val < 96 → exec (.smFrameWrite (.port t) sm v) s = .next (smFrameWrite b sm v s))) ∧
  (∀ (s : State) (b m : Nat) (v : W32),
    let old := rd s .SM_FRAME m b
    let tx := min 8 (fld v 19 16)
    let rx := min (fld v 23 20) (8 - tx)
    let same := tx = fld old 19 16 ∧ rx = fld old 23 20
    let put := plainWrite .SM_FRAME m b (putFld (putFld v 19 16 tx) 23 20 rx) s
    (same → (smOf s b m).running = false → smFrameWrite b m v s = put) ∧
    (¬ same → (smOf s b m).running = false → smFrameWrite b m v s = txInDrop b m (setSm b m { smOf s b m with txf := [], rxf := [] } put)) ∧
    (¬ same → (smOf s b m).running = true →
      smFrameWrite b m v s = plainWrite .SM_FRAME m b (putFld (putFld v 19 16 (fld old 19 16)) 23 20 (fld old 23 20)) s)) ∧
  (∀ (s : State) (n : Fin 128) (l : Bool), ∃ t, exec (.fioPinEdge n l) s = .next t ∧ t.pio.pinIn.getLsbD n = l ∧
    (∀ k, k ≠ n.val → t.pio.pinIn.getLsbD k = s.pio.pinIn.getLsbD k) ∧ t = { s with pio := { s.pio with pinIn := t.pio.pinIn, sms := t.pio.sms } }) ∧
  (∀ (s : State) (n : Nat), let pad := rd s .PAD_FIO n 0
    (bit pad 9 = true → pinLevel s n = (((pinDriven s n).getD (s.pio.pinIn.getLsbD n)) != bit pad 7)) ∧
    (bit pad 9 = false → pinLevel s n = (s.pio.pinSeen.getLsbD n != bit pad 7)) ∧
    (pinSample s).pio.pinSeen = s.pio.pinSync ∧ (n < 128 → fld pad 3 0 ≥ 12 → (padLevel s n = s.pio.pinIn.getLsbD n)) ∧
    (∀ b, s.pio.blocks = [(b, blkOf s b)] → (blkOf (flagsSeen s) b).seen = (blkOf s b).flags)) ∧
  (∀ (s : State) (p : OutPin), (s.pwr.st = .off → pinDrive s p = none) ∧ (s.pwr.st = .midwinter → p.inBankF = false → pinDrive s p = none) ∧
    (s.pwr.st ≠ .off →
      ((∃ k, k < 320 ∧ bit (rd s .EVT_ROUTE k 0) 5 = true ∧ bit (rd s .EVT_PEND (k / 32) 0) (k % 32) = true) → pinDrive s .irqN = some false) ∧
      ((∀ k, k < 320 → bit (rd s .EVT_ROUTE k 0) 5 = true → bit (rd s .EVT_PEND (k / 32) 0) (k % 32) = false) → pinDrive s .irqN = none)))

/-- ENG_LOAD with bad bounds completes BAD_PARAM, with an engine that is not all OFF BUSY; else it writes the bytes into the
memory of every engine named, and completes OK, or FAILED after a read error. ENG_START with a thread that is not OFF, or
while the levels are held, is BUSY; else it cleans and enables its threads and waits for them, as ENG_STOP waits for those it
stops. ENG_CTRL starts, stops and then steps. A started thread is ON, a stopped one with no operation left OFF. A thread that
meets its breakpoint stops and latches the cause. (R56; R57; R58; R285; R304; R305; R306; R308) -/
def Obligations.EngineControl : Prop :=
  (∀ (s : State) (ring : Fin 10) (slot : Nat) (c : Cmd) (data : List W32) (err : Bool), cmdStarts s ring slot 0x30 c →
    let g := begunCmd ring c.tag s
    let w := c.words
    let k : CmdRef := ⟨ring, slot, c.tag, 0x30⟩
    let es := maskEngines (wordAt w 2)
    let space := cmdByte w 12
    let off := (wordAt w 4).toNat
    let len := (wordAt w 5).toNat
    let bad := 1 < space ∨ off % 4 ≠ 0 ∨ len % 4 ≠ 0 ∨ len < 4 ∨ (if space = 0 then 0x10000 else 0x20000) < off + len ∨ cmd64 w 24 % 4 ≠ 0
    let put := es.foldl (fun s e => if space = 0 then engIWrite e off (hostWords (len / 4) err data) s else engLWrite e off (hostWords (len / 4) err data) s) g
    (bad → exec (.engLoad ring slot data err) s = .next (complete k stBadParam 0 g)) ∧
    (¬ bad → (∃ e ∈ es, engBusy g e = true) → exec (.engLoad ring slot data err) s = .next (complete k stBusy 0 g)) ∧
    (¬ bad → (∀ e ∈ es, engBusy g e = false) →
      (err = false → exec (.engLoad ring slot data err) s = .next (complete k stOk (BitVec.ofNat 64 len) put)) ∧
      (err = true → exec (.engLoad ring slot data err) s = .next (complete k stFailed 0 put)))) ∧
  (∀ (s : State) (ring : Fin 10) (slot : Nat) (c : Cmd), cmdStarts s ring slot 0x31 c →
    let g := begunCmd ring c.tag s
    let w := c.words
    let k : CmdRef := ⟨ring, slot, c.tag, 0x31⟩
    let ts := cmdThreads w
    let no := levelsBlocked g = true ∨ ∃ t ∈ ts, (thOf g t).fb ≠ 0
    (no → exec (.engStart ring slot) s = .next (complete k stBusy 0 g)) ∧
    (¬ no → ts ≠ [] → bit (wordAt w 3) 4 = true →
      let u := ts.foldl (fun s t => thEnable true t s) g
      exec (.engStart ring slot) s = .next { u with eng := { u.eng with starting := u.eng.starting ++ [(k, ts)] } }) ∧
    (¬ no → ts ≠ [] → bit (wordAt w 3) 4 = false →
      let u := ts.foldl (fun s t => thEnable false t (setTh t (engClean t
        (BitVec.ofNat 32 (cmdByte w (16 + 2 * (t % 4)) + 256 * cmdByte w (17 + 2 * (t % 4)))) (wordAt w (6 + t % 4)) (thOf s t)) s)) g
      exec (.engStart ring slot) s = .next { u with eng := { u.eng with starting := u.eng.starting ++ [(k, ts)] } })) ∧
  (∀ (s : State) (ring : Fin 10) (slot : Nat) (c : Cmd), cmdStarts s ring slot 0x32 c →
    let k : CmdRef := ⟨ring, slot, c.tag, 0x32⟩
    let ts := cmdThreads c.words
    let u := ts.foldl (fun s t => thStop t s) (begunCmd ring c.tag s)
    let left := ts.filter fun t => fbState (thOf u t).fb ≠ 0
    (left = [] → exec (.engStop ring slot) s = .next (complete k stOk 0 u)) ∧
    (left ≠ [] → exec (.engStop ring slot) s = .next { u with eng := { u.eng with stopping := u.eng.stopping ++ [(k, left)] } })) ∧
  (∀ (s : State) (m : Fin 64) (v : W32), writes m .ENG_CTRL s →
    let e := chanOf .ENG_CTRL m s
    (fld v 3 0 ≠ 0 → exec (.engCtrlStart m v) s = .next (engCtrlWrite e v s)) ∧ (fld v 7 4 ≠ 0 → exec (.engCtrlStop m v) s = .next (engCtrlWrite e v s)) ∧
    (fld v 11 8 ≠ 0 → exec (.engCtrlStep m v) s = .next (engCtrlWrite e v s)) ∧
    (∀ k : Fin 4, engCtrlWrite e (oneBit k) s = thEnable true (4 * e + k) s ∧ engCtrlWrite e (oneBit (4 + k)) s = thStop (4 * e + k) s ∧
      engCtrlWrite e (oneBit (8 + k)) s = thStep (4 * e + k) s)) ∧
  (∀ (s : State) (t : Nat), let h := thOf s t
    (h.fb = 0 → levelsBlocked s = false → thEnable true t s = setTh t { startFlags h with fb := 1, skipBreak := true } s ∧
      thEnable false t s = setTh t { startFlags h with fb := 1 } s ∧ thStep t s = setTh t { startFlags h with fb := 1, stepping := true, skipBreak := true } s) ∧
    thStop t s = setTh t (cancelWait { h with fb := fbDisable h.fb }) s) ∧
  (∀ (s : State) (t : Fin 96), running s = true → let h := thOf s t
    (fbState h.fb = 1 → exec (.threadStarted t) s = .next (engSettle t false (setTh t { h with fb := fbStarted h.fb } s))) ∧
    (h.fb = 3 → h.ops = [] → exec (.threadStopped t) s = .next (engSettle t true (setTh t { h with fb := 0, stepping := false } s))) ∧
    (h.fb = 7 → h.ops = [] → levelsBlocked s = true → exec (.threadStopped t) s = .next (engSettle t true (setTh t { h with fb := 0, stepping := false } s))) ∧
    (h.fb = 7 → h.ops = [] → levelsBlocked s = false → exec (.threadStopped t) s = .next (engSettle t true (setTh t { startFlags h with fb := 1, skipBreak := true } s))) ∧
    (fbState h.fb = 3 → h.ops ≠ [] → exec (.threadStopped t) s = .next s) ∧
    (thAwake s t = true → atBreak s t = true → exec (.breakpoint t) s =
      .next (engCause (t / 4) (12 + t % 4) (setTh t { h with broke := true, fb := fbDisable h.fb } s))))

/-- A new budget period clears the counts; a budget below the count already used is over its quota at once. Instruction memory is
written only while the engine's threads are OFF, a thread's registers only while it is OFF, with a status bit otherwise when
the write would change them; the address registers move on. An operation on local memory reads or writes its bytes and
returns; a refused one on a bank is an imprecise fault, a lost one is none. A wait ends when its condition holds, or at its
timeout with 0. A timer expiry counts, at most 255. The CRC unit takes its initial value and its bytes. (R286; R287; R288;
R291; R294; R296; R297; R298; R299; R300; R303; R309) -/
def Obligations.EngineThreads : Prop :=
  (∀ (s : State), running s = true → budgetDue s = true → exec .budgetPeriodStart s = .next
    ((s.eng.threads.map (·.1)).foldl (fun s t => setTh t { thOf s t with used := 0, overQuota := false } s)
      { s with eng := { s.eng with periodStart := BitVec.ofNat 64 s.ticks } })) ∧
  (∀ (s : State) (m : Fin 64) (v : W32),
    (writes m .ENG_T_BUDGET s → let t := tSel s m
      let put (past : Bool) := setTh t { thOf s t with overQuota := past } (plainWrite .ENG_T_BUDGET 0 t v s)
      (fld v 19 0 = 0 ∨ (thOf s t).used ≤ fld v 19 0 → exec (.engTBudgetWrite m v) s = .next (put false)) ∧
      (fld v 19 0 ≠ 0 → fld v 19 0 < (thOf s t).used → exec (.engTBudgetWrite m v) s = .next (engCause (t / 4) (8 + t % 4) (put true)))) ∧
    (writes m .ENG_IMEM_DATA s → let e := chanOf .ENG_IMEM_DATA m s
      let a := (rd s .ENG_IMEM_ADDR 0 (partOf .ENG_IMEM_ADDR m s)).toNat
      (engBusy s e = true → memWord s.stores.engI (e * 0x10000 + a) ≠ v → exec (.engImemDataWrite m v) s = .next (setB .ENG_STAT 0 e 0x10000 s)) ∧
      (engBusy s e = true → memWord s.stores.engI (e * 0x10000 + a) = v → exec (.engImemDataWrite m v) s = .next s) ∧
      (engBusy s e = false → exec (.engImemDataWrite m v) s =
        .next (engAddrNext .ENG_IMEM_ADDR m (engIWrite e (rd s .ENG_IMEM_ADDR 0 (partOf .ENG_IMEM_ADDR m s)).toNat [v] s)))) ∧
    (let a := (rd s .ENG_LMEM_ADDR 0 (partOf .ENG_LMEM_ADDR m s)).toNat
     (writes m .ENG_LMEM_DATA s → exec (.engLmemDataAccess m (some v)) s =
       .next (engAddrNext .ENG_LMEM_ADDR m (engLWrite (chanOf .ENG_LMEM_DATA m s) a [v] s))) ∧
     (reads m .ENG_LMEM_DATA s → exec (.engLmemDataAccess m none) s =
       .next (reply m (memWord s.stores.engL (chanOf .ENG_LMEM_DATA m s * 0x20000 + a)) (engAddrNext .ENG_LMEM_ADDR m
         (eccCorrect (4 * chanOf .ENG_LMEM_DATA m s) false a 4 s))))) ∧
    (let t := tSel s m
     let h := thOf s t
     (writes m .ENG_T_GDATA s → fbState h.fb = 0 → exec (.engTGdataWrite m false v) s = .next (setTh t (gDataSet (gSel s m) v h) s)) ∧
     (writes m .ENG_T_PC s → fbState h.fb = 0 → exec (.engTGdataWrite m true v) s = .next (setTh t { h with pc := pcMask t v } s)) ∧
     (writes m .ENG_T_GDATA s → fbState h.fb ≠ 0 →
       (gDataSet (gSel s m) v h ≠ h → exec (.engTGdataWrite m false v) s = .next (setB .ENG_STAT 0 (t / 4) 0x20000 s)) ∧
       (gDataSet (gSel s m) v h = h → exec (.engTGdataWrite m false v) s = .next s)))) ∧
  (∀ (s : State) (t : Fin 97) (o : MemOp) (r : List MemOp), running s = true → (thOf s t).ops = o :: r →
    let u := setTh t { thOf s t with ops := r } s
    let base := t.val / 4 * 0x20000 + o.addr.toNat
    (t.val < 96 → dataSpace t o.addr = some 0 →
      (o.kind = .load → exec (.memoryOpComplete t 0) s =
        .next (opReturn t o (loadValue o (memReadN u.stores.engL base o.width)) (eccCorrect t false o.addr.toNat o.width u))) ∧
      (o.kind = .store → o.isPop = false → o.width < 4 → exec (.memoryOpComplete t 0) s =
        .next (let c := eccCorrect t false o.addr.toNat o.width u
          { c with stores := { c.stores with engL := memWriteN u.stores.engL base (leBytes o.width o.data.toNat) } }))) ∧
    (dataSpace t o.addr = some 1 → opThaws t o s = none → o.kind = .store →
      let x := shWrite (.thread t) (o.addr.toNat - 0x40000000) (leBytes o.width o.data.toNat) u
      ((x.1 = memOk ∨ x.1 = memLost) → exec (.memoryOpComplete t 0) s = .next x.2) ∧
      (x.1 ≠ memOk → x.1 ≠ memLost → exec (.memoryOpComplete t 0) s = .next (opFault t o x.1 x.2)))) ∧
  (∀ (s : State) (t : Fin 97), running s = true → let h := thOf s t
    (∀ v, h.wait = .waitt v → atOrAfter (s.time.now.setWidth 32) v = true → exec (.waittDone t) s = .next (waitDone t false s)) ∧
    (∀ k rd u, h.wait = .waite k rd → waiteTry t k rd s = some u → exec (.waiteDone t) s = .next (waitDone t true u)) ∧
    (∀ rd u, h.wait = .waitq rd → waitqTry t rd s = some u → exec (.waitqDone t) s = .next (waitDone t true u)) ∧
    (∀ k rd, h.wait = .waite k rd → timeoutDue s t = true → waiteTry t k rd s = none →
      exec (.waitTimeout t) s = .next (waitDone t true (waitWrite t rd 0 (t.val = 96) s))) ∧
    (∀ rd, h.wait = .waitq rd → timeoutDue s t = true → waitqTry t rd s = none → exec (.waitTimeout t) s = .next (waitDone t true (waitWrite t rd 0 false s))) ∧
    (∀ v, exec (.timeoutArm t v) s = .next (setTh t { h with timeout := some v } s) ∧ exec (.timeoutDisarm t) s = .next (setTh t { h with timeout := none } s) ∧
      exec (.crcInit t v) s = .next (setTh t { h with crcReg := v } s) ∧
      exec (.crcFeed t 0 v) s = .next (setTh t (crcRun h (crcBits h (BitVec.ofNat 8 v.toNat))) s) ∧
      exec (.crcFeed t 1 v) s = .next (setTh t (crcRun h ((leBytes 4 v.toNat).flatMap (crcBits h))) s) ∧
      (fld v 4 0 ≠ 0 → fld v 4 0 ≤ 24 → exec (.crcFeed t 2 v) s = .next (setTh t (crcRun h ((List.range (fld v 4 0)).map fun k => bit v (31 - k))) s)))) ∧
  (∀ (s : State) (t : Fin 96) (v : W32), running s = true → let h := thOf s t
    exec (.localTimerStart t v) s = .next (setTh t { h with tmrNext := some v } s) ∧
    (timerDue s t = true → exec (.localTimerExpiry t) s = .next (setTh t { h with tmrCount := min 255 (h.tmrCount + 1), tmrNext := if h.tmrPeriod = 0 then none else h.tmrNext.map (· + h.tmrPeriod) } s)))

/-- For an instruction that issues: NEG and ABS of 0x8000_0000 give 0x8000_0000 and set ov; ADD, ADDI and SUB return the wrapped
result and set ov exactly when the signed result falls outside s32; TDIF returns the same bits as SUB and never sets ov. NEG
and ABS of any other value give it negated, or its absolute value, without ov. (R315) -/
def Obligations.SumsAndTheirOverflow : Prop :=
  ∀ (s : State) (t : Fin 97) (rd ra rb : Fin 32) (imm : BitVec 16),
    let a := gR (thOf s t) ra
    let b := gR (thOf s t) rb
    let i : W32 := imm.signExtend 32
    let outside (x : Int) : Bool := decide (x < -2 ^ 31 ∨ 2 ^ 31 ≤ x)
    (issues t [rd, ra, rb] s →
      exec (.add t rd ra rb) s = .next (retired t rd (BitVec.ofInt 32 (a.toInt + b.toInt)) (outside (a.toInt + b.toInt)) false s) ∧
      exec (.sub t rd ra rb) s = .next (retired t rd (BitVec.ofInt 32 (a.toInt - b.toInt)) (outside (a.toInt - b.toInt)) false s) ∧
      exec (.tdif t rd ra rb) s = .next (retired t rd (BitVec.ofInt 32 (a.toInt - b.toInt)) false false s)) ∧
    (issues t [rd, ra] s →
      exec (.addi t rd ra imm) s = .next (retired t rd (BitVec.ofInt 32 (a.toInt + i.toInt)) (outside (a.toInt + i.toInt)) false s) ∧
      (a = 0x80000000 → exec (.neg t rd ra) s = .next (retired t rd 0x80000000 true false s) ∧
        exec (.abs t rd ra) s = .next (retired t rd 0x80000000 true false s)) ∧
      (a ≠ 0x80000000 → exec (.neg t rd ra) s = .next (retired t rd (-a) false false s) ∧
        exec (.abs t rd ra) s = .next (retired t rd (if a.toInt < 0 then -a else a) false false s)))

/-- For a division that issues, on an engine or with dzt clear: DIVS of 0x8000_0000 by 0xFFFF_FFFF gives 0x8000_0000 and sets ov,
and REMS of that pair gives 0 without ov. A division by zero, signed or unsigned, gives quotient 0xFFFF_FFFF and remainder
equal to the dividend, and sets dz. Every other division gives the truncated quotient q and the remainder ra − q × rb, and no
flag. (R316) -/
def Obligations.DivisionFollowsR316 : Prop :=
  ∀ (s : State) (t : Fin 97) (rd ra rb : Fin 32), issues t [rd, ra, rb] s → (t.val ≠ 96 ∨ s.pol.mode.getLsbD 5 = false) →
    let a := gR (thOf s t) ra
    let b := gR (thOf s t) rb
    let put (v : W32) (ov dz : Bool) : Host.Outcome State Fault Refusal := .next (retired t rd v ov dz s)
    (a = 0x80000000 → b = 0xFFFFFFFF → exec (.divs t rd ra rb) s = put 0x80000000 true false ∧ exec (.rems t rd ra rb) s = put 0 false false) ∧
    (b = 0 → exec (.divs t rd ra rb) s = put 0xFFFFFFFF false true ∧ exec (.divu t rd ra rb) s = put 0xFFFFFFFF false true ∧
      exec (.rems t rd ra rb) s = put a false true ∧ exec (.remu t rd ra rb) s = put a false true) ∧
    (b ≠ 0 → ¬ (a = 0x80000000 ∧ b = 0xFFFFFFFF) → ∃ q : W32, q.toInt = a.toInt.tdiv b.toInt ∧
      exec (.divs t rd ra rb) s = put q false false ∧ exec (.rems t rd ra rb) s = put (a - q * b) false false) ∧
    (b ≠ 0 → ∃ q : W32, q.toNat = a.toNat / b.toNat ∧
      exec (.divu t rd ra rb) s = put q false false ∧ exec (.remu t rd ra rb) s = put (a - q * b) false false)

/-- Each of these instructions, where it issues, writes its result of Tables 12.5 to 12.7 to rd, and only MUL sets a flag: ov when
the signed product is outside s32. A register shift takes its whole amount: SLL and SRL by 32 or more give 0, SRA 32 copies of
bit 31; ROR takes it modulo 32. CLZ of 0 and POPC of all ones give 32. A bit field that would pass bit 31 is cut there; BFI
writes only the field. A write to g0 is discarded, and g0 reads 0. (R310; R314; R317; R318; R319; R320; 12 Table 12.5; 12
Table 12.6; 12 Table 12.7) -/
def Obligations.LogicShiftsAndFields : Prop :=
  (∀ (s : State) (t : Fin 97) (rd ra rb : Fin 32),
    let h := thOf s t
    let a := gR h ra
    let b := gR h rb
    let put (v : W32) : Host.Outcome State Fault Refusal := .next (retired t rd v false false s)
    (issues t [rd, ra, rb] s →
      exec (.andd t rd ra rb) s = put (a &&& b) ∧ exec (.orr t rd ra rb) s = put (a ||| b) ∧ exec (.xor t rd ra rb) s = put (a ^^^ b) ∧
      exec (.ezMin t rd ra rb) s = put (if a.toInt ≤ b.toInt then a else b) ∧ exec (.ezMax t rd ra rb) s = put (if a.toInt ≤ b.toInt then b else a) ∧
      exec (.sll t rd ra rb) s = put (if b.toNat < 32 then a <<< b.toNat else 0) ∧ exec (.srl t rd ra rb) s = put (if b.toNat < 32 then a >>> b.toNat else 0) ∧
      exec (.sra t rd ra rb) s = put (a.sshiftRight (min b.toNat 32)) ∧ exec (.ror t rd ra rb) s = put (a.rotateRight (b.toNat % 32)) ∧
      exec (.mul t rd ra rb) s = .next (retired t rd (a * b) (decide (a.toInt * b.toInt < -2 ^ 31 ∨ 2 ^ 31 ≤ a.toInt * b.toInt)) false s) ∧
      exec (.mulhs t rd ra rb) s = put (BitVec.ofInt 32 (a.toInt * b.toInt / 2 ^ 32)) ∧ exec (.mulhu t rd ra rb) s = put (BitVec.ofNat 32 (a.toNat * b.toNat / 2 ^ 32))) ∧
    (∀ (n p : Fin 32) (imm : BitVec 16), issues t [rd, ra] s →
      exec (.clz t rd ra) s = put (clzV a) ∧ exec (.popc t rd ra) s = put (popcV a) ∧
      exec (.slli t rd ra n) s = put (a <<< n.val) ∧ exec (.srli t rd ra n) s = put (a >>> n.val) ∧
      exec (.srai t rd ra n) s = put (a.sshiftRight n) ∧ exec (.rori t rd ra n) s = put (a.rotateRight n) ∧
      exec (.andi t rd ra imm) s = put (a &&& imm.setWidth 32) ∧ exec (.ori t rd ra imm) s = put (a ||| imm.setWidth 32) ∧
      exec (.xori t rd ra imm) s = put (a ^^^ imm.setWidth 32) ∧ exec (.bperm t rd ra imm) s = put (bpermV (gR h rd) a imm) ∧
      exec (.bfx t rd ra p n) s = put (BitVec.ofNat 32 (a.toNat / 2 ^ p.val % 2 ^ min (n.val + 1) (32 - p.val))) ∧
      exec (.bfxs t rd ra p n) s = put (bfxsV a p n) ∧ exec (.bfi t rd ra p n) s = put (bfiV (gR h rd) a p n)) ∧
    (∀ imm : BitVec 16, issues t [rd] s → exec (.lui t rd imm) s = put (imm.setWidth 32 <<< 16))) ∧
  clzV 0 = 32 ∧ popcV 0xFFFFFFFF = 32 ∧
  (∀ (d a : W32) (p n : Fin 32) (k : Nat), k < 32 →
    (bfiV d a p n).getLsbD k = if p.val ≤ k ∧ k < p.val + min (n.val + 1) (32 - p.val) then a.getLsbD (k - p) else d.getLsbD k) ∧
  (∀ (h : Thread) (v : W32) (r q : Nat), gR h 0 = 0 ∧ gW 0 v h = h ∧ (r ≠ 0 → gR (gW r v h) r = v ∧ (q ≠ r → gR (gW r v h) q = gR h q)))

/-- A branch that issues goes to A + 4 × sext(off16) when its condition holds, else its PC moves on; the jumps go to their target.
A call spills a valid link below sp, or faults at 255 spills, then links A + 4; a return goes to lk, and clears lvalid or pops
the spilled link. LOOP and LOOPI with count 0 pass the body, with three contexts fault, and else push a context; LEAVE pops
one. NOP does nothing, YIELD lets the ready siblings go first, HALT stops the thread. A word in no table is ILLEGAL. The
end-of-body step is that of R325. (R311; R312; R321; R322; R324; R325; R326; R327; 11 R284; 11 R285) -/
def Obligations.EztielControlTransfer : Prop :=
  (∀ (s : State) (t : Fin 97) (ra rb : Fin 32) (off : BitVec 16) (j : BitVec 26),
    let h := thOf (countIssue t s) t
    let c := countIssue t s
    let go (b : Bool) : Host.Outcome State Fault Refusal := .next (if b then jumped t (h.pc + off.signExtend 32 * 4) c else advanced t c)
    (issues t [ra, rb] s → let a := gR h ra
      let b := gR h rb
      exec (.beq t ra rb off) s = go (a = b) ∧ exec (.bne t ra rb off) s = go (a ≠ b) ∧ exec (.blt t ra rb off) s = go (a.toInt < b.toInt) ∧
      exec (.bge t ra rb off) s = go (b.toInt ≤ a.toInt) ∧ exec (.bltu t ra rb off) s = go (a.toNat < b.toNat) ∧
      exec (.bgeu t ra rb off) s = go (b.toNat ≤ a.toNat)) ∧
    (issues t [] s → exec (.jmp t j) s = .next (jumped t (h.pc + j.signExtend 32 * 4) c) ∧ exec (.ezNop t) s = .next (advanced t c) ∧
      exec (.leave t) s = .next (advanced t (setTh t { h with ldepth := h.ldepth - 1 } c)) ∧
      exec (.yield t) s = .next (advanced t (setTh t { h with yield_ := readySiblings c t } c)) ∧
      (t.val < 96 → exec (.halt t) s = .next (advanced t (engCause (t / 4) (4 + t % 4) (setTh t { h with halted := true, fb := fbDisable h.fb } c)))) ∧
      (∀ w, ezDecode t w = none → exec (.illegal t w) s = .next (thFault t 0x0A 0 c))) ∧
    (issues t [ra] s → exec (.jr t ra) s = .next (jumped t (gR h ra) c))) ∧
  (∀ (s : State) (t : Fin 97) (ra : Fin 32) (j : BitVec 26),
    let c := countIssue t s
    let h := thOf c t
    let link (u : State) (x : W32) : Host.Outcome State Fault Refusal :=
      .next (jumped t x (setTh t { thOf u t with lk := pcMask t ((thOf u t).pc + 4), lvalid := true } u))
    let spill := dataOp t ⟨.store, gR h 29 - 4, 4, false, 0, h.lk.setWidth 64, false, h.pc⟩ [3] c
    (issues t (callUses s t) s → let dst := h.pc + j.signExtend 32 * 4
      (h.lvalid = false → exec (.call t j) s = link c dst) ∧
      (h.lvalid = true → h.sdepth = 255 → exec (.call t j) s = .next (thFault t 0x0D 0 c)) ∧
      (∀ u, h.lvalid = true → h.sdepth ≠ 255 → spill = (.seq, u) →
        exec (.call t j) s = link (setTh t (gW 29 (gR h 29 - 4) { thOf u t with sdepth := (thOf u t).sdepth + 1 }) u) dst)) ∧
    (issues t (ra.val :: callUses s t) s → h.lvalid = false → exec (.callr t ra) s = link c (gR h ra)) ∧
    (issues t (if (thOf s t).lvalid && (thOf s t).sdepth ≠ 0 then [29] else []) s →
      (h.lvalid = false → exec (.ret t) s = .next (jumped t h.lk c)) ∧
      (h.lvalid = true → h.sdepth = 0 → exec (.ret t) s = .next (jumped t h.lk (setTh t { h with lvalid := false } c))) ∧
      (∀ u, h.lvalid = true → h.sdepth ≠ 0 → dataOp t ⟨.load, gR h 29, 4, false, 0, 0, true, h.pc⟩ [2] c = (.seq, u) →
        exec (.ret t) s = .next (jumped t (thOf u t).lk (setTh t (gW 29 (gR h 29 + 4) { thOf u t with sdepth := (thOf u t).sdepth - 1, wait := .pop }) u))))) ∧
  (∀ (s : State) (t : Fin 97) (ra : Fin 32) (n : BitVec 10) (len : BitVec 16),
    let c := countIssue t s
    let h := thOf c t
    let body : W32 := len.setWidth 32 * 4
    let push (k : W32) := setTh t { h with loops := h.loops.set h.ldepth ⟨pcMask t (h.pc + 4), pcMask t (h.pc + body), k⟩, ldepth := h.ldepth + 1 } c
    len ≠ 0 → (issues t [ra] s → let k := gR h ra
      (k = 0 → exec (.loop t ra len) s = .next (jumped t (h.pc + 4 + body) c)) ∧ (k ≠ 0 → 3 ≤ h.ldepth → exec (.loop t ra len) s = .next (thFault t 0x0B 0 c)) ∧
      (k ≠ 0 → h.ldepth < 3 → exec (.loop t ra len) s = .next (advanced t (push k)))) ∧
    (issues t [] s → let k : W32 := n.setWidth 32
      (k = 0 → exec (.loopi t n len) s = .next (jumped t (h.pc + 4 + body) c)) ∧ (k ≠ 0 → 3 ≤ h.ldepth → exec (.loopi t n len) s = .next (thFault t 0x0B 0 c)) ∧
      (k ≠ 0 → h.ldepth < 3 → exec (.loopi t n len) s = .next (advanced t (push k))))) ∧
  (∀ (s : State) (t d : Nat), let h := thOf s t
    let x := h.loops.getD d ⟨0, 0, 0⟩
    h.ldepth = d + 1 →
    (pcMask t x.stop ≠ h.pc → ezAdvance t s = setTh t { h with pc := pcMask t (h.pc + 4) } s) ∧
    (pcMask t x.stop = h.pc → x.count ≠ 1 →
      ezAdvance t s = setTh t { h with pc := pcMask t x.start, loops := h.loops.set d { x with count := x.count - 1 } } s) ∧
    (pcMask t x.stop = h.pc → x.count = 1 → d = 0 →
      ezAdvance t s = setTh t { h with pc := pcMask t (h.pc + 4), ldepth := 0, loops := h.loops.set 0 { x with count := 0 } } s))

/-- An access that issues is UNMAPPED or MISALIGNED, or refused by protection, and else joins the thread's operations and the PC
moves on. IN and OUT wait for the thread's operations; they read or write the port, are BAD_PORT or PRIVILEGE, or wait at it,
as accesses of the mailboxes and locks do until the next cycle serves them (log 33). LDC and STC reach instruction memory. A
wait that can complete does, else the thread waits. Taking an exception saves the address, code, value and modes, and goes to
VBASE, or is a double fault; SYS and EVENT take one, ERET returns to EPC with the saved modes. On a lockstep mismatch the
policy core stops and a restart begins. (R329; R330; R331; R332; R334; R335; R337; R338; R340; 11 R290; 11 R297; 13 R344) -/
def Obligations.EztielMemoryPortsAndExceptions : Prop :=
  (∀ (s : State) (t : Nat) (o : MemOp) (need : List Nat),
    (dataSpace t o.addr = none → dataOp t o need s = (.fault 1 o.addr, s)) ∧
    (∀ sp, dataSpace t o.addr = some sp →
      (o.addr.toNat % o.width ≠ 0 → dataOp t o need s = (.fault 2 o.addr, s)) ∧
      (o.addr.toNat % o.width = 0 → (∀ c, mpuFault s t false need o.addr = some c → dataOp t o need s = (.fault c o.addr, s)) ∧
        (mpuFault s t false need o.addr = none → (sp = 0 → localPoisoned s t o.addr = false) → (sp = 1 → inFlight t (thOf s t) < 16) →
          dataOp t o need s = (.seq, setTh t { thOf s t with ops := (thOf s t).ops ++ [o] } s))))) ∧
  (∀ (s : State) (t : Fin 97) (rd ra rb : Fin 32) (imm : BitVec 16),
    let c := countIssue t s
    let h := thOf c t
    let a := gR h ra + imm.signExtend 32
    let does (i : Instr) (o : MemOp) (need : List Nat) : Prop :=
      (∀ u, dataOp t o need c = (.seq, u) → exec i s = .next (advanced t u)) ∧
      (∀ k x u, dataOp t o need c = (.fault k x, u) → exec i s = .next (thFault t k x u))
    let load (w : Nat) (sgn : Bool) : MemOp := ⟨.load, a, w, sgn, rd, 0, false, h.pc⟩
    let store (w : Nat) : MemOp := ⟨.store, a, w, false, 0, (gR h rd).setWidth 64, false, h.pc⟩
    (issues t [rd, ra] s →
      does (.ldb t rd ra imm) (load 1 true) [2] ∧ does (.ldbu t rd ra imm) (load 1 false) [2] ∧ does (.ldh t rd ra imm) (load 2 true) [2] ∧
      does (.ldhu t rd ra imm) (load 2 false) [2] ∧ does (.ldw t rd ra imm) (load 4 false) [2] ∧
      does (.stb t rd ra imm) (store 1) [3] ∧ does (.sth t rd ra imm) (store 2) [3] ∧ does (.stw t rd ra imm) (store 4) [3] ∧
      (imemFault c t [2] a = none → instrPoisoned c t a = false →
        exec (.ldc t rd ra imm) s = .next (advanced t (setTh t (gW rd (instrWord c t a) { h with ov := h.ov || false }) (eccCorrect t true a.toNat 4 c)))) ∧
      (t.val = 96 → supMode c = true → imemFault c t [3] a = none → exec (.stc t rd ra imm) s = .next (advanced t (polIWrite a.toNat [gR h rd] c))) ∧
      (t.val ≠ 96 → exec (.stc t rd ra imm) s = .next (thFault t 0x0A 0 c)) ∧
      (h.ops = [] → let p := portNum h ra imm
        (∀ x u, portIn t p c = .done x u → mbxRank true p 0 = none → exec (.inPort t rd ra imm) s = .next (advanced t (setTh t (gW rd x (thOf u t)) u))) ∧
        (∀ x u, portIn t p c = .done x u → mbxRank true p 0 ≠ none → exec (.inPort t rd ra imm) s = .next (ioWait t true p rd 0 c)) ∧
        (portIn t p c = .bad → exec (.inPort t rd ra imm) s = .next (thFault t 0x09 (BitVec.ofNat 32 p) c)) ∧
        (portIn t p c = .priv → exec (.inPort t rd ra imm) s = .next (thFault t 0x11 (BitVec.ofNat 32 p) c)) ∧
        (portIn t p c = .wait → exec (.inPort t rd ra imm) s = .next (ioWait t true p rd 0 c)) ∧
        (∀ x u, portOut t p (gR h rd) c = .done x u → mbxRank false p (gR h rd) = none → exec (.outPort t rd ra imm) s = .next (advanced t u)) ∧
        (∀ x u, portOut t p (gR h rd) c = .done x u → mbxRank false p (gR h rd) ≠ none → exec (.outPort t rd ra imm) s = .next (ioWait t false p 0 (gR h rd) c)) ∧
        (portOut t p (gR h rd) c = .wait → exec (.outPort t rd ra imm) s = .next (ioWait t false p 0 (gR h rd) c)))) ∧
    (issues t ([rd.val, ra.val, rb.val] ++ []) s → does (.aadd t rd ra rb false) ⟨.add, gR h ra, 4, false, rd, (gR h rb).setWidth 64, false, h.pc⟩ [2, 3] ∧
      does (.aswp t rd ra rb false) ⟨.swap, gR h ra, 4, false, rd, (gR h rb).setWidth 64, false, h.pc⟩ [2, 3]) ∧
    (issues t ([rd.val, ra.val, rb.val] ++ [rd.val + 1, rb.val + 1]) s → let v : W64 := gR h (rb + 1) ++ gR h rb
      (rd.val % 2 = 1 ∨ rb.val % 2 = 1 → exec (.aadd t rd ra rb true) s = .next (thFault t 0x0A 0 c)) ∧
      (rd.val % 2 = 0 → rb.val % 2 = 0 → does (.aadd t rd ra rb true) ⟨.add, gR h ra, 8, false, rd, v, false, h.pc⟩ [2, 3] ∧
        does (.aswp t rd ra rb true) ⟨.swap, gR h ra, 8, false, rd, v, false, h.pc⟩ [2, 3])) ∧
    (issues t [rd] s → h.ops = [] →
      (exec (.inSpecial t rd 0) s = .next (advanced t (setTh t (gW rd (tsrOf h) { h with ov := h.ov || false }) c)) ∧
        exec (.inSpecial t rd 1) s = .next (advanced t (setTh t (gW rd h.lk { h with ov := h.ov || false }) c)) ∧
        exec (.outSpecial t rd 1) s = .next (advanced t (setTh t { h with lk := gR h rd, lvalid := true } c))) ∧
      (t.val = 96 → supMode c = true → exec (.outSpecial t rd 0x14) s =
        .next (advanced t { c with pol := { c.pol with vbase := gR h rd &&& 0x7FF00 } })) ∧
      (t.val = 96 → supMode c = false → exec (.outSpecial t rd 0x14) s = .next (thFault t 0x11 0 c))) ∧
    (issues t [rd] s → (∀ u, waitqTry t rd c = some u → exec (.waitq t rd) s = .next (advanced t (setTh t { thOf u t with timeout := none } u))) ∧
      (waitqTry t rd c = none → exec (.waitq t rd) s = .next (setTh t { h with wait := .waitq rd } c)) ∧
      (atOrAfter (c.time.now.setWidth 32) (gR h rd) = true → exec (.waitt t rd) s = .next (advanced t c)) ∧
      (atOrAfter (c.time.now.setWidth 32) (gR h rd) = false → exec (.waitt t rd) s = .next (setTh t { h with wait := .waitt (gR h rd) } c))) ∧
    (t.val < 96 → issues t ([rd.val, ra.val] ++ if t.val = 96 then [rd.val + 1, ra.val + 1] else []) s → let k : W64 := (gR h ra &&& 0x1FFFF).setWidth 64
      (∀ u, waiteTry t k rd c = some u → exec (.waite t rd ra) s = .next (advanced t (setTh t { thOf u t with timeout := none } u))) ∧
      (waiteTry t k rd c = none → exec (.waite t rd ra) s = .next (setTh t { h with wait := .waite k rd } c))) ∧
    (∀ code : BitVec 10, issues t [] s →
      (t.val = 96 → exec (.sys t code) s = .next (excTake false 0x10 (BitVec.ofNat 32 code.toNat) (thOf (ezAdvance t c) t).pc (ezAdvance t c))) ∧
      (t.val ≠ 96 → exec (.sys t code) s = .next (thFault t 0x0A 0 c) ∧ exec (.eret t) s = .next (thFault t 0x0A 0 c)) ∧
      (t.val = 96 → supMode c = false → exec (.eret t) s = .next (thFault t 0x11 0 c)) ∧
      (t.val = 96 → supMode c = true → ∃ m : BitVec 6, exec (.eret t) s = .next (jumped t c.pol.epc { c with pol := { c.pol with mode := m } }) ∧
        m.getLsbD 0 = c.pol.mode.getLsbD 1 ∧ m.getLsbD 2 = c.pol.mode.getLsbD 3 ∧ m.getLsbD 4 = false ∧ m.getLsbD 5 = c.pol.mode.getLsbD 5))) ∧
  (∀ (s : State) (imp : Bool) (code : Nat) (eval epc : W32),
    (s.pol.mode.getLsbD 4 = true → excTake imp code eval epc s = restartCounted 7 (raise 265 (thStop 96 (setB .POL_STAT 0 0 0x20 s)))) ∧
    (s.pol.mode.getLsbD 4 = false → ∃ m : BitVec 6, excTake imp code eval epc s = { s with pol := { s.pol with
        th := { cancelWait s.pol.th with pc := s.pol.vbase }, mode := m, epc := epc, eval := eval, ecause := BitVec.ofNat 32 (code + ofBool imp * 256) } } ∧
      m.getLsbD 0 = true ∧ m.getLsbD 1 = s.pol.mode.getLsbD 0 ∧ m.getLsbD 2 = false ∧ m.getLsbD 3 = s.pol.mode.getLsbD 2 ∧ m.getLsbD 4 = true ∧
      m.getLsbD 5 = s.pol.mode.getLsbD 5)) ∧
  (∀ (s : State), (∀ n, eventDue s = some n → exec .event s = .next (excTake false 0x16 (BitVec.ofNat 32 n) (thOf s 96).pc s)) ∧
    (running s = true → fbState s.pol.th.fb ≠ 0 → exec .lockstepMismatch s =
      .next (restartCounted 6 (thStop 96 (raise 264 (setB .POL_STAT 0 0 0x10 s))))))

/-- The word that Tables 12.3 to 12.13 give an instruction, with every operand at every value its encoding admits, decodes to the
meaning of that instruction; and a word that decodes is the word of an instruction, whose meaning it decodes to, so that a
word with any bit set in an unused field, and every word in no table, is ILLEGAL. (R312; 12 Table 12.3; 12 Table 12.5; 12
Table 12.6; 12 Table 12.7; 12 Table 12.8; 12 Table 12.11) -/
def Obligations.WordsAndInstructionsAgree : Prop :=
  (∀ (i : Instr) (t : Fin 97) (w : W32), ezWord i = some (t, w) → ezDecode t w = some (exec i)) ∧
  (∀ (t : Fin 97) (w : W32) (f : State → Res), ezDecode t w = some f → ∃ i, ezWord i = some (t, w) ∧ f = exec i) ∧
  (∀ (t : Fin 97) (w : W32), ezDecode t w = none ↔ ∀ i, ezWord i ≠ some (t, w))

/-- A write of POL_CTRL starts the policy core (from OFF only where its levels are not held), or stops it; STARTING clears its
registers, sets MODE and clears the exception enables and timer, and takes PC and g29 from their registers. POL_LOAD completes
BUSY while the core is not OFF, BAD_PARAM outside the memory, and else writes the memory and starts the core on request.
POL_ENVELOPE switches the whole envelope or changes nothing. A due timer sets line 63. Port 0x727 fires source 268 with the
record. POL_TBL_CTRL copies an entry of tables 0x0D to 0x0F. Kicks restart the watchdog periods; the framework's kick of level
3 only once every placed instance has written its status block within the period. (R346; R347; R349; R371; R378; R423; 13
Table 13.18) -/
def Obligations.PolicyCore : Prop :=
  (∀ (s : State) (m : Fin 64) (v : W32), writes m .POL_CTRL s →
    let u := plainWrite .POL_CTRL 0 0 v s
    (bit v 0 = true → ¬ (u.pol.th.fb = 0 ∧ levelsBlocked u = true) →
      exec (.polEnable m v) s = .next (setTh 96 { u.pol.th with fb := fbEnable u.pol.th.fb } u)) ∧
    (bit v 0 = true → u.pol.th.fb = 0 → levelsBlocked u = true → exec (.polEnable m v) s = .next u) ∧
    (bit v 0 = false → exec (.polDisable m v) s = .next (setTh 96 (cancelWait { u.pol.th with fb := fbDisable u.pol.th.fb }) u))) ∧
  (∀ (s : State), let p := (polInit s).pol
    p.mode = 3 ∧ p.excEn = 0 ∧ p.tmrNext = none ∧ p.th.pc = pcMask 96 (rd s .POL_START_PC 0 0) ∧ gR p.th 29 = rd s .POL_START_SP 0 0 ∧
    (∀ n, n < 32 → n ≠ 29 → gR p.th n = 0) ∧ p.th.lk = 0 ∧ p.th.lvalid = false ∧ p.th.sdepth = 0 ∧ p.th.ldepth = 0 ∧ p.th.ov = false ∧
    p.th.dz = false ∧ (polInit s).stores = s.stores) ∧
  (∀ (s : State) (ring : Fin 10) (slot : Nat) (c : Cmd) (data : List W32), cmdStarts s ring slot 0x38 c →
    let g := begunCmd ring c.tag s
    let w := c.words
    let k : CmdRef := ⟨ring, slot, c.tag, 0x38⟩
    let space := cmdByte w 8
    let off := (wordAt w 3).toNat
    let len := (wordAt w 4).toNat
    let bad := 1 < space ∨ off % 4 ≠ 0 ∨ len % 4 ≠ 0 ∨ len < 4 ∨ (if space = 0 then 0x80000 else 0x200000) < off + len
    let go := bit (wordAt w 7) 0
    let busy := g.pol.th.fb ≠ 0 ∨ (go = true ∧ levelsBlocked g = true)
    let put := polMemWrite space off (hostWords (len / 4) false data) g
    (bad → exec (.polLoad ring slot data) s = .next (complete k stBadParam 0 g)) ∧
    (¬ bad → busy → exec (.polLoad ring slot data) s = .next (complete k stBusy 0 g)) ∧
    (¬ bad → ¬ busy → go = false → exec (.polLoad ring slot data) s = .next (complete k stOk 0 put)) ∧
    (¬ bad → ¬ busy → go = true → exec (.polLoad ring slot data) s = .next (polCtrlWrite 1
      (let u := wr .POL_START_SP 0 0 (wordAt w 9) (plainWrite .POL_START_PC 0 0 (wordAt w 8) put)
       { u with pol := { u.pol with loadCmd := some k } })))) ∧
  (∀ (s : State) (ring : Fin 10) (slot : Nat) (c : Cmd) (data : List W32), cmdStarts s ring slot 0x39 c →
    let g := begunCmd ring c.tag s
    let k : CmdRef := ⟨ring, slot, c.tag, 0x39⟩
    let ws := hostWords 64 false data
    let bad := ∃ a ∈ List.range 16, envBad a ((ws.drop (4 * a)).take 4) = true
    let u : State := { g with pol := { g.pol with envelope := envEntries ws } }
    let t := raise 269 (wr .POL_ENV_GEN 0 0 (rd u .POL_ENV_GEN 0 0 + 1)
      (wr64 .POL_ENV_TICK_LO .POL_ENV_TICK_HI 0 0 (now s) u))
    (bad → exec (.polEnvelope ring slot data) s = .next (complete k stBadParam 0 g)) ∧
    (¬ bad → exec (.polEnvelope ring slot data) s = .next (complete k stOk s.time.now t))) ∧
  (∀ (a : Nat) (e : List W32), envBad a e = true ↔
    (a = 0 ∨ a = 15) ∧ (∃ w ∈ e, w ≠ 0) ∨ ¬ (a = 0 ∨ a = 15) ∧ (wordAt e 0 &&& ~~~0xFF01 ≠ 0 ∨ wordAt e 3 &&& ~~~(envScope a) ≠ 0 ∨
      (a ∈ [1, 2, 3, 4, 9, 10, 11, 12] ∧ (wordAt e 2).toNat < (wordAt e 1).toNat) ∨ (a = 9 ∧ ((wordAt e 1).toNat < 32 ∨ 320 < (wordAt e 2).toNat)))) ∧
  (∀ s : State, running s = true →
    (polTimerDue s = true → s.pol.bcSync = true → starRunning s = true →
      exec .policyTimerExpiry s = .next (polLine 63 { s with pol := { s.pol with bcSeen := some s.star.tbc } })) ∧
    (∀ v, s.pol.bcSync = false → s.pol.tmrNext = some v → atOrAfter (s.time.now.setWidth 32) v = true → exec .policyTimerExpiry s =
      .next (polLine 63 { s with pol := { s.pol with tmrNext := if s.pol.tmrPeriod = 0 then none else some (v + s.pol.tmrPeriod) } })) ∧
    (polTimerDue s = false → exec .policyTimerExpiry s = .next s) ∧
    (supMode s = true → ∀ v, exec (.decisionRecord v) s = .next (raiseD 268 (bytesOfWords ((List.range 3).map (wordAt s.pol.decision))) s)) ∧
    (∀ t, supMode s = true → s.pwr.wdt4At = some t →
      exec .wdt4Kick s = .next { s with pwr := { s.pwr with wdt4At := some (BitVec.ofNat 64 s.ticks) } }) ∧
    (supMode s = true → s.pwr.wdt4At = none → exec .wdt4Kick s = .next s)) ∧
  (∀ (s : State) (m : Fin 64),
    (∀ t, writes m .GLB_WDT3_KICK s → (m = 3 → instancesReport s = true) → s.pwr.wdt3At = some t →
      exec (.wdt3Kick m) s = .next { s with pwr := { s.pwr with wdt3At := some (BitVec.ofNat 64 s.ticks) } }) ∧
    (writes m .GLB_WDT3_KICK s → (m = 3 → instancesReport s = true) → s.pwr.wdt3At = none → exec (.wdt3Kick m) s = .next s) ∧
    (m = 3 → instancesReport s = false → exec (.wdt3Kick m) s = .next s) ∧
    (writes m .POL_TBL_CTRL s →
      let sel := rd s .POL_TBL_SEL 0 m
      let id := fld sel 23 16
      let i := fld sel 12 0
      let e := nmGet [] (if bit sel 24 then s.cfg.shadow else s.cfg.active) (tblKey id i)
      ((id < 13 ∨ 15 < id ∨ tblCount id ≤ i) → exec (.polTblRead m) s = .next (setF .POL_TBL_CTRL 0 m 9 8 2 s)) ∧
      (13 ≤ id → id ≤ 15 → i < tblCount id → exec (.polTblRead m) s =
        .next (setF .POL_TBL_CTRL 0 m 9 8 0 ((List.range 8).foldl (fun s k => wr .POL_TBL_W k m (wordAt e k) s) s)))))

/-- An engine takes the next source frame of a route's queue as its consumer, frees its descriptors unless the queue flushes, and
updates every route on that queue that the frame names, under the set active at its stamp: a payload that ends before the
field is counted, else the field's value is placed, and a change leaves in a PDU on the route's destination queue. Bit k of a
field is the payload bit that R350 names. A due cyclic instant sends the route's PDU; a late source substitutes the route's
value, a change. (R350; R352; R353; R354; R11; 13 Table 13.3) -/
def Obligations.SignalRoutes : Prop :=
  (∀ (big : Bool) (l : List Byte) (a n : Nat),
    (l.length * 8 < a + n → sigGet big l a n = none) ∧
    (a + n ≤ l.length * 8 → n ≤ 32 → ∃ v, sigGet big l a n = some v ∧ (∀ i, n ≤ i → v.getLsbD i = false) ∧
      ∀ i, i < n → v.getLsbD i = (if big then (byteAt l ((a + n - 1 - i) / 8)).getLsbD (7 - (a + n - 1 - i) % 8)
        else (byteAt l ((a + i) / 8)).getLsbD ((a + i) % 8)))) ∧
  (∀ (s : State) (r : Nat) (e : List W32) (payload : List Byte) (stamp : W64),
    let field := sigGet (sgBig e) payload (fld (wordAt e 2) 13 0) (sgLen e)
    (field = none → sgUpdate payload stamp r e s = (false, gwBump (sgEngine e) true s)) ∧
    (∀ v, field = some v → sgUpdate payload stamp r e s =
      ((sgState s r).substituted || decide ((sgState s r).value ≠ v), setSig r ⟨v, true, false, stamp⟩ s))) ∧
  (∀ (e : List W32) (port ptag : Nat) (l : List Byte),
    let medium := fld (wordAt e 0) 1 0
    let src := fld (wordAt e 1) 28 0
    let eth := (port < 16 ∨ 20 ≤ port) ∧ ptag = src % 0x10000
    let can := (16 ≤ port ∧ port ≠ 18) ∧ canIde l = bit (wordAt e 0) 2 ∧ canId l = src
    let star := 18 ≤ port ∧ starSlot l = src % 1024
    (medium = 0 → sgPayload e port ptag l = if eth then some (l.drop (ethL3 l)) else none) ∧
    (medium = 1 → sgPayload e port ptag l = if can then some (canData l) else none) ∧
    (medium = 2 → sgPayload e port ptag l = if star then some (slice l 4 (starLen l)) else none)) ∧
  (∀ (s : State) (n q port ptag : Nat) (l : List Byte) (stamp : W64),
    let routes := sgRoutes s stamp
    let on := routes.filter fun x => sgEngine x.2 = n && sgSrc x.2 = q
    (∀ x, on = [x] →
      (sgPayload x.2 port ptag l = none → sgFrame n q port ptag l stamp s = s) ∧
      (∀ payload, sgPayload x.2 port ptag l = some payload → let u := sgUpdate payload stamp x.1 x.2 s
        ((u.1 && sgRule x.2 0) = false → sgFrame n q port ptag l stamp s = u.2) ∧
        ((u.1 && sgRule x.2 0) = true → sgFrame n q port ptag l stamp s = sendPdus routes [x] u.2))) ∧
    (let u := on.foldl (fun k x => match sgPayload x.2 port ptag l with
          | none => k
          | some payload => let w := sgUpdate payload stamp x.1 x.2 k.2
            (if w.1 && sgRule x.2 0 then k.1 ++ [x] else k.1, w.2)) (([] : List (Nat × List W32)), s)
     sgFrame n q port ptag l stamp s = sendPdus routes u.1 u.2)) ∧
  (∀ (s : State) (n q : Nat), let got := takePacket (.thread (4 * n + 3)) (qUse s q + 1) q (8 + n) [] false none s
    let free := if qFlushMode got.2 q = true then got.2 else (qRelease q (8 + n) got.2).2
    (got.1 = none → sgTake n q s = got.2) ∧
    (∀ l d, got.1 = some (l, true, d) → sgTake n q s = free) ∧
    (∀ l d, got.1 = some (l, false, d) → sgTake n q s =
      sgFrame n q (fld (dWord d 1) 10 6) (fld (dWord d 3) 31 16) l (widenStamp free (dWord d 2)) free)) ∧
  (∀ (s : State) (r : Fin 8192) (n : Fin 24) (q : Fin 4096),
    let names (e : List W32) : Prop := sgValid e = true ∧ sgEngine e = n ∧ sgSrc e = q
    let named := names (tbl s 13 r) ∨ ∃ x ∈ s.pol.sigPrev, names (nmGet [] x.2 (tblKey 13 r))
    (named → gwRuns s n = true → (sgTake n q s).mem.stall = none → exec (.signalSourceFrame r n q) s = .next (sgTake n q s)) ∧
    (named → gwRuns s n = true → exec (.signalSourceFrame r n q) s = .next (throughThaw (sgTake n q) 385 s)) ∧
    (¬ named → exec (.signalSourceFrame r n q) s = .next s) ∧
    (gwRuns s n = false → exec (.signalSourceFrame r n q) s = .next s)) ∧
  (∀ (s : State) (routes : List (Nat × List W32)) (x : Nat × List W32), let q := fld (wordAt x.2 3) 27 16
    let l := pduOf s (sgTemplate x.2) routes
    sendPdus routes [x] s = throughThaw (putPdu (sgEngine x.2) (sgTemplate x.2) q l) 385 (say (.pdu q l) s)) ∧
  (∀ (s : State) (e k q : Nat) (l : List Byte), let a := pduAddr e k
    let w := shWriteRun (.thread (4 * e + 3)) a l s
    let lost := decide (w.1 ≠ memOk) && decide (w.1 ≠ memLost)
    putPdu e k q l s = (qEnqueue q (8 + e) (4 * e + 3) (mkDesc
      [BitVec.ofNat 32 (a / 0x40000 * 2 ^ 18 + a % 0x40000), BitVec.ofNat 32 (3 * 2 ^ 30 + l.length % 2 ^ 14 * 2 ^ 16 + ofBool lost * 2 ^ 5),
       BitVec.ofNat 32 (now w.2), 0]) w.2).2) ∧
  (∀ (s : State) (r : Fin 8192), let e := tbl s 13 r
    let routes := sgRoutes s s.time.now
    (cyclicDue s e = false → exec (.signalCyclicSend r) s = .next s) ∧
    (cyclicDue s e = true → exec (.signalCyclicSend r) s = .next (sendPdus routes [(r.val, e)] s)) ∧
    (sgLate s r e = false → exec (.signalDeadline r) s = .next s) ∧
    (let u := gwBump (sgEngine e) false (setSig r { sgState s r with substituted := true } s)
     (sgLate s r e = true → sgRule e 0 = false → exec (.signalDeadline r) s = .next u) ∧
     (sgLate s r e = true → sgRule e 0 = true → exec (.signalDeadline r) s = .next (sendPdus (sgRoutes u u.time.now) [(r.val, e)] u))))

/-- Wake rules wake the union of their channels with the longest hold, where the envelope lets them, and enable their branches;
after a Thaw or a cold boot those of the recorded wake cause apply first; a passed hold sleeps the channel. A period measures,
then acts in order. A map doorbell is taken and its number written to the instance's map_sel. A recirculated record returns
tagged at F26, or is counted and dropped. (R355; R356; R362; R373; R374; R378; R382) -/
def Obligations.GatewayAndFramework : Prop :=
  (∀ (s : State) (g : Fin 8) (i : Nat), fwRuns s = true → let rs := wakeRules s g i
    let woken (c : Nat) := rs.filter fun e => bit (wordAt e 1) c
    let u := (List.range 32).foldl (fun s c => if woken c = [] then s else wakeChannel (longestHold ((woken c).map fun e => fld (wordAt e 3) 15 0)) c s) s
    exec (.wakeRuleApply g i) s = .next ((List.range 24).foldl (fun s n => if ∃ e ∈ rs, bit (wordAt e 2) n = true then wakeBranch n s else s) u)) ∧
  (∀ s : State, (s.pwr.causeDue = true → fwRuns s = true → causeApply s = wakeApply ((causeTriggers s).flatMap fun x => wakeRules s x.1 x.2)
      { s with pwr := { s.pwr with causeDue := false } }) ∧
    ((s.pwr.causeDue = false ∨ fwRuns s = false) → causeApply s = s) ∧
    (∀ k : Nat, k < 8 → bit (rd s .CLK_WAKE_CAUSE 0 0) k = true → (1, k) ∈ causeTriggers s) ∧
    (∀ k : Nat, k < 4 → (bit (rd s .CLK_WAKE_CAUSE 0 0) (8 + k) = true → (2, k) ∈ causeTriggers s) ∧
      (bit (rd s .CLK_WAKE_CAUSE 0 0) (12 + k) = true → (3, k) ∈ causeTriggers s))) ∧
  (∀ (s : State) (hold c : Nat), let v := putFld (rd s .CAN_SLEEP 0 c) 1 0 2
    let u := withWrite 3 .CAN_SLEEP 0 v (sleepWrite c v) (wr .CAN_CHSEL 0 3 (BitVec.ofNat 32 c) s)
    (mayGovern .CAN_SLEEP c v s = true → wakeChannel hold c s =
      { u with pol := { u.pol with wakeHold := nmSet (0, 0) u.pol.wakeHold c (hold, u.time.now) } }) ∧
    (mayGovern .CAN_SLEEP c v s = false → wakeChannel hold c s = u)) ∧
  (∀ (s : State) (n : Nat), let v := rd s .STAR_BR_CTRL 0 n ||| 1
    wakeBranch n s = withWrite 3 .STAR_BR_CTRL 0 v (starBrWrite n v) (wr .STAR_CHSEL 0 3 (BitVec.ofNat 32 n) s)) ∧
  (∀ (s : State) (c : Fin 32),
    (holdPassed s c = false → exec (.wakeRuleHoldExpiry c) s = .next s) ∧
    (holdPassed s c = true → let u : State := { s with pol := { s.pol with wakeHold := nmSet (0, 0) s.pol.wakeHold c (0, 0) } }
      let v := putFld (rd u .CAN_SLEEP 0 c) 1 0 1
      exec (.wakeRuleHoldExpiry c) s = .next (withWrite 3 .CAN_SLEEP 0 v (sleepWrite c v) (wr .CAN_CHSEL 0 3 (BitVec.ofNat 32 c) u)))) ∧
  (∀ (s : State) (acts : List AdaptAct), fwRuns s = true →
    let u := (actOrder acts).foldl adaptTake (measureAll s)
    exec (.adaptationPeriod acts) s = .next { u with pol := { u.pol with periods := u.pol.periods + 1 } }) ∧
  (∀ (s : State) (r : Reg) (key : Nat), allRegs.find? (fun x => x.ctorIdx = key % 1024) = some r → let i := key / 1024 % 1024
    let c := key / 2 ^ 20
    let total := if r.desc.per = 0 then key % 2 ^ 20 else key
    (measured r = false → measure1 s key = s) ∧
    (measured r = true → (∀ k < 4, (c64Reg k).1 ≠ r) → let u := wr r i c 0 s
      measure1 s key = { u with pol := { u.pol with
        stats := nmSet 0 u.pol.stats total ((nmGet 0 u.pol.stats total + (rd s r i c).toNat) % 2 ^ 64) } })) ∧
  (∀ (s : State) (a : AdaptAct), let w0 := BitVec.ofNat 32 (a.code.toNat + a.rule.toNat * 256 + s.pol.periods % 65536 * 65536)
    adaptTake s a = a.writes.foldl (fun s w => busWrite 3 w.1 4 w.2 s)
      (raiseD 268 (bytesOfWords [w0, a.measured, a.target]) { s with pol := { s.pol with decision := [w0, a.measured, a.target] } })) ∧
  (∀ (s : State) (inst : Nat) (p : Placement), s.pol.placement[inst]? = some p → running s = true → p.doorbell < 64 →
    (mbxOf s p.doorbell).full = true → let t := Fin.ofNat 97 (4 * p.engine)
    fbState (thOf s t).fb = 2 → let d := dbTake (.port t) p.doorbell s
    let sel := ofBool (bit d.1 0)
    let u : State := { d.2 with pol := { d.2.pol with mapSel := nmSet 0 d.2.pol.mapSel inst sel } }
    exec (.mapSwitch inst) s = .next (throughThaw (fun u => (shWriteRun (.thread (4 * p.engine)) (p.bank * 0x40000 + 16) (leBytes 4 sel) u).2) 385 u)) ∧
  (∀ (s : State) (q : Fin 4096), running s = true → qConsumer s q = 0x5A →
    let got := takePacket .fabric (qUse s q + 1) q 0x5A [] false none s
    (got.1 = none → got.2.mem.stall = none → exec (.recircPacket q) s = .next got.2) ∧
    (∀ b, got.1 = none → got.2.mem.stall = some b → exec (.recircPacket q) s = .next (bankTouch b s)) ∧
    (∀ l bad d, got.1 = some (l, bad, d) → let u := got.2
      let r := tagRecord (fld (dWord d 3) 23 16) userHw l u.time.now u.time.now u
      let drop := raise 280 (count32 .CRY_RECIRC_DROP 0 0 u)
      let back := fabTake (queueFrame q r.2.1 d r.2.2) (some (fld (dWord d 1) 15 13)) false none r.2.2
      (bad = true ∨ r.1 ≠ crOk → drop.mem.stall = none → exec (.recircPacket q) s = .next drop) ∧
      (bad = false → r.1 = crOk → back.mem.stall = none → exec (.recircPacket q) s = .next back))) ∧
  (∀ (f : State → State) (s : State) (n : Nat),
    ((f s).mem.stall = none → throughThaw f (n + 1) s = f s) ∧
    (∀ b, (f s).mem.stall = some b → throughThaw f (n + 1) s =
      throughThaw f n (setBank b { bankOf (bankTouch b s) b with pwr := 0, thawing := false } (bankTouch b s))))

/-- With the policy core ON, the framework first stages, checks and arms the stored configuration set, once no other identity
stages and no commit is armed; a set that fails is discarded. It then takes the loaded sections and places each instance: an
entry that breaks its rules reports PLACEMENT and its engines stay OFF, the banks of a good one are handed over and it waits.
A waiting instance whose banks are its own starts: its map doorbell is bound while bindings are open, its points are invalid,
its threads are enabled where the envelope lets them, and it reports STARTING. Ready follows the last. A request beyond the
limit of Table 14.2 for its kind is refused and counted, and every connection already accepted stays; within the limit it is
accepted; a close frees one. A status report serves the period's requests, writes the block with the words that the machine
counts in the instance's first bank (its place there is free, log 43), keeps it, and sends it and the statistics block on the
report queue where there is one. (R376; R377; R381; R382; R383; R431; R452; 17 R424; R375; R379; 14 Table 14.2; 14 Table 14.5) -/
def Obligations.InstancesStartAndReport : Prop :=
  (
  (∀ s : State, (fbState s.pol.th.fb ≠ 2 → fwAdvance s = s) ∧
    (∀ c, fbState s.pol.th.fb = 2 → s.pwr.storedSet = some c →
      (s.cfg.armed = none → s.cfg.stager = none → fwAdvance s = storedStage c s) ∧
      ((s.cfg.armed ≠ none ∨ s.cfg.stager ≠ none) → fwAdvance s = s)) ∧
    (fbState s.pol.th.fb = 2 → s.pwr.storedSet = none →
      (storedArmed s = true → fwAdvance s = s) ∧
      (storedArmed s = false → let u := if s.pwr.placePending = true then frameworkStart s else s
        let v := u.pwr.starting.foldl startInstance u
        fwAdvance s = if v.pwr.starting = [] ∧ v.pwr.booted = true then setB .GLB_STAT 0 0 1 v else v))) ∧
  (∀ (s : State) (c : ConfigSet), let new := entriesOver c.entries s.cfg.shadow
    let u := raise 33 { s with pwr := { s.pwr with storedSet := none } }
    (setCheck u new ≠ none → storedStage c s = { u with cfg := { u.cfg with shadow := u.cfg.active, stager := none, check := none } }) ∧
    (setCheck u new = none → let v := routesTake c.routes { u with cfg := { u.cfg with shadow := new, stager := some 3, check := some u.time.now } }
      storedStage c s = arm none (some (BitVec.ofNat 64 (nextMicro v (now v)))) none v)) ∧
  (∀ s : State, let u := s.pwr.sections.foldl loadSection s
    frameworkStart s = (List.range u.pol.placement.length).foldl placeInstance
      { u with pwr := { u.pwr with sections := [], placePending := false, starting := [] } }) ∧
  (∀ (s : State) (i : Nat) (p : Placement), s.pol.placement[i]? = some p →
    let u := (plBanks p).foldl (fun s b => plHand p b s) s
    let theirs := ∀ b ∈ plBanks p, countedOwner (bankOf u b) = BitVec.ofNat 8 (16 + p.engine)
    (plOk s i p = false → placeInstance s i = plReport i p 5 s) ∧
    (plOk s i p = true → ¬ theirs → placeInstance s i = plReport i p 5 u) ∧
    (plOk s i p = true → theirs → placeInstance s i = { u with pwr := { u.pwr with starting := u.pwr.starting ++ [i] } })) ∧
  (∀ (s : State) (p : Placement) (b : Nat),
    (plHolds p s b = true → plHand p b s = s) ∧
    (plHolds p s b = false → plHand p b s = memOwnWrite 3 (BitVec.ofNat 32 (2 ^ 31 + (16 + p.engine) * 65536)) (wr .MEM_CHSEL 0 3 (BitVec.ofNat 32 b) s))) ∧
  (∀ (s : State) (i : Nat) (p : Placement), s.pol.placement[i]? = some p →
    ((∃ b ∈ plBanks p, plHolds p s b = false) → startInstance s i = s) ∧
    ((∀ b ∈ plBanks p, plHolds p s b = true) →
      let u := { s with pwr := { s.pwr with starting := s.pwr.starting.filter (· ≠ i) },
                        pol := { s.pol with conns := s.pol.conns.filter (·.1 / 16 ≠ i), refused := nmErase s.pol.refused i } }
      let v := if bit (rd u .MBX_BIND_LOCK 0 0) 0 then u
        else wr .MBX_BIND 0 p.doorbell (BitVec.ofNat 32 (2 ^ 31 + (8 + p.engine) * 256 + p.sender)) u
      startInstance s i = plReport i p 1 ((plEngines p).foldl (fun s e =>
        if envEngine s e then [0, 1, 2, 3].foldl (fun s k => thEnable true (4 * e + k) s) s else s) (invalidate p v)))) ∧
  (∀ (s : State) (i : Nat), s.pol.placement[i]? = none → placeInstance s i = s ∧
    startInstance s i = { s with pwr := { s.pwr with starting := s.pwr.starting.filter (· ≠ i) } }) ∧
  (∀ (s : State) (i : Nat) (p : Placement) (state : Nat), plReport i p state s = { s with pol := { s.pol with
    reports := nmSet [] s.pol.reports i [BitVec.ofNat 32 (p.code % 256 + p.inst % 256 * 256 + state * 65536)] } })) ∧
  (
  (∀ (inst : Nat) (kinds : List (Nat × Nat × Bool)) (q : ConnReq) (s : State),
    (kinds[q.kind]? = none → connAsk inst kinds q s = s) ∧
    (∀ most size con, kinds[q.kind]? = some (most, size, con) → let n := connsOf s inst q.kind
      let beyond := most ≤ n ∨ size ≠ 0 ∧ size < q.size
      let put (k : Nat) : State := { s with pol := { s.pol with conns := nmSet 0 s.pol.conns (inst * 16 + q.kind) k } }
      (q.close = true → connAsk inst kinds q s = put (n - 1)) ∧
      (q.close = false → beyond → connAsk inst kinds q s =
        { s with pol := { s.pol with refused := nmSet 0 s.pol.refused inst (min 0xFFFFFFFF (nmGet 0 s.pol.refused inst + 1)) } }) ∧
      (q.close = false → ¬ beyond → connAsk inst kinds q s = put (n + 1)))) ∧
  (connKinds 1 = [(2, 0, false), (32, 0, true), (32, 0, true), (4096, 0, false)] ∧ connKinds 2 = [(32, 0, true), (8192, 0, false)] ∧
    connKinds 3 = [(4, 0, true), (32, 0, true), (8192, 0, false)] ∧ connKinds 4 = [(8, 0, true), (4, 0, false), (8192, 0, false)] ∧
    connKinds 5 = [(2, 0, false), (32, 0, true), (4096, 0, false)] ∧ connKinds 6 = [(32, 64, true), (128, 64, true)] ∧ connKinds 7 = [(8, 24, true)] ∧
    connKinds 8 = [(127, 0, true), (512, 0, false), (512, 0, false)] ∧ connKinds 9 = [(127, 0, true), (512, 0, false), (512, 0, false)] ∧
    connKinds 10 = [(1, 0, false), (32, 0, true), (2048, 0, false)] ∧ connKinds 11 = [(2, 1440, true)] ∧ connKinds 12 = [(8, 1440, true), (16, 0, true)]) ∧
  (∀ (s : State) (inst : Nat) (p : Placement) (words : List W32) (k : Nat), let b := statusBlock s inst p words
    wordAt b 0 = BitVec.ofNat 32 (p.code % 256 + p.inst % 256 * 256 + fld (wordAt words 0) 18 16 * 65536) ∧
    (k = 1 ∨ k = 4 ∨ k = 7 → wordAt b k = wordAt words k) ∧ (10 ≤ k → wordAt b k = 0) ∧
    wordAt b 8 = BitVec.ofNat 32 (now s) ∧ wordAt b 9 = BitVec.ofNat 32 (now s / 2 ^ 32) ∧
    wordAt b 2 = BitVec.ofNat 32 (connsUsed s inst (connKinds p.code) % 0x10000) ∧
    wordAt b 3 = BitVec.ofNat 32 (min 0xFFFFFFFF (nmGet 0 s.pol.refused inst)) ∧
    wordAt b 5 = BitVec.ofNat 32 (min 0xFFFFFFFF (gwCounts s p).1) ∧ wordAt b 6 = BitVec.ofNat 32 (min 0xFFFFFFFF (gwCounts s p).2)) ∧
  (∀ (s : State) (inst : Nat) (reqs : List ConnReq) (words : List W32) (p : Placement), s.pol.placement[inst]? = some p → fwRuns s = true →
    gwRuns s p.engine = true →
    let v := reqs.foldl (fun s q => connAsk inst (connKinds p.code) q s) s
    let ws := statusBlock v inst p words
    let x := statusWrite inst p ws v
    let u := say (.report ws) { x with pol := { x.pol with reports := nmSet [] x.pol.reports inst ws } }
    (reportQueue u = none → exec (.statusReport inst ⟨reqs, words⟩) s = .next u) ∧
    (∀ q, reportQueue u = some q → exec (.statusReport inst ⟨reqs, words⟩) s = .next
      ([bytesOfWords ws, statsBytes u].foldl (fun s l =>
        if l.isEmpty then s else throughThaw (rxDeliver q (fwPacket l s) false) 385 s) u))) ∧
  (∀ (inst : Nat) (p : Placement) (ws : List W32) (s : State), (p.banks = 0 → statusWrite inst p ws s = s) ∧
    (p.banks ≠ 0 → let w := shWriteRun (.thread (4 * p.engine)) (p.bank * 0x40000 + Config.statusPlace inst % 4096 * 64) (bytesOfWords ws) s
      w.2.mem.stall = none → statusWrite inst p ws s = w.2)) ∧
  (∀ (s : State) (inst : Nat) (reqs : List ConnReq) (words : List W32), s.pol.placement[inst]? = none →
    exec (.statusReport inst ⟨reqs, words⟩) s = .next s))

/-- A submitted request waits for crypto while a slot is free; one that cannot be read or that FEAT2 does not allow completes at
once. Crypto takes a waiting request, performs its operation and completes it with the operation's status (an act that meets a
bank asleep begins its thaw and leaves the request waiting): a completion is counted, fires its source and joins the thread's
completions, which a pop takes oldest first. A key serves by its type, usage and user. CMAC, GCM, SHA-256, HMAC, unwrapping,
derivation, erasing, random bytes and tags read, use the key and write as Table 13.10 says. Key slots are installed and erased
by CRY_KEY_CTRL within its rules; the first write of CRY_PROV_LOCK counts. (R360; R363; R364; R365; R366; R367; R368; 13 Table
13.10; 13 Table 13.12; 13 Table 13.19) -/
def Obligations.CryptoAndKeys : Prop :=
  (∀ (s : State) (t : Fin 97) (addr : W32), running s = true →
    (cryFree s t = 0 → exec (.cryptoSubmit t addr) s = .next s) ∧
    (cryFree s t ≠ 0 → exec (.cryptoSubmit t addr) s = .next (throughThaw (crySubmit t addr) 385 s)) ∧
    (∀ st l u, cryBlock t addr s = (st, l, u) →
      let w0 := wordAt (wordsOfBytes 8 l) 0
      let rtag := BitVec.ofNat 8 (fld w0 15 8)
      let allowed := fld w0 7 0 < 32 ∧ bit (if t.val = 96 then 0xFFE else 0x8FE) (fld w0 7 0) = true
      (st ≠ crOk → crySubmit t addr s = cryComplete t st 0 u) ∧
      (st = crOk → ¬ allowed → crySubmit t addr s = cryComplete t crNotPermitted rtag u) ∧
      (st = crOk → allowed → crySubmit t addr s = setTh t { thOf u t with cry := (thOf u t).cry ++ [⟨u.eng.nextReq, wordsOfBytes 8 l, false⟩] }
        { u with eng := { u.eng with nextReq := u.eng.nextReq + 1 } })) ∧
    ((thOf s t).cryDone = [] → exec (.cryptoCompletionPop t) s = .next (reply (thMaster t) 0 s)) ∧
    (∀ st tag r, (thOf s t).cryDone = (st, tag) :: r → exec (.cryptoCompletionPop t) s = .next (reply (thMaster t)
      (BitVec.ofNat 32 (2 ^ 31 + st.toNat * 2 ^ 16 + tag.toNat)) (setTh t { thOf s t with cryDone := r } s)))) ∧
  (∀ (s : State) (t st : Nat) (rtag : Byte), let u := cryComplete t st rtag s
    thOf u t = { thOf s t with cryDone := (thOf s t).cryDone ++ [(BitVec.ofNat 8 st, rtag)] } ∧ u.cry = s.cry ∧ u.stores = s.stores ∧ u.mem = s.mem) ∧
  (∀ (s : State) (t : Fin 97) (k : Nat) (r : CryReq), running s = true → (thOf s t).cry[k]? = some r →
    let op := fld (rqW r 0) 7 0
    let done (f : State → Nat × State) : Host.Outcome State Fault Refusal := .next (unlessAsleep (fun u =>
      let x := f (setTh t { thOf s t with cry := (thOf s t).cry.filter (·.id ≠ r.id) } u)
      cryComplete t x.1 (BitVec.ofNat 8 (fld (rqW r 0) 15 8)) x.2) s)
    (op = 1 → exec (.tag t k) s = done (cryTag t r)) ∧ (op = 2 → exec (.verify t k) s = done (cryVerify t r)) ∧
    (op = 3 → exec (.cmac t k) s = done (cryCmac t r)) ∧ (op = 4 → exec (.gcmEncrypt t k) s = done (cryGcmEnc t r)) ∧
    (op = 5 → exec (.gcmDecrypt t k) s = done (cryGcmDec t r)) ∧ (op = 6 → exec (.sha256 t k) s = done (crySha r)) ∧
    (op = 7 → exec (.hmacSha256 t k) s = done (cryHmac t r)) ∧ (op = 8 → exec (.keyUnwrap t k) s = done (cryUnwrap t r)) ∧
    (op = 9 → exec (.keyDerive t k) s = done (cryDerive t r)) ∧ (op = 10 → exec (.keyErase t k) s = done (cryErase t r)) ∧
    (op = 11 → exec (.random t k) s = done (cryRandom r))) ∧
  (∀ (f : State → State) (s : State), ((f s).mem.stall = none → unlessAsleep f s = f s) ∧ (∀ b, (f s).mem.stall = some b → unlessAsleep f s = bankTouch b s)) ∧
  (∀ (k : KeySlot) (types : List Nat) (usage user : Nat),
    (k.loaded = false → keyStatus k types usage user = crKeyEmpty) ∧
    (k.loaded = true → fld k.attr 1 0 ∈ types → bit k.attr usage = true → bit k.attr user = true → keyStatus k types usage user = crOk) ∧
    (k.loaded = true → (fld k.attr 1 0 ∉ types ∨ bit k.attr usage = false ∨ bit k.attr user = false) → keyStatus k types usage user = crKeyUsage)) ∧
  (∀ (s : State) (t : Nat) (r : CryReq), let k := rqSlot s r
    let n := fld (rqW r 3) 15 0
    let a := fld (rqW r 3) 31 16
    let tagKey := keyStatus k [1, 2] useTag (thUser t)
    let gcmKey := keyStatus k [1, 2] useGcm (thUser t)
    let macKey := keyStatus k [3] useHmac (thUser t)
    (tagKey ≠ crOk → cryCmac t r s = (tagKey, s)) ∧ (gcmKey ≠ crOk → cryGcmEnc t r s = (gcmKey, s) ∧ cryGcmDec t r s = (gcmKey, s)) ∧
    (macKey ≠ crOk → cryHmac t r s = (macKey, s)) ∧
    (∀ st l u, cryRead (rqW r 2) n s = (st, l, u) →
      (tagKey = crOk → st ≠ crOk → cryCmac t r s = (st, u)) ∧
      (tagKey = crOk → st = crOk → cryCmac t r s = cryWrite (rqW r 4) (cmacOf (keyBytes k) l) u) ∧
      (st = crOk → crySha r s = cryWrite (rqW r 4) (sha256Of l) u) ∧ (st ≠ crOk → crySha r s = (st, u)) ∧
      (macKey = crOk → st = crOk → cryHmac t r s = cryWrite (rqW r 4) (hmacOf (keyBytes k) l) u)) ∧
    (∀ l u, cryRead (rqW r 2) (12 + a + n) s = (crOk, l, u) → gcmKey = crOk →
      let ct := gcmText (keyBytes k) (l.take 12) (l.drop (12 + a))
      cryGcmEnc t r s = cryWrite (rqW r 4) (ct ++ gcmTag (keyBytes k) (l.take 12) (slice l 12 a) ct) u) ∧
    (∀ l u, cryRead (rqW r 2) (12 + a + n + 16) s = (crOk, l, u) → gcmKey = crOk →
      let ct := slice l (12 + a) n
      let good := gcmTag (keyBytes k) (l.take 12) (slice l 12 a) ct = l.drop (12 + a + n)
      (good → cryGcmDec t r s = cryWrite (rqW r 4) (gcmText (keyBytes k) (l.take 12) ct) u) ∧ (¬ good → cryGcmDec t r s = (crAuthFail, u))) ∧
    (s.cry.rngFailed = true → cryRandom r s = (crBadReq, s))) ∧
  (∀ (s : State) (r : CryReq) (key : List Byte), let to_ := fld (rqW r 0) 31 24
    let ty := fld (slotOf s to_).attr 1 0
    let slot := fld (rqW r 0) 23 16
    ((ty = 0 ∨ key.length ≠ typeLen ty) → cryInstall r key s = (crBadReq, s)) ∧
    (ty ≠ 0 → key.length = typeLen ty → cryInstall r key s =
      (crOk, raise 276 (setSlot to_ { slotOf s to_ with loaded := true, key := BitVec.ofNat 256 (ofLe key) } s))) ∧
    (∀ f : State → Cry, cryGoverned 96 slot r f s = match envCheck 12 (inRange s 12 slot) true s with
      | some why => (crNotPermitted, govRefuse 12 why 16 slot (rqW r 0) s)
      | none => f (govAccept 12 16 slot (rqW r 0) s)) ∧
    cryErase 96 r s = cryGoverned 96 slot r (fun s => (crOk, keyEraseAt slot s)) s ∧
    (∀ n, (slotOf s n).loaded = true → keyEraseAt n s = raise 277 (setSlot n { slotOf s n with loaded := false, key := 0 } s)) ∧
    (∀ n, (slotOf s n).loaded = false → keyEraseAt n s = s)) ∧
  (∀ (s : State) (m : Fin 64) (v : W32), writes m .CRY_KEY_CTRL s →
    let k := keySel m s
    let key := ((List.range 8).map fun w => nmGet 0 s.cry.keyData w)
    let after (u : State) := if bit v 1 then keyStat m 0 (keyEraseAt k u) else u
    (bit v 0 = false → bit v 1 = true → exec (.keyCtrlErase m v) s = .next (keyStat m 0 (keyEraseAt k s))) ∧
    (bit v 0 = true → bit (rd s .CRY_PROV_LOCK 0 0) 0 = true → exec (.keyInstall m v) s = .next (after (keyStat m 1 s))) ∧
    (bit v 0 = true → bit (rd s .CRY_PROV_LOCK 0 0) 0 = false →
      (fld (slotOf s k).attr 1 0 = 0 → exec (.keyInstall m v) s = .next (after (keyStat m 2 s))) ∧
      (fld (slotOf s k).attr 1 0 ≠ 0 → exec (.keyInstall m v) s =
        .next (after (keyStat m 0 (keyInstallTo k ((bytesOfWords key).take (typeLen (fld (slotOf s k).attr 1 0))) s)))))) ∧
  (∀ (s : State) (v : W32), running s = true → regBad true 3 .CRY_KEY_CTRL s = false →
    let slot := fld (rd s .CRY_KEY_SEL 0 3) 7 0
    (∀ why, envCheck 12 (inRange s 12 slot) true s = some why → (bit v 0 = true → exec (.keyInstall 3 v) s =
        .next (keyStat 3 3 (govRefuse 12 why 16 0x40 v s))) ∧
      (bit v 1 = true → exec (.keyCtrlErase 3 v) s = .next (keyStat 3 3 (govRefuse 12 why 16 0x40 v s)))) ∧
    (envCheck 12 (inRange s 12 slot) true s = none → let u := govAccept 12 16 0x40 v s
      (bit v 0 = true → bit v 1 = false → exec (.keyInstall 3 v) s = .next (keyStat 3 3 u)) ∧
      (bit v 0 = false → bit v 1 = true → exec (.keyCtrlErase 3 v) s = .next (keyStat 3 0 (keyEraseAt (keySel 3 u) u))))) ∧
  (∀ (s : State) (m : Fin 64) (v : W32), writes m .CRY_PROV_LOCK s →
    (s.cry.provWritten = true → exec (.provLockWrite m v) s = .next s) ∧
    (s.cry.provWritten = false → exec (.provLockWrite m v) s =
      .next (wr .CRY_PROV_LOCK 0 0 (v &&& 1) { s with cry := { s.cry with provWritten := true } })))

/-- A post by the bound sender fills an empty channel with its message, its timeout and the receiver's source, and answers FULL at
a full one; a take by the bound receiver empties it, its status telling STALE and ORPHAN, and answers EMPTY; a cancel by the
sender empties a full channel and is TOO_LATE at an empty one. Any other party gets NOT_BOUND, counted with source 302. An
overdue message sets its mark with source 298 once. A read of a free lock acquires it, its holder's 0 releases it, another
write is a misuse, a force breaks a held lock. Bindings are written until they are locked; the lock's first write counts.
(R384; R385; R386; R387; R388; R390; R391; R394; R395; R397; 15 Table 15.1; 15 Table 15.2) -/
def Obligations.MailboxesAndLocks : Prop :=
  (∀ (s : State) (via : Via) (ch tmo : Nat) (words : List W32 → List W32), let m := viaMaster via
    let u := mbxOverdue ch s
    let k := mbxOf u ch
    let stranger := mbxPut via ch mbNotBound (mbxUnbound m ch s)
    let due := u.time.now + BitVec.ofNat 64 (mbxTmo u ch tmo * 1000)
    (isSender s ch m = false → mbxPost via ch tmo words s = stranger ∧ mbxCancel via ch s = stranger ∧ (∀ w v, blockWrite via ch w v s = stranger)) ∧
    (isSender s ch m = true → k.full = true → mbxPost via ch tmo words s = mbxPut via ch mbFull u ∧ (∀ w v, blockWrite via ch w v s = mbxPut via ch mbFull u) ∧
      mbxCancel via ch s = mbxPut via ch mbOk (setMbx ch { k with full := false, timeout := false, stale := false, orphan := false, due := none } u)) ∧
    (isSender s ch m = true → k.full = false →
      mbxPost via ch tmo words s = raise (postSource ch) (mbxPut via ch mbOk (setMbx ch
        { k with words := words k.words, full := true, timeout := false, stale := false, orphan := false, due := some due } u)) ∧
      (∀ w v, blockWrite via ch w v s = mbxPut via ch mbOk (setMbx ch { k with words := trimZeros (((List.range 16).map (wordAt k.words)).set w v) } u)) ∧
      mbxCancel via ch s = mbxPut via ch mbTooLate (setMbx ch { k with full := false, timeout := false, stale := false, orphan := false, due := none } u)) ∧
    (isReceiver s ch m = false → mbxTake via ch s = (0, stranger) ∧ (∀ w, blockRead via ch w s = (0, stranger))) ∧
    (isReceiver s ch m = true → (∀ w, blockRead via ch w s = (wordAt (mbxOf s ch).words w, s)) ∧
      (k.full = false → mbxTake via ch s = (0, mbxPut via ch mbEmpty u)) ∧
      (k.full = true → let st := if k.stale && k.orphan then 7 else if k.stale then 5 else if k.orphan then 6 else 0
        mbxTake via ch s = (wordAt k.words 0, mbxPut via ch st (setMbx ch { k with full := false, stale := false, orphan := false, due := none } u))))) ∧
  (∀ (s : State) (ch : Fin 80), let k := mbxOf s ch
    (∀ d, running s = true → k.due = some d → k.full = true → d ≤ s.time.now →
      exec (.mailboxTimeout ch) s = .next (raise 298 (setMbx ch { k with timeout := true, due := none } s))) ∧
    (∀ d, running s = true → k.due = some d → s.time.now < d → exec (.mailboxTimeout ch) s = .next s) ∧
    (running s = true → k.due = none → exec (.mailboxTimeout ch) s = .next s) ∧
    (∀ t : Fin 97, running s = true → exec (.mailboxQuery t ch) s = .next (setTh t { thOf s t with mbxCh := some ch.val } s))) ∧
  (∀ (s : State) (via : Via) (v : W32), let m := viaMaster via
    (∀ ch : Fin 64, mbxSelected via ch s = true →
      (writesVia via .MBX_DB_DATA s → exec (.doorbellPost via ch v) s = .next (mbxPost via ch 0 (fun _ => trimZeros [v]) s)) ∧
      (readsVia via .MBX_DB_DATA s → exec (.doorbellTake via ch) s = .next (reply m (mbxTake via ch s).1 (mbxTake via ch s).2))) ∧
    (∀ ch : Fin 80, mbxSelected via ch s = true → writesVia via .MBX_CMD s → exec (.mailboxCancel via ch) s = .next (mbxCancel via ch s)) ∧
    (let ch := viaBlock via s
     (∀ w : Fin 16, writesVia via .MBX_BLK_W s → (64 ≤ ch → exec (.blockWordWrite via w v) s = .next (blockWrite via ch w v s)) ∧
       (ch < 64 → exec (.blockWordWrite via w v) s = .next s)) ∧
     (writesVia via .MBX_CMD s →
       (64 ≤ ch → exec (.blockTake via) s = .next (mbxTake via ch s).2 ∧ ∀ tmo, exec (.blockPost via tmo) s = .next (mbxPost via ch tmo id s)) ∧
       (ch < 64 → exec (.blockTake via) s = .next (mbxPut via ch mbWrongKind s) ∧ ∀ tmo, exec (.blockPost via tmo) s = .next (mbxPut via ch mbWrongKind s)))) ∧
    (∀ k : Fin 32,
      (readsVia via .MBX_LOCK s → (lockOf s k = none → exec (.lockRead via k) s = .next (reply m 0 (setLock k (some m) s))) ∧
        (∀ h, lockOf s k = some h → exec (.lockRead via k) s = .next (reply m (BitVec.ofNat 32 (0x80 + h)) s))) ∧
      (writesVia via .MBX_LOCK s → (fld v 7 0 = 0 → lockOf s k = some m → exec (.lockRelease via k v) s = .next (setLock k none s)) ∧
        ((fld v 7 0 ≠ 0 ∨ lockOf s k ≠ some m) → exec (.lockRelease via k v) s = .next (mbxUnbound m (0x80 + k) s))))) ∧
  (∀ (s : State) (m : Fin 64) (v : W32),
    (writes m .MBX_LOCK_FORCE s → exec (.lockForce m v) s = .next (lockForce v s) ∧
      (∀ k : Fin 32, v = oneBit k → (lockOf s k = none → lockForce v s = s) ∧
        (lockOf s k ≠ none → lockForce v s = raise 301 (setB .MBX_LOCK_BROKEN 0 0 (oneBit k) (setLock k none s))))) ∧
    (writes m .MBX_BIND s → let ch := chanOf .MBX_BIND m s
      let no := bit (rd s .MBX_BIND_LOCK 0 0) 0 = true ∨ 35 < fld v 5 0 ∨ 35 < fld v 13 8
      (no → exec (.mbxBindWrite m v) s = .next (setB .MBX_STAT 0 ch 0x100 s)) ∧
      (¬ no → exec (.mbxBindWrite m v) s = .next (plainWrite .MBX_BIND 0 ch v s))) ∧
    (writes m .MBX_BIND_LOCK s → let u : State := { s with mbx := { s.mbx with bindLockWritten := true } }
      (s.mbx.bindLockWritten = true → exec (.mbxBindLockWrite m v) s = .next s) ∧
      (s.mbx.bindLockWritten = false → bit v 0 = true → exec (.mbxBindLockWrite m v) s = .next (raise 303 (wr .MBX_BIND_LOCK 0 0 1 u))) ∧
      (s.mbx.bindLockWritten = false → bit v 0 = false → exec (.mbxBindLockWrite m v) s = .next u)))

/-- Captures of one tick take FIFO entries in ascending source, software records after them by master; when the FIFO is full the
last in that order is lost and counted. While the recorder works, the oldest captured event becomes a record: its words hold
the next sequence number, the operating time, code and source, the data, and the CRC with the commit marker; it is staged (a
staging bank asleep is thawed first), and the first 256 of a power cycle join its boot slot. A page of records goes to flash;
a failure is tried again, and a second one marks the sector bad. An erase drops its sector's records. The counter area is
written hourly and when power fails. REC_CTRL enables the recorder only with its staging bank. Software records need code bit
15. Reads and snapshots give the record, or all ones. (R398; R400; R401; R402; R403; R405; R407; R408; R409; R411; R412; 16
Table 16.1) -/
def Obligations.RecorderActs : Prop :=
  (∀ (e : RecEntry) (seq : W32) (cycle : BitVec 22) (boot : Bool), let w := recWords e seq cycle boot
    let head := [seq, e.opS, BitVec.ofNat 32 (e.opMs.toNat + cycle.toNat * 1024),
      BitVec.ofNat 32 (e.code.toNat + e.source.toNat * 2 ^ 16 + ofBool e.sync * 2 ^ 24 + ofBool e.sw * 2 ^ 25 + ofBool boot * 2 ^ 26)] ++ wordsOfBytes 3 e.data
    w = head ++ [BitVec.ofNat 32 (crc16 (bytesOfWords head) + 0x5A3C * 65536)]) ∧
  (∀ (s : State) (code : BitVec 16) (src : Byte) (sw : Bool) (d : List Byte), let r := s.recorder
    let e : RecEntry := ⟨code, src, sw, bit (rd s .TIME_STAT 0 0) 0, r.opS, r.opMs, d⟩
    let n := r.fifo.length - r.fresh
    let l := capInsert e (r.fifo.drop n)
    (l.Perm (e :: r.fifo.drop n)) ∧
    ((r.fifo.drop n).Pairwise (fun x y => capKey x ≤ capKey y) → l.Pairwise fun x y => capKey x ≤ capKey y) ∧
    (r.fifo.length < 32 → recCapture code src sw d s = setRec { r with fifo := r.fifo.take n ++ l, fresh := r.fresh + 1 } s) ∧
    (32 ≤ r.fifo.length → ∀ h : l ≠ [], let x := (l.getLast h).code
      let lastOne := if r.lostNow = 0 || r.lastLost.toNat < x.toNat then x else r.lastLost
      let firstOne := if r.lost = 0 || (r.lost = r.lostNow && x.toNat < r.firstLost.toNat) then x else r.firstLost
      recCapture code src sw d s = count32 .REC_LOST_TOTAL 0 0 (setRec (
        { r with fifo := r.fifo.take n ++ l.dropLast, lost := r.lost + 1, lostNow := r.lostNow + 1, lastLost := lastOne, firstLost := firstOne }) s))) ∧
  (∀ (s : State) (e : RecEntry) (rest : List RecEntry), s.recorder.fifo = e :: rest →
    ((recWorks s = false ∨ 8192 ≤ s.recorder.staged.length) → exec .recordBuild s = .next s) ∧
    (recWorks s = true → s.recorder.staged.length < 8192 →
      ((recordBuild e s).mem.stall = none → exec .recordBuild s = .next (recordBuild e s)) ∧
      (∀ b, (recordBuild e s).mem.stall = some b → exec .recordBuild s = .next (bankTouch b s)) ∧
      let boot := decide (s.recorder.cycleRecs < 256)
      let w := recWords e s.recorder.nextSeq s.recorder.cycle boot
      ∀ st u, shWriteRun .recorder (stageAddr s s.recorder.nextSeq) (bytesOfWords w) s = (st, u) →
        (st ≠ memOk → recordBuild e s = u) ∧
        (st = memOk →
          let r := u.recorder
          let n := bootSlot u
          let v := lostPlace (setRec { r with fifo := r.fifo.drop 1, fresh := min r.fresh (r.fifo.length - 1), staged := r.staged ++ [w], nextSeq := r.nextSeq + 1, cycleRecs := min 256 (r.cycleRecs + 1), bootSlots := if boot then nmSet [] r.bootSlots n (nmGet [] r.bootSlots n ++ [w]) else r.bootSlots, buildAt := max (4 * u.ticks) r.buildAt + 50 } u)
          let x := raiseIf (r.cycleRecs = 255) 306 (raiseIf (e.code = 0x0200) 304 v)
          recordBuild e s = recPump (raiseIf (x.recorder.staged.length = 7169) 308 x)))) ∧
  (∀ s : State, let r := s.recorder
    let ready := recWorks s = true ∧ pageReady s = true ∧ r.erasing = false ∧ eraseNeeded s = false ∧ slotRead s = false ∧ recSector s ∉ r.badSectors
    let failed := raise 307 (count16 .REC_FLASH_ERR 0 0 s)
    let bad := setRec { failed.recorder with retry := false, erasing := false, erased := false, badSectors := recSector failed :: failed.recorder.badSectors } failed
    let again := setRec { failed.recorder with retry := true } failed
    (¬ ready → ∀ ok, exec (.flashPageProgram ok) s = .next s) ∧
    (ready → let n := min 8 r.staged.length
      let page := (r.page + 1) % (recSectors s * 256)
      exec (.flashPageProgram true) s = .next (recPump ((r.staged.take n).foldl (fun s x => say (.flash (recSeq x)) s)
        (setRec { r with staged := r.staged.drop n, inFlash := r.inFlash ++ (r.staged.take n).map (fun x => (recSector s, x)), page := page, erased := page % 256 ≠ 0 && r.erased, retry := false, flush := r.flush && !(r.staged.drop n).isEmpty } s)))) ∧
    (ready → r.retry = false → exec (.flashPageProgram false) s = .next (recPump again)) ∧
    (ready → r.retry = true → exec (.flashPageProgram false) s = .next (recPump (recPlaced (clrB .REC_STAT 0 0 0x10 bad)))) ∧
    (r.erasing = true → recWorks s = true →
      (r.retry = false → exec (.sectorEraseDone false) s = .next (recPump again)) ∧
      (r.retry = true → exec (.sectorEraseDone false) s = .next (recPump (recPlaced (clrB .REC_STAT 0 0 0x10 bad)))) ∧
      (let u := clrB .REC_STAT 0 0 0x10 (setRec { r with erasing := false, erased := true, retry := false, inFlash := r.inFlash.filter fun x => x.1 ≠ recSector s } s)
       ((∃ x ∈ r.inFlash, x.1 = recSector s) → exec (.sectorEraseDone true) s = .next (raise 305 u)) ∧
       ((∀ x ∈ r.inFlash, x.1 ≠ recSector s) → exec (.sectorEraseDone true) s = .next u))) ∧
    (let w := raise 309 (setRec { r with persistedS := r.opS, persistedCycle := r.cycle } s)
     (running s = true → 3600 ≤ r.opS.toNat - r.persistedS.toNat → exec .counterPersist s = .next w) ∧
     (r.opS.toNat - r.persistedS.toNat < 3600 → exec .counterPersist s = .next s) ∧
     (s.pwr.st = .run → exec .pfwN s = .next (recPump (raise 314 (setRec { w.recorder with flush := true } w)))) ∧
     (s.pwr.st ≠ .run → s.pwr.st ≠ .off → exec .pfwN s = .next (recPump (raise 314 (setRec { r with flush := true } s)))))) ∧
  (∀ (s : State) (m : Fin 64) (v : W32),
    (writes m .REC_CTRL s →
      let bank := bankOf s (fld (rd s .REC_STAGE_BANK 0 0) 8 0)
      (bit v 0 = true → isOff s .REC_STAT 0 = true → bank.owner ≠ 4 → exec (.recEnable m v) s = .next (setB .REC_STAT 0 0 0x20 s)) ∧
      (bit v 0 = true → (isOff s .REC_STAT 0 = false ∨ bank.owner = 4) → exec (.recEnable m v) s = .next (fbWrite .REC_STAT 0 true (plainWrite .REC_CTRL 0 0 v s))) ∧
      (bit v 0 = false → exec (.recDisable m v) s = .next (fbWrite .REC_STAT 0 false (plainWrite .REC_CTRL 0 0 v s)))) ∧
    (writes m .REC_SW_CODE s →
      (bit v 15 = false → exec (.softwareRecord m v) s = .next (wr .REC_SW_STAT 0 m 1 s)) ∧
      (bit v 15 = true → exec (.softwareRecord m v) s = .next (wr .REC_SW_STAT 0 m 0
        (recCapture (v.setWidth 16) (BitVec.ofNat 8 m) true (bytesOfWords ((List.range 3).map fun k => rd s .REC_SW_D k m)) s)))) ∧
    (writes m .REC_RD_CTRL s →
      let put (w : List W32) (u : State) := (List.range 8).foldl (fun s k => wr .REC_RD_W k m (wordAt w k) s) u
      (∀ w flash, recFind s (rd s .REC_RD_SEQ 0 m) = some (w, flash) →
        (flash = true → s.recorder.erasing = true → exec (.recRdRead m) s = .next (setF .REC_RD_CTRL 0 m 9 8 2 s)) ∧
        ((flash = false ∨ s.recorder.erasing = false) → exec (.recRdRead m) s = .next (setF .REC_RD_CTRL 0 m 9 8 0 (put w s)))) ∧
      (recFind s (rd s .REC_RD_SEQ 0 m) = none → exec (.recRdRead m) s = .next (setF .REC_RD_CTRL 0 m 9 8 1 (put (List.replicate 8 0xFFFFFFFF) s)))) ∧
    (reads m .REC_OPTIME_S s → exec (.recOptimeRead m) s = .next (reply m s.recorder.opS
      (wr .REC_OPTIME_MS 0 m (BitVec.ofNat 32 (s.recorder.opMs.toNat + s.recorder.cycle.toNat * 1024)) s)))) ∧
  (∀ (s : State) (ring : Fin 10) (slot : Nat) (c : Cmd), cmdStarts s ring slot 0x50 c →
    let g := begunCmd ring c.tag s
    let w := c.words
    let k : CmdRef := ⟨ring, slot, c.tag, 0x50⟩
    let first := (wordAt w 2).toNat
    let count := (wordAt w 3).toNat
    let boot := bit (wordAt w 6) 0
    let bad := count = 0 ∨ (if boot then 256 else 65536) < count ∨ cmd64 w 16 % 32 ≠ 0 ∨ (boot = true ∧ 8 ≤ first)
    (bad → exec (.recSnapshot ring slot) s = .next (complete k stBadParam 0 g)) ∧
    (¬ bad → let u := say (.hostWrite (cmd64 w 16) ((List.range count).flatMap (snapBytes g boot first))) g
      exec (.recSnapshot ring slot) s = .next (complete k stOk (BitVec.ofNat 64 ((recTail u).toNat + count * 2 ^ 32)) u)))

/-- An expired watchdog records its cause and restarts levels 3 and 4, unless a restart is in progress, holds them at the limit of
counted restarts, or counts against an update trial. A level restart with the key does the same uncounted. Once the levels are
OFF, boot loads a slot and starts the policy core, or holds the levels when the boot area is taken, or enters recovery when no
slot loads; once the framework has placed its instances, its completion fires source 7 and completes FW_ACTIVATE. A cold boot
under BOOTMODE 1 first tests all banks; it enters recovery without a control record or under BOOTMODE 2. FW_WRITE, FW_ACTIVATE
and FWU_CONFIRM follow their checks. (R422; R423; R424; R425; R426; R428; R430; R431; R432; R434; R436; 17 Table 17.6) -/
def Obligations.RestartsBootAndUpdate : Prop :=
  (∀ (s : State) (level : Bool), let n := if level then 5 else 4
    (running s = true → wdtDue s level = true → exec (.watchdogExpiry level) s = .next (restartCounted n (raise n s))) ∧
    (wdtDue s level = false → exec (.watchdogExpiry level) s = .next s)) ∧
  (∀ (s : State) (cause : Nat), let u := setB .GLB_RST_CAUSE 0 0 (oneBit cause) s
    let times := restartsCounted u ++ [BitVec.ofNat 64 u.ticks]
    let t : State := { u with pwr := { u.pwr with restartTimes := times } }
    let fails := min 15 (t.pwr.ctl.trialFail.toNat + 1)
    let x := setCtl { t.pwr.ctl with trialFail := BitVec.ofNat 4 fails } t
    (restartBusy u = true → restartCounted cause s = u ∧ restartPlain cause s = u) ∧
    (restartBusy u = false → restartPlain cause s = restartStep1 u ∧
      (t.pwr.ctl.trial = false → restartLimit t ≤ times.length → restartCounted cause s = levelsHold t) ∧
      (t.pwr.ctl.trial = false → times.length < restartLimit t → restartCounted cause s = restartStep1 t) ∧
      (t.pwr.ctl.trial = true → (restartLimit t ≤ fails ∨ restartLimit t ≤ times.length) →
        restartCounted cause s = restartStep1 { x with pwr := { x.pwr with restartOther := true, restartFail := some 10 } }) ∧
      (t.pwr.ctl.trial = true → ¬ (restartLimit t ≤ fails ∨ restartLimit t ≤ times.length) → restartCounted cause s = restartStep1 x))) ∧
  (∀ (s : State) (m : Fin 64) (v : W32),
    (writes m .GLB_RST_CTRL s → bit v 16 = false →
      (fld v 15 0 = 0xA5C3 → bit v 17 = true → exec (.swLevelRestart m v) s = .next (restartPlain 8 s)) ∧
      ((fld v 15 0 ≠ 0xA5C3 ∨ bit v 17 = false) → exec (.swLevelRestart m v) s = .next s)) ∧
    (writes m .FWU_CONFIRM s →
      let u := if s.pwr.ctl.trial then setCtl { s.pwr.ctl with trial := false } s else s
      (bit v 0 = false → exec (.fwuConfirm m v) s = .next s) ∧
      (bit v 0 = true → u.pwr.otp.toNat < u.pwr.imageRollback.toNat → exec (.fwuConfirm m v) s = .next { u with pwr := { u.pwr with otp := u.pwr.imageRollback } }) ∧
      (bit v 0 = true → u.pwr.imageRollback.toNat ≤ u.pwr.otp.toNat → exec (.fwuConfirm m v) s = .next u))) ∧
  (∀ (s : State) (img : BootIn),
    (running s = true → s.pwr.restartPending = true → levelsOff s = true →
      let old := s.pwr.ctl.active
      let w := if s.pwr.restartOther && s.pwr.restartFail = some 10 then fwFallback 10 old s else s
      let b := bootLoad img (if w.pwr.restartOther then !old else old) (enginesZero w)
      (areaTaken s = true → exec (.softwareLevelRestart img) s = .next (levelsHold (restartEnd 9 s))) ∧
      (areaTaken s = false → b.1 = none → let e := restartEnd (b.2.1.getD 8) b.2.2
        exec (.softwareLevelRestart img) s = .next { e with pwr := { e.pwr with recovery := true } }) ∧
      (∀ slot, areaTaken s = false → b.1 = some slot → let c := restartCtl slot b.2.1 b.2.2
        let fail : Option (BitVec 8) := if c.pwr.restartCmd.isSome then b.2.1.map (BitVec.ofNat 8) else none
        exec (.softwareLevelRestart img) s = .next (polBoot { c with
          pwr := { c.pwr with restartPending := false, restartLoaded := true, placePending := true, restartOther := false, restartFail := fail, recovery := false },
          pol := { c.pol with placement := img.placement } }))) ∧
    ((s.pwr.restartPending = false ∨ levelsOff s = false) → exec (.softwareLevelRestart img) s = .next s) ∧
    (running s = true → let a := fwAdvance (causeApply s)
      let ended := a.pwr.restartLoaded = true ∧ fbState a.pol.th.fb = 2 ∧ a.pwr.placePending = false ∧ a.pwr.starting = []
      let u := raise 7 { a with pwr := { a.pwr with restartLoaded := false } }
      let v : State := { u with pwr := { u.pwr with restartCmd := none, restartFail := none } }
      (¬ ended → exec .restartComplete s = .next a) ∧
      (ended → u.pwr.restartCmd = none → exec .restartComplete s = .next u) ∧
      (∀ c, ended → u.pwr.restartCmd = some c → (u.pwr.restartFail = none →
          exec .restartComplete s = .next (complete c stOk (BitVec.ofNat 64 (ofBool v.pwr.ctl.active * 256)) v)) ∧
        (∀ r, u.pwr.restartFail = some r → exec .restartComplete s = .next (complete c stFailed (r.setWidth 64) v)))) ∧
    (running s = true → s.pwr.booted = false → s.mem.test = none → (s.pwr.strapBoot ≠ 1 ∨ s.pwr.marched = true) →
      let found := ctlPick (ctlOf img.ctlA) (ctlOf img.ctlB)
      let u := recBoot img.recMap (ownersTake (img.sect6.owners ++ ((img.stored.map (·.owners)).getD [])) (areaOwn (keysUnwrap img.badKeys
        (causeDue { s with pwr := { s.pwr with booted := true, ctl := found.getD State.reset.pwr.ctl } }))))
      ((found = none ∨ u.pwr.strapBoot = 2) → exec (.coldBoot img) s = .next (enterRecovery u)) ∧
      (∀ c, found = some c → u.pwr.strapBoot ≠ 2 → let b := bootLoad img (trialCount u).pwr.ctl.active (trialCount u)
        (b.1 = none → exec (.coldBoot img) s = .next (enterRecovery b.2.2)) ∧
        (b.1 ≠ none → exec (.coldBoot img) s = .next (bootStart img b.2.2)))) ∧
    (running s = true → s.pwr.booted = false → s.mem.test = none → s.pwr.strapBoot = 1 → s.pwr.marched = false →
      exec (.coldBoot img) s = .next ((clusterHeads (List.range 384)).foldl (fun s b => testTake b s)
        { s with mem := { s.mem with test := some ⟨none, true, List.range 384, 0, 0, 0⟩ }, pwr := { s.pwr with marched := true } })) ∧
    ((s.pwr.booted = true ∨ s.mem.test.isSome = true) → exec (.coldBoot img) s = .next s)) ∧
  (∀ (s : State) (ring : Fin 10) (slot : Nat) (c : Cmd) (data : List W32), cmdStarts s ring slot 0x40 c →
    let g := begunCmd ring c.tag s
    let w := c.words
    let k : CmdRef := ⟨ring, slot, c.tag, 0x40⟩
    let off := (wordAt w 2).toNat
    let len := (wordAt w 3).toNat
    let bad := off % 256 ≠ 0 ∨ len % 256 ≠ 0 ∨ len = 0 ∨ 65536 < len ∨ g.pwr.ctl.slotMib * 0x100000 < off + len
    (bad → exec (.fwWrite ring slot data) s = .next (complete k stBadParam 0 g)) ∧
    (¬ bad → fwBusy g = true → exec (.fwWrite ring slot data) s = .next (complete k stBusy 0 g)) ∧
    (¬ bad → fwBusy g = false → exec (.fwWrite ring slot data) s =
      .next (say (.fwWrite (!g.pwr.ctl.active) (bit (wordAt w 6) 0) off (bytesOfWords (hostWords (len / 4) false data)))
        { g with pwr := { g.pwr with fwWrite := some k } }))) ∧
  (∀ (s : State) (ring : Fin 10) (slot : Nat) (c : Cmd), cmdStarts s ring slot 0x41 c →
    let g := begunCmd ring c.tag s
    let k : CmdRef := ⟨ring, slot, c.tag, 0x41⟩
    (fwBusy g = true → exec (.fwActivate ring slot) s = .next (complete k stBusy 0 g)) ∧
    (fwBusy g = false → restartBusy g = true → exec (.fwActivate ring slot) s = .next (complete k stBusy 0 (setB .GLB_RST_CAUSE 0 0 0x200 g))) ∧
    (fwBusy g = false → restartBusy g = false → exec (.fwActivate ring slot) s =
      .next (restartPlain 9 { g with pwr := { g.pwr with restartCmd := some k, restartOther := true, restartFail := none } }))) ∧
  (∀ (s : State) (ok : Bool), running s = true →
    (∀ c, s.pwr.fwWrite = some c → exec (.fwWriteDone ok) s =
      .next (raise 313 (complete c (if ok then stOk else stFailed) 0 { s with pwr := { s.pwr with fwWrite := none } }))) ∧
    (s.pwr.fwWrite = none → exec (.fwWriteDone ok) s = .next s))

/-- A keyed request for Frost or Midwinter is refused with the first failing condition, or accepted with source 9. A wake source
is latched, and when enabled ends Frost by Thaw and Midwinter by a device reset; the end of Thaw restores RUN with source 10.
An idle domain dozes; the alarm of the real-time clock fires once; a lost PLL lock fires source 15. Power-on, RESET_N of a
microsecond, software and a Midwinter wake reset the device with their cause; a hot reset of PCIe resets its party; without
power nothing but the ticks moves. The TAP follows its state diagram. (R413; R414; R415; R417; R418; R419; R420; R421; R422;
R439; R442; R445) -/
def Obligations.PowerStatesAndResets : Prop :=
  (∀ (s : State) (m : Fin 64) (v : W32), writes m .CLK_PWR_REQ s →
    (fld v 1 0 = 1 → exec (.frostRequest m v) s = .next (pwrReqWrite v s)) ∧ (fld v 1 0 = 2 → exec (.midwinterRequest m v) s = .next (pwrReqWrite v s)) ∧
    (fld v 31 16 ≠ 0x0C1D → pwrReqWrite v s = s) ∧
    (fld v 31 16 = 0x0C1D → (fld v 1 0 = 1 ∨ fld v 1 0 = 2) →
      (∀ why, pwrReason s = some why → pwrReqWrite v s = raise 11 (setF .CLK_PWR_STAT 0 0 15 12 why (setB .CLK_PWR_STAT 0 0 0x100 s))) ∧
      (pwrReason s = none → pwrReqWrite v s = setPwr (if fld v 1 0 = 1 then .entering else .enteringMidwinter) (raise 9 s)))) ∧
  (∀ (s : State) (k : Fin 19), let u := withWakeOut (setB .CLK_WAKE_CAUSE 0 0 (oneBit k)) s
    let e := bit (rd u .CLK_WAKE_EN 0 0) k
    let f := raise (wakeSource k) u
    (s.pwr.st = .run → 12 ≤ k.val → k.val < 16 → exec (.wakeDetect k) s = .next (raise (315 + (k - 12)) s)) ∧
    (s.pwr.st = .run → (k.val < 12 ∨ 16 ≤ k.val) → exec (.wakeDetect k) s = .next s) ∧
    (s.pwr.st = .off → exec (.wakeDetect k) s = .next s) ∧
    (s.pwr.st ≠ .run → s.pwr.st ≠ .off →
      (e = false → exec (.wakeDetect k) s = .next u) ∧
      (e = true → (s.pwr.st = .frost ∨ s.pwr.st = .entering) → exec (.wakeDetect k) s = .next (setPwr .thaw f)) ∧
      (e = true → s.pwr.st = .thaw → exec (.wakeDetect k) s = .next f) ∧
      (e = true → s.pwr.st = .enteringMidwinter → exec (.wakeDetect k) s = .next { f with pwr := { f.pwr with wakePend := true } }) ∧
      (e = true → s.pwr.st = .midwinter → exec (.wakeDetect k) s = .next (deviceReset 3 f)))) ∧
  (∀ s : State,
    (s.pwr.st ≠ .thaw → exec .thawComplete s = .next s) ∧
    (s.pwr.st = .thaw → let u := wr .CLK_PLL_STAT 0 0 0xF ((List.range 384).foldl (fun s b => setBank b (bankThawed s b) s) (setPwr .run s))
      (bit (rd u .TIME_CTRL 0 0) 0 = true → exec .thawComplete s = .next (causeApply (causeDue (raise 10 u)))) ∧
      (bit (rd u .TIME_CTRL 0 0) 0 = false → exec .thawComplete s = .next (causeApply (causeDue (raise 10 (clockReload u)))))) ∧
    (let a := rd s .CLK_RTC_ALARM 0 0
     let u := wr .CLK_RTC_ALARM 0 0 0 s
     ((a = 0 ∨ rd s .CLK_RTC_S 0 0 ≠ a) → exec .rtcAlarm s = .next s) ∧
     (a ≠ 0 → rd s .CLK_RTC_S 0 0 = a → s.pwr.st = .run → exec .rtcAlarm s = .next (raise 13 u)) ∧
     (a ≠ 0 → rd s .CLK_RTC_S 0 0 = a → s.pwr.st ≠ .run → s.pwr.st ≠ .off →
       (bit (rd u .CLK_WAKE_EN 0 0) 16 = true → exec .rtcAlarm s = .next (wakeDetect 16 u)) ∧
       (bit (rd u .CLK_WAKE_EN 0 0) 16 = false → exec .rtcAlarm s = .next (wakeDetect 16 (raise 13 u))))) ∧
    (∀ pll : Fin 4, running s = true →
      (bit (rd s .CLK_PLL_STAT 0 0) pll = true → exec (.pllLockLoss pll) s = .next (raise 15 (clrB .CLK_PLL_STAT 0 0 (oneBit pll) s))) ∧
      (bit (rd s .CLK_PLL_STAT 0 0) pll = false → exec (.pllLockLoss pll) s = .next s))) ∧
  (∀ (s : State) (d : Fin 28), running s = true → let one : BitVec 28 := BitVec.ofNat 28 (2 ^ d.val)
    (canDoze s d = true → bit (rd s .CLK_DOZE_DIS 0 0) d = false → exec (.dozeEnter d) s = .next { s with pwr := { s.pwr with dozing := s.pwr.dozing ||| one } }) ∧
    ((canDoze s d = false ∨ bit (rd s .CLK_DOZE_DIS 0 0) d = true) → exec (.dozeEnter d) s = .next s) ∧
    exec (.dozeExit d) s = .next { s with pwr := { s.pwr with dozing := s.pwr.dozing &&& ~~~one } }) ∧
  (∀ (s : State) (straps : BitVec 16) (ns : Nat) (m : Fin 64) (v : W32),
    exec (.powerOnReset straps) s = .next (powerOn straps s) ∧
    (1000 ≤ ns → s.pwr.st ≠ .off → exec (.resetN straps ns) s = .next (sampleStraps straps (deviceReset 1 s))) ∧
    (ns < 100 → exec (.resetN straps ns) s = .next s) ∧ (s.pwr.st = .off → exec (.resetN straps ns) s = .next s) ∧
    (writes m .GLB_RST_CTRL s → bit v 16 = true → (fld v 15 0 = 0xA5C3 → exec (.swDeviceReset m v) s = .next (deviceReset 2 s)) ∧
      (fld v 15 0 ≠ 0xA5C3 → exec (.swDeviceReset m v) s = .next s)) ∧
    (running s = true → exec .pcieHotReset s = .next (partyReset 0 s)) ∧
    (let t := bareReset s
     let r := s.recorder
     exec .powerLoss s = .next { t with recorder := { recReset s with fifo := [], fresh := 0, lost := 0, lostNow := 0, opS := r.persistedS, opMs := 0, cycle := r.persistedCycle }, pwr := { t.pwr with st := .off } })) ∧
  (∀ (s : State) (n : Nat), let t := deviceReset n s
    t.pwr.st = .run ∧ t.pwr.booted = false ∧ t.pwr.otp = s.pwr.otp ∧ t.pwr.ctl = s.pwr.ctl ∧ t.pol.th = State.reset.pol.th ∧ t.eng.threads = [] ∧ t.cfg = State.reset.cfg ∧
    t.stores = State.reset.stores ∧ t.cry.slots = [] ∧ t.rings = State.reset.rings ∧ t.mem.banks = failedBanks s) ∧
  (∀ (s : State) (tms tdi : Bool), s.pwr.st ≠ .off →
    (∀ rising, exec (.jtagTckEdge rising tms tdi false) s = .next { s with pwr := { s.pwr with tap := 15, tapIr := 1, tdo := none } }) ∧
    (let t := tapRise tms tdi s
     exec (.jtagTckEdge true tms tdi true) s = .next t ∧ t.pwr.tap = tapNext s.pwr.tap.toNat tms ∧ t.pwr.tapIr = s.pwr.tapIr ∧
     (s.pwr.tap = 6 → t.pwr.tapDr = tapCapture s) ∧ (s.pwr.tap = 14 → t.pwr.tapIrShift = 1) ∧
     (s.pwr.tap = 2 → t.pwr.tapDr = BitVec.ofNat 128 (s.pwr.tapDr.toNat / 2 + ofBool tdi * 2 ^ (tapLen s.pwr.tapIr - 1))) ∧
     (s.pwr.tap = 10 → t.pwr.tapIrShift = BitVec.ofNat 4 (s.pwr.tapIrShift.toNat / 2 + ofBool tdi * 2 ^ 3))) ∧
    (s.pwr.tap = 13 → exec (.jtagTckEdge false tms tdi true) s = .next { s with pwr := { s.pwr with tapIr := s.pwr.tapIrShift, tdo := none } }) ∧
    (s.pwr.tap = 2 → exec (.jtagTckEdge false tms tdi true) s = .next (say (.pin 9 (s.pwr.tapDr.getLsbD 0)) { s with pwr := { s.pwr with tdo := some (s.pwr.tapDr.getLsbD 0) } })) ∧
    (s.pwr.tap = 10 → exec (.jtagTckEdge false tms tdi true) s = .next (say (.pin 9 (s.pwr.tapIrShift.getLsbD 0)) { s with pwr := { s.pwr with tdo := some (s.pwr.tapIrShift.getLsbD 0) } })))

/-- After a power-on reset every register reads the reset value of its table, but for the reset cause, which shows por alone, and
source 0 pending; every ring is disabled, every thread, the policy core and every function block is OFF, the increment of the
clock is 4 ns, the policy core's MODE is supervisor outside exceptions, the recorder holds POWER_ON as its first event, the
local memories are empty and no command waits. The memories of the state are in canonical form. (R56; R62; R346; R399; 12
Table 12.15; 17 Table 17.4; 17 Table 17.5) -/
def Obligations.StateAtReset : Prop :=
  (∀ (r : Reg) (i c : Nat), i < 1024 → (r, i, c) ≠ (Reg.GLB_RST_CAUSE, 0, 0) → (r, i, c) ≠ (Reg.EVT_PEND, 0, 0) → rd State.reset r i c = r.desc.reset) ∧
  rd State.reset .GLB_RST_CAUSE 0 0 = 1 ∧ rd State.reset .EVT_PEND 0 0 = 1 ∧
  (∀ n, ringOf State.reset n = Ring.empty) ∧ (∀ t, (thOf State.reset t).fb = 0) ∧ (∀ q, queueOf State.reset q = queueEmpty) ∧
  (∀ c, isOff State.reset .ETH_STAT c = true ∧ isOff State.reset .CAN_STAT c = true ∧ isOff State.reset .STAR_STAT c = true ∧ isOff State.reset .REC_STAT c = true ∧
    isOff State.reset .QM_Q_STAT c = true) ∧
  State.reset.time.now = 0 ∧ State.reset.time.incr = 0x400000000 ∧ State.reset.pol.mode = 3 ∧ State.reset.recorder.fifo = [powerOnEntry State.reset.recorder.persistedS] ∧
  State.reset.pwr.booted = false ∧ running State.reset = true ∧ State.reset.pending = [] ∧ storesWf State.reset = true
end

