-- ==== Sys2Proof/Laws/Base.lean ====
section
/-! SUPPORT. Laws of sparse maps and byte memories: a read after a write, other keys left alone, the canonical form kept. -/

namespace Sys2Proof.Machine

section maps
variable {α : Type}

theorem nmFind_nmPut_same (m : NMap α) (k : Nat) (v : α) : nmFind (nmPut m k v) k = some v := by
  induction m with
  | nil => simp [nmPut, nmFind]
  | cons e r ih =>
    obtain ⟨i, a⟩ := e
    simp only [nmPut]
    split
    · simp [nmFind]
    · split
      · simp [nmFind]
      · have : i ≠ k := by omega
        simp [nmFind, this, ih]

theorem nmFind_nmPut_ne (m : NMap α) (k j : Nat) (v : α) (h : j ≠ k) : nmFind (nmPut m k v) j = nmFind m j := by
  induction m with
  | nil => simp [nmPut, nmFind, Ne.symm h]
  | cons e r ih =>
    obtain ⟨i, a⟩ := e
    simp only [nmPut]
    split
    · simp [nmFind, Ne.symm h]
    · split
      · rename_i h1 h2
        subst h2
        simp [nmFind, Ne.symm h]
      · simp [nmFind, ih]

theorem nmFind_nmErase_same (m : NMap α) (k : Nat) : nmFind (nmErase m k) k = none := by
  induction m with
  | nil => rfl
  | cons e r ih =>
    obtain ⟨i, a⟩ := e
    simp only [nmErase]
    split
    · exact ih
    · rename_i h
      simp [nmFind, h, ih]

theorem nmFind_nmErase_ne (m : NMap α) (k j : Nat) (h : j ≠ k) : nmFind (nmErase m k) j = nmFind m j := by
  induction m with
  | nil => rfl
  | cons e r ih =>
    obtain ⟨i, a⟩ := e
    simp only [nmErase]
    split
    · rename_i h1
      subst h1
      simp [nmFind, Ne.symm h, ih]
    · simp [nmFind, ih]

variable [DecidableEq α]

/-- A key reads as what was last written to it. -/
@[simp] theorem nmGet_nmSet_same (d : α) (m : NMap α) (k : Nat) (v : α) : nmGet d (nmSet d m k v) k = v := by
  unfold nmGet nmSet
  split
  · rename_i h
    simp [nmFind_nmErase_same, h]
  · simp [nmFind_nmPut_same]

/-- A write leaves every other key alone. -/
theorem nmGet_nmSet_ne (d e : α) (m : NMap α) (k j : Nat) (v : α) (h : j ≠ k) : nmGet e (nmSet d m k v) j = nmGet e m j := by
  unfold nmGet nmSet
  split
  · simp [nmFind_nmErase_ne _ _ _ h]
  · simp [nmFind_nmPut_ne _ _ _ _ h]

theorem nmWfFrom_mono (d : α) (m : NMap α) {lo hi : Nat} (h : lo ≤ hi) (w : nmWfFrom d hi m = true) : nmWfFrom d lo m = true := by
  cases m with
  | nil => rfl
  | cons e r =>
    obtain ⟨i, a⟩ := e
    simp only [nmWfFrom, Bool.and_eq_true, decide_eq_true_eq] at *
    exact ⟨⟨by omega, w.1.2⟩, w.2⟩

theorem nmWfFrom_nmErase (d : α) (m : NMap α) (k lo : Nat) (w : nmWfFrom d lo m = true) : nmWfFrom d lo (nmErase m k) = true := by
  induction m generalizing lo with
  | nil => rfl
  | cons e r ih =>
    obtain ⟨i, a⟩ := e
    simp only [nmWfFrom, Bool.and_eq_true, decide_eq_true_eq] at w
    simp only [nmErase]
    split
    · exact ih lo (nmWfFrom_mono d r (by omega) w.2)
    · simp only [nmWfFrom, Bool.and_eq_true, decide_eq_true_eq]
      exact ⟨w.1, ih _ w.2⟩

theorem nmWfFrom_nmPut (d : α) (m : NMap α) (k lo : Nat) (v : α) (hv : v ≠ d) (hk : lo ≤ k) (w : nmWfFrom d lo m = true) :
    nmWfFrom d lo (nmPut m k v) = true := by
  induction m generalizing lo with
  | nil => simp [nmPut, nmWfFrom, hv, hk]
  | cons e r ih =>
    obtain ⟨i, a⟩ := e
    simp only [nmWfFrom, Bool.and_eq_true, decide_eq_true_eq] at w
    simp only [nmPut]
    split
    · simp only [nmWfFrom, Bool.and_eq_true, decide_eq_true_eq]
      exact ⟨⟨hk, hv⟩, ⟨by omega, w.1.2⟩, w.2⟩
    · split
      · rename_i h1 h2
        subst h2
        simp only [nmWfFrom, Bool.and_eq_true, decide_eq_true_eq]
        exact ⟨⟨hk, hv⟩, w.2⟩
      · simp only [nmWfFrom, Bool.and_eq_true, decide_eq_true_eq]
        exact ⟨w.1, ih _ (by omega) w.2⟩

/-- A write keeps the canonical form. -/
theorem nmWf_nmSet (d : α) (m : NMap α) (k : Nat) (v : α) (w : nmWf d m = true) : nmWf d (nmSet d m k v) = true := by
  unfold nmWf nmSet at *
  split
  · exact nmWfFrom_nmErase d m k 0 w
  · rename_i h
    exact nmWfFrom_nmPut d m k 0 v h (by omega) w

theorem nmWfFrom_filter (d : α) (m : NMap α) (p : Nat × α → Bool) (lo : Nat) (w : nmWfFrom d lo m = true) :
    nmWfFrom d lo (m.filter p) = true := by
  induction m generalizing lo with
  | nil => rfl
  | cons e r ih =>
    obtain ⟨i, a⟩ := e
    simp only [nmWfFrom, Bool.and_eq_true, decide_eq_true_eq] at w
    simp only [List.filter]
    split
    · simp only [nmWfFrom, Bool.and_eq_true, decide_eq_true_eq]
      exact ⟨w.1, ih _ w.2⟩
    · exact ih lo (nmWfFrom_mono d r (by omega) w.2)

end maps

/-- A byte reads as what was last written to it. -/
@[simp] theorem memRead_memWrite_same (m : List Host.Cell) (a : Nat) (v : Byte) : memRead (memWrite m a v) a = v :=
  nmGet_nmSet_same 0 m a v

/-- A byte write leaves every other byte alone. -/
theorem memRead_memWrite_ne (m : List Host.Cell) (a b : Nat) (v : Byte) (h : b ≠ a) : memRead (memWrite m a v) b = memRead m b :=
  nmGet_nmSet_ne 0 0 m a b v h

/-- A byte write keeps the canonical form. -/
theorem memWf_memWrite (m : List Host.Cell) (a : Nat) (v : Byte) (w : Memory.wf m = true) : Memory.wf (memWrite m a v) = true :=
  nmWf_nmSet 0 m a v w

/-- A write of several bytes keeps the canonical form. -/
theorem memWf_memWriteN (m : List Host.Cell) (a : Nat) (l : List Byte) (w : Memory.wf m = true) :
    Memory.wf (memWriteN m a l) = true := by
  induction l generalizing m a with
  | nil => exact w
  | cons b r ih => exact ih (memWrite m a b) (a + 1) (memWf_memWrite m a b w)

/-- Zeroing a range keeps the canonical form. -/
theorem memWf_memClear (m : List Host.Cell) (lo hi : Nat) (w : Memory.wf m = true) : Memory.wf (memClear m lo hi) = true :=
  nmWfFrom_filter 0 m _ 0 w

/-- Zeroing a range leaves the bytes outside it alone. -/
theorem memRead_memClear_out (m : List Host.Cell) (lo hi a : Nat) (h : a < lo ∨ hi ≤ a) : memRead (memClear m lo hi) a = memRead m a := by
  suffices nmFind (memClear m lo hi) a = nmFind m a by unfold memRead nmGet; rw [this]
  unfold memClear
  induction m with
  | nil => rfl
  | cons e r ih =>
    obtain ⟨k, v⟩ := e
    simp only [List.filter, nmFind]
    split
    · simp only [nmFind, ih]
    · rename_i e
      rw [ih, if_neg]
      rintro rfl
      rcases h with h | h <;> simp [h] at e

/-- The bytes of a zeroed range read 0. -/
theorem memRead_memClear_in (m : List Host.Cell) (lo hi a : Nat) (h : lo ≤ a) (g : a < hi) : memRead (memClear m lo hi) a = 0 := by
  suffices nmFind (memClear m lo hi) a = none by unfold memRead nmGet; rw [this]; rfl
  unfold memClear
  induction m with
  | nil => rfl
  | cons e r ih =>
    obtain ⟨k, v⟩ := e
    simp only [List.filter]
    split
    · rename_i e
      simp only [nmFind, ih]
      rw [if_neg]
      rintro rfl
      simp only [Bool.or_eq_true, decide_eq_true_eq] at e
      omega
    · exact ih

/-- A write of several bytes leaves the bytes outside them alone. -/
theorem memRead_memWriteN_ne (m : List Host.Cell) (a b : Nat) (l : List Byte) (h : b < a ∨ a + l.length ≤ b) :
    memRead (memWriteN m a l) b = memRead m b := by
  induction l generalizing m a with
  | nil => rfl
  | cons x r ih =>
    simp only [memWriteN, List.length_cons] at *
    rw [ih (memWrite m a x) (a + 1) (by omega), memRead_memWrite_ne _ _ _ _ (by omega)]

/-- The bytes written read back. -/
theorem memReadN_memWriteN (m : List Host.Cell) (a : Nat) (l : List Byte) : memReadN (memWriteN m a l) a l.length = l := by
  induction l generalizing m a with
  | nil => rfl
  | cons x r ih =>
    simp only [memWriteN, List.length_cons, memReadN, ih]
    rw [memRead_memWriteN_ne _ _ _ _ (by omega), memRead_memWrite_same]

end Sys2Proof.Machine
end

