-- ==== Sys2Proof/Laws/State.lean ====
section
/-! SUPPORT. The fields of the state after each of the named updates: one lemma per field per update. -/

namespace Sys2Proof.Machine

/-! ### wr -/

section
variable (r : Reg) (i c : Nat) (v : W32) (s : State)
@[simp] theorem wr_regs : (wr r i c v s).regs = nmSet r.desc.reset s.regs (regKey r i c) v := rfl
@[simp] theorem wr_stores : (wr r i c v s).stores = s.stores := rfl
@[simp] theorem wr_time : (wr r i c v s).time = s.time := rfl
@[simp] theorem wr_evt : (wr r i c v s).evt = s.evt := rfl
@[simp] theorem wr_rings : (wr r i c v s).rings = s.rings := rfl
@[simp] theorem wr_cfg : (wr r i c v s).cfg = s.cfg := rfl
@[simp] theorem wr_mem : (wr r i c v s).mem = s.mem := rfl
@[simp] theorem wr_qm : (wr r i c v s).qm = s.qm := rfl
@[simp] theorem wr_fab : (wr r i c v s).fab = s.fab := rfl
@[simp] theorem wr_eth : (wr r i c v s).eth = s.eth := rfl
@[simp] theorem wr_can : (wr r i c v s).can = s.can := rfl
@[simp] theorem wr_star : (wr r i c v s).star = s.star := rfl
@[simp] theorem wr_pio : (wr r i c v s).pio = s.pio := rfl
@[simp] theorem wr_eng : (wr r i c v s).eng = s.eng := rfl
@[simp] theorem wr_pol : (wr r i c v s).pol = s.pol := rfl
@[simp] theorem wr_cry : (wr r i c v s).cry = s.cry := rfl
@[simp] theorem wr_mbx : (wr r i c v s).mbx = s.mbx := rfl
@[simp] theorem wr_recorder : (wr r i c v s).recorder = s.recorder := rfl
@[simp] theorem wr_pwr : (wr r i c v s).pwr = s.pwr := rfl
@[simp] theorem wr_ticks : (wr r i c v s).ticks = s.ticks := rfl
@[simp] theorem wr_freeCtr : (wr r i c v s).freeCtr = s.freeCtr := rfl
@[simp] theorem wr_outbox : (wr r i c v s).outbox = s.outbox := rfl
@[simp] theorem wr_pending : (wr r i c v s).pending = s.pending := rfl
end

/-! ### say -/

section
variable (o : Out) (s : State)
@[simp] theorem say_regs : (say o s).regs = s.regs := rfl
@[simp] theorem say_stores : (say o s).stores = s.stores := rfl
@[simp] theorem say_time : (say o s).time = s.time := rfl
@[simp] theorem say_evt : (say o s).evt = s.evt := rfl
@[simp] theorem say_rings : (say o s).rings = s.rings := rfl
@[simp] theorem say_cfg : (say o s).cfg = s.cfg := rfl
@[simp] theorem say_mem : (say o s).mem = s.mem := rfl
@[simp] theorem say_qm : (say o s).qm = s.qm := rfl
@[simp] theorem say_fab : (say o s).fab = s.fab := rfl
@[simp] theorem say_eth : (say o s).eth = s.eth := rfl
@[simp] theorem say_can : (say o s).can = s.can := rfl
@[simp] theorem say_star : (say o s).star = s.star := rfl
@[simp] theorem say_pio : (say o s).pio = s.pio := rfl
@[simp] theorem say_eng : (say o s).eng = s.eng := rfl
@[simp] theorem say_pol : (say o s).pol = s.pol := rfl
@[simp] theorem say_cry : (say o s).cry = s.cry := rfl
@[simp] theorem say_mbx : (say o s).mbx = s.mbx := rfl
@[simp] theorem say_recorder : (say o s).recorder = s.recorder := rfl
@[simp] theorem say_pwr : (say o s).pwr = s.pwr := rfl
@[simp] theorem say_ticks : (say o s).ticks = s.ticks := rfl
@[simp] theorem say_freeCtr : (say o s).freeCtr = s.freeCtr := rfl
@[simp] theorem say_outbox : (say o s).outbox = o :: s.outbox := rfl
@[simp] theorem say_pending : (say o s).pending = s.pending := rfl
@[simp] theorem rd_say (q : Reg) (j d : Nat) : rd (say o s) q j d = rd s q j d := rfl
end

/-! ### setRing -/

section
variable (n : Nat) (r : Ring) (s : State)
@[simp] theorem setRing_regs : (setRing n r s).regs = s.regs := rfl
@[simp] theorem setRing_stores : (setRing n r s).stores = s.stores := rfl
@[simp] theorem setRing_time : (setRing n r s).time = s.time := rfl
@[simp] theorem setRing_evt : (setRing n r s).evt = s.evt := rfl
@[simp] theorem setRing_rings : (setRing n r s).rings = nmSet Ring.empty s.rings n r := rfl
@[simp] theorem setRing_cfg : (setRing n r s).cfg = s.cfg := rfl
@[simp] theorem setRing_mem : (setRing n r s).mem = s.mem := rfl
@[simp] theorem setRing_qm : (setRing n r s).qm = s.qm := rfl
@[simp] theorem setRing_fab : (setRing n r s).fab = s.fab := rfl
@[simp] theorem setRing_eth : (setRing n r s).eth = s.eth := rfl
@[simp] theorem setRing_can : (setRing n r s).can = s.can := rfl
@[simp] theorem setRing_star : (setRing n r s).star = s.star := rfl
@[simp] theorem setRing_pio : (setRing n r s).pio = s.pio := rfl
@[simp] theorem setRing_eng : (setRing n r s).eng = s.eng := rfl
@[simp] theorem setRing_pol : (setRing n r s).pol = s.pol := rfl
@[simp] theorem setRing_cry : (setRing n r s).cry = s.cry := rfl
@[simp] theorem setRing_mbx : (setRing n r s).mbx = s.mbx := rfl
@[simp] theorem setRing_recorder : (setRing n r s).recorder = s.recorder := rfl
@[simp] theorem setRing_pwr : (setRing n r s).pwr = s.pwr := rfl
@[simp] theorem setRing_ticks : (setRing n r s).ticks = s.ticks := rfl
@[simp] theorem setRing_freeCtr : (setRing n r s).freeCtr = s.freeCtr := rfl
@[simp] theorem setRing_outbox : (setRing n r s).outbox = s.outbox := rfl
@[simp] theorem setRing_pending : (setRing n r s).pending = s.pending := rfl
@[simp] theorem rd_setRing (q : Reg) (j d : Nat) : rd (setRing n r s) q j d = rd s q j d := rfl
end

/-! ### setBank -/

section
variable (b : Nat) (k : Bank) (s : State)
@[simp] theorem setBank_regs : (setBank b k s).regs = s.regs := rfl
@[simp] theorem setBank_stores : (setBank b k s).stores = s.stores := rfl
@[simp] theorem setBank_time : (setBank b k s).time = s.time := rfl
@[simp] theorem setBank_evt : (setBank b k s).evt = s.evt := rfl
@[simp] theorem setBank_rings : (setBank b k s).rings = s.rings := rfl
@[simp] theorem setBank_cfg : (setBank b k s).cfg = s.cfg := rfl
@[simp] theorem setBank_mem : (setBank b k s).mem = { s.mem with banks := nmSet (bankReset b) s.mem.banks b k } := rfl
@[simp] theorem setBank_qm : (setBank b k s).qm = s.qm := rfl
@[simp] theorem setBank_fab : (setBank b k s).fab = s.fab := rfl
@[simp] theorem setBank_eth : (setBank b k s).eth = s.eth := rfl
@[simp] theorem setBank_can : (setBank b k s).can = s.can := rfl
@[simp] theorem setBank_star : (setBank b k s).star = s.star := rfl
@[simp] theorem setBank_pio : (setBank b k s).pio = s.pio := rfl
@[simp] theorem setBank_eng : (setBank b k s).eng = s.eng := rfl
@[simp] theorem setBank_pol : (setBank b k s).pol = s.pol := rfl
@[simp] theorem setBank_cry : (setBank b k s).cry = s.cry := rfl
@[simp] theorem setBank_mbx : (setBank b k s).mbx = s.mbx := rfl
@[simp] theorem setBank_recorder : (setBank b k s).recorder = s.recorder := rfl
@[simp] theorem setBank_pwr : (setBank b k s).pwr = s.pwr := rfl
@[simp] theorem setBank_ticks : (setBank b k s).ticks = s.ticks := rfl
@[simp] theorem setBank_freeCtr : (setBank b k s).freeCtr = s.freeCtr := rfl
@[simp] theorem setBank_outbox : (setBank b k s).outbox = s.outbox := rfl
@[simp] theorem setBank_pending : (setBank b k s).pending = s.pending := rfl
@[simp] theorem rd_setBank (q : Reg) (j d : Nat) : rd (setBank b k s) q j d = rd s q j d := rfl
end

/-! ### setSm -/

section
variable (b m : Nat) (k : Sm) (s : State)
@[simp] theorem setSm_regs : (setSm b m k s).regs = s.regs := rfl
@[simp] theorem setSm_stores : (setSm b m k s).stores = s.stores := rfl
@[simp] theorem setSm_time : (setSm b m k s).time = s.time := rfl
@[simp] theorem setSm_evt : (setSm b m k s).evt = s.evt := rfl
@[simp] theorem setSm_rings : (setSm b m k s).rings = s.rings := rfl
@[simp] theorem setSm_cfg : (setSm b m k s).cfg = s.cfg := rfl
@[simp] theorem setSm_mem : (setSm b m k s).mem = s.mem := rfl
@[simp] theorem setSm_qm : (setSm b m k s).qm = s.qm := rfl
@[simp] theorem setSm_fab : (setSm b m k s).fab = s.fab := rfl
@[simp] theorem setSm_eth : (setSm b m k s).eth = s.eth := rfl
@[simp] theorem setSm_can : (setSm b m k s).can = s.can := rfl
@[simp] theorem setSm_star : (setSm b m k s).star = s.star := rfl
@[simp] theorem setSm_pio : (setSm b m k s).pio = { s.pio with sms := nmSet smInit s.pio.sms (4 * b + m) k } := rfl
@[simp] theorem setSm_eng : (setSm b m k s).eng = s.eng := rfl
@[simp] theorem setSm_pol : (setSm b m k s).pol = s.pol := rfl
@[simp] theorem setSm_cry : (setSm b m k s).cry = s.cry := rfl
@[simp] theorem setSm_mbx : (setSm b m k s).mbx = s.mbx := rfl
@[simp] theorem setSm_recorder : (setSm b m k s).recorder = s.recorder := rfl
@[simp] theorem setSm_pwr : (setSm b m k s).pwr = s.pwr := rfl
@[simp] theorem setSm_ticks : (setSm b m k s).ticks = s.ticks := rfl
@[simp] theorem setSm_freeCtr : (setSm b m k s).freeCtr = s.freeCtr := rfl
@[simp] theorem setSm_outbox : (setSm b m k s).outbox = s.outbox := rfl
@[simp] theorem setSm_pending : (setSm b m k s).pending = s.pending := rfl
@[simp] theorem rd_setSm (q : Reg) (j d : Nat) : rd (setSm b m k s) q j d = rd s q j d := rfl
end

/-! ### setBlk -/

section
variable (b : Nat) (k : PioBlock) (s : State)
@[simp] theorem setBlk_regs : (setBlk b k s).regs = s.regs := rfl
@[simp] theorem setBlk_stores : (setBlk b k s).stores = s.stores := rfl
@[simp] theorem setBlk_time : (setBlk b k s).time = s.time := rfl
@[simp] theorem setBlk_evt : (setBlk b k s).evt = s.evt := rfl
@[simp] theorem setBlk_rings : (setBlk b k s).rings = s.rings := rfl
@[simp] theorem setBlk_cfg : (setBlk b k s).cfg = s.cfg := rfl
@[simp] theorem setBlk_mem : (setBlk b k s).mem = s.mem := rfl
@[simp] theorem setBlk_qm : (setBlk b k s).qm = s.qm := rfl
@[simp] theorem setBlk_fab : (setBlk b k s).fab = s.fab := rfl
@[simp] theorem setBlk_eth : (setBlk b k s).eth = s.eth := rfl
@[simp] theorem setBlk_can : (setBlk b k s).can = s.can := rfl
@[simp] theorem setBlk_star : (setBlk b k s).star = s.star := rfl
@[simp] theorem setBlk_pio : (setBlk b k s).pio = { s.pio with blocks := nmSet pioInit s.pio.blocks b k } := rfl
@[simp] theorem setBlk_eng : (setBlk b k s).eng = s.eng := rfl
@[simp] theorem setBlk_pol : (setBlk b k s).pol = s.pol := rfl
@[simp] theorem setBlk_cry : (setBlk b k s).cry = s.cry := rfl
@[simp] theorem setBlk_mbx : (setBlk b k s).mbx = s.mbx := rfl
@[simp] theorem setBlk_recorder : (setBlk b k s).recorder = s.recorder := rfl
@[simp] theorem setBlk_pwr : (setBlk b k s).pwr = s.pwr := rfl
@[simp] theorem setBlk_ticks : (setBlk b k s).ticks = s.ticks := rfl
@[simp] theorem setBlk_freeCtr : (setBlk b k s).freeCtr = s.freeCtr := rfl
@[simp] theorem setBlk_outbox : (setBlk b k s).outbox = s.outbox := rfl
@[simp] theorem setBlk_pending : (setBlk b k s).pending = s.pending := rfl
@[simp] theorem rd_setBlk (q : Reg) (j d : Nat) : rd (setBlk b k s) q j d = rd s q j d := rfl
end

/-! ### setFab -/

section
variable (x : FabSt) (s : State)
@[simp] theorem setFab_regs : (setFab x s).regs = s.regs := rfl
@[simp] theorem setFab_stores : (setFab x s).stores = s.stores := rfl
@[simp] theorem setFab_time : (setFab x s).time = s.time := rfl
@[simp] theorem setFab_evt : (setFab x s).evt = s.evt := rfl
@[simp] theorem setFab_rings : (setFab x s).rings = s.rings := rfl
@[simp] theorem setFab_cfg : (setFab x s).cfg = s.cfg := rfl
@[simp] theorem setFab_mem : (setFab x s).mem = s.mem := rfl
@[simp] theorem setFab_qm : (setFab x s).qm = s.qm := rfl
@[simp] theorem setFab_fab : (setFab x s).fab = x := rfl
@[simp] theorem setFab_eth : (setFab x s).eth = s.eth := rfl
@[simp] theorem setFab_can : (setFab x s).can = s.can := rfl
@[simp] theorem setFab_star : (setFab x s).star = s.star := rfl
@[simp] theorem setFab_pio : (setFab x s).pio = s.pio := rfl
@[simp] theorem setFab_eng : (setFab x s).eng = s.eng := rfl
@[simp] theorem setFab_pol : (setFab x s).pol = s.pol := rfl
@[simp] theorem setFab_cry : (setFab x s).cry = s.cry := rfl
@[simp] theorem setFab_mbx : (setFab x s).mbx = s.mbx := rfl
@[simp] theorem setFab_recorder : (setFab x s).recorder = s.recorder := rfl
@[simp] theorem setFab_pwr : (setFab x s).pwr = s.pwr := rfl
@[simp] theorem setFab_ticks : (setFab x s).ticks = s.ticks := rfl
@[simp] theorem setFab_freeCtr : (setFab x s).freeCtr = s.freeCtr := rfl
@[simp] theorem setFab_outbox : (setFab x s).outbox = s.outbox := rfl
@[simp] theorem setFab_pending : (setFab x s).pending = s.pending := rfl
@[simp] theorem rd_setFab (q : Reg) (j d : Nat) : rd (setFab x s) q j d = rd s q j d := rfl
end

/-! ### setStar -/

section
variable (x : StarSt) (s : State)
@[simp] theorem setStar_regs : (setStar x s).regs = s.regs := rfl
@[simp] theorem setStar_stores : (setStar x s).stores = s.stores := rfl
@[simp] theorem setStar_time : (setStar x s).time = s.time := rfl
@[simp] theorem setStar_evt : (setStar x s).evt = s.evt := rfl
@[simp] theorem setStar_rings : (setStar x s).rings = s.rings := rfl
@[simp] theorem setStar_cfg : (setStar x s).cfg = s.cfg := rfl
@[simp] theorem setStar_mem : (setStar x s).mem = s.mem := rfl
@[simp] theorem setStar_qm : (setStar x s).qm = s.qm := rfl
@[simp] theorem setStar_fab : (setStar x s).fab = s.fab := rfl
@[simp] theorem setStar_eth : (setStar x s).eth = s.eth := rfl
@[simp] theorem setStar_can : (setStar x s).can = s.can := rfl
@[simp] theorem setStar_star : (setStar x s).star = x := rfl
@[simp] theorem setStar_pio : (setStar x s).pio = s.pio := rfl
@[simp] theorem setStar_eng : (setStar x s).eng = s.eng := rfl
@[simp] theorem setStar_pol : (setStar x s).pol = s.pol := rfl
@[simp] theorem setStar_cry : (setStar x s).cry = s.cry := rfl
@[simp] theorem setStar_mbx : (setStar x s).mbx = s.mbx := rfl
@[simp] theorem setStar_recorder : (setStar x s).recorder = s.recorder := rfl
@[simp] theorem setStar_pwr : (setStar x s).pwr = s.pwr := rfl
@[simp] theorem setStar_ticks : (setStar x s).ticks = s.ticks := rfl
@[simp] theorem setStar_freeCtr : (setStar x s).freeCtr = s.freeCtr := rfl
@[simp] theorem setStar_outbox : (setStar x s).outbox = s.outbox := rfl
@[simp] theorem setStar_pending : (setStar x s).pending = s.pending := rfl
@[simp] theorem rd_setStar (q : Reg) (j d : Nat) : rd (setStar x s) q j d = rd s q j d := rfl
end

/-! ### setTime -/

section
variable (x : TimeSt) (s : State)
@[simp] theorem setTime_regs : (setTime x s).regs = s.regs := rfl
@[simp] theorem setTime_stores : (setTime x s).stores = s.stores := rfl
@[simp] theorem setTime_time : (setTime x s).time = x := rfl
@[simp] theorem setTime_evt : (setTime x s).evt = s.evt := rfl
@[simp] theorem setTime_rings : (setTime x s).rings = s.rings := rfl
@[simp] theorem setTime_cfg : (setTime x s).cfg = s.cfg := rfl
@[simp] theorem setTime_mem : (setTime x s).mem = s.mem := rfl
@[simp] theorem setTime_qm : (setTime x s).qm = s.qm := rfl
@[simp] theorem setTime_fab : (setTime x s).fab = s.fab := rfl
@[simp] theorem setTime_eth : (setTime x s).eth = s.eth := rfl
@[simp] theorem setTime_can : (setTime x s).can = s.can := rfl
@[simp] theorem setTime_star : (setTime x s).star = s.star := rfl
@[simp] theorem setTime_pio : (setTime x s).pio = s.pio := rfl
@[simp] theorem setTime_eng : (setTime x s).eng = s.eng := rfl
@[simp] theorem setTime_pol : (setTime x s).pol = s.pol := rfl
@[simp] theorem setTime_cry : (setTime x s).cry = s.cry := rfl
@[simp] theorem setTime_mbx : (setTime x s).mbx = s.mbx := rfl
@[simp] theorem setTime_recorder : (setTime x s).recorder = s.recorder := rfl
@[simp] theorem setTime_pwr : (setTime x s).pwr = s.pwr := rfl
@[simp] theorem setTime_ticks : (setTime x s).ticks = s.ticks := rfl
@[simp] theorem setTime_freeCtr : (setTime x s).freeCtr = s.freeCtr := rfl
@[simp] theorem setTime_outbox : (setTime x s).outbox = s.outbox := rfl
@[simp] theorem setTime_pending : (setTime x s).pending = s.pending := rfl
@[simp] theorem rd_setTime (q : Reg) (j d : Nat) : rd (setTime x s) q j d = rd s q j d := rfl
end

/-! ### setRec -/

section
variable (x : RecSt) (s : State)
@[simp] theorem setRec_regs : (setRec x s).regs = s.regs := rfl
@[simp] theorem setRec_stores : (setRec x s).stores = s.stores := rfl
@[simp] theorem setRec_time : (setRec x s).time = s.time := rfl
@[simp] theorem setRec_evt : (setRec x s).evt = s.evt := rfl
@[simp] theorem setRec_rings : (setRec x s).rings = s.rings := rfl
@[simp] theorem setRec_cfg : (setRec x s).cfg = s.cfg := rfl
@[simp] theorem setRec_mem : (setRec x s).mem = s.mem := rfl
@[simp] theorem setRec_qm : (setRec x s).qm = s.qm := rfl
@[simp] theorem setRec_fab : (setRec x s).fab = s.fab := rfl
@[simp] theorem setRec_eth : (setRec x s).eth = s.eth := rfl
@[simp] theorem setRec_can : (setRec x s).can = s.can := rfl
@[simp] theorem setRec_star : (setRec x s).star = s.star := rfl
@[simp] theorem setRec_pio : (setRec x s).pio = s.pio := rfl
@[simp] theorem setRec_eng : (setRec x s).eng = s.eng := rfl
@[simp] theorem setRec_pol : (setRec x s).pol = s.pol := rfl
@[simp] theorem setRec_cry : (setRec x s).cry = s.cry := rfl
@[simp] theorem setRec_mbx : (setRec x s).mbx = s.mbx := rfl
@[simp] theorem setRec_recorder : (setRec x s).recorder = x := rfl
@[simp] theorem setRec_pwr : (setRec x s).pwr = s.pwr := rfl
@[simp] theorem setRec_ticks : (setRec x s).ticks = s.ticks := rfl
@[simp] theorem setRec_freeCtr : (setRec x s).freeCtr = s.freeCtr := rfl
@[simp] theorem setRec_outbox : (setRec x s).outbox = s.outbox := rfl
@[simp] theorem setRec_pending : (setRec x s).pending = s.pending := rfl
@[simp] theorem rd_setRec (q : Reg) (j d : Nat) : rd (setRec x s) q j d = rd s q j d := rfl
end

/-! ### setShared -/

section
variable (x : List Host.Cell) (s : State)
@[simp] theorem setShared_regs : (setShared x s).regs = s.regs := rfl
@[simp] theorem setShared_stores : (setShared x s).stores = { s.stores with shared := x } := rfl
@[simp] theorem setShared_time : (setShared x s).time = s.time := rfl
@[simp] theorem setShared_evt : (setShared x s).evt = s.evt := rfl
@[simp] theorem setShared_rings : (setShared x s).rings = s.rings := rfl
@[simp] theorem setShared_cfg : (setShared x s).cfg = s.cfg := rfl
@[simp] theorem setShared_mem : (setShared x s).mem = s.mem := rfl
@[simp] theorem setShared_qm : (setShared x s).qm = s.qm := rfl
@[simp] theorem setShared_fab : (setShared x s).fab = s.fab := rfl
@[simp] theorem setShared_eth : (setShared x s).eth = s.eth := rfl
@[simp] theorem setShared_can : (setShared x s).can = s.can := rfl
@[simp] theorem setShared_star : (setShared x s).star = s.star := rfl
@[simp] theorem setShared_pio : (setShared x s).pio = s.pio := rfl
@[simp] theorem setShared_eng : (setShared x s).eng = s.eng := rfl
@[simp] theorem setShared_pol : (setShared x s).pol = s.pol := rfl
@[simp] theorem setShared_cry : (setShared x s).cry = s.cry := rfl
@[simp] theorem setShared_mbx : (setShared x s).mbx = s.mbx := rfl
@[simp] theorem setShared_recorder : (setShared x s).recorder = s.recorder := rfl
@[simp] theorem setShared_pwr : (setShared x s).pwr = s.pwr := rfl
@[simp] theorem setShared_ticks : (setShared x s).ticks = s.ticks := rfl
@[simp] theorem setShared_freeCtr : (setShared x s).freeCtr = s.freeCtr := rfl
@[simp] theorem setShared_outbox : (setShared x s).outbox = s.outbox := rfl
@[simp] theorem setShared_pending : (setShared x s).pending = s.pending := rfl
@[simp] theorem rd_setShared (q : Reg) (j d : Nat) : rd (setShared x s) q j d = rd s q j d := rfl
end

/-! ### setPort -/

section
variable (p : Nat) (k : Port) (s : State)
@[simp] theorem setPort_regs : (setPort p k s).regs = s.regs := rfl
@[simp] theorem setPort_stores : (setPort p k s).stores = s.stores := rfl
@[simp] theorem setPort_time : (setPort p k s).time = s.time := rfl
@[simp] theorem setPort_evt : (setPort p k s).evt = s.evt := rfl
@[simp] theorem setPort_rings : (setPort p k s).rings = s.rings := rfl
@[simp] theorem setPort_cfg : (setPort p k s).cfg = s.cfg := rfl
@[simp] theorem setPort_mem : (setPort p k s).mem = s.mem := rfl
@[simp] theorem setPort_qm : (setPort p k s).qm = s.qm := rfl
@[simp] theorem setPort_fab : (setPort p k s).fab = s.fab := rfl
@[simp] theorem setPort_eth : (setPort p k s).eth = { s.eth with ports := nmSet portReset s.eth.ports p k } := rfl
@[simp] theorem setPort_can : (setPort p k s).can = s.can := rfl
@[simp] theorem setPort_star : (setPort p k s).star = s.star := rfl
@[simp] theorem setPort_pio : (setPort p k s).pio = s.pio := rfl
@[simp] theorem setPort_eng : (setPort p k s).eng = s.eng := rfl
@[simp] theorem setPort_pol : (setPort p k s).pol = s.pol := rfl
@[simp] theorem setPort_cry : (setPort p k s).cry = s.cry := rfl
@[simp] theorem setPort_mbx : (setPort p k s).mbx = s.mbx := rfl
@[simp] theorem setPort_recorder : (setPort p k s).recorder = s.recorder := rfl
@[simp] theorem setPort_pwr : (setPort p k s).pwr = s.pwr := rfl
@[simp] theorem setPort_ticks : (setPort p k s).ticks = s.ticks := rfl
@[simp] theorem setPort_freeCtr : (setPort p k s).freeCtr = s.freeCtr := rfl
@[simp] theorem setPort_outbox : (setPort p k s).outbox = s.outbox := rfl
@[simp] theorem setPort_pending : (setPort p k s).pending = s.pending := rfl
@[simp] theorem rd_setPort (q : Reg) (j d : Nat) : rd (setPort p k s) q j d = rd s q j d := rfl
end

/-! ### setCh -/

section
variable (c : Nat) (k : Chan) (s : State)
@[simp] theorem setCh_regs : (setCh c k s).regs = s.regs := rfl
@[simp] theorem setCh_stores : (setCh c k s).stores = s.stores := rfl
@[simp] theorem setCh_time : (setCh c k s).time = s.time := rfl
@[simp] theorem setCh_evt : (setCh c k s).evt = s.evt := rfl
@[simp] theorem setCh_rings : (setCh c k s).rings = s.rings := rfl
@[simp] theorem setCh_cfg : (setCh c k s).cfg = s.cfg := rfl
@[simp] theorem setCh_mem : (setCh c k s).mem = s.mem := rfl
@[simp] theorem setCh_qm : (setCh c k s).qm = s.qm := rfl
@[simp] theorem setCh_fab : (setCh c k s).fab = s.fab := rfl
@[simp] theorem setCh_eth : (setCh c k s).eth = s.eth := rfl
@[simp] theorem setCh_can : (setCh c k s).can = { s.can with chans := nmSet chanReset s.can.chans c k } := rfl
@[simp] theorem setCh_star : (setCh c k s).star = s.star := rfl
@[simp] theorem setCh_pio : (setCh c k s).pio = s.pio := rfl
@[simp] theorem setCh_eng : (setCh c k s).eng = s.eng := rfl
@[simp] theorem setCh_pol : (setCh c k s).pol = s.pol := rfl
@[simp] theorem setCh_cry : (setCh c k s).cry = s.cry := rfl
@[simp] theorem setCh_mbx : (setCh c k s).mbx = s.mbx := rfl
@[simp] theorem setCh_recorder : (setCh c k s).recorder = s.recorder := rfl
@[simp] theorem setCh_pwr : (setCh c k s).pwr = s.pwr := rfl
@[simp] theorem setCh_ticks : (setCh c k s).ticks = s.ticks := rfl
@[simp] theorem setCh_freeCtr : (setCh c k s).freeCtr = s.freeCtr := rfl
@[simp] theorem setCh_outbox : (setCh c k s).outbox = s.outbox := rfl
@[simp] theorem setCh_pending : (setCh c k s).pending = s.pending := rfl
@[simp] theorem rd_setCh (q : Reg) (j d : Nat) : rd (setCh c k s) q j d = rd s q j d := rfl
end

/-! ### setQueue -/

section
variable (n : Nat) (k : Queue) (s : State)
@[simp] theorem setQueue_regs : (setQueue n k s).regs = s.regs := rfl
@[simp] theorem setQueue_stores : (setQueue n k s).stores = s.stores := rfl
@[simp] theorem setQueue_time : (setQueue n k s).time = s.time := rfl
@[simp] theorem setQueue_evt : (setQueue n k s).evt = s.evt := rfl
@[simp] theorem setQueue_rings : (setQueue n k s).rings = s.rings := rfl
@[simp] theorem setQueue_cfg : (setQueue n k s).cfg = s.cfg := rfl
@[simp] theorem setQueue_mem : (setQueue n k s).mem = s.mem := rfl
@[simp] theorem setQueue_qm : (setQueue n k s).qm = { s.qm with queues := nmSet queueEmpty s.qm.queues n k } := rfl
@[simp] theorem setQueue_fab : (setQueue n k s).fab = s.fab := rfl
@[simp] theorem setQueue_eth : (setQueue n k s).eth = s.eth := rfl
@[simp] theorem setQueue_can : (setQueue n k s).can = s.can := rfl
@[simp] theorem setQueue_star : (setQueue n k s).star = s.star := rfl
@[simp] theorem setQueue_pio : (setQueue n k s).pio = s.pio := rfl
@[simp] theorem setQueue_eng : (setQueue n k s).eng = s.eng := rfl
@[simp] theorem setQueue_pol : (setQueue n k s).pol = s.pol := rfl
@[simp] theorem setQueue_cry : (setQueue n k s).cry = s.cry := rfl
@[simp] theorem setQueue_mbx : (setQueue n k s).mbx = s.mbx := rfl
@[simp] theorem setQueue_recorder : (setQueue n k s).recorder = s.recorder := rfl
@[simp] theorem setQueue_pwr : (setQueue n k s).pwr = s.pwr := rfl
@[simp] theorem setQueue_ticks : (setQueue n k s).ticks = s.ticks := rfl
@[simp] theorem setQueue_freeCtr : (setQueue n k s).freeCtr = s.freeCtr := rfl
@[simp] theorem setQueue_outbox : (setQueue n k s).outbox = s.outbox := rfl
@[simp] theorem setQueue_pending : (setQueue n k s).pending = s.pending := rfl
@[simp] theorem rd_setQueue (q : Reg) (j d : Nat) : rd (setQueue n k s) q j d = rd s q j d := rfl
end

/-! ### setMbx -/

section
variable (n : Nat) (k : MbxCh) (s : State)
@[simp] theorem setMbx_regs : (setMbx n k s).regs = s.regs := rfl
@[simp] theorem setMbx_stores : (setMbx n k s).stores = s.stores := rfl
@[simp] theorem setMbx_time : (setMbx n k s).time = s.time := rfl
@[simp] theorem setMbx_evt : (setMbx n k s).evt = s.evt := rfl
@[simp] theorem setMbx_rings : (setMbx n k s).rings = s.rings := rfl
@[simp] theorem setMbx_cfg : (setMbx n k s).cfg = s.cfg := rfl
@[simp] theorem setMbx_mem : (setMbx n k s).mem = s.mem := rfl
@[simp] theorem setMbx_qm : (setMbx n k s).qm = s.qm := rfl
@[simp] theorem setMbx_fab : (setMbx n k s).fab = s.fab := rfl
@[simp] theorem setMbx_eth : (setMbx n k s).eth = s.eth := rfl
@[simp] theorem setMbx_can : (setMbx n k s).can = s.can := rfl
@[simp] theorem setMbx_star : (setMbx n k s).star = s.star := rfl
@[simp] theorem setMbx_pio : (setMbx n k s).pio = s.pio := rfl
@[simp] theorem setMbx_eng : (setMbx n k s).eng = s.eng := rfl
@[simp] theorem setMbx_pol : (setMbx n k s).pol = s.pol := rfl
@[simp] theorem setMbx_cry : (setMbx n k s).cry = s.cry := rfl
@[simp] theorem setMbx_mbx : (setMbx n k s).mbx = { s.mbx with chans := nmSet mbxInit s.mbx.chans n k } := rfl
@[simp] theorem setMbx_recorder : (setMbx n k s).recorder = s.recorder := rfl
@[simp] theorem setMbx_pwr : (setMbx n k s).pwr = s.pwr := rfl
@[simp] theorem setMbx_ticks : (setMbx n k s).ticks = s.ticks := rfl
@[simp] theorem setMbx_freeCtr : (setMbx n k s).freeCtr = s.freeCtr := rfl
@[simp] theorem setMbx_outbox : (setMbx n k s).outbox = s.outbox := rfl
@[simp] theorem setMbx_pending : (setMbx n k s).pending = s.pending := rfl
@[simp] theorem rd_setMbx (q : Reg) (j d : Nat) : rd (setMbx n k s) q j d = rd s q j d := rfl
end

/-! ### setLock -/

section
variable (n : Nat) (k : Option Nat) (s : State)
@[simp] theorem setLock_regs : (setLock n k s).regs = s.regs := rfl
@[simp] theorem setLock_stores : (setLock n k s).stores = s.stores := rfl
@[simp] theorem setLock_time : (setLock n k s).time = s.time := rfl
@[simp] theorem setLock_evt : (setLock n k s).evt = s.evt := rfl
@[simp] theorem setLock_rings : (setLock n k s).rings = s.rings := rfl
@[simp] theorem setLock_cfg : (setLock n k s).cfg = s.cfg := rfl
@[simp] theorem setLock_mem : (setLock n k s).mem = s.mem := rfl
@[simp] theorem setLock_qm : (setLock n k s).qm = s.qm := rfl
@[simp] theorem setLock_fab : (setLock n k s).fab = s.fab := rfl
@[simp] theorem setLock_eth : (setLock n k s).eth = s.eth := rfl
@[simp] theorem setLock_can : (setLock n k s).can = s.can := rfl
@[simp] theorem setLock_star : (setLock n k s).star = s.star := rfl
@[simp] theorem setLock_pio : (setLock n k s).pio = s.pio := rfl
@[simp] theorem setLock_eng : (setLock n k s).eng = s.eng := rfl
@[simp] theorem setLock_pol : (setLock n k s).pol = s.pol := rfl
@[simp] theorem setLock_cry : (setLock n k s).cry = s.cry := rfl
@[simp] theorem setLock_mbx : (setLock n k s).mbx = { s.mbx with locks := nmSet none s.mbx.locks n k } := rfl
@[simp] theorem setLock_recorder : (setLock n k s).recorder = s.recorder := rfl
@[simp] theorem setLock_pwr : (setLock n k s).pwr = s.pwr := rfl
@[simp] theorem setLock_ticks : (setLock n k s).ticks = s.ticks := rfl
@[simp] theorem setLock_freeCtr : (setLock n k s).freeCtr = s.freeCtr := rfl
@[simp] theorem setLock_outbox : (setLock n k s).outbox = s.outbox := rfl
@[simp] theorem setLock_pending : (setLock n k s).pending = s.pending := rfl
@[simp] theorem rd_setLock (q : Reg) (j d : Nat) : rd (setLock n k s) q j d = rd s q j d := rfl
end

/-! ### setSlot -/

section
variable (n : Nat) (k : KeySlot) (s : State)
@[simp] theorem setSlot_regs : (setSlot n k s).regs = s.regs := rfl
@[simp] theorem setSlot_stores : (setSlot n k s).stores = s.stores := rfl
@[simp] theorem setSlot_time : (setSlot n k s).time = s.time := rfl
@[simp] theorem setSlot_evt : (setSlot n k s).evt = s.evt := rfl
@[simp] theorem setSlot_rings : (setSlot n k s).rings = s.rings := rfl
@[simp] theorem setSlot_cfg : (setSlot n k s).cfg = s.cfg := rfl
@[simp] theorem setSlot_mem : (setSlot n k s).mem = s.mem := rfl
@[simp] theorem setSlot_qm : (setSlot n k s).qm = s.qm := rfl
@[simp] theorem setSlot_fab : (setSlot n k s).fab = s.fab := rfl
@[simp] theorem setSlot_eth : (setSlot n k s).eth = s.eth := rfl
@[simp] theorem setSlot_can : (setSlot n k s).can = s.can := rfl
@[simp] theorem setSlot_star : (setSlot n k s).star = s.star := rfl
@[simp] theorem setSlot_pio : (setSlot n k s).pio = s.pio := rfl
@[simp] theorem setSlot_eng : (setSlot n k s).eng = s.eng := rfl
@[simp] theorem setSlot_pol : (setSlot n k s).pol = s.pol := rfl
@[simp] theorem setSlot_cry : (setSlot n k s).cry = { s.cry with slots := nmSet ⟨false, 0, 0⟩ s.cry.slots n k } := rfl
@[simp] theorem setSlot_mbx : (setSlot n k s).mbx = s.mbx := rfl
@[simp] theorem setSlot_recorder : (setSlot n k s).recorder = s.recorder := rfl
@[simp] theorem setSlot_pwr : (setSlot n k s).pwr = s.pwr := rfl
@[simp] theorem setSlot_ticks : (setSlot n k s).ticks = s.ticks := rfl
@[simp] theorem setSlot_freeCtr : (setSlot n k s).freeCtr = s.freeCtr := rfl
@[simp] theorem setSlot_outbox : (setSlot n k s).outbox = s.outbox := rfl
@[simp] theorem setSlot_pending : (setSlot n k s).pending = s.pending := rfl
@[simp] theorem rd_setSlot (q : Reg) (j d : Nat) : rd (setSlot n k s) q j d = rd s q j d := rfl
end

/-! ### setFlow -/

section
variable (n : Nat) (k : Option W32) (s : State)
@[simp] theorem setFlow_regs : (setFlow n k s).regs = s.regs := rfl
@[simp] theorem setFlow_stores : (setFlow n k s).stores = s.stores := rfl
@[simp] theorem setFlow_time : (setFlow n k s).time = s.time := rfl
@[simp] theorem setFlow_evt : (setFlow n k s).evt = s.evt := rfl
@[simp] theorem setFlow_rings : (setFlow n k s).rings = s.rings := rfl
@[simp] theorem setFlow_cfg : (setFlow n k s).cfg = s.cfg := rfl
@[simp] theorem setFlow_mem : (setFlow n k s).mem = s.mem := rfl
@[simp] theorem setFlow_qm : (setFlow n k s).qm = s.qm := rfl
@[simp] theorem setFlow_fab : (setFlow n k s).fab = s.fab := rfl
@[simp] theorem setFlow_eth : (setFlow n k s).eth = s.eth := rfl
@[simp] theorem setFlow_can : (setFlow n k s).can = s.can := rfl
@[simp] theorem setFlow_star : (setFlow n k s).star = s.star := rfl
@[simp] theorem setFlow_pio : (setFlow n k s).pio = s.pio := rfl
@[simp] theorem setFlow_eng : (setFlow n k s).eng = s.eng := rfl
@[simp] theorem setFlow_pol : (setFlow n k s).pol = s.pol := rfl
@[simp] theorem setFlow_cry : (setFlow n k s).cry = { s.cry with flows := nmSet none s.cry.flows n k } := rfl
@[simp] theorem setFlow_mbx : (setFlow n k s).mbx = s.mbx := rfl
@[simp] theorem setFlow_recorder : (setFlow n k s).recorder = s.recorder := rfl
@[simp] theorem setFlow_pwr : (setFlow n k s).pwr = s.pwr := rfl
@[simp] theorem setFlow_ticks : (setFlow n k s).ticks = s.ticks := rfl
@[simp] theorem setFlow_freeCtr : (setFlow n k s).freeCtr = s.freeCtr := rfl
@[simp] theorem setFlow_outbox : (setFlow n k s).outbox = s.outbox := rfl
@[simp] theorem setFlow_pending : (setFlow n k s).pending = s.pending := rfl
@[simp] theorem rd_setFlow (q : Reg) (j d : Nat) : rd (setFlow n k s) q j d = rd s q j d := rfl
end

/-! ### setPwr -/

section
variable (p : PwrState) (s : State)
@[simp] theorem setPwr_regs : (setPwr p s).regs = s.regs := rfl
@[simp] theorem setPwr_stores : (setPwr p s).stores = s.stores := rfl
@[simp] theorem setPwr_time : (setPwr p s).time = s.time := rfl
@[simp] theorem setPwr_evt : (setPwr p s).evt = s.evt := rfl
@[simp] theorem setPwr_rings : (setPwr p s).rings = s.rings := rfl
@[simp] theorem setPwr_cfg : (setPwr p s).cfg = s.cfg := rfl
@[simp] theorem setPwr_mem : (setPwr p s).mem = s.mem := rfl
@[simp] theorem setPwr_qm : (setPwr p s).qm = s.qm := rfl
@[simp] theorem setPwr_fab : (setPwr p s).fab = s.fab := rfl
@[simp] theorem setPwr_eth : (setPwr p s).eth = s.eth := rfl
@[simp] theorem setPwr_can : (setPwr p s).can = s.can := rfl
@[simp] theorem setPwr_star : (setPwr p s).star = s.star := rfl
@[simp] theorem setPwr_pio : (setPwr p s).pio = s.pio := rfl
@[simp] theorem setPwr_eng : (setPwr p s).eng = s.eng := rfl
@[simp] theorem setPwr_pol : (setPwr p s).pol = s.pol := rfl
@[simp] theorem setPwr_cry : (setPwr p s).cry = s.cry := rfl
@[simp] theorem setPwr_mbx : (setPwr p s).mbx = s.mbx := rfl
@[simp] theorem setPwr_recorder : (setPwr p s).recorder = s.recorder := rfl
@[simp] theorem setPwr_pwr : (setPwr p s).pwr = { s.pwr with st := p } := rfl
@[simp] theorem setPwr_ticks : (setPwr p s).ticks = s.ticks := rfl
@[simp] theorem setPwr_freeCtr : (setPwr p s).freeCtr = s.freeCtr := rfl
@[simp] theorem setPwr_outbox : (setPwr p s).outbox = s.outbox := rfl
@[simp] theorem setPwr_pending : (setPwr p s).pending = s.pending := rfl
@[simp] theorem rd_setPwr (q : Reg) (j d : Nat) : rd (setPwr p s) q j d = rd s q j d := rfl
end

/-! ### setCycle -/

section
variable (b : Nat) (k : BankCycle) (s : State)
@[simp] theorem setCycle_regs : (setCycle b k s).regs = s.regs := rfl
@[simp] theorem setCycle_stores : (setCycle b k s).stores = s.stores := rfl
@[simp] theorem setCycle_time : (setCycle b k s).time = s.time := rfl
@[simp] theorem setCycle_evt : (setCycle b k s).evt = s.evt := rfl
@[simp] theorem setCycle_rings : (setCycle b k s).rings = s.rings := rfl
@[simp] theorem setCycle_cfg : (setCycle b k s).cfg = s.cfg := rfl
@[simp] theorem setCycle_mem : (setCycle b k s).mem = { s.mem with cycle := nmSet ⟨none, none⟩ s.mem.cycle b k } := rfl
@[simp] theorem setCycle_qm : (setCycle b k s).qm = s.qm := rfl
@[simp] theorem setCycle_fab : (setCycle b k s).fab = s.fab := rfl
@[simp] theorem setCycle_eth : (setCycle b k s).eth = s.eth := rfl
@[simp] theorem setCycle_can : (setCycle b k s).can = s.can := rfl
@[simp] theorem setCycle_star : (setCycle b k s).star = s.star := rfl
@[simp] theorem setCycle_pio : (setCycle b k s).pio = s.pio := rfl
@[simp] theorem setCycle_eng : (setCycle b k s).eng = s.eng := rfl
@[simp] theorem setCycle_pol : (setCycle b k s).pol = s.pol := rfl
@[simp] theorem setCycle_cry : (setCycle b k s).cry = s.cry := rfl
@[simp] theorem setCycle_mbx : (setCycle b k s).mbx = s.mbx := rfl
@[simp] theorem setCycle_recorder : (setCycle b k s).recorder = s.recorder := rfl
@[simp] theorem setCycle_pwr : (setCycle b k s).pwr = s.pwr := rfl
@[simp] theorem setCycle_ticks : (setCycle b k s).ticks = s.ticks := rfl
@[simp] theorem setCycle_freeCtr : (setCycle b k s).freeCtr = s.freeCtr := rfl
@[simp] theorem setCycle_outbox : (setCycle b k s).outbox = s.outbox := rfl
@[simp] theorem setCycle_pending : (setCycle b k s).pending = s.pending := rfl
@[simp] theorem rd_setCycle (q : Reg) (j d : Nat) : rd (setCycle b k s) q j d = rd s q j d := rfl
end

/-! ### stallAt -/

section
variable (b : Nat) (s : State)
@[simp] theorem stallAt_regs : (stallAt b s).regs = s.regs := rfl
@[simp] theorem stallAt_stores : (stallAt b s).stores = s.stores := rfl
@[simp] theorem stallAt_time : (stallAt b s).time = s.time := rfl
@[simp] theorem stallAt_evt : (stallAt b s).evt = s.evt := rfl
@[simp] theorem stallAt_rings : (stallAt b s).rings = s.rings := rfl
@[simp] theorem stallAt_cfg : (stallAt b s).cfg = s.cfg := rfl
@[simp] theorem stallAt_mem : (stallAt b s).mem = { s.mem with stall := some (s.mem.stall.getD b) } := rfl
@[simp] theorem stallAt_qm : (stallAt b s).qm = s.qm := rfl
@[simp] theorem stallAt_fab : (stallAt b s).fab = s.fab := rfl
@[simp] theorem stallAt_eth : (stallAt b s).eth = s.eth := rfl
@[simp] theorem stallAt_can : (stallAt b s).can = s.can := rfl
@[simp] theorem stallAt_star : (stallAt b s).star = s.star := rfl
@[simp] theorem stallAt_pio : (stallAt b s).pio = s.pio := rfl
@[simp] theorem stallAt_eng : (stallAt b s).eng = s.eng := rfl
@[simp] theorem stallAt_pol : (stallAt b s).pol = s.pol := rfl
@[simp] theorem stallAt_cry : (stallAt b s).cry = s.cry := rfl
@[simp] theorem stallAt_mbx : (stallAt b s).mbx = s.mbx := rfl
@[simp] theorem stallAt_recorder : (stallAt b s).recorder = s.recorder := rfl
@[simp] theorem stallAt_pwr : (stallAt b s).pwr = s.pwr := rfl
@[simp] theorem stallAt_ticks : (stallAt b s).ticks = s.ticks := rfl
@[simp] theorem stallAt_freeCtr : (stallAt b s).freeCtr = s.freeCtr := rfl
@[simp] theorem stallAt_outbox : (stallAt b s).outbox = s.outbox := rfl
@[simp] theorem stallAt_pending : (stallAt b s).pending = s.pending := rfl
@[simp] theorem rd_stallAt (q : Reg) (j d : Nat) : rd (stallAt b s) q j d = rd s q j d := rfl
end

/-! ### setPair -/

section
variable (n : Nat) (k : RedPair) (s : State)
@[simp] theorem setPair_regs : (setPair n k s).regs = s.regs := rfl
@[simp] theorem setPair_stores : (setPair n k s).stores = s.stores := rfl
@[simp] theorem setPair_time : (setPair n k s).time = s.time := rfl
@[simp] theorem setPair_evt : (setPair n k s).evt = s.evt := rfl
@[simp] theorem setPair_rings : (setPair n k s).rings = s.rings := rfl
@[simp] theorem setPair_cfg : (setPair n k s).cfg = s.cfg := rfl
@[simp] theorem setPair_mem : (setPair n k s).mem = s.mem := rfl
@[simp] theorem setPair_qm : (setPair n k s).qm = s.qm := rfl
@[simp] theorem setPair_fab : (setPair n k s).fab = s.fab := rfl
@[simp] theorem setPair_eth : (setPair n k s).eth = { s.eth with pairs := nmSet ⟨0, []⟩ s.eth.pairs n k } := rfl
@[simp] theorem setPair_can : (setPair n k s).can = s.can := rfl
@[simp] theorem setPair_star : (setPair n k s).star = s.star := rfl
@[simp] theorem setPair_pio : (setPair n k s).pio = s.pio := rfl
@[simp] theorem setPair_eng : (setPair n k s).eng = s.eng := rfl
@[simp] theorem setPair_pol : (setPair n k s).pol = s.pol := rfl
@[simp] theorem setPair_cry : (setPair n k s).cry = s.cry := rfl
@[simp] theorem setPair_mbx : (setPair n k s).mbx = s.mbx := rfl
@[simp] theorem setPair_recorder : (setPair n k s).recorder = s.recorder := rfl
@[simp] theorem setPair_pwr : (setPair n k s).pwr = s.pwr := rfl
@[simp] theorem setPair_ticks : (setPair n k s).ticks = s.ticks := rfl
@[simp] theorem setPair_freeCtr : (setPair n k s).freeCtr = s.freeCtr := rfl
@[simp] theorem setPair_outbox : (setPair n k s).outbox = s.outbox := rfl
@[simp] theorem setPair_pending : (setPair n k s).pending = s.pending := rfl
@[simp] theorem rd_setPair (q : Reg) (j d : Nat) : rd (setPair n k s) q j d = rd s q j d := rfl
end

/-! ### setSecW -/

section
variable (p sc w : Nat) (v : W32) (s : State)
@[simp] theorem setSecW_regs : (setSecW p sc w v s).regs = s.regs := rfl
@[simp] theorem setSecW_stores : (setSecW p sc w v s).stores = s.stores := rfl
@[simp] theorem setSecW_time : (setSecW p sc w v s).time = s.time := rfl
@[simp] theorem setSecW_evt : (setSecW p sc w v s).evt = s.evt := rfl
@[simp] theorem setSecW_rings : (setSecW p sc w v s).rings = s.rings := rfl
@[simp] theorem setSecW_cfg : (setSecW p sc w v s).cfg = s.cfg := rfl
@[simp] theorem setSecW_mem : (setSecW p sc w v s).mem = s.mem := rfl
@[simp] theorem setSecW_qm : (setSecW p sc w v s).qm = s.qm := rfl
@[simp] theorem setSecW_fab : (setSecW p sc w v s).fab = s.fab := rfl
@[simp] theorem setSecW_eth : (setSecW p sc w v s).eth = { s.eth with secure := nmSet (if w = 0 then 0x10 else 0) s.eth.secure ((p * 32 + sc) * 32 + w) v } := rfl
@[simp] theorem setSecW_can : (setSecW p sc w v s).can = s.can := rfl
@[simp] theorem setSecW_star : (setSecW p sc w v s).star = s.star := rfl
@[simp] theorem setSecW_pio : (setSecW p sc w v s).pio = s.pio := rfl
@[simp] theorem setSecW_eng : (setSecW p sc w v s).eng = s.eng := rfl
@[simp] theorem setSecW_pol : (setSecW p sc w v s).pol = s.pol := rfl
@[simp] theorem setSecW_cry : (setSecW p sc w v s).cry = s.cry := rfl
@[simp] theorem setSecW_mbx : (setSecW p sc w v s).mbx = s.mbx := rfl
@[simp] theorem setSecW_recorder : (setSecW p sc w v s).recorder = s.recorder := rfl
@[simp] theorem setSecW_pwr : (setSecW p sc w v s).pwr = s.pwr := rfl
@[simp] theorem setSecW_ticks : (setSecW p sc w v s).ticks = s.ticks := rfl
@[simp] theorem setSecW_freeCtr : (setSecW p sc w v s).freeCtr = s.freeCtr := rfl
@[simp] theorem setSecW_outbox : (setSecW p sc w v s).outbox = s.outbox := rfl
@[simp] theorem setSecW_pending : (setSecW p sc w v s).pending = s.pending := rfl
@[simp] theorem rd_setSecW (q : Reg) (j d : Nat) : rd (setSecW p sc w v s) q j d = rd s q j d := rfl
end

/-! ### setSig -/

section
variable (n : Nat) (x : SigRt) (s : State)
@[simp] theorem setSig_regs : (setSig n x s).regs = s.regs := rfl
@[simp] theorem setSig_stores : (setSig n x s).stores = s.stores := rfl
@[simp] theorem setSig_time : (setSig n x s).time = s.time := rfl
@[simp] theorem setSig_evt : (setSig n x s).evt = s.evt := rfl
@[simp] theorem setSig_rings : (setSig n x s).rings = s.rings := rfl
@[simp] theorem setSig_cfg : (setSig n x s).cfg = s.cfg := rfl
@[simp] theorem setSig_mem : (setSig n x s).mem = s.mem := rfl
@[simp] theorem setSig_qm : (setSig n x s).qm = s.qm := rfl
@[simp] theorem setSig_fab : (setSig n x s).fab = s.fab := rfl
@[simp] theorem setSig_eth : (setSig n x s).eth = s.eth := rfl
@[simp] theorem setSig_can : (setSig n x s).can = s.can := rfl
@[simp] theorem setSig_star : (setSig n x s).star = s.star := rfl
@[simp] theorem setSig_pio : (setSig n x s).pio = s.pio := rfl
@[simp] theorem setSig_eng : (setSig n x s).eng = s.eng := rfl
@[simp] theorem setSig_pol : (setSig n x s).pol = { s.pol with sig := nmSet ⟨0, false, true, 0⟩ s.pol.sig n x } := rfl
@[simp] theorem setSig_cry : (setSig n x s).cry = s.cry := rfl
@[simp] theorem setSig_mbx : (setSig n x s).mbx = s.mbx := rfl
@[simp] theorem setSig_recorder : (setSig n x s).recorder = s.recorder := rfl
@[simp] theorem setSig_pwr : (setSig n x s).pwr = s.pwr := rfl
@[simp] theorem setSig_ticks : (setSig n x s).ticks = s.ticks := rfl
@[simp] theorem setSig_freeCtr : (setSig n x s).freeCtr = s.freeCtr := rfl
@[simp] theorem setSig_outbox : (setSig n x s).outbox = s.outbox := rfl
@[simp] theorem setSig_pending : (setSig n x s).pending = s.pending := rfl
@[simp] theorem rd_setSig (q : Reg) (j d : Nat) : rd (setSig n x s) q j d = rd s q j d := rfl
end

/-! ### setBr -/

section
variable (n : Nat) (k : Branch) (s : State)
@[simp] theorem setBr_regs : (setBr n k s).regs = s.regs := rfl
@[simp] theorem setBr_stores : (setBr n k s).stores = s.stores := rfl
@[simp] theorem setBr_time : (setBr n k s).time = s.time := rfl
@[simp] theorem setBr_evt : (setBr n k s).evt = s.evt := rfl
@[simp] theorem setBr_rings : (setBr n k s).rings = s.rings := rfl
@[simp] theorem setBr_cfg : (setBr n k s).cfg = s.cfg := rfl
@[simp] theorem setBr_mem : (setBr n k s).mem = s.mem := rfl
@[simp] theorem setBr_qm : (setBr n k s).qm = s.qm := rfl
@[simp] theorem setBr_fab : (setBr n k s).fab = s.fab := rfl
@[simp] theorem setBr_eth : (setBr n k s).eth = s.eth := rfl
@[simp] theorem setBr_can : (setBr n k s).can = s.can := rfl
@[simp] theorem setBr_star : (setBr n k s).star = { s.star with branches := nmSet branchReset s.star.branches n k } := rfl
@[simp] theorem setBr_pio : (setBr n k s).pio = s.pio := rfl
@[simp] theorem setBr_eng : (setBr n k s).eng = s.eng := rfl
@[simp] theorem setBr_pol : (setBr n k s).pol = s.pol := rfl
@[simp] theorem setBr_cry : (setBr n k s).cry = s.cry := rfl
@[simp] theorem setBr_mbx : (setBr n k s).mbx = s.mbx := rfl
@[simp] theorem setBr_recorder : (setBr n k s).recorder = s.recorder := rfl
@[simp] theorem setBr_pwr : (setBr n k s).pwr = s.pwr := rfl
@[simp] theorem setBr_ticks : (setBr n k s).ticks = s.ticks := rfl
@[simp] theorem setBr_freeCtr : (setBr n k s).freeCtr = s.freeCtr := rfl
@[simp] theorem setBr_outbox : (setBr n k s).outbox = s.outbox := rfl
@[simp] theorem setBr_pending : (setBr n k s).pending = s.pending := rfl
@[simp] theorem rd_setBr (q : Reg) (j d : Nat) : rd (setBr n k s) q j d = rd s q j d := rfl
end

/-! ### setEgress -/

section
variable (eq : Nat) (x : EgressQ) (s : State)
@[simp] theorem setEgress_regs : (setEgress eq x s).regs = s.regs := rfl
@[simp] theorem setEgress_stores : (setEgress eq x s).stores = s.stores := rfl
@[simp] theorem setEgress_time : (setEgress eq x s).time = s.time := rfl
@[simp] theorem setEgress_evt : (setEgress eq x s).evt = s.evt := rfl
@[simp] theorem setEgress_rings : (setEgress eq x s).rings = s.rings := rfl
@[simp] theorem setEgress_cfg : (setEgress eq x s).cfg = s.cfg := rfl
@[simp] theorem setEgress_mem : (setEgress eq x s).mem = s.mem := rfl
@[simp] theorem setEgress_qm : (setEgress eq x s).qm = s.qm := rfl
@[simp] theorem setEgress_fab : (setEgress eq x s).fab = { s.fab with egress := nmSet ⟨0, [], false⟩ s.fab.egress eq x } := rfl
@[simp] theorem setEgress_eth : (setEgress eq x s).eth = s.eth := rfl
@[simp] theorem setEgress_can : (setEgress eq x s).can = s.can := rfl
@[simp] theorem setEgress_star : (setEgress eq x s).star = s.star := rfl
@[simp] theorem setEgress_pio : (setEgress eq x s).pio = s.pio := rfl
@[simp] theorem setEgress_eng : (setEgress eq x s).eng = s.eng := rfl
@[simp] theorem setEgress_pol : (setEgress eq x s).pol = s.pol := rfl
@[simp] theorem setEgress_cry : (setEgress eq x s).cry = s.cry := rfl
@[simp] theorem setEgress_mbx : (setEgress eq x s).mbx = s.mbx := rfl
@[simp] theorem setEgress_recorder : (setEgress eq x s).recorder = s.recorder := rfl
@[simp] theorem setEgress_pwr : (setEgress eq x s).pwr = s.pwr := rfl
@[simp] theorem setEgress_ticks : (setEgress eq x s).ticks = s.ticks := rfl
@[simp] theorem setEgress_freeCtr : (setEgress eq x s).freeCtr = s.freeCtr := rfl
@[simp] theorem setEgress_outbox : (setEgress eq x s).outbox = s.outbox := rfl
@[simp] theorem setEgress_pending : (setEgress eq x s).pending = s.pending := rfl
@[simp] theorem rd_setEgress (q : Reg) (j d : Nat) : rd (setEgress eq x s) q j d = rd s q j d := rfl
end

/-! ### mapFlights -/

section
variable (id : Nat) (f : Flight → Flight) (s : State)
@[simp] theorem mapFlights_regs : (mapFlights id f s).regs = s.regs := rfl
@[simp] theorem mapFlights_stores : (mapFlights id f s).stores = s.stores := rfl
@[simp] theorem mapFlights_time : (mapFlights id f s).time = s.time := rfl
@[simp] theorem mapFlights_evt : (mapFlights id f s).evt = s.evt := rfl
@[simp] theorem mapFlights_rings : (mapFlights id f s).rings = s.rings := rfl
@[simp] theorem mapFlights_cfg : (mapFlights id f s).cfg = s.cfg := rfl
@[simp] theorem mapFlights_mem : (mapFlights id f s).mem = s.mem := rfl
@[simp] theorem mapFlights_qm : (mapFlights id f s).qm = s.qm := rfl
@[simp] theorem mapFlights_fab : (mapFlights id f s).fab = { s.fab with flights := s.fab.flights.map fun g => if g.id = id then f g else g } := rfl
@[simp] theorem mapFlights_eth : (mapFlights id f s).eth = s.eth := rfl
@[simp] theorem mapFlights_can : (mapFlights id f s).can = s.can := rfl
@[simp] theorem mapFlights_star : (mapFlights id f s).star = s.star := rfl
@[simp] theorem mapFlights_pio : (mapFlights id f s).pio = s.pio := rfl
@[simp] theorem mapFlights_eng : (mapFlights id f s).eng = s.eng := rfl
@[simp] theorem mapFlights_pol : (mapFlights id f s).pol = s.pol := rfl
@[simp] theorem mapFlights_cry : (mapFlights id f s).cry = s.cry := rfl
@[simp] theorem mapFlights_mbx : (mapFlights id f s).mbx = s.mbx := rfl
@[simp] theorem mapFlights_recorder : (mapFlights id f s).recorder = s.recorder := rfl
@[simp] theorem mapFlights_pwr : (mapFlights id f s).pwr = s.pwr := rfl
@[simp] theorem mapFlights_ticks : (mapFlights id f s).ticks = s.ticks := rfl
@[simp] theorem mapFlights_freeCtr : (mapFlights id f s).freeCtr = s.freeCtr := rfl
@[simp] theorem mapFlights_outbox : (mapFlights id f s).outbox = s.outbox := rfl
@[simp] theorem mapFlights_pending : (mapFlights id f s).pending = s.pending := rfl
@[simp] theorem rd_mapFlights (q : Reg) (j d : Nat) : rd (mapFlights id f s) q j d = rd s q j d := rfl
end

/-! ### setActive -/

section
variable (id k : Nat) (e : List W32) (s : State)
@[simp] theorem setActive_regs : (setActive id k e s).regs = s.regs := rfl
@[simp] theorem setActive_stores : (setActive id k e s).stores = s.stores := rfl
@[simp] theorem setActive_time : (setActive id k e s).time = s.time := rfl
@[simp] theorem setActive_evt : (setActive id k e s).evt = s.evt := rfl
@[simp] theorem setActive_rings : (setActive id k e s).rings = s.rings := rfl
@[simp] theorem setActive_cfg : (setActive id k e s).cfg = { s.cfg with active := putEntry id k e s.cfg.active } := rfl
@[simp] theorem setActive_mem : (setActive id k e s).mem = s.mem := rfl
@[simp] theorem setActive_qm : (setActive id k e s).qm = s.qm := rfl
@[simp] theorem setActive_fab : (setActive id k e s).fab = s.fab := rfl
@[simp] theorem setActive_eth : (setActive id k e s).eth = s.eth := rfl
@[simp] theorem setActive_can : (setActive id k e s).can = s.can := rfl
@[simp] theorem setActive_star : (setActive id k e s).star = s.star := rfl
@[simp] theorem setActive_pio : (setActive id k e s).pio = s.pio := rfl
@[simp] theorem setActive_eng : (setActive id k e s).eng = s.eng := rfl
@[simp] theorem setActive_pol : (setActive id k e s).pol = s.pol := rfl
@[simp] theorem setActive_cry : (setActive id k e s).cry = s.cry := rfl
@[simp] theorem setActive_mbx : (setActive id k e s).mbx = s.mbx := rfl
@[simp] theorem setActive_recorder : (setActive id k e s).recorder = s.recorder := rfl
@[simp] theorem setActive_pwr : (setActive id k e s).pwr = s.pwr := rfl
@[simp] theorem setActive_ticks : (setActive id k e s).ticks = s.ticks := rfl
@[simp] theorem setActive_freeCtr : (setActive id k e s).freeCtr = s.freeCtr := rfl
@[simp] theorem setActive_outbox : (setActive id k e s).outbox = s.outbox := rfl
@[simp] theorem setActive_pending : (setActive id k e s).pending = s.pending := rfl
@[simp] theorem rd_setActive (q : Reg) (j d : Nat) : rd (setActive id k e s) q j d = rd s q j d := rfl
end

/-! ### setTh -/

section
variable (t : Nat) (h : Thread) (s : State)
@[simp] theorem setTh_regs : (setTh t h s).regs = s.regs := by unfold setTh; split <;> rfl
@[simp] theorem setTh_stores : (setTh t h s).stores = s.stores := by unfold setTh; split <;> rfl
@[simp] theorem setTh_time : (setTh t h s).time = s.time := by unfold setTh; split <;> rfl
@[simp] theorem setTh_evt : (setTh t h s).evt = s.evt := by unfold setTh; split <;> rfl
@[simp] theorem setTh_rings : (setTh t h s).rings = s.rings := by unfold setTh; split <;> rfl
@[simp] theorem setTh_cfg : (setTh t h s).cfg = s.cfg := by unfold setTh; split <;> rfl
@[simp] theorem setTh_mem : (setTh t h s).mem = s.mem := by unfold setTh; split <;> rfl
@[simp] theorem setTh_qm : (setTh t h s).qm = s.qm := by unfold setTh; split <;> rfl
@[simp] theorem setTh_fab : (setTh t h s).fab = s.fab := by unfold setTh; split <;> rfl
@[simp] theorem setTh_eth : (setTh t h s).eth = s.eth := by unfold setTh; split <;> rfl
@[simp] theorem setTh_can : (setTh t h s).can = s.can := by unfold setTh; split <;> rfl
@[simp] theorem setTh_star : (setTh t h s).star = s.star := by unfold setTh; split <;> rfl
@[simp] theorem setTh_pio : (setTh t h s).pio = s.pio := by unfold setTh; split <;> rfl
@[simp] theorem setTh_cry : (setTh t h s).cry = s.cry := by unfold setTh; split <;> rfl
@[simp] theorem setTh_mbx : (setTh t h s).mbx = s.mbx := by unfold setTh; split <;> rfl
@[simp] theorem setTh_recorder : (setTh t h s).recorder = s.recorder := by unfold setTh; split <;> rfl
@[simp] theorem setTh_pwr : (setTh t h s).pwr = s.pwr := by unfold setTh; split <;> rfl
@[simp] theorem setTh_ticks : (setTh t h s).ticks = s.ticks := by unfold setTh; split <;> rfl
@[simp] theorem setTh_freeCtr : (setTh t h s).freeCtr = s.freeCtr := by unfold setTh; split <;> rfl
@[simp] theorem setTh_outbox : (setTh t h s).outbox = s.outbox := by unfold setTh; split <;> rfl
@[simp] theorem setTh_pending : (setTh t h s).pending = s.pending := by unfold setTh; split <;> rfl
@[simp] theorem rd_setTh (q : Reg) (j d : Nat) : rd (setTh t h s) q j d = rd s q j d := by unfold rd; rw [setTh_regs]
end

/-! ### What was set reads back -/

/-- A register reads as what was last written to it. -/
@[simp] theorem rd_wr_same (r : Reg) (i c : Nat) (v : W32) (s : State) : rd (wr r i c v s) r i c = v := by simp [rd]

/-- A register write leaves every register of another key alone. -/
theorem rd_wr_ne (r q : Reg) (i j c d : Nat) (v : W32) (s : State) (h : regKey q j d ≠ regKey r i c) :
    rd (wr r i c v s) q j d = rd s q j d := by
  simp only [rd, wr_regs]
  exact nmGet_nmSet_ne _ _ _ _ _ _ h

theorem ctorIdx_inj (r q : Reg) (h : r.ctorIdx = q.ctorIdx) : r = q := by
  have e : ∀ r : Reg, Reg.ofNat r.ctorIdx = r := by intro r; cases r <;> rfl
  rw [← e r, ← e q, h]

theorem ctorIdx_lt (r : Reg) : r.ctorIdx < 1024 := by cases r <;> decide

/-- No two elements of registers share a key. -/
theorem regKey_inj (r q : Reg) (i j c d : Nat) (hi : i < 1024) (hj : j < 1024) (h : regKey q j d = regKey r i c) :
    q = r ∧ j = i ∧ d = c := by
  have a := ctorIdx_lt r
  have b := ctorIdx_lt q
  unfold regKey at h
  have e : q.ctorIdx = r.ctorIdx := by omega
  exact ⟨ctorIdx_inj q r e, by omega, by omega⟩

/-- Different registers have different keys, whatever their elements. -/
theorem regKey_ne_of_reg (r q : Reg) (i j c d : Nat) (h : q ≠ r) : regKey q j d ≠ regKey r i c := by
  intro e
  have a := ctorIdx_lt r
  have b := ctorIdx_lt q
  unfold regKey at e
  exact h (ctorIdx_inj q r (by omega))

/-- A register write leaves every other register alone. -/
theorem rd_wr_reg (r q : Reg) (i j c d : Nat) (v : W32) (s : State) (h : q ≠ r) : rd (wr r i c v s) q j d = rd s q j d :=
  rd_wr_ne _ _ _ _ _ _ _ _ (regKey_ne_of_reg _ _ _ _ _ _ h)

@[simp] theorem ringOf_setRing_same (n : Nat) (r : Ring) (s : State) : ringOf (setRing n r s) n = r := by simp [ringOf]

theorem ringOf_setRing_ne (n k : Nat) (r : Ring) (s : State) (h : k ≠ n) : ringOf (setRing n r s) k = ringOf s k := by
  simp only [ringOf, setRing_rings]
  exact nmGet_nmSet_ne _ _ _ _ _ _ h

@[simp] theorem bankOf_setBank_same (b : Nat) (k : Bank) (s : State) : bankOf (setBank b k s) b = k := by simp [bankOf]

theorem bankOf_setBank_ne (b j : Nat) (k : Bank) (s : State) (h : j ≠ b) : bankOf (setBank b k s) j = bankOf s j := by
  simp only [bankOf, setBank_mem]
  exact nmGet_nmSet_ne _ _ _ _ _ _ h

@[simp] theorem queueOf_setQueue_same (n : Nat) (k : Queue) (s : State) : queueOf (setQueue n k s) n = k := by simp [queueOf]

theorem queueOf_setQueue_ne (n j : Nat) (k : Queue) (s : State) (h : j ≠ n) : queueOf (setQueue n k s) j = queueOf s j := by
  simp only [queueOf, setQueue_qm]
  exact nmGet_nmSet_ne _ _ _ _ _ _ h

@[simp] theorem portOf_setPort_same (n : Nat) (k : Port) (s : State) : portOf (setPort n k s) n = k := by simp [portOf]

theorem portOf_setPort_ne (n j : Nat) (k : Port) (s : State) (h : j ≠ n) : portOf (setPort n k s) j = portOf s j := by
  simp only [portOf, setPort_eth]
  exact nmGet_nmSet_ne _ _ _ _ _ _ h

@[simp] theorem chOf_setCh_same (n : Nat) (k : Chan) (s : State) : chOf (setCh n k s) n = k := by simp [chOf]

theorem chOf_setCh_ne (n j : Nat) (k : Chan) (s : State) (h : j ≠ n) : chOf (setCh n k s) j = chOf s j := by
  simp only [chOf, setCh_can]
  exact nmGet_nmSet_ne _ _ _ _ _ _ h

@[simp] theorem mbxOf_setMbx_same (n : Nat) (k : MbxCh) (s : State) : mbxOf (setMbx n k s) n = k := by simp [mbxOf]

theorem mbxOf_setMbx_ne (n j : Nat) (k : MbxCh) (s : State) (h : j ≠ n) : mbxOf (setMbx n k s) j = mbxOf s j := by
  simp only [mbxOf, setMbx_mbx]
  exact nmGet_nmSet_ne _ _ _ _ _ _ h

@[simp] theorem lockOf_setLock_same (n : Nat) (k : Option Nat) (s : State) : lockOf (setLock n k s) n = k := by simp [lockOf]

theorem lockOf_setLock_ne (n j : Nat) (k : Option Nat) (s : State) (h : j ≠ n) : lockOf (setLock n k s) j = lockOf s j := by
  simp only [lockOf, setLock_mbx]
  exact nmGet_nmSet_ne _ _ _ _ _ _ h

@[simp] theorem slotOf_setSlot_same (n : Nat) (k : KeySlot) (s : State) : slotOf (setSlot n k s) n = k := by simp [slotOf]

theorem slotOf_setSlot_ne (n j : Nat) (k : KeySlot) (s : State) (h : j ≠ n) : slotOf (setSlot n k s) j = slotOf s j := by
  simp only [slotOf, setSlot_cry]
  exact nmGet_nmSet_ne _ _ _ _ _ _ h

@[simp] theorem blkOf_setBlk_same (n : Nat) (k : PioBlock) (s : State) : blkOf (setBlk n k s) n = k := by simp [blkOf]

theorem blkOf_setBlk_ne (n j : Nat) (k : PioBlock) (s : State) (h : j ≠ n) : blkOf (setBlk n k s) j = blkOf s j := by
  simp only [blkOf, setBlk_pio]
  exact nmGet_nmSet_ne _ _ _ _ _ _ h

@[simp] theorem smOf_setSm_same (b m : Nat) (k : Sm) (s : State) : smOf (setSm b m k s) b m = k := by simp [smOf]

@[simp] theorem thOf_setTh_same (t : Nat) (h : Thread) (s : State) : thOf (setTh t h s) t = h := by
  unfold thOf setTh
  split <;> simp

theorem thOf_setTh_ne (t u : Nat) (h : Thread) (s : State) (n : u ≠ t) : thOf (setTh t h s) u = thOf s u := by
  unfold thOf setTh
  split
  · rename_i e
    subst e
    simp [Ne.symm n]
  · split
    · rfl
    · exact nmGet_nmSet_ne _ _ _ _ _ _ n

end Sys2Proof.Machine
end

