-- ==== Sys2Proof/Laws/Ops.lean ====
section
/-! SUPPORT. What the shared operations can do: an admitted write or read, an event, a completion; and the fields that each
leaves alone. -/

namespace Sys2Proof.Machine

/-! ### Admitted accesses -/

/-- An admitted write that the envelope does not govern has its effect. -/
theorem withWrite_of_writes {m : Fin 64} {r : Reg} {s : State} (h : writes m r s) (i : Nat) (v : W32) (k : State → State) :
    withWrite m r i v k s = k s := by
  obtain ⟨hr, hb, hp⟩ := h
  unfold withWrite withReg withPolicy
  simp only [hr, hb, Bool.not_true, Bool.false_eq_true, if_false]
  split
  · rename_i e
    simp only [Bool.and_eq_true, decide_eq_true_eq, Bool.not_eq_true'] at e
    exact absurd (hp e.1) (by simp [e.2])
  · rfl

/-- A refused write raises the access error and does nothing else. -/
theorem withWrite_of_bad {m : Nat} {r : Reg} {s : State} (hr : running s = true) (hb : regBad true m r s = true) (i : Nat) (v : W32)
    (k : State → State) : withWrite m r i v k s = accessErr m 0 (regOff r i) s := by
  simp [withWrite, withReg, hr, hb]

/-- A write outside RUN does nothing. -/
theorem withWrite_of_stopped {m : Nat} {r : Reg} {s : State} (hr : running s = false) (i : Nat) (v : W32) (k : State → State) :
    withWrite m r i v k s = s := by
  simp [withWrite, withReg, hr]

/-- A write of the policy core that the envelope refuses is counted and recorded, and does nothing else. -/
theorem withWrite_of_refused {r : Reg} {s : State} {i : Nat} {v : W32} {why : Nat} (hr : running s = true)
    (hb : regBad true 3 r s = false) (hn : r.desc.banked = false)
    (he : envCheck (governs r (partOf r 3 s) v s).1 (governs r (partOf r 3 s) v s).2.1 (governs r (partOf r 3 s) v s).2.2 s = some why)
    (k : State → State) :
    withWrite 3 r i v k s = govRefuse (governs r (partOf r 3 s) v s).1 why r.block (regOff r i % 0x10000) v s := by
  simp [withWrite, withReg, withPolicy, hr, hb, hn, he]

/-- An admitted read has its effect. -/
theorem withRead_of_reads {m : Fin 64} {r : Reg} {s : State} (h : reads m r s) (i : Nat) (k : State → State) :
    withRead m r i k s = k s := by
  obtain ⟨hr, hb⟩ := h
  simp [withRead, hr, hb]

/-- A command that starts runs, or ends BAD_PARAM by its own check. -/
theorem startCmd_cases {s : State} {ring slot : Nat} {op : Byte} {c : Cmd} (h : cmdStarts s ring slot op c) (bad : List W32 → Bool)
    (k : CmdRef → List W32 → State → State) :
    startCmd ring slot op bad k s =
      if bad c.words then complete ⟨ring, slot, c.tag, op⟩ stBadParam 0 (begunCmd ring c.tag s)
      else k ⟨ring, slot, c.tag, op⟩ c.words (begunCmd ring c.tag s) := by
  obtain ⟨hr, hf, rfl, hn, hv⟩ := h
  have first : (c.fence && !(decide ((ringOf s ring).inflight.head?.map (·.tag) = some c.tag) && (ringOf s ring).held.isEmpty)) = false := by
    cases e : c.fence
    · rfl
    · simp [hn e]
  have rec_ : ∀ t : State, t.pwr = s.pwr → recoveryStop c.opcode t = none := by
    intro t e
    unfold recoveryStop
    rw [e]
    by_cases hp : s.pwr.recovery = true
    · rcases hv hp with h | h <;> simp [h]
    · simp [hp]
  unfold startCmd
  simp only [hr, hf, Bool.not_true, Bool.false_eq_true, if_false, ne_eq, not_true_eq_false, decide_false, Bool.false_or, first]
  split
  · rfl
  · rw [rec_ (setRing _ _ _) rfl]
    rfl

/-- A command that can start, its parameters in range, does. -/
theorem startCmd_of_starts {s : State} {ring slot : Nat} {op : Byte} {c : Cmd} (h : cmdStarts s ring slot op c)
    {bad : List W32 → Bool} (hb : bad c.words = false) (k : CmdRef → List W32 → State → State) :
    startCmd ring slot op bad k s = k ⟨ring, slot, c.tag, op⟩ c.words (begunCmd ring c.tag s) := by
  simp [startCmd_cases h, hb]

/-- A command with a parameter out of range completes BAD_PARAM. -/
theorem startCmd_of_bad {s : State} {ring slot : Nat} {op : Byte} {c : Cmd} (h : cmdStarts s ring slot op c)
    {bad : List W32 → Bool} (hb : bad c.words = true) (k : CmdRef → List W32 → State → State) :
    startCmd ring slot op bad k s = complete ⟨ring, slot, c.tag, op⟩ stBadParam 0 (begunCmd ring c.tag s) := by
  simp [startCmd_cases h, hb]

/-! ### Folds -/

/-- What every step of a fold leaves alone, the fold leaves alone. -/
theorem foldl_keeps {β γ : Type} (p : State → γ) (f : State → β → State) (h : ∀ s b, p (f s b) = p s) :
    ∀ (l : List β) (s : State), p (l.foldl f s) = p s
  | [], _ => rfl
  | b :: l, s => (foldl_keeps p f h l (f s b)).trans (h s b)

/-- What both branches leave alone, a choice leaves alone. -/
theorem keepIf {γ : Type} (p : State → γ) {c : Prop} [Decidable c] {a b : State} {x : γ} (ha : p a = x) (hb : p b = x) :
    p (if c then a else b) = x := by split <;> assumption

/-- What an operation leaves alone, it leaves alone where it is run under a condition. -/
theorem keepRun {γ : Type} (p : State → γ) {c : Prop} [Decidable c] {f : State → State} {s : State} {x : γ} (h : ∀ s, p (f s) = p s)
    (hs : p s = x) : p (if c then f s else s) = x := by
  split
  · exact (h s).trans hs
  · exact hs

/-! ### Registers -/

section
variable (r : Reg) (i c : Nat) (m : W32) (s : State)
@[simp] theorem setB_stores : (setB r i c m s).stores = s.stores := rfl
@[simp] theorem setB_time : (setB r i c m s).time = s.time := rfl
@[simp] theorem setB_evt : (setB r i c m s).evt = s.evt := rfl
@[simp] theorem setB_rings : (setB r i c m s).rings = s.rings := rfl
@[simp] theorem setB_cfg : (setB r i c m s).cfg = s.cfg := rfl
@[simp] theorem setB_mem : (setB r i c m s).mem = s.mem := rfl
@[simp] theorem setB_qm : (setB r i c m s).qm = s.qm := rfl
@[simp] theorem setB_fab : (setB r i c m s).fab = s.fab := rfl
@[simp] theorem setB_eth : (setB r i c m s).eth = s.eth := rfl
@[simp] theorem setB_can : (setB r i c m s).can = s.can := rfl
@[simp] theorem setB_star : (setB r i c m s).star = s.star := rfl
@[simp] theorem setB_pio : (setB r i c m s).pio = s.pio := rfl
@[simp] theorem setB_eng : (setB r i c m s).eng = s.eng := rfl
@[simp] theorem setB_pol : (setB r i c m s).pol = s.pol := rfl
@[simp] theorem setB_cry : (setB r i c m s).cry = s.cry := rfl
@[simp] theorem setB_mbx : (setB r i c m s).mbx = s.mbx := rfl
@[simp] theorem setB_recorder : (setB r i c m s).recorder = s.recorder := rfl
@[simp] theorem setB_pwr : (setB r i c m s).pwr = s.pwr := rfl
@[simp] theorem setB_ticks : (setB r i c m s).ticks = s.ticks := rfl
@[simp] theorem setB_freeCtr : (setB r i c m s).freeCtr = s.freeCtr := rfl
@[simp] theorem setB_outbox : (setB r i c m s).outbox = s.outbox := rfl
@[simp] theorem setB_pending : (setB r i c m s).pending = s.pending := rfl
end

section
variable (r : Reg) (i c : Nat) (m : W32) (s : State)
@[simp] theorem clrB_stores : (clrB r i c m s).stores = s.stores := rfl
@[simp] theorem clrB_time : (clrB r i c m s).time = s.time := rfl
@[simp] theorem clrB_evt : (clrB r i c m s).evt = s.evt := rfl
@[simp] theorem clrB_rings : (clrB r i c m s).rings = s.rings := rfl
@[simp] theorem clrB_cfg : (clrB r i c m s).cfg = s.cfg := rfl
@[simp] theorem clrB_mem : (clrB r i c m s).mem = s.mem := rfl
@[simp] theorem clrB_qm : (clrB r i c m s).qm = s.qm := rfl
@[simp] theorem clrB_fab : (clrB r i c m s).fab = s.fab := rfl
@[simp] theorem clrB_eth : (clrB r i c m s).eth = s.eth := rfl
@[simp] theorem clrB_can : (clrB r i c m s).can = s.can := rfl
@[simp] theorem clrB_star : (clrB r i c m s).star = s.star := rfl
@[simp] theorem clrB_pio : (clrB r i c m s).pio = s.pio := rfl
@[simp] theorem clrB_eng : (clrB r i c m s).eng = s.eng := rfl
@[simp] theorem clrB_pol : (clrB r i c m s).pol = s.pol := rfl
@[simp] theorem clrB_cry : (clrB r i c m s).cry = s.cry := rfl
@[simp] theorem clrB_mbx : (clrB r i c m s).mbx = s.mbx := rfl
@[simp] theorem clrB_recorder : (clrB r i c m s).recorder = s.recorder := rfl
@[simp] theorem clrB_pwr : (clrB r i c m s).pwr = s.pwr := rfl
@[simp] theorem clrB_ticks : (clrB r i c m s).ticks = s.ticks := rfl
@[simp] theorem clrB_freeCtr : (clrB r i c m s).freeCtr = s.freeCtr := rfl
@[simp] theorem clrB_outbox : (clrB r i c m s).outbox = s.outbox := rfl
@[simp] theorem clrB_pending : (clrB r i c m s).pending = s.pending := rfl
end

section
variable (r : Reg) (i c hi lo x : Nat) (s : State)
@[simp] theorem setF_stores : (setF r i c hi lo x s).stores = s.stores := rfl
@[simp] theorem setF_time : (setF r i c hi lo x s).time = s.time := rfl
@[simp] theorem setF_evt : (setF r i c hi lo x s).evt = s.evt := rfl
@[simp] theorem setF_rings : (setF r i c hi lo x s).rings = s.rings := rfl
@[simp] theorem setF_cfg : (setF r i c hi lo x s).cfg = s.cfg := rfl
@[simp] theorem setF_mem : (setF r i c hi lo x s).mem = s.mem := rfl
@[simp] theorem setF_qm : (setF r i c hi lo x s).qm = s.qm := rfl
@[simp] theorem setF_fab : (setF r i c hi lo x s).fab = s.fab := rfl
@[simp] theorem setF_eth : (setF r i c hi lo x s).eth = s.eth := rfl
@[simp] theorem setF_can : (setF r i c hi lo x s).can = s.can := rfl
@[simp] theorem setF_star : (setF r i c hi lo x s).star = s.star := rfl
@[simp] theorem setF_pio : (setF r i c hi lo x s).pio = s.pio := rfl
@[simp] theorem setF_eng : (setF r i c hi lo x s).eng = s.eng := rfl
@[simp] theorem setF_pol : (setF r i c hi lo x s).pol = s.pol := rfl
@[simp] theorem setF_cry : (setF r i c hi lo x s).cry = s.cry := rfl
@[simp] theorem setF_mbx : (setF r i c hi lo x s).mbx = s.mbx := rfl
@[simp] theorem setF_recorder : (setF r i c hi lo x s).recorder = s.recorder := rfl
@[simp] theorem setF_pwr : (setF r i c hi lo x s).pwr = s.pwr := rfl
@[simp] theorem setF_ticks : (setF r i c hi lo x s).ticks = s.ticks := rfl
@[simp] theorem setF_freeCtr : (setF r i c hi lo x s).freeCtr = s.freeCtr := rfl
@[simp] theorem setF_outbox : (setF r i c hi lo x s).outbox = s.outbox := rfl
@[simp] theorem setF_pending : (setF r i c hi lo x s).pending = s.pending := rfl
end

section
variable (r : Reg) (i c n mx : Nat) (s : State)
@[simp] theorem bump_stores : (bump r i c n mx s).stores = s.stores := rfl
@[simp] theorem bump_time : (bump r i c n mx s).time = s.time := rfl
@[simp] theorem bump_evt : (bump r i c n mx s).evt = s.evt := rfl
@[simp] theorem bump_rings : (bump r i c n mx s).rings = s.rings := rfl
@[simp] theorem bump_cfg : (bump r i c n mx s).cfg = s.cfg := rfl
@[simp] theorem bump_mem : (bump r i c n mx s).mem = s.mem := rfl
@[simp] theorem bump_qm : (bump r i c n mx s).qm = s.qm := rfl
@[simp] theorem bump_fab : (bump r i c n mx s).fab = s.fab := rfl
@[simp] theorem bump_eth : (bump r i c n mx s).eth = s.eth := rfl
@[simp] theorem bump_can : (bump r i c n mx s).can = s.can := rfl
@[simp] theorem bump_star : (bump r i c n mx s).star = s.star := rfl
@[simp] theorem bump_pio : (bump r i c n mx s).pio = s.pio := rfl
@[simp] theorem bump_eng : (bump r i c n mx s).eng = s.eng := rfl
@[simp] theorem bump_pol : (bump r i c n mx s).pol = s.pol := rfl
@[simp] theorem bump_cry : (bump r i c n mx s).cry = s.cry := rfl
@[simp] theorem bump_mbx : (bump r i c n mx s).mbx = s.mbx := rfl
@[simp] theorem bump_recorder : (bump r i c n mx s).recorder = s.recorder := rfl
@[simp] theorem bump_pwr : (bump r i c n mx s).pwr = s.pwr := rfl
@[simp] theorem bump_ticks : (bump r i c n mx s).ticks = s.ticks := rfl
@[simp] theorem bump_freeCtr : (bump r i c n mx s).freeCtr = s.freeCtr := rfl
@[simp] theorem bump_outbox : (bump r i c n mx s).outbox = s.outbox := rfl
@[simp] theorem bump_pending : (bump r i c n mx s).pending = s.pending := rfl
end

section
variable (r : Reg) (i c : Nat) (s : State)
@[simp] theorem count16_stores : (count16 r i c s).stores = s.stores := rfl
@[simp] theorem count16_time : (count16 r i c s).time = s.time := rfl
@[simp] theorem count16_evt : (count16 r i c s).evt = s.evt := rfl
@[simp] theorem count16_rings : (count16 r i c s).rings = s.rings := rfl
@[simp] theorem count16_cfg : (count16 r i c s).cfg = s.cfg := rfl
@[simp] theorem count16_mem : (count16 r i c s).mem = s.mem := rfl
@[simp] theorem count16_qm : (count16 r i c s).qm = s.qm := rfl
@[simp] theorem count16_fab : (count16 r i c s).fab = s.fab := rfl
@[simp] theorem count16_eth : (count16 r i c s).eth = s.eth := rfl
@[simp] theorem count16_can : (count16 r i c s).can = s.can := rfl
@[simp] theorem count16_star : (count16 r i c s).star = s.star := rfl
@[simp] theorem count16_pio : (count16 r i c s).pio = s.pio := rfl
@[simp] theorem count16_eng : (count16 r i c s).eng = s.eng := rfl
@[simp] theorem count16_pol : (count16 r i c s).pol = s.pol := rfl
@[simp] theorem count16_cry : (count16 r i c s).cry = s.cry := rfl
@[simp] theorem count16_mbx : (count16 r i c s).mbx = s.mbx := rfl
@[simp] theorem count16_recorder : (count16 r i c s).recorder = s.recorder := rfl
@[simp] theorem count16_pwr : (count16 r i c s).pwr = s.pwr := rfl
@[simp] theorem count16_ticks : (count16 r i c s).ticks = s.ticks := rfl
@[simp] theorem count16_freeCtr : (count16 r i c s).freeCtr = s.freeCtr := rfl
@[simp] theorem count16_outbox : (count16 r i c s).outbox = s.outbox := rfl
@[simp] theorem count16_pending : (count16 r i c s).pending = s.pending := rfl
end

section
variable (r : Reg) (i c : Nat) (s : State)
@[simp] theorem count32_stores : (count32 r i c s).stores = s.stores := rfl
@[simp] theorem count32_time : (count32 r i c s).time = s.time := rfl
@[simp] theorem count32_evt : (count32 r i c s).evt = s.evt := rfl
@[simp] theorem count32_rings : (count32 r i c s).rings = s.rings := rfl
@[simp] theorem count32_cfg : (count32 r i c s).cfg = s.cfg := rfl
@[simp] theorem count32_mem : (count32 r i c s).mem = s.mem := rfl
@[simp] theorem count32_qm : (count32 r i c s).qm = s.qm := rfl
@[simp] theorem count32_fab : (count32 r i c s).fab = s.fab := rfl
@[simp] theorem count32_eth : (count32 r i c s).eth = s.eth := rfl
@[simp] theorem count32_can : (count32 r i c s).can = s.can := rfl
@[simp] theorem count32_star : (count32 r i c s).star = s.star := rfl
@[simp] theorem count32_pio : (count32 r i c s).pio = s.pio := rfl
@[simp] theorem count32_eng : (count32 r i c s).eng = s.eng := rfl
@[simp] theorem count32_pol : (count32 r i c s).pol = s.pol := rfl
@[simp] theorem count32_cry : (count32 r i c s).cry = s.cry := rfl
@[simp] theorem count32_mbx : (count32 r i c s).mbx = s.mbx := rfl
@[simp] theorem count32_recorder : (count32 r i c s).recorder = s.recorder := rfl
@[simp] theorem count32_pwr : (count32 r i c s).pwr = s.pwr := rfl
@[simp] theorem count32_ticks : (count32 r i c s).ticks = s.ticks := rfl
@[simp] theorem count32_freeCtr : (count32 r i c s).freeCtr = s.freeCtr := rfl
@[simp] theorem count32_outbox : (count32 r i c s).outbox = s.outbox := rfl
@[simp] theorem count32_pending : (count32 r i c s).pending = s.pending := rfl
end

section
variable (r : Reg) (i c : Nat) (v : W32) (s : State)
@[simp] theorem plainWrite_stores : (plainWrite r i c v s).stores = s.stores := rfl
@[simp] theorem plainWrite_time : (plainWrite r i c v s).time = s.time := rfl
@[simp] theorem plainWrite_evt : (plainWrite r i c v s).evt = s.evt := rfl
@[simp] theorem plainWrite_rings : (plainWrite r i c v s).rings = s.rings := rfl
@[simp] theorem plainWrite_cfg : (plainWrite r i c v s).cfg = s.cfg := rfl
@[simp] theorem plainWrite_mem : (plainWrite r i c v s).mem = s.mem := rfl
@[simp] theorem plainWrite_qm : (plainWrite r i c v s).qm = s.qm := rfl
@[simp] theorem plainWrite_fab : (plainWrite r i c v s).fab = s.fab := rfl
@[simp] theorem plainWrite_eth : (plainWrite r i c v s).eth = s.eth := rfl
@[simp] theorem plainWrite_can : (plainWrite r i c v s).can = s.can := rfl
@[simp] theorem plainWrite_star : (plainWrite r i c v s).star = s.star := rfl
@[simp] theorem plainWrite_pio : (plainWrite r i c v s).pio = s.pio := rfl
@[simp] theorem plainWrite_eng : (plainWrite r i c v s).eng = s.eng := rfl
@[simp] theorem plainWrite_pol : (plainWrite r i c v s).pol = s.pol := rfl
@[simp] theorem plainWrite_cry : (plainWrite r i c v s).cry = s.cry := rfl
@[simp] theorem plainWrite_mbx : (plainWrite r i c v s).mbx = s.mbx := rfl
@[simp] theorem plainWrite_recorder : (plainWrite r i c v s).recorder = s.recorder := rfl
@[simp] theorem plainWrite_pwr : (plainWrite r i c v s).pwr = s.pwr := rfl
@[simp] theorem plainWrite_ticks : (plainWrite r i c v s).ticks = s.ticks := rfl
@[simp] theorem plainWrite_freeCtr : (plainWrite r i c v s).freeCtr = s.freeCtr := rfl
@[simp] theorem plainWrite_outbox : (plainWrite r i c v s).outbox = s.outbox := rfl
@[simp] theorem plainWrite_pending : (plainWrite r i c v s).pending = s.pending := rfl
end

section
variable (lo hi : Reg) (i c v : Nat) (s : State)
@[simp] theorem wr64_stores : (wr64 lo hi i c v s).stores = s.stores := rfl
@[simp] theorem wr64_time : (wr64 lo hi i c v s).time = s.time := rfl
@[simp] theorem wr64_evt : (wr64 lo hi i c v s).evt = s.evt := rfl
@[simp] theorem wr64_rings : (wr64 lo hi i c v s).rings = s.rings := rfl
@[simp] theorem wr64_cfg : (wr64 lo hi i c v s).cfg = s.cfg := rfl
@[simp] theorem wr64_mem : (wr64 lo hi i c v s).mem = s.mem := rfl
@[simp] theorem wr64_qm : (wr64 lo hi i c v s).qm = s.qm := rfl
@[simp] theorem wr64_fab : (wr64 lo hi i c v s).fab = s.fab := rfl
@[simp] theorem wr64_eth : (wr64 lo hi i c v s).eth = s.eth := rfl
@[simp] theorem wr64_can : (wr64 lo hi i c v s).can = s.can := rfl
@[simp] theorem wr64_star : (wr64 lo hi i c v s).star = s.star := rfl
@[simp] theorem wr64_pio : (wr64 lo hi i c v s).pio = s.pio := rfl
@[simp] theorem wr64_eng : (wr64 lo hi i c v s).eng = s.eng := rfl
@[simp] theorem wr64_pol : (wr64 lo hi i c v s).pol = s.pol := rfl
@[simp] theorem wr64_cry : (wr64 lo hi i c v s).cry = s.cry := rfl
@[simp] theorem wr64_mbx : (wr64 lo hi i c v s).mbx = s.mbx := rfl
@[simp] theorem wr64_recorder : (wr64 lo hi i c v s).recorder = s.recorder := rfl
@[simp] theorem wr64_pwr : (wr64 lo hi i c v s).pwr = s.pwr := rfl
@[simp] theorem wr64_ticks : (wr64 lo hi i c v s).ticks = s.ticks := rfl
@[simp] theorem wr64_freeCtr : (wr64 lo hi i c v s).freeCtr = s.freeCtr := rfl
@[simp] theorem wr64_outbox : (wr64 lo hi i c v s).outbox = s.outbox := rfl
@[simp] theorem wr64_pending : (wr64 lo hi i c v s).pending = s.pending := rfl
end

section
variable (r : Reg) (c : Nat) (f : BitVec 4) (s : State)
@[simp] theorem fbPut_stores : (fbPut r c f s).stores = s.stores := rfl
@[simp] theorem fbPut_time : (fbPut r c f s).time = s.time := rfl
@[simp] theorem fbPut_evt : (fbPut r c f s).evt = s.evt := rfl
@[simp] theorem fbPut_rings : (fbPut r c f s).rings = s.rings := rfl
@[simp] theorem fbPut_cfg : (fbPut r c f s).cfg = s.cfg := rfl
@[simp] theorem fbPut_mem : (fbPut r c f s).mem = s.mem := rfl
@[simp] theorem fbPut_qm : (fbPut r c f s).qm = s.qm := rfl
@[simp] theorem fbPut_fab : (fbPut r c f s).fab = s.fab := rfl
@[simp] theorem fbPut_eth : (fbPut r c f s).eth = s.eth := rfl
@[simp] theorem fbPut_can : (fbPut r c f s).can = s.can := rfl
@[simp] theorem fbPut_star : (fbPut r c f s).star = s.star := rfl
@[simp] theorem fbPut_pio : (fbPut r c f s).pio = s.pio := rfl
@[simp] theorem fbPut_eng : (fbPut r c f s).eng = s.eng := rfl
@[simp] theorem fbPut_pol : (fbPut r c f s).pol = s.pol := rfl
@[simp] theorem fbPut_cry : (fbPut r c f s).cry = s.cry := rfl
@[simp] theorem fbPut_mbx : (fbPut r c f s).mbx = s.mbx := rfl
@[simp] theorem fbPut_recorder : (fbPut r c f s).recorder = s.recorder := rfl
@[simp] theorem fbPut_pwr : (fbPut r c f s).pwr = s.pwr := rfl
@[simp] theorem fbPut_ticks : (fbPut r c f s).ticks = s.ticks := rfl
@[simp] theorem fbPut_freeCtr : (fbPut r c f s).freeCtr = s.freeCtr := rfl
@[simp] theorem fbPut_outbox : (fbPut r c f s).outbox = s.outbox := rfl
@[simp] theorem fbPut_pending : (fbPut r c f s).pending = s.pending := rfl
end

section
variable (r : Reg) (c : Nat) (en : Bool) (s : State)
@[simp] theorem fbWrite_stores : (fbWrite r c en s).stores = s.stores := rfl
@[simp] theorem fbWrite_time : (fbWrite r c en s).time = s.time := rfl
@[simp] theorem fbWrite_evt : (fbWrite r c en s).evt = s.evt := rfl
@[simp] theorem fbWrite_rings : (fbWrite r c en s).rings = s.rings := rfl
@[simp] theorem fbWrite_cfg : (fbWrite r c en s).cfg = s.cfg := rfl
@[simp] theorem fbWrite_mem : (fbWrite r c en s).mem = s.mem := rfl
@[simp] theorem fbWrite_qm : (fbWrite r c en s).qm = s.qm := rfl
@[simp] theorem fbWrite_fab : (fbWrite r c en s).fab = s.fab := rfl
@[simp] theorem fbWrite_eth : (fbWrite r c en s).eth = s.eth := rfl
@[simp] theorem fbWrite_can : (fbWrite r c en s).can = s.can := rfl
@[simp] theorem fbWrite_star : (fbWrite r c en s).star = s.star := rfl
@[simp] theorem fbWrite_pio : (fbWrite r c en s).pio = s.pio := rfl
@[simp] theorem fbWrite_eng : (fbWrite r c en s).eng = s.eng := rfl
@[simp] theorem fbWrite_pol : (fbWrite r c en s).pol = s.pol := rfl
@[simp] theorem fbWrite_cry : (fbWrite r c en s).cry = s.cry := rfl
@[simp] theorem fbWrite_mbx : (fbWrite r c en s).mbx = s.mbx := rfl
@[simp] theorem fbWrite_recorder : (fbWrite r c en s).recorder = s.recorder := rfl
@[simp] theorem fbWrite_pwr : (fbWrite r c en s).pwr = s.pwr := rfl
@[simp] theorem fbWrite_ticks : (fbWrite r c en s).ticks = s.ticks := rfl
@[simp] theorem fbWrite_freeCtr : (fbWrite r c en s).freeCtr = s.freeCtr := rfl
@[simp] theorem fbWrite_outbox : (fbWrite r c en s).outbox = s.outbox := rfl
@[simp] theorem fbWrite_pending : (fbWrite r c en s).pending = s.pending := rfl
end

/-! ### Events -/

section
variable (code : BitVec 16) (src : Byte) (sw : Bool) (d : List Byte) (s : State)
@[simp] theorem recCapture_stores : (recCapture code src sw d s).stores = s.stores := keepIf State.stores rfl rfl
@[simp] theorem recCapture_time : (recCapture code src sw d s).time = s.time := keepIf State.time rfl rfl
@[simp] theorem recCapture_evt : (recCapture code src sw d s).evt = s.evt := keepIf State.evt rfl rfl
@[simp] theorem recCapture_rings : (recCapture code src sw d s).rings = s.rings := keepIf State.rings rfl rfl
@[simp] theorem recCapture_cfg : (recCapture code src sw d s).cfg = s.cfg := keepIf State.cfg rfl rfl
@[simp] theorem recCapture_mem : (recCapture code src sw d s).mem = s.mem := keepIf State.mem rfl rfl
@[simp] theorem recCapture_qm : (recCapture code src sw d s).qm = s.qm := keepIf State.qm rfl rfl
@[simp] theorem recCapture_fab : (recCapture code src sw d s).fab = s.fab := keepIf State.fab rfl rfl
@[simp] theorem recCapture_eth : (recCapture code src sw d s).eth = s.eth := keepIf State.eth rfl rfl
@[simp] theorem recCapture_can : (recCapture code src sw d s).can = s.can := keepIf State.can rfl rfl
@[simp] theorem recCapture_star : (recCapture code src sw d s).star = s.star := keepIf State.star rfl rfl
@[simp] theorem recCapture_pio : (recCapture code src sw d s).pio = s.pio := keepIf State.pio rfl rfl
@[simp] theorem recCapture_eng : (recCapture code src sw d s).eng = s.eng := keepIf State.eng rfl rfl
@[simp] theorem recCapture_pol : (recCapture code src sw d s).pol = s.pol := keepIf State.pol rfl rfl
@[simp] theorem recCapture_cry : (recCapture code src sw d s).cry = s.cry := keepIf State.cry rfl rfl
@[simp] theorem recCapture_mbx : (recCapture code src sw d s).mbx = s.mbx := keepIf State.mbx rfl rfl
@[simp] theorem recCapture_pwr : (recCapture code src sw d s).pwr = s.pwr := keepIf State.pwr rfl rfl
@[simp] theorem recCapture_ticks : (recCapture code src sw d s).ticks = s.ticks := keepIf State.ticks rfl rfl
@[simp] theorem recCapture_freeCtr : (recCapture code src sw d s).freeCtr = s.freeCtr := keepIf State.freeCtr rfl rfl
@[simp] theorem recCapture_outbox : (recCapture code src sw d s).outbox = s.outbox := keepIf State.outbox rfl rfl
@[simp] theorem recCapture_pending : (recCapture code src sw d s).pending = s.pending := keepIf State.pending rfl rfl
end

section
variable (k src : Nat) (s : State)
@[simp] theorem evtPulse_regs : (evtPulse k src s).regs = s.regs := rfl
@[simp] theorem evtPulse_stores : (evtPulse k src s).stores = s.stores := rfl
@[simp] theorem evtPulse_time : (evtPulse k src s).time = s.time := rfl
@[simp] theorem evtPulse_rings : (evtPulse k src s).rings = s.rings := rfl
@[simp] theorem evtPulse_cfg : (evtPulse k src s).cfg = s.cfg := rfl
@[simp] theorem evtPulse_mem : (evtPulse k src s).mem = s.mem := rfl
@[simp] theorem evtPulse_qm : (evtPulse k src s).qm = s.qm := rfl
@[simp] theorem evtPulse_fab : (evtPulse k src s).fab = s.fab := rfl
@[simp] theorem evtPulse_eth : (evtPulse k src s).eth = s.eth := rfl
@[simp] theorem evtPulse_can : (evtPulse k src s).can = s.can := rfl
@[simp] theorem evtPulse_star : (evtPulse k src s).star = s.star := rfl
@[simp] theorem evtPulse_pio : (evtPulse k src s).pio = s.pio := rfl
@[simp] theorem evtPulse_eng : (evtPulse k src s).eng = s.eng := rfl
@[simp] theorem evtPulse_pol : (evtPulse k src s).pol = s.pol := rfl
@[simp] theorem evtPulse_cry : (evtPulse k src s).cry = s.cry := rfl
@[simp] theorem evtPulse_mbx : (evtPulse k src s).mbx = s.mbx := rfl
@[simp] theorem evtPulse_recorder : (evtPulse k src s).recorder = s.recorder := rfl
@[simp] theorem evtPulse_pwr : (evtPulse k src s).pwr = s.pwr := rfl
@[simp] theorem evtPulse_ticks : (evtPulse k src s).ticks = s.ticks := rfl
@[simp] theorem evtPulse_freeCtr : (evtPulse k src s).freeCtr = s.freeCtr := rfl
@[simp] theorem evtPulse_outbox : (evtPulse k src s).outbox = s.outbox := rfl
@[simp] theorem evtPulse_pending : (evtPulse k src s).pending = s.pending := rfl
end

section
variable (e l : Nat) (s : State)
@[simp] theorem engLine_regs : (engLine e l s).regs = s.regs := rfl
@[simp] theorem engLine_stores : (engLine e l s).stores = s.stores := rfl
@[simp] theorem engLine_time : (engLine e l s).time = s.time := rfl
@[simp] theorem engLine_rings : (engLine e l s).rings = s.rings := rfl
@[simp] theorem engLine_cfg : (engLine e l s).cfg = s.cfg := rfl
@[simp] theorem engLine_mem : (engLine e l s).mem = s.mem := rfl
@[simp] theorem engLine_qm : (engLine e l s).qm = s.qm := rfl
@[simp] theorem engLine_fab : (engLine e l s).fab = s.fab := rfl
@[simp] theorem engLine_eth : (engLine e l s).eth = s.eth := rfl
@[simp] theorem engLine_can : (engLine e l s).can = s.can := rfl
@[simp] theorem engLine_star : (engLine e l s).star = s.star := rfl
@[simp] theorem engLine_pio : (engLine e l s).pio = s.pio := rfl
@[simp] theorem engLine_eng : (engLine e l s).eng = s.eng := rfl
@[simp] theorem engLine_pol : (engLine e l s).pol = s.pol := rfl
@[simp] theorem engLine_cry : (engLine e l s).cry = s.cry := rfl
@[simp] theorem engLine_mbx : (engLine e l s).mbx = s.mbx := rfl
@[simp] theorem engLine_recorder : (engLine e l s).recorder = s.recorder := rfl
@[simp] theorem engLine_pwr : (engLine e l s).pwr = s.pwr := rfl
@[simp] theorem engLine_ticks : (engLine e l s).ticks = s.ticks := rfl
@[simp] theorem engLine_freeCtr : (engLine e l s).freeCtr = s.freeCtr := rfl
@[simp] theorem engLine_outbox : (engLine e l s).outbox = s.outbox := rfl
@[simp] theorem engLine_pending : (engLine e l s).pending = s.pending := rfl
end

section
variable (l : Nat) (s : State)
@[simp] theorem polLine_regs : (polLine l s).regs = s.regs := rfl
@[simp] theorem polLine_stores : (polLine l s).stores = s.stores := rfl
@[simp] theorem polLine_time : (polLine l s).time = s.time := rfl
@[simp] theorem polLine_rings : (polLine l s).rings = s.rings := rfl
@[simp] theorem polLine_cfg : (polLine l s).cfg = s.cfg := rfl
@[simp] theorem polLine_mem : (polLine l s).mem = s.mem := rfl
@[simp] theorem polLine_qm : (polLine l s).qm = s.qm := rfl
@[simp] theorem polLine_fab : (polLine l s).fab = s.fab := rfl
@[simp] theorem polLine_eth : (polLine l s).eth = s.eth := rfl
@[simp] theorem polLine_can : (polLine l s).can = s.can := rfl
@[simp] theorem polLine_star : (polLine l s).star = s.star := rfl
@[simp] theorem polLine_pio : (polLine l s).pio = s.pio := rfl
@[simp] theorem polLine_eng : (polLine l s).eng = s.eng := rfl
@[simp] theorem polLine_pol : (polLine l s).pol = s.pol := rfl
@[simp] theorem polLine_cry : (polLine l s).cry = s.cry := rfl
@[simp] theorem polLine_mbx : (polLine l s).mbx = s.mbx := rfl
@[simp] theorem polLine_recorder : (polLine l s).recorder = s.recorder := rfl
@[simp] theorem polLine_pwr : (polLine l s).pwr = s.pwr := rfl
@[simp] theorem polLine_ticks : (polLine l s).ticks = s.ticks := rfl
@[simp] theorem polLine_freeCtr : (polLine l s).freeCtr = s.freeCtr := rfl
@[simp] theorem polLine_outbox : (polLine l s).outbox = s.outbox := rfl
@[simp] theorem polLine_pending : (polLine l s).pending = s.pending := rfl
end

section
variable (src vec : Nat) (s : State)
@[simp] theorem msixQueue_regs : (msixQueue src vec s).regs = s.regs := keepIf State.regs rfl rfl
@[simp] theorem msixQueue_stores : (msixQueue src vec s).stores = s.stores := keepIf State.stores rfl rfl
@[simp] theorem msixQueue_time : (msixQueue src vec s).time = s.time := keepIf State.time rfl rfl
@[simp] theorem msixQueue_rings : (msixQueue src vec s).rings = s.rings := keepIf State.rings rfl rfl
@[simp] theorem msixQueue_cfg : (msixQueue src vec s).cfg = s.cfg := keepIf State.cfg rfl rfl
@[simp] theorem msixQueue_mem : (msixQueue src vec s).mem = s.mem := keepIf State.mem rfl rfl
@[simp] theorem msixQueue_qm : (msixQueue src vec s).qm = s.qm := keepIf State.qm rfl rfl
@[simp] theorem msixQueue_fab : (msixQueue src vec s).fab = s.fab := keepIf State.fab rfl rfl
@[simp] theorem msixQueue_eth : (msixQueue src vec s).eth = s.eth := keepIf State.eth rfl rfl
@[simp] theorem msixQueue_can : (msixQueue src vec s).can = s.can := keepIf State.can rfl rfl
@[simp] theorem msixQueue_star : (msixQueue src vec s).star = s.star := keepIf State.star rfl rfl
@[simp] theorem msixQueue_pio : (msixQueue src vec s).pio = s.pio := keepIf State.pio rfl rfl
@[simp] theorem msixQueue_eng : (msixQueue src vec s).eng = s.eng := keepIf State.eng rfl rfl
@[simp] theorem msixQueue_pol : (msixQueue src vec s).pol = s.pol := keepIf State.pol rfl rfl
@[simp] theorem msixQueue_cry : (msixQueue src vec s).cry = s.cry := keepIf State.cry rfl rfl
@[simp] theorem msixQueue_mbx : (msixQueue src vec s).mbx = s.mbx := keepIf State.mbx rfl rfl
@[simp] theorem msixQueue_recorder : (msixQueue src vec s).recorder = s.recorder := keepIf State.recorder rfl rfl
@[simp] theorem msixQueue_pwr : (msixQueue src vec s).pwr = s.pwr := keepIf State.pwr rfl rfl
@[simp] theorem msixQueue_ticks : (msixQueue src vec s).ticks = s.ticks := keepIf State.ticks rfl rfl
@[simp] theorem msixQueue_freeCtr : (msixQueue src vec s).freeCtr = s.freeCtr := keepIf State.freeCtr rfl rfl
@[simp] theorem msixQueue_outbox : (msixQueue src vec s).outbox = s.outbox := keepIf State.outbox rfl rfl
@[simp] theorem msixQueue_pending : (msixQueue src vec s).pending = s.pending := keepIf State.pending rfl rfl
end

section
variable (e : W32) (src : Nat) (s : State)
@[simp] theorem evtOuts_regs : (evtOuts e src s).regs = s.regs := by
  unfold evtOuts; refine foldl_keeps State.regs _ ?_ _ _; intro s k; exact keepIf State.regs rfl rfl
@[simp] theorem evtOuts_stores : (evtOuts e src s).stores = s.stores := by
  unfold evtOuts; refine foldl_keeps State.stores _ ?_ _ _; intro s k; exact keepIf State.stores rfl rfl
@[simp] theorem evtOuts_time : (evtOuts e src s).time = s.time := by
  unfold evtOuts; refine foldl_keeps State.time _ ?_ _ _; intro s k; exact keepIf State.time rfl rfl
@[simp] theorem evtOuts_rings : (evtOuts e src s).rings = s.rings := by
  unfold evtOuts; refine foldl_keeps State.rings _ ?_ _ _; intro s k; exact keepIf State.rings rfl rfl
@[simp] theorem evtOuts_cfg : (evtOuts e src s).cfg = s.cfg := by
  unfold evtOuts; refine foldl_keeps State.cfg _ ?_ _ _; intro s k; exact keepIf State.cfg rfl rfl
@[simp] theorem evtOuts_mem : (evtOuts e src s).mem = s.mem := by
  unfold evtOuts; refine foldl_keeps State.mem _ ?_ _ _; intro s k; exact keepIf State.mem rfl rfl
@[simp] theorem evtOuts_qm : (evtOuts e src s).qm = s.qm := by
  unfold evtOuts; refine foldl_keeps State.qm _ ?_ _ _; intro s k; exact keepIf State.qm rfl rfl
@[simp] theorem evtOuts_fab : (evtOuts e src s).fab = s.fab := by
  unfold evtOuts; refine foldl_keeps State.fab _ ?_ _ _; intro s k; exact keepIf State.fab rfl rfl
@[simp] theorem evtOuts_eth : (evtOuts e src s).eth = s.eth := by
  unfold evtOuts; refine foldl_keeps State.eth _ ?_ _ _; intro s k; exact keepIf State.eth rfl rfl
@[simp] theorem evtOuts_can : (evtOuts e src s).can = s.can := by
  unfold evtOuts; refine foldl_keeps State.can _ ?_ _ _; intro s k; exact keepIf State.can rfl rfl
@[simp] theorem evtOuts_star : (evtOuts e src s).star = s.star := by
  unfold evtOuts; refine foldl_keeps State.star _ ?_ _ _; intro s k; exact keepIf State.star rfl rfl
@[simp] theorem evtOuts_pio : (evtOuts e src s).pio = s.pio := by
  unfold evtOuts; refine foldl_keeps State.pio _ ?_ _ _; intro s k; exact keepIf State.pio rfl rfl
@[simp] theorem evtOuts_eng : (evtOuts e src s).eng = s.eng := by
  unfold evtOuts; refine foldl_keeps State.eng _ ?_ _ _; intro s k; exact keepIf State.eng rfl rfl
@[simp] theorem evtOuts_pol : (evtOuts e src s).pol = s.pol := by
  unfold evtOuts; refine foldl_keeps State.pol _ ?_ _ _; intro s k; exact keepIf State.pol rfl rfl
@[simp] theorem evtOuts_cry : (evtOuts e src s).cry = s.cry := by
  unfold evtOuts; refine foldl_keeps State.cry _ ?_ _ _; intro s k; exact keepIf State.cry rfl rfl
@[simp] theorem evtOuts_mbx : (evtOuts e src s).mbx = s.mbx := by
  unfold evtOuts; refine foldl_keeps State.mbx _ ?_ _ _; intro s k; exact keepIf State.mbx rfl rfl
@[simp] theorem evtOuts_recorder : (evtOuts e src s).recorder = s.recorder := by
  unfold evtOuts; refine foldl_keeps State.recorder _ ?_ _ _; intro s k; exact keepIf State.recorder rfl rfl
@[simp] theorem evtOuts_pwr : (evtOuts e src s).pwr = s.pwr := by
  unfold evtOuts; refine foldl_keeps State.pwr _ ?_ _ _; intro s k; exact keepIf State.pwr rfl rfl
@[simp] theorem evtOuts_ticks : (evtOuts e src s).ticks = s.ticks := by
  unfold evtOuts; refine foldl_keeps State.ticks _ ?_ _ _; intro s k; exact keepIf State.ticks rfl rfl
@[simp] theorem evtOuts_freeCtr : (evtOuts e src s).freeCtr = s.freeCtr := by
  unfold evtOuts; refine foldl_keeps State.freeCtr _ ?_ _ _; intro s k; exact keepIf State.freeCtr rfl rfl
@[simp] theorem evtOuts_outbox : (evtOuts e src s).outbox = s.outbox := by
  unfold evtOuts; refine foldl_keeps State.outbox _ ?_ _ _; intro s k; exact keepIf State.outbox rfl rfl
@[simp] theorem evtOuts_pending : (evtOuts e src s).pending = s.pending := by
  unfold evtOuts; refine foldl_keeps State.pending _ ?_ _ _; intro s k; exact keepIf State.pending rfl rfl
end

section
variable (src : Nat) (s : State)
@[simp] theorem pioInputs_regs : (pioInputs src s).regs = s.regs := by
  unfold pioInputs; refine foldl_keeps State.regs _ ?_ _ _; intro s k; refine keepIf State.regs ?_ rfl
  refine foldl_keeps State.regs _ ?_ _ _; intro s m; rfl
@[simp] theorem pioInputs_stores : (pioInputs src s).stores = s.stores := by
  unfold pioInputs; refine foldl_keeps State.stores _ ?_ _ _; intro s k; refine keepIf State.stores ?_ rfl
  refine foldl_keeps State.stores _ ?_ _ _; intro s m; rfl
@[simp] theorem pioInputs_time : (pioInputs src s).time = s.time := by
  unfold pioInputs; refine foldl_keeps State.time _ ?_ _ _; intro s k; refine keepIf State.time ?_ rfl
  refine foldl_keeps State.time _ ?_ _ _; intro s m; rfl
@[simp] theorem pioInputs_evt : (pioInputs src s).evt = s.evt := by
  unfold pioInputs; refine foldl_keeps State.evt _ ?_ _ _; intro s k; refine keepIf State.evt ?_ rfl
  refine foldl_keeps State.evt _ ?_ _ _; intro s m; rfl
@[simp] theorem pioInputs_rings : (pioInputs src s).rings = s.rings := by
  unfold pioInputs; refine foldl_keeps State.rings _ ?_ _ _; intro s k; refine keepIf State.rings ?_ rfl
  refine foldl_keeps State.rings _ ?_ _ _; intro s m; rfl
@[simp] theorem pioInputs_cfg : (pioInputs src s).cfg = s.cfg := by
  unfold pioInputs; refine foldl_keeps State.cfg _ ?_ _ _; intro s k; refine keepIf State.cfg ?_ rfl
  refine foldl_keeps State.cfg _ ?_ _ _; intro s m; rfl
@[simp] theorem pioInputs_mem : (pioInputs src s).mem = s.mem := by
  unfold pioInputs; refine foldl_keeps State.mem _ ?_ _ _; intro s k; refine keepIf State.mem ?_ rfl
  refine foldl_keeps State.mem _ ?_ _ _; intro s m; rfl
@[simp] theorem pioInputs_qm : (pioInputs src s).qm = s.qm := by
  unfold pioInputs; refine foldl_keeps State.qm _ ?_ _ _; intro s k; refine keepIf State.qm ?_ rfl
  refine foldl_keeps State.qm _ ?_ _ _; intro s m; rfl
@[simp] theorem pioInputs_fab : (pioInputs src s).fab = s.fab := by
  unfold pioInputs; refine foldl_keeps State.fab _ ?_ _ _; intro s k; refine keepIf State.fab ?_ rfl
  refine foldl_keeps State.fab _ ?_ _ _; intro s m; rfl
@[simp] theorem pioInputs_eth : (pioInputs src s).eth = s.eth := by
  unfold pioInputs; refine foldl_keeps State.eth _ ?_ _ _; intro s k; refine keepIf State.eth ?_ rfl
  refine foldl_keeps State.eth _ ?_ _ _; intro s m; rfl
@[simp] theorem pioInputs_can : (pioInputs src s).can = s.can := by
  unfold pioInputs; refine foldl_keeps State.can _ ?_ _ _; intro s k; refine keepIf State.can ?_ rfl
  refine foldl_keeps State.can _ ?_ _ _; intro s m; rfl
@[simp] theorem pioInputs_star : (pioInputs src s).star = s.star := by
  unfold pioInputs; refine foldl_keeps State.star _ ?_ _ _; intro s k; refine keepIf State.star ?_ rfl
  refine foldl_keeps State.star _ ?_ _ _; intro s m; rfl
@[simp] theorem pioInputs_eng : (pioInputs src s).eng = s.eng := by
  unfold pioInputs; refine foldl_keeps State.eng _ ?_ _ _; intro s k; refine keepIf State.eng ?_ rfl
  refine foldl_keeps State.eng _ ?_ _ _; intro s m; rfl
@[simp] theorem pioInputs_pol : (pioInputs src s).pol = s.pol := by
  unfold pioInputs; refine foldl_keeps State.pol _ ?_ _ _; intro s k; refine keepIf State.pol ?_ rfl
  refine foldl_keeps State.pol _ ?_ _ _; intro s m; rfl
@[simp] theorem pioInputs_cry : (pioInputs src s).cry = s.cry := by
  unfold pioInputs; refine foldl_keeps State.cry _ ?_ _ _; intro s k; refine keepIf State.cry ?_ rfl
  refine foldl_keeps State.cry _ ?_ _ _; intro s m; rfl
@[simp] theorem pioInputs_mbx : (pioInputs src s).mbx = s.mbx := by
  unfold pioInputs; refine foldl_keeps State.mbx _ ?_ _ _; intro s k; refine keepIf State.mbx ?_ rfl
  refine foldl_keeps State.mbx _ ?_ _ _; intro s m; rfl
@[simp] theorem pioInputs_recorder : (pioInputs src s).recorder = s.recorder := by
  unfold pioInputs; refine foldl_keeps State.recorder _ ?_ _ _; intro s k; refine keepIf State.recorder ?_ rfl
  refine foldl_keeps State.recorder _ ?_ _ _; intro s m; rfl
@[simp] theorem pioInputs_pwr : (pioInputs src s).pwr = s.pwr := by
  unfold pioInputs; refine foldl_keeps State.pwr _ ?_ _ _; intro s k; refine keepIf State.pwr ?_ rfl
  refine foldl_keeps State.pwr _ ?_ _ _; intro s m; rfl
@[simp] theorem pioInputs_ticks : (pioInputs src s).ticks = s.ticks := by
  unfold pioInputs; refine foldl_keeps State.ticks _ ?_ _ _; intro s k; refine keepIf State.ticks ?_ rfl
  refine foldl_keeps State.ticks _ ?_ _ _; intro s m; rfl
@[simp] theorem pioInputs_freeCtr : (pioInputs src s).freeCtr = s.freeCtr := by
  unfold pioInputs; refine foldl_keeps State.freeCtr _ ?_ _ _; intro s k; refine keepIf State.freeCtr ?_ rfl
  refine foldl_keeps State.freeCtr _ ?_ _ _; intro s m; rfl
@[simp] theorem pioInputs_outbox : (pioInputs src s).outbox = s.outbox := by
  unfold pioInputs; refine foldl_keeps State.outbox _ ?_ _ _; intro s k; refine keepIf State.outbox ?_ rfl
  refine foldl_keeps State.outbox _ ?_ _ _; intro s m; rfl
@[simp] theorem pioInputs_pending : (pioInputs src s).pending = s.pending := by
  unfold pioInputs; refine foldl_keeps State.pending _ ?_ _ _; intro s k; refine keepIf State.pending ?_ rfl
  refine foldl_keeps State.pending _ ?_ _ _; intro s m; rfl
end

section
variable (src : Nat) (d : List Byte) (s : State)
@[simp] theorem raiseD_stores : (raiseD src d s).stores = s.stores := (evtOuts_stores _ _ _).trans (keepRun State.stores (msixQueue_stores _ _) (keepRun State.stores (polLine_stores _) (keepRun State.stores (engLine_stores _ _)
    (keepRun State.stores (recCapture_stores _ _ _ _) (pioInputs_stores _ _)))))
@[simp] theorem raiseD_time : (raiseD src d s).time = s.time := (evtOuts_time _ _ _).trans (keepRun State.time (msixQueue_time _ _) (keepRun State.time (polLine_time _) (keepRun State.time (engLine_time _ _)
    (keepRun State.time (recCapture_time _ _ _ _) (pioInputs_time _ _)))))
@[simp] theorem raiseD_rings : (raiseD src d s).rings = s.rings := (evtOuts_rings _ _ _).trans (keepRun State.rings (msixQueue_rings _ _) (keepRun State.rings (polLine_rings _) (keepRun State.rings (engLine_rings _ _)
    (keepRun State.rings (recCapture_rings _ _ _ _) (pioInputs_rings _ _)))))
@[simp] theorem raiseD_cfg : (raiseD src d s).cfg = s.cfg := (evtOuts_cfg _ _ _).trans (keepRun State.cfg (msixQueue_cfg _ _) (keepRun State.cfg (polLine_cfg _) (keepRun State.cfg (engLine_cfg _ _)
    (keepRun State.cfg (recCapture_cfg _ _ _ _) (pioInputs_cfg _ _)))))
@[simp] theorem raiseD_mem : (raiseD src d s).mem = s.mem := (evtOuts_mem _ _ _).trans (keepRun State.mem (msixQueue_mem _ _) (keepRun State.mem (polLine_mem _) (keepRun State.mem (engLine_mem _ _)
    (keepRun State.mem (recCapture_mem _ _ _ _) (pioInputs_mem _ _)))))
@[simp] theorem raiseD_qm : (raiseD src d s).qm = s.qm := (evtOuts_qm _ _ _).trans (keepRun State.qm (msixQueue_qm _ _) (keepRun State.qm (polLine_qm _) (keepRun State.qm (engLine_qm _ _)
    (keepRun State.qm (recCapture_qm _ _ _ _) (pioInputs_qm _ _)))))
@[simp] theorem raiseD_fab : (raiseD src d s).fab = s.fab := (evtOuts_fab _ _ _).trans (keepRun State.fab (msixQueue_fab _ _) (keepRun State.fab (polLine_fab _) (keepRun State.fab (engLine_fab _ _)
    (keepRun State.fab (recCapture_fab _ _ _ _) (pioInputs_fab _ _)))))
@[simp] theorem raiseD_eth : (raiseD src d s).eth = s.eth := (evtOuts_eth _ _ _).trans (keepRun State.eth (msixQueue_eth _ _) (keepRun State.eth (polLine_eth _) (keepRun State.eth (engLine_eth _ _)
    (keepRun State.eth (recCapture_eth _ _ _ _) (pioInputs_eth _ _)))))
@[simp] theorem raiseD_can : (raiseD src d s).can = s.can := (evtOuts_can _ _ _).trans (keepRun State.can (msixQueue_can _ _) (keepRun State.can (polLine_can _) (keepRun State.can (engLine_can _ _)
    (keepRun State.can (recCapture_can _ _ _ _) (pioInputs_can _ _)))))
@[simp] theorem raiseD_star : (raiseD src d s).star = s.star := (evtOuts_star _ _ _).trans (keepRun State.star (msixQueue_star _ _) (keepRun State.star (polLine_star _) (keepRun State.star (engLine_star _ _)
    (keepRun State.star (recCapture_star _ _ _ _) (pioInputs_star _ _)))))
@[simp] theorem raiseD_eng : (raiseD src d s).eng = s.eng := (evtOuts_eng _ _ _).trans (keepRun State.eng (msixQueue_eng _ _) (keepRun State.eng (polLine_eng _) (keepRun State.eng (engLine_eng _ _)
    (keepRun State.eng (recCapture_eng _ _ _ _) (pioInputs_eng _ _)))))
@[simp] theorem raiseD_pol : (raiseD src d s).pol = s.pol := (evtOuts_pol _ _ _).trans (keepRun State.pol (msixQueue_pol _ _) (keepRun State.pol (polLine_pol _) (keepRun State.pol (engLine_pol _ _)
    (keepRun State.pol (recCapture_pol _ _ _ _) (pioInputs_pol _ _)))))
@[simp] theorem raiseD_cry : (raiseD src d s).cry = s.cry := (evtOuts_cry _ _ _).trans (keepRun State.cry (msixQueue_cry _ _) (keepRun State.cry (polLine_cry _) (keepRun State.cry (engLine_cry _ _)
    (keepRun State.cry (recCapture_cry _ _ _ _) (pioInputs_cry _ _)))))
@[simp] theorem raiseD_mbx : (raiseD src d s).mbx = s.mbx := (evtOuts_mbx _ _ _).trans (keepRun State.mbx (msixQueue_mbx _ _) (keepRun State.mbx (polLine_mbx _) (keepRun State.mbx (engLine_mbx _ _)
    (keepRun State.mbx (recCapture_mbx _ _ _ _) (pioInputs_mbx _ _)))))
@[simp] theorem raiseD_pwr : (raiseD src d s).pwr = s.pwr := (evtOuts_pwr _ _ _).trans (keepRun State.pwr (msixQueue_pwr _ _) (keepRun State.pwr (polLine_pwr _) (keepRun State.pwr (engLine_pwr _ _)
    (keepRun State.pwr (recCapture_pwr _ _ _ _) (pioInputs_pwr _ _)))))
@[simp] theorem raiseD_ticks : (raiseD src d s).ticks = s.ticks := (evtOuts_ticks _ _ _).trans (keepRun State.ticks (msixQueue_ticks _ _) (keepRun State.ticks (polLine_ticks _) (keepRun State.ticks (engLine_ticks _ _)
    (keepRun State.ticks (recCapture_ticks _ _ _ _) (pioInputs_ticks _ _)))))
@[simp] theorem raiseD_freeCtr : (raiseD src d s).freeCtr = s.freeCtr := (evtOuts_freeCtr _ _ _).trans (keepRun State.freeCtr (msixQueue_freeCtr _ _) (keepRun State.freeCtr (polLine_freeCtr _) (keepRun State.freeCtr (engLine_freeCtr _ _)
    (keepRun State.freeCtr (recCapture_freeCtr _ _ _ _) (pioInputs_freeCtr _ _)))))
@[simp] theorem raiseD_outbox : (raiseD src d s).outbox = s.outbox := (evtOuts_outbox _ _ _).trans (keepRun State.outbox (msixQueue_outbox _ _) (keepRun State.outbox (polLine_outbox _) (keepRun State.outbox (engLine_outbox _ _)
    (keepRun State.outbox (recCapture_outbox _ _ _ _) (pioInputs_outbox _ _)))))
@[simp] theorem raiseD_pending : (raiseD src d s).pending = s.pending := (evtOuts_pending _ _ _).trans (keepRun State.pending (msixQueue_pending _ _) (keepRun State.pending (polLine_pending _) (keepRun State.pending (engLine_pending _ _)
    (keepRun State.pending (recCapture_pending _ _ _ _) (pioInputs_pending _ _)))))
end

section
variable (src : Nat) (s : State)
@[simp] theorem raise_stores : (raise src s).stores = s.stores := raiseD_stores _ _ _
@[simp] theorem raise_time : (raise src s).time = s.time := raiseD_time _ _ _
@[simp] theorem raise_rings : (raise src s).rings = s.rings := raiseD_rings _ _ _
@[simp] theorem raise_cfg : (raise src s).cfg = s.cfg := raiseD_cfg _ _ _
@[simp] theorem raise_mem : (raise src s).mem = s.mem := raiseD_mem _ _ _
@[simp] theorem raise_qm : (raise src s).qm = s.qm := raiseD_qm _ _ _
@[simp] theorem raise_fab : (raise src s).fab = s.fab := raiseD_fab _ _ _
@[simp] theorem raise_eth : (raise src s).eth = s.eth := raiseD_eth _ _ _
@[simp] theorem raise_can : (raise src s).can = s.can := raiseD_can _ _ _
@[simp] theorem raise_star : (raise src s).star = s.star := raiseD_star _ _ _
@[simp] theorem raise_eng : (raise src s).eng = s.eng := raiseD_eng _ _ _
@[simp] theorem raise_pol : (raise src s).pol = s.pol := raiseD_pol _ _ _
@[simp] theorem raise_cry : (raise src s).cry = s.cry := raiseD_cry _ _ _
@[simp] theorem raise_mbx : (raise src s).mbx = s.mbx := raiseD_mbx _ _ _
@[simp] theorem raise_pwr : (raise src s).pwr = s.pwr := raiseD_pwr _ _ _
@[simp] theorem raise_ticks : (raise src s).ticks = s.ticks := raiseD_ticks _ _ _
@[simp] theorem raise_freeCtr : (raise src s).freeCtr = s.freeCtr := raiseD_freeCtr _ _ _
@[simp] theorem raise_outbox : (raise src s).outbox = s.outbox := raiseD_outbox _ _ _
@[simp] theorem raise_pending : (raise src s).pending = s.pending := raiseD_pending _ _ _
end

section
variable (b : Bool) (src : Nat) (s : State)
@[simp] theorem raiseIf_stores : (raiseIf b src s).stores = s.stores := keepIf State.stores (raise_stores _ _) rfl
@[simp] theorem raiseIf_time : (raiseIf b src s).time = s.time := keepIf State.time (raise_time _ _) rfl
@[simp] theorem raiseIf_rings : (raiseIf b src s).rings = s.rings := keepIf State.rings (raise_rings _ _) rfl
@[simp] theorem raiseIf_cfg : (raiseIf b src s).cfg = s.cfg := keepIf State.cfg (raise_cfg _ _) rfl
@[simp] theorem raiseIf_mem : (raiseIf b src s).mem = s.mem := keepIf State.mem (raise_mem _ _) rfl
@[simp] theorem raiseIf_qm : (raiseIf b src s).qm = s.qm := keepIf State.qm (raise_qm _ _) rfl
@[simp] theorem raiseIf_fab : (raiseIf b src s).fab = s.fab := keepIf State.fab (raise_fab _ _) rfl
@[simp] theorem raiseIf_eth : (raiseIf b src s).eth = s.eth := keepIf State.eth (raise_eth _ _) rfl
@[simp] theorem raiseIf_can : (raiseIf b src s).can = s.can := keepIf State.can (raise_can _ _) rfl
@[simp] theorem raiseIf_star : (raiseIf b src s).star = s.star := keepIf State.star (raise_star _ _) rfl
@[simp] theorem raiseIf_eng : (raiseIf b src s).eng = s.eng := keepIf State.eng (raise_eng _ _) rfl
@[simp] theorem raiseIf_pol : (raiseIf b src s).pol = s.pol := keepIf State.pol (raise_pol _ _) rfl
@[simp] theorem raiseIf_cry : (raiseIf b src s).cry = s.cry := keepIf State.cry (raise_cry _ _) rfl
@[simp] theorem raiseIf_mbx : (raiseIf b src s).mbx = s.mbx := keepIf State.mbx (raise_mbx _ _) rfl
@[simp] theorem raiseIf_pwr : (raiseIf b src s).pwr = s.pwr := keepIf State.pwr (raise_pwr _ _) rfl
@[simp] theorem raiseIf_ticks : (raiseIf b src s).ticks = s.ticks := keepIf State.ticks (raise_ticks _ _) rfl
@[simp] theorem raiseIf_freeCtr : (raiseIf b src s).freeCtr = s.freeCtr := keepIf State.freeCtr (raise_freeCtr _ _) rfl
@[simp] theorem raiseIf_outbox : (raiseIf b src s).outbox = s.outbox := keepIf State.outbox (raise_outbox _ _) rfl
@[simp] theorem raiseIf_pending : (raiseIf b src s).pending = s.pending := keepIf State.pending (raise_pending _ _) rfl
end

section
variable (m space off : Nat) (s : State)
@[simp] theorem accessErr_stores : (accessErr m space off s).stores = s.stores := keepIf State.stores ((count16_stores _ _ _ _).trans (raise_stores _ _)) ((wr_stores _ _ _ _ _).trans ((wr_stores _ _ _ _ _).trans (raise_stores _ _)))
@[simp] theorem accessErr_time : (accessErr m space off s).time = s.time := keepIf State.time ((count16_time _ _ _ _).trans (raise_time _ _)) ((wr_time _ _ _ _ _).trans ((wr_time _ _ _ _ _).trans (raise_time _ _)))
@[simp] theorem accessErr_rings : (accessErr m space off s).rings = s.rings := keepIf State.rings ((count16_rings _ _ _ _).trans (raise_rings _ _)) ((wr_rings _ _ _ _ _).trans ((wr_rings _ _ _ _ _).trans (raise_rings _ _)))
@[simp] theorem accessErr_cfg : (accessErr m space off s).cfg = s.cfg := keepIf State.cfg ((count16_cfg _ _ _ _).trans (raise_cfg _ _)) ((wr_cfg _ _ _ _ _).trans ((wr_cfg _ _ _ _ _).trans (raise_cfg _ _)))
@[simp] theorem accessErr_mem : (accessErr m space off s).mem = s.mem := keepIf State.mem ((count16_mem _ _ _ _).trans (raise_mem _ _)) ((wr_mem _ _ _ _ _).trans ((wr_mem _ _ _ _ _).trans (raise_mem _ _)))
@[simp] theorem accessErr_qm : (accessErr m space off s).qm = s.qm := keepIf State.qm ((count16_qm _ _ _ _).trans (raise_qm _ _)) ((wr_qm _ _ _ _ _).trans ((wr_qm _ _ _ _ _).trans (raise_qm _ _)))
@[simp] theorem accessErr_fab : (accessErr m space off s).fab = s.fab := keepIf State.fab ((count16_fab _ _ _ _).trans (raise_fab _ _)) ((wr_fab _ _ _ _ _).trans ((wr_fab _ _ _ _ _).trans (raise_fab _ _)))
@[simp] theorem accessErr_eth : (accessErr m space off s).eth = s.eth := keepIf State.eth ((count16_eth _ _ _ _).trans (raise_eth _ _)) ((wr_eth _ _ _ _ _).trans ((wr_eth _ _ _ _ _).trans (raise_eth _ _)))
@[simp] theorem accessErr_can : (accessErr m space off s).can = s.can := keepIf State.can ((count16_can _ _ _ _).trans (raise_can _ _)) ((wr_can _ _ _ _ _).trans ((wr_can _ _ _ _ _).trans (raise_can _ _)))
@[simp] theorem accessErr_star : (accessErr m space off s).star = s.star := keepIf State.star ((count16_star _ _ _ _).trans (raise_star _ _)) ((wr_star _ _ _ _ _).trans ((wr_star _ _ _ _ _).trans (raise_star _ _)))
@[simp] theorem accessErr_eng : (accessErr m space off s).eng = s.eng := keepIf State.eng ((count16_eng _ _ _ _).trans (raise_eng _ _)) ((wr_eng _ _ _ _ _).trans ((wr_eng _ _ _ _ _).trans (raise_eng _ _)))
@[simp] theorem accessErr_pol : (accessErr m space off s).pol = s.pol := keepIf State.pol ((count16_pol _ _ _ _).trans (raise_pol _ _)) ((wr_pol _ _ _ _ _).trans ((wr_pol _ _ _ _ _).trans (raise_pol _ _)))
@[simp] theorem accessErr_cry : (accessErr m space off s).cry = s.cry := keepIf State.cry ((count16_cry _ _ _ _).trans (raise_cry _ _)) ((wr_cry _ _ _ _ _).trans ((wr_cry _ _ _ _ _).trans (raise_cry _ _)))
@[simp] theorem accessErr_mbx : (accessErr m space off s).mbx = s.mbx := keepIf State.mbx ((count16_mbx _ _ _ _).trans (raise_mbx _ _)) ((wr_mbx _ _ _ _ _).trans ((wr_mbx _ _ _ _ _).trans (raise_mbx _ _)))
@[simp] theorem accessErr_pwr : (accessErr m space off s).pwr = s.pwr := keepIf State.pwr ((count16_pwr _ _ _ _).trans (raise_pwr _ _)) ((wr_pwr _ _ _ _ _).trans ((wr_pwr _ _ _ _ _).trans (raise_pwr _ _)))
@[simp] theorem accessErr_ticks : (accessErr m space off s).ticks = s.ticks := keepIf State.ticks ((count16_ticks _ _ _ _).trans (raise_ticks _ _)) ((wr_ticks _ _ _ _ _).trans ((wr_ticks _ _ _ _ _).trans (raise_ticks _ _)))
@[simp] theorem accessErr_freeCtr : (accessErr m space off s).freeCtr = s.freeCtr := keepIf State.freeCtr ((count16_freeCtr _ _ _ _).trans (raise_freeCtr _ _)) ((wr_freeCtr _ _ _ _ _).trans ((wr_freeCtr _ _ _ _ _).trans (raise_freeCtr _ _)))
@[simp] theorem accessErr_outbox : (accessErr m space off s).outbox = s.outbox := keepIf State.outbox ((count16_outbox _ _ _ _).trans (raise_outbox _ _)) ((wr_outbox _ _ _ _ _).trans ((wr_outbox _ _ _ _ _).trans (raise_outbox _ _)))
@[simp] theorem accessErr_pending : (accessErr m space off s).pending = s.pending := keepIf State.pending ((count16_pending _ _ _ _).trans (raise_pending _ _)) ((wr_pending _ _ _ _ _).trans ((wr_pending _ _ _ _ _).trans (raise_pending _ _)))
end

/-! ### Registers after an event -/

theorem rd_recCapture (code : BitVec 16) (src : Byte) (sw : Bool) (d : List Byte) (s : State) (q : Reg) (j k : Nat)
    (h : regKey q j k ≠ regKey .REC_LOST_TOTAL 0 0) : rd (recCapture code src sw d s) q j k = rd s q j k := by
  unfold recCapture
  dsimp only
  split
  · rfl
  · exact (rd_wr_ne _ _ _ _ _ _ _ _ h).trans rfl

/-- A firing changes no register but its pending word and the total of lost records. -/
theorem rd_raiseD (src : Nat) (d : List Byte) (s : State) (q : Reg) (j k : Nat)
    (h : regKey q j k ≠ regKey .REC_LOST_TOTAL 0 0) (g : regKey q j k ≠ regKey .EVT_PEND (src / 32) 0) :
    rd (raiseD src d s) q j k = rd s q j k := by
  have keep : ∀ (f : State → State) (s : State), (f s).regs = s.regs → rd (f s) q j k = rd s q j k := fun f s e => by
    unfold rd; rw [e]
  refine (keep _ _ (evtOuts_regs _ _ _)).trans ?_
  refine keepRun (fun s => rd s q j k) (fun s => keep _ _ (msixQueue_regs _ _ _)) ?_
  refine keepRun (fun s => rd s q j k) (fun s => keep _ _ (polLine_regs _ _)) ?_
  refine keepRun (fun s => rd s q j k) (fun s => keep _ _ (engLine_regs _ _ _)) ?_
  refine keepRun (fun s => rd s q j k) (fun s => rd_recCapture _ _ _ _ s q j k h) ?_
  exact (keep _ _ (pioInputs_regs _ _)).trans (rd_wr_ne _ _ _ _ _ _ _ _ g)

theorem rd_raise (src : Nat) (s : State) (q : Reg) (j k : Nat) (h : q ≠ .REC_LOST_TOTAL) (g : q ≠ .EVT_PEND) :
    rd (raise src s) q j k = rd s q j k :=
  rd_raiseD _ _ _ _ _ _ (regKey_ne_of_reg _ _ _ _ _ _ h) (regKey_ne_of_reg _ _ _ _ _ _ g)

theorem rd_raiseIf (b : Bool) (src : Nat) (s : State) (q : Reg) (j k : Nat) (h : q ≠ .REC_LOST_TOTAL) (g : q ≠ .EVT_PEND) :
    rd (raiseIf b src s) q j k = rd s q j k := keepIf (fun s => rd s q j k) (rd_raise _ _ _ _ _ h g) rfl

theorem ringOf_of_rings {s t : State} (h : t.rings = s.rings) (n : Nat) : ringOf t n = ringOf s n := by unfold ringOf; rw [h]

/-! ### Completions -/

section
variable (n : Nat) (c : Compl) (s : State)
@[simp] theorem emitCompl_stores : (emitCompl n c s).stores = s.stores := keepIf State.stores ((raise_stores _ _).trans ((msixQueue_stores _ _ _).trans ((say_stores _ _).trans ((setRing_stores _ _ _).trans rfl))))
    (keepIf State.stores ((setRing_stores _ _ _).trans rfl) ((setRing_stores _ _ _).trans rfl))
@[simp] theorem emitCompl_time : (emitCompl n c s).time = s.time := keepIf State.time ((raise_time _ _).trans ((msixQueue_time _ _ _).trans ((say_time _ _).trans ((setRing_time _ _ _).trans rfl))))
    (keepIf State.time ((setRing_time _ _ _).trans rfl) ((setRing_time _ _ _).trans rfl))
@[simp] theorem emitCompl_mem : (emitCompl n c s).mem = s.mem := keepIf State.mem ((raise_mem _ _).trans ((msixQueue_mem _ _ _).trans ((say_mem _ _).trans ((setRing_mem _ _ _).trans rfl))))
    (keepIf State.mem ((setRing_mem _ _ _).trans rfl) ((setRing_mem _ _ _).trans rfl))
@[simp] theorem emitCompl_qm : (emitCompl n c s).qm = s.qm := keepIf State.qm ((raise_qm _ _).trans ((msixQueue_qm _ _ _).trans ((say_qm _ _).trans ((setRing_qm _ _ _).trans rfl))))
    (keepIf State.qm ((setRing_qm _ _ _).trans rfl) ((setRing_qm _ _ _).trans rfl))
@[simp] theorem emitCompl_fab : (emitCompl n c s).fab = s.fab := keepIf State.fab ((raise_fab _ _).trans ((msixQueue_fab _ _ _).trans ((say_fab _ _).trans ((setRing_fab _ _ _).trans rfl))))
    (keepIf State.fab ((setRing_fab _ _ _).trans rfl) ((setRing_fab _ _ _).trans rfl))
@[simp] theorem emitCompl_eth : (emitCompl n c s).eth = s.eth := keepIf State.eth ((raise_eth _ _).trans ((msixQueue_eth _ _ _).trans ((say_eth _ _).trans ((setRing_eth _ _ _).trans rfl))))
    (keepIf State.eth ((setRing_eth _ _ _).trans rfl) ((setRing_eth _ _ _).trans rfl))
@[simp] theorem emitCompl_can : (emitCompl n c s).can = s.can := keepIf State.can ((raise_can _ _).trans ((msixQueue_can _ _ _).trans ((say_can _ _).trans ((setRing_can _ _ _).trans rfl))))
    (keepIf State.can ((setRing_can _ _ _).trans rfl) ((setRing_can _ _ _).trans rfl))
@[simp] theorem emitCompl_star : (emitCompl n c s).star = s.star := keepIf State.star ((raise_star _ _).trans ((msixQueue_star _ _ _).trans ((say_star _ _).trans ((setRing_star _ _ _).trans rfl))))
    (keepIf State.star ((setRing_star _ _ _).trans rfl) ((setRing_star _ _ _).trans rfl))
@[simp] theorem emitCompl_eng : (emitCompl n c s).eng = s.eng := keepIf State.eng ((raise_eng _ _).trans ((msixQueue_eng _ _ _).trans ((say_eng _ _).trans ((setRing_eng _ _ _).trans rfl))))
    (keepIf State.eng ((setRing_eng _ _ _).trans rfl) ((setRing_eng _ _ _).trans rfl))
@[simp] theorem emitCompl_pol : (emitCompl n c s).pol = s.pol := keepIf State.pol ((raise_pol _ _).trans ((msixQueue_pol _ _ _).trans ((say_pol _ _).trans ((setRing_pol _ _ _).trans rfl))))
    (keepIf State.pol ((setRing_pol _ _ _).trans rfl) ((setRing_pol _ _ _).trans rfl))
@[simp] theorem emitCompl_cry : (emitCompl n c s).cry = s.cry := keepIf State.cry ((raise_cry _ _).trans ((msixQueue_cry _ _ _).trans ((say_cry _ _).trans ((setRing_cry _ _ _).trans rfl))))
    (keepIf State.cry ((setRing_cry _ _ _).trans rfl) ((setRing_cry _ _ _).trans rfl))
@[simp] theorem emitCompl_mbx : (emitCompl n c s).mbx = s.mbx := keepIf State.mbx ((raise_mbx _ _).trans ((msixQueue_mbx _ _ _).trans ((say_mbx _ _).trans ((setRing_mbx _ _ _).trans rfl))))
    (keepIf State.mbx ((setRing_mbx _ _ _).trans rfl) ((setRing_mbx _ _ _).trans rfl))
@[simp] theorem emitCompl_pwr : (emitCompl n c s).pwr = s.pwr := keepIf State.pwr ((raise_pwr _ _).trans ((msixQueue_pwr _ _ _).trans ((say_pwr _ _).trans ((setRing_pwr _ _ _).trans rfl))))
    (keepIf State.pwr ((setRing_pwr _ _ _).trans rfl) ((setRing_pwr _ _ _).trans rfl))
@[simp] theorem emitCompl_ticks : (emitCompl n c s).ticks = s.ticks := keepIf State.ticks ((raise_ticks _ _).trans ((msixQueue_ticks _ _ _).trans ((say_ticks _ _).trans ((setRing_ticks _ _ _).trans rfl))))
    (keepIf State.ticks ((setRing_ticks _ _ _).trans rfl) ((setRing_ticks _ _ _).trans rfl))
@[simp] theorem emitCompl_freeCtr : (emitCompl n c s).freeCtr = s.freeCtr := keepIf State.freeCtr ((raise_freeCtr _ _).trans ((msixQueue_freeCtr _ _ _).trans ((say_freeCtr _ _).trans ((setRing_freeCtr _ _ _).trans rfl))))
    (keepIf State.freeCtr ((setRing_freeCtr _ _ _).trans rfl) ((setRing_freeCtr _ _ _).trans rfl))
@[simp] theorem emitCompl_pending : (emitCompl n c s).pending = s.pending := keepIf State.pending ((raise_pending _ _).trans ((msixQueue_pending _ _ _).trans ((say_pending _ _).trans ((setRing_pending _ _ _).trans rfl))))
    (keepIf State.pending ((setRing_pending _ _ _).trans rfl) ((setRing_pending _ _ _).trans rfl))
end

section
@[simp] theorem flushCompl_stores : ∀ (f n : Nat) (s : State), (flushCompl f n s).stores = s.stores
  | 0, _, _ => rfl
  | f + 1, n, s => by
    unfold flushCompl
    split
    · split
      · rfl
      · exact (flushCompl_stores f n _).trans ((emitCompl_stores _ _ _).trans (setRing_stores _ _ _))
    · rfl
@[simp] theorem flushCompl_time : ∀ (f n : Nat) (s : State), (flushCompl f n s).time = s.time
  | 0, _, _ => rfl
  | f + 1, n, s => by
    unfold flushCompl
    split
    · split
      · rfl
      · exact (flushCompl_time f n _).trans ((emitCompl_time _ _ _).trans (setRing_time _ _ _))
    · rfl
@[simp] theorem flushCompl_mem : ∀ (f n : Nat) (s : State), (flushCompl f n s).mem = s.mem
  | 0, _, _ => rfl
  | f + 1, n, s => by
    unfold flushCompl
    split
    · split
      · rfl
      · exact (flushCompl_mem f n _).trans ((emitCompl_mem _ _ _).trans (setRing_mem _ _ _))
    · rfl
@[simp] theorem flushCompl_qm : ∀ (f n : Nat) (s : State), (flushCompl f n s).qm = s.qm
  | 0, _, _ => rfl
  | f + 1, n, s => by
    unfold flushCompl
    split
    · split
      · rfl
      · exact (flushCompl_qm f n _).trans ((emitCompl_qm _ _ _).trans (setRing_qm _ _ _))
    · rfl
@[simp] theorem flushCompl_fab : ∀ (f n : Nat) (s : State), (flushCompl f n s).fab = s.fab
  | 0, _, _ => rfl
  | f + 1, n, s => by
    unfold flushCompl
    split
    · split
      · rfl
      · exact (flushCompl_fab f n _).trans ((emitCompl_fab _ _ _).trans (setRing_fab _ _ _))
    · rfl
@[simp] theorem flushCompl_eth : ∀ (f n : Nat) (s : State), (flushCompl f n s).eth = s.eth
  | 0, _, _ => rfl
  | f + 1, n, s => by
    unfold flushCompl
    split
    · split
      · rfl
      · exact (flushCompl_eth f n _).trans ((emitCompl_eth _ _ _).trans (setRing_eth _ _ _))
    · rfl
@[simp] theorem flushCompl_can : ∀ (f n : Nat) (s : State), (flushCompl f n s).can = s.can
  | 0, _, _ => rfl
  | f + 1, n, s => by
    unfold flushCompl
    split
    · split
      · rfl
      · exact (flushCompl_can f n _).trans ((emitCompl_can _ _ _).trans (setRing_can _ _ _))
    · rfl
@[simp] theorem flushCompl_star : ∀ (f n : Nat) (s : State), (flushCompl f n s).star = s.star
  | 0, _, _ => rfl
  | f + 1, n, s => by
    unfold flushCompl
    split
    · split
      · rfl
      · exact (flushCompl_star f n _).trans ((emitCompl_star _ _ _).trans (setRing_star _ _ _))
    · rfl
@[simp] theorem flushCompl_eng : ∀ (f n : Nat) (s : State), (flushCompl f n s).eng = s.eng
  | 0, _, _ => rfl
  | f + 1, n, s => by
    unfold flushCompl
    split
    · split
      · rfl
      · exact (flushCompl_eng f n _).trans ((emitCompl_eng _ _ _).trans (setRing_eng _ _ _))
    · rfl
@[simp] theorem flushCompl_pol : ∀ (f n : Nat) (s : State), (flushCompl f n s).pol = s.pol
  | 0, _, _ => rfl
  | f + 1, n, s => by
    unfold flushCompl
    split
    · split
      · rfl
      · exact (flushCompl_pol f n _).trans ((emitCompl_pol _ _ _).trans (setRing_pol _ _ _))
    · rfl
@[simp] theorem flushCompl_cry : ∀ (f n : Nat) (s : State), (flushCompl f n s).cry = s.cry
  | 0, _, _ => rfl
  | f + 1, n, s => by
    unfold flushCompl
    split
    · split
      · rfl
      · exact (flushCompl_cry f n _).trans ((emitCompl_cry _ _ _).trans (setRing_cry _ _ _))
    · rfl
@[simp] theorem flushCompl_mbx : ∀ (f n : Nat) (s : State), (flushCompl f n s).mbx = s.mbx
  | 0, _, _ => rfl
  | f + 1, n, s => by
    unfold flushCompl
    split
    · split
      · rfl
      · exact (flushCompl_mbx f n _).trans ((emitCompl_mbx _ _ _).trans (setRing_mbx _ _ _))
    · rfl
@[simp] theorem flushCompl_pwr : ∀ (f n : Nat) (s : State), (flushCompl f n s).pwr = s.pwr
  | 0, _, _ => rfl
  | f + 1, n, s => by
    unfold flushCompl
    split
    · split
      · rfl
      · exact (flushCompl_pwr f n _).trans ((emitCompl_pwr _ _ _).trans (setRing_pwr _ _ _))
    · rfl
@[simp] theorem flushCompl_ticks : ∀ (f n : Nat) (s : State), (flushCompl f n s).ticks = s.ticks
  | 0, _, _ => rfl
  | f + 1, n, s => by
    unfold flushCompl
    split
    · split
      · rfl
      · exact (flushCompl_ticks f n _).trans ((emitCompl_ticks _ _ _).trans (setRing_ticks _ _ _))
    · rfl
@[simp] theorem flushCompl_freeCtr : ∀ (f n : Nat) (s : State), (flushCompl f n s).freeCtr = s.freeCtr
  | 0, _, _ => rfl
  | f + 1, n, s => by
    unfold flushCompl
    split
    · split
      · rfl
      · exact (flushCompl_freeCtr f n _).trans ((emitCompl_freeCtr _ _ _).trans (setRing_freeCtr _ _ _))
    · rfl
@[simp] theorem flushCompl_pending : ∀ (f n : Nat) (s : State), (flushCompl f n s).pending = s.pending
  | 0, _, _ => rfl
  | f + 1, n, s => by
    unfold flushCompl
    split
    · split
      · rfl
      · exact (flushCompl_pending f n _).trans ((emitCompl_pending _ _ _).trans (setRing_pending _ _ _))
    · rfl
end

section
variable (n : Nat) (s : State)
@[simp] theorem pumpRing_stores : (pumpRing n s).stores = s.stores := (setRing_stores _ _ _).trans (flushCompl_stores _ _ _)
@[simp] theorem pumpRing_time : (pumpRing n s).time = s.time := (setRing_time _ _ _).trans (flushCompl_time _ _ _)
@[simp] theorem pumpRing_mem : (pumpRing n s).mem = s.mem := (setRing_mem _ _ _).trans (flushCompl_mem _ _ _)
@[simp] theorem pumpRing_qm : (pumpRing n s).qm = s.qm := (setRing_qm _ _ _).trans (flushCompl_qm _ _ _)
@[simp] theorem pumpRing_fab : (pumpRing n s).fab = s.fab := (setRing_fab _ _ _).trans (flushCompl_fab _ _ _)
@[simp] theorem pumpRing_eth : (pumpRing n s).eth = s.eth := (setRing_eth _ _ _).trans (flushCompl_eth _ _ _)
@[simp] theorem pumpRing_can : (pumpRing n s).can = s.can := (setRing_can _ _ _).trans (flushCompl_can _ _ _)
@[simp] theorem pumpRing_star : (pumpRing n s).star = s.star := (setRing_star _ _ _).trans (flushCompl_star _ _ _)
@[simp] theorem pumpRing_eng : (pumpRing n s).eng = s.eng := (setRing_eng _ _ _).trans (flushCompl_eng _ _ _)
@[simp] theorem pumpRing_pol : (pumpRing n s).pol = s.pol := (setRing_pol _ _ _).trans (flushCompl_pol _ _ _)
@[simp] theorem pumpRing_cry : (pumpRing n s).cry = s.cry := (setRing_cry _ _ _).trans (flushCompl_cry _ _ _)
@[simp] theorem pumpRing_mbx : (pumpRing n s).mbx = s.mbx := (setRing_mbx _ _ _).trans (flushCompl_mbx _ _ _)
@[simp] theorem pumpRing_pwr : (pumpRing n s).pwr = s.pwr := (setRing_pwr _ _ _).trans (flushCompl_pwr _ _ _)
@[simp] theorem pumpRing_ticks : (pumpRing n s).ticks = s.ticks := (setRing_ticks _ _ _).trans (flushCompl_ticks _ _ _)
@[simp] theorem pumpRing_freeCtr : (pumpRing n s).freeCtr = s.freeCtr := (setRing_freeCtr _ _ _).trans (flushCompl_freeCtr _ _ _)
@[simp] theorem pumpRing_pending : (pumpRing n s).pending = s.pending := (setRing_pending _ _ _).trans (flushCompl_pending _ _ _)
end

section
variable (n : Nat) (c : Compl) (s : State)
@[simp] theorem postCompl_stores : (postCompl n c s).stores = s.stores := keepIf State.stores ((raiseIf_stores _ _ _).trans (setRing_stores _ _ _))
    ((pumpRing_stores _ _).trans ((raiseIf_stores _ _ _).trans (setRing_stores _ _ _)))
@[simp] theorem postCompl_time : (postCompl n c s).time = s.time := keepIf State.time ((raiseIf_time _ _ _).trans (setRing_time _ _ _))
    ((pumpRing_time _ _).trans ((raiseIf_time _ _ _).trans (setRing_time _ _ _)))
@[simp] theorem postCompl_mem : (postCompl n c s).mem = s.mem := keepIf State.mem ((raiseIf_mem _ _ _).trans (setRing_mem _ _ _))
    ((pumpRing_mem _ _).trans ((raiseIf_mem _ _ _).trans (setRing_mem _ _ _)))
@[simp] theorem postCompl_qm : (postCompl n c s).qm = s.qm := keepIf State.qm ((raiseIf_qm _ _ _).trans (setRing_qm _ _ _))
    ((pumpRing_qm _ _).trans ((raiseIf_qm _ _ _).trans (setRing_qm _ _ _)))
@[simp] theorem postCompl_fab : (postCompl n c s).fab = s.fab := keepIf State.fab ((raiseIf_fab _ _ _).trans (setRing_fab _ _ _))
    ((pumpRing_fab _ _).trans ((raiseIf_fab _ _ _).trans (setRing_fab _ _ _)))
@[simp] theorem postCompl_eth : (postCompl n c s).eth = s.eth := keepIf State.eth ((raiseIf_eth _ _ _).trans (setRing_eth _ _ _))
    ((pumpRing_eth _ _).trans ((raiseIf_eth _ _ _).trans (setRing_eth _ _ _)))
@[simp] theorem postCompl_can : (postCompl n c s).can = s.can := keepIf State.can ((raiseIf_can _ _ _).trans (setRing_can _ _ _))
    ((pumpRing_can _ _).trans ((raiseIf_can _ _ _).trans (setRing_can _ _ _)))
@[simp] theorem postCompl_star : (postCompl n c s).star = s.star := keepIf State.star ((raiseIf_star _ _ _).trans (setRing_star _ _ _))
    ((pumpRing_star _ _).trans ((raiseIf_star _ _ _).trans (setRing_star _ _ _)))
@[simp] theorem postCompl_eng : (postCompl n c s).eng = s.eng := keepIf State.eng ((raiseIf_eng _ _ _).trans (setRing_eng _ _ _))
    ((pumpRing_eng _ _).trans ((raiseIf_eng _ _ _).trans (setRing_eng _ _ _)))
@[simp] theorem postCompl_pol : (postCompl n c s).pol = s.pol := keepIf State.pol ((raiseIf_pol _ _ _).trans (setRing_pol _ _ _))
    ((pumpRing_pol _ _).trans ((raiseIf_pol _ _ _).trans (setRing_pol _ _ _)))
@[simp] theorem postCompl_cry : (postCompl n c s).cry = s.cry := keepIf State.cry ((raiseIf_cry _ _ _).trans (setRing_cry _ _ _))
    ((pumpRing_cry _ _).trans ((raiseIf_cry _ _ _).trans (setRing_cry _ _ _)))
@[simp] theorem postCompl_mbx : (postCompl n c s).mbx = s.mbx := keepIf State.mbx ((raiseIf_mbx _ _ _).trans (setRing_mbx _ _ _))
    ((pumpRing_mbx _ _).trans ((raiseIf_mbx _ _ _).trans (setRing_mbx _ _ _)))
@[simp] theorem postCompl_pwr : (postCompl n c s).pwr = s.pwr := keepIf State.pwr ((raiseIf_pwr _ _ _).trans (setRing_pwr _ _ _))
    ((pumpRing_pwr _ _).trans ((raiseIf_pwr _ _ _).trans (setRing_pwr _ _ _)))
@[simp] theorem postCompl_ticks : (postCompl n c s).ticks = s.ticks := keepIf State.ticks ((raiseIf_ticks _ _ _).trans (setRing_ticks _ _ _))
    ((pumpRing_ticks _ _).trans ((raiseIf_ticks _ _ _).trans (setRing_ticks _ _ _)))
@[simp] theorem postCompl_freeCtr : (postCompl n c s).freeCtr = s.freeCtr := keepIf State.freeCtr ((raiseIf_freeCtr _ _ _).trans (setRing_freeCtr _ _ _))
    ((pumpRing_freeCtr _ _).trans ((raiseIf_freeCtr _ _ _).trans (setRing_freeCtr _ _ _)))
@[simp] theorem postCompl_pending : (postCompl n c s).pending = s.pending := keepIf State.pending ((raiseIf_pending _ _ _).trans (setRing_pending _ _ _))
    ((pumpRing_pending _ _).trans ((raiseIf_pending _ _ _).trans (setRing_pending _ _ _)))
end

section
variable (c : CmdRef) (st : Nat) (r : W64) (s : State)
@[simp] theorem complete_stores : (complete c st r s).stores = s.stores := (postCompl_stores _ _ _).trans (setRing_stores _ _ _)
@[simp] theorem complete_time : (complete c st r s).time = s.time := (postCompl_time _ _ _).trans (setRing_time _ _ _)
@[simp] theorem complete_mem : (complete c st r s).mem = s.mem := (postCompl_mem _ _ _).trans (setRing_mem _ _ _)
@[simp] theorem complete_qm : (complete c st r s).qm = s.qm := (postCompl_qm _ _ _).trans (setRing_qm _ _ _)
@[simp] theorem complete_fab : (complete c st r s).fab = s.fab := (postCompl_fab _ _ _).trans (setRing_fab _ _ _)
@[simp] theorem complete_eth : (complete c st r s).eth = s.eth := (postCompl_eth _ _ _).trans (setRing_eth _ _ _)
@[simp] theorem complete_can : (complete c st r s).can = s.can := (postCompl_can _ _ _).trans (setRing_can _ _ _)
@[simp] theorem complete_star : (complete c st r s).star = s.star := (postCompl_star _ _ _).trans (setRing_star _ _ _)
@[simp] theorem complete_eng : (complete c st r s).eng = s.eng := (postCompl_eng _ _ _).trans (setRing_eng _ _ _)
@[simp] theorem complete_pol : (complete c st r s).pol = s.pol := (postCompl_pol _ _ _).trans (setRing_pol _ _ _)
@[simp] theorem complete_cry : (complete c st r s).cry = s.cry := (postCompl_cry _ _ _).trans (setRing_cry _ _ _)
@[simp] theorem complete_mbx : (complete c st r s).mbx = s.mbx := (postCompl_mbx _ _ _).trans (setRing_mbx _ _ _)
@[simp] theorem complete_pwr : (complete c st r s).pwr = s.pwr := (postCompl_pwr _ _ _).trans (setRing_pwr _ _ _)
@[simp] theorem complete_ticks : (complete c st r s).ticks = s.ticks := (postCompl_ticks _ _ _).trans (setRing_ticks _ _ _)
@[simp] theorem complete_freeCtr : (complete c st r s).freeCtr = s.freeCtr := (postCompl_freeCtr _ _ _).trans (setRing_freeCtr _ _ _)
@[simp] theorem complete_pending : (complete c st r s).pending = s.pending := (postCompl_pending _ _ _).trans (setRing_pending _ _ _)
end

end Sys2Proof.Machine
end

