-- ==== Sys2Proof/Laws/Eth.lean ====
section
/-! SUPPORT. What the gates of a port leave alone. -/

namespace Sys2Proof.Machine

/-- An event of a port changes the registers and what the router does with it. -/
@[simp] theorem ethCause_time (p k : Nat) (s : State) : (ethCause p k s).time = s.time := by
  unfold ethCause; exact keepIf State.time rfl (by simp)

@[simp] theorem gateUpdate_time (p : Nat) (j : Bool) (s : State) : (gateUpdate p j s).time = s.time := by
  unfold gateUpdate
  dsimp only
  split
  · simp
  · exact keepIf State.time (by simp) (by simp)

/-- Gates that follow a jump of the clock leave the clock alone. -/
@[simp] theorem gatesJump_time (s : State) : (gatesJump s).time = s.time :=
  foldl_keeps State.time _ (fun s p => gateUpdate_time p true s) _ s

end Sys2Proof.Machine
end

