-- ==== Sys2Proof/Laws/Mem.lean ====
section
/-! SUPPORT. What an access of a shared-memory bank leaves alone: the steps of an access, then the accesses. -/

namespace Sys2Proof.Machine

/-! ### A bank is touched -/

@[simp] theorem bankTouch_stores (b : Nat) (s : State) : (bankTouch b s).stores = s.stores := by
  unfold bankTouch
  exact keepIf State.stores rfl (keepIf State.stores ((raise_stores _ _).trans rfl) rfl)

/-- Touching a bank changes only its bank entry in the memory block. -/
theorem bankTouch_mem (b : Nat) (s : State) : (bankTouch b s).mem = { s.mem with banks := (bankTouch b s).mem.banks } := by
  unfold bankTouch
  dsimp only
  split
  · rfl
  · split
    · rw [raise_mem]; rfl
    · rfl

@[simp] theorem bankTouch_bar2 (b : Nat) (s : State) : (bankTouch b s).mem.bar2 = s.mem.bar2 := by rw [bankTouch_mem]
@[simp] theorem bankTouch_stall (b : Nat) (s : State) : (bankTouch b s).mem.stall = s.mem.stall := by rw [bankTouch_mem]
@[simp] theorem bankTouch_poison (b : Nat) (s : State) : (bankTouch b s).mem.poison = s.mem.poison := by rw [bankTouch_mem]
@[simp] theorem bankTouch_single (b : Nat) (s : State) : (bankTouch b s).mem.single = s.mem.single := by rw [bankTouch_mem]
@[simp] theorem bankTouch_cycle (b : Nat) (s : State) : (bankTouch b s).mem.cycle = s.mem.cycle := by rw [bankTouch_mem]

/-! ### The memory cycle -/

@[simp] theorem cycleEnter_stores (ag : Agent) (b : Nat) (s : State) : (cycleEnter ag b s).stores = s.stores := by
  unfold cycleEnter; exact keepIf State.stores rfl rfl

/-- Entering a cycle changes only the cycles in the memory block. -/
theorem cycleEnter_mem (ag : Agent) (b : Nat) (s : State) : (cycleEnter ag b s).mem = { s.mem with cycle := (cycleEnter ag b s).mem.cycle } := by
  unfold cycleEnter; dsimp only
  generalize (if onPortB ag = true then (cycleOf s b).portB else (cycleOf s b).portA).isSome = c
  cases c <;> rfl

@[simp] theorem cycleEnter_bar2 (ag : Agent) (b : Nat) (s : State) : (cycleEnter ag b s).mem.bar2 = s.mem.bar2 := by rw [cycleEnter_mem]
@[simp] theorem cycleEnter_stall (ag : Agent) (b : Nat) (s : State) : (cycleEnter ag b s).mem.stall = s.mem.stall := by rw [cycleEnter_mem]
@[simp] theorem cycleEnter_poison (ag : Agent) (b : Nat) (s : State) : (cycleEnter ag b s).mem.poison = s.mem.poison := by rw [cycleEnter_mem]
@[simp] theorem cycleEnter_single (ag : Agent) (b : Nat) (s : State) : (cycleEnter ag b s).mem.single = s.mem.single := by rw [cycleEnter_mem]

/-- An agent's own earlier access of a bank never meets its new one: with no access of the bank before, none meets it. -/
theorem otherWrite_of_free {s : State} {b : Nat} (h : cycleOf s b = ⟨none, none⟩) (ag : Agent) (w : Nat) (hw : w / 32768 = b) :
    otherWrite ag w s = none := by
  unfold otherWrite; simp [hw, h]

/-- In a free cycle entering it changes nothing. -/
theorem cycleEnter_of_free {s : State} {b : Nat} (h : cycleOf s b = ⟨none, none⟩) (ag : Agent) : cycleEnter ag b s = s := by
  unfold cycleEnter; simp [h]

@[simp] theorem cycleJoin_stores (ag : Agent) (u : PortUse) (s : State) : (cycleJoin ag u s).stores = s.stores := rfl
@[simp] theorem cycleJoin_bar2 (ag : Agent) (u : PortUse) (s : State) : (cycleJoin ag u s).mem.bar2 = s.mem.bar2 := rfl
@[simp] theorem cycleJoin_stall (ag : Agent) (u : PortUse) (s : State) : (cycleJoin ag u s).mem.stall = s.mem.stall := rfl
@[simp] theorem cycleJoin_poison (ag : Agent) (u : PortUse) (s : State) : (cycleJoin ag u s).mem.poison = s.mem.poison := rfl
@[simp] theorem cycleJoin_single (ag : Agent) (u : PortUse) (s : State) : (cycleJoin ag u s).mem.single = s.mem.single := rfl

/-! ### ECC and lost writes -/

@[simp] theorem eccSingle_stores (w : Nat) (s : State) : (eccSingle w s).stores = s.stores := (raise_stores _ _).trans rfl
@[simp] theorem eccSingle_bar2 (w : Nat) (s : State) : (eccSingle w s).mem.bar2 = s.mem.bar2 := (congrArg MemSt.bar2 (raise_mem _ _)).trans rfl
@[simp] theorem eccSingle_stall (w : Nat) (s : State) : (eccSingle w s).mem.stall = s.mem.stall := (congrArg MemSt.stall (raise_mem _ _)).trans rfl
@[simp] theorem eccPoison_stores (w : Nat) (s : State) : (eccPoison w s).stores = s.stores :=
  (raise_stores _ _).trans (keepIf State.stores rfl rfl)
@[simp] theorem eccPoison_mem (w : Nat) (s : State) : (eccPoison w s).mem = s.mem := (raise_mem _ _).trans (keepIf State.mem rfl rfl)
@[simp] theorem lostWrite_stores (b : Nat) (t : Option Nat) (s : State) : (lostWrite b t s).stores = s.stores := by
  unfold lostWrite
  cases t
  · exact (raise_stores _ _).trans rfl
  · exact (setTh_stores _ _ _).trans ((raise_stores _ _).trans rfl)
@[simp] theorem lostWrite_mem (b : Nat) (t : Option Nat) (s : State) : (lostWrite b t s).mem = s.mem := by
  unfold lostWrite
  cases t
  · exact (raise_mem _ _).trans rfl
  · exact (setTh_mem _ _ _).trans ((raise_mem _ _).trans rfl)

/-! ### Accesses -/

/-- A read changes no byte, and no BAR2 access that waits. -/
theorem shRead_keeps (ag : Agent) (a n : Nat) (s : State) :
    (shRead ag a n s).2.2.stores = s.stores ∧ (shRead ag a n s).2.2.mem.bar2 = s.mem.bar2 := by
  unfold shRead
  dsimp only
  split
  · exact ⟨accessErr_stores _ _ _ _, congrArg MemSt.bar2 (accessErr_mem _ _ _ _)⟩
  · split
    · exact ⟨rfl, rfl⟩
    · split
      · exact ⟨rfl, rfl⟩
      · split
        · simp
        · exact ⟨keepIf State.stores (by simp) (by simp), keepIf (fun s => s.mem.bar2) (by simp) (by simp)⟩

@[simp] theorem cycleOf_bankTouch (b c : Nat) (s : State) : cycleOf (bankTouch b s) c = cycleOf s c := by
  unfold cycleOf; rw [bankTouch_cycle]

/-- A word's bytes and marks as an access keeps them do not change as its bank is touched. -/
theorem portUse_bankTouch (ag : Agent) (w b : Nat) (wr_ at_ : Bool) (s : State) :
    portUse ag w wr_ at_ (bankTouch b s) = portUse ag w wr_ at_ s := by
  unfold portUse; simp

/-- A served bank that is not in FROST, no other access of this memory cycle in it: a read is a plain one. -/
theorem shRead_of_free {s : State} {ag : Agent} {a : Nat} (n : Nat) (hs : bankStatus (bankOf s (a / 0x40000)) ag = memOk)
    (hp : (bankOf s (a / 0x40000)).pwr ≠ 1) (hc : cycleOf s (a / 0x40000) = ⟨none, none⟩) :
    shRead ag a n s =
      let u := portUse ag (a / 8) false false s
      let t := cycleJoin ag u (bankTouch (a / 0x40000) s)
      if a / 8 ∈ s.mem.poison then (memPoisoned, List.replicate n 0, eccPoison (a / 8) t)
      else (memOk, slice (memReadN s.stores.shared (8 * (a / 8)) 8) (a % 8) n, if a / 8 ∈ s.mem.single then eccSingle (a / 8) t else t) := by
  have hw : a / 8 / 32768 = a / 0x40000 := by omega
  have hc' : cycleOf (bankTouch (a / 0x40000) s) (a / 0x40000) = ⟨none, none⟩ := by rw [cycleOf_bankTouch, hc]
  unfold shRead
  simp only [hs]
  rw [if_neg (by decide), if_neg (by simp), if_neg (by simp only [bankAsleep, hs, decide_true, Bool.and_true, decide_eq_true_eq]; exact hp), cycleEnter_of_free hc', otherWrite_of_free hc' _ _ hw]
  simp only [Option.getD_none, portUse_bankTouch]
  simp only [portUse, decide_eq_true_eq]

/-- The same of a write. -/
theorem shWriteMask_of_free {s : State} {ag : Agent} {a : Nat} (d : List (Option Byte))
    (hs : bankStatus (bankOf s (a / 0x40000)) ag = memOk) (hp : (bankOf s (a / 0x40000)).pwr ≠ 1)
    (hc : cycleOf s (a / 0x40000) = ⟨none, none⟩) :
    shWriteMask ag a d s = shPut ag a d false (bankTouch (a / 0x40000) s) := by
  have hw : a / 8 / 32768 = a / 0x40000 := by omega
  have hc' : cycleOf (bankTouch (a / 0x40000) s) (a / 0x40000) = ⟨none, none⟩ := by rw [cycleOf_bankTouch, hc]
  unfold shWriteMask
  simp only [hs]
  rw [if_neg (by decide), if_neg (by simp), if_neg (by simp only [bankAsleep, hs, decide_true, Bool.and_true, decide_eq_true_eq]; exact hp), cycleEnter_of_free hc', otherWrite_of_free hc' _ _ hw]

/-- An access that a bank in FROST would serve waits, and does nothing else. -/
theorem sh_of_asleep {s : State} {ag : Agent} {a : Nat} (hs : bankStatus (bankOf s (a / 0x40000)) ag = memOk)
    (hp : (bankOf s (a / 0x40000)).pwr = 1) (n : Nat) (d : List (Option Byte)) :
    shRead ag a n s = (memOk, List.replicate n 0, stallAt (a / 0x40000) s) ∧
    shWriteMask ag a d s = (memOk, stallAt (a / 0x40000) s) := by
  constructor
  · unfold shRead; simp [hs, bankAsleep, hp]
  · unfold shWriteMask; simp [hs, bankAsleep, hp]

/-- Bytes stored one by one at `a`. -/
theorem memRead_puts (d : List Byte) (a : Nat) (m : List Host.Cell) : ∀ k, k ≤ d.length →
    let r := (List.range k).foldl (fun c i => match (d.map some).getD i none with | some v => memWrite c (a + i) v | none => c) m
    (∀ i, i < k → memRead r (a + i) = byteAt d i) ∧ ∀ x, x < a ∨ a + k ≤ x → memRead r x = memRead m x := by
  intro k
  induction k with
  | zero => intro _; exact ⟨fun i hi => absurd hi (by omega), fun x _ => by simp⟩
  | succ k ih =>
    intro hk
    have ih := ih (by omega)
    simp only at ih
    simp only [List.range_succ, List.foldl_append, List.foldl]
    have e : (d.map some).getD k none = some (byteAt d k) := by
      simp [List.getD, byteAt, List.getElem?_eq_getElem (show k < d.length by omega)]
    rw [e]; simp only
    refine ⟨fun i hi => ?_, fun x hx => ?_⟩
    · by_cases e : i = k
      · subst e; exact nmGet_nmSet_same ..
      · exact (memRead_memWrite_ne _ _ _ _ (by omega)).trans (ih.1 i (by omega))
    · exact (memRead_memWrite_ne _ _ _ _ (by omega)).trans (ih.2 x (by omega))

/-- A write that no collision discards: of a poisoned word a partial one writes nothing; else exactly its bytes are written. -/
theorem shPut_bytes (ag : Agent) (a : Nat) (d : List Byte) (s : State) :
    (d.length ≠ 8 → a / 8 ∈ s.mem.poison →
      (shPut ag a (d.map some) false s).1 = memPoisoned ∧ (shPut ag a (d.map some) false s).2.stores = s.stores) ∧
    ((d.length = 8 ∨ a / 8 ∉ s.mem.poison) →
      let t := (shPut ag a (d.map some) false s).2
      (shPut ag a (d.map some) false s).1 = memOk ∧ (∀ i, i < d.length → memRead t.stores.shared (a + i) = byteAt d i) ∧
      (∀ x, x < a ∨ a + d.length ≤ x → memRead t.stores.shared x = memRead s.stores.shared x) ∧
      t.stores = { s.stores with shared := t.stores.shared }) := by
  have L : (d.map some).length = d.length := by simp
  refine ⟨fun h8 hp => ?_, fun h => ?_⟩
  · unfold shPut
    dsimp only
    rw [if_pos (by simp [portUse, hp, h8])]
    exact ⟨rfl, by simp⟩
  · unfold shPut
    dsimp only
    rw [if_neg (by rcases h with h | h <;> simp [portUse, h])]
    refine ⟨rfl, ?_⟩
    have fin : ∀ u : State, u.stores = s.stores →
        let t := setShared ((List.range (d.map some).length).foldl (fun c i => match (d.map some).getD i none with
          | some v => memWrite c (a + i) v | none => c) u.stores.shared) u
        (∀ i, i < d.length → memRead t.stores.shared (a + i) = byteAt d i) ∧
        (∀ x, x < a ∨ a + d.length ≤ x → memRead t.stores.shared x = memRead s.stores.shared x) ∧
        t.stores = { s.stores with shared := t.stores.shared } := by
      intro u hu
      rw [L]
      have k := memRead_puts d a u.stores.shared d.length (Nat.le_refl _)
      refine ⟨k.1, fun x hx => (k.2 x hx).trans (by rw [hu]), ?_⟩
      simp only [setShared]; rw [hu]
    refine fin _ ?_
    split
    · rfl
    · split
      · simp
      · rfl

theorem memReadN_drop (c : List Host.Cell) : ∀ (k a n : Nat), (memReadN c a n).drop k = memReadN c (a + k) (n - k)
  | 0, _, _ => rfl
  | k + 1, _, 0 => by simp [memReadN]
  | k + 1, a, n + 1 => by
    rw [memReadN, List.drop_succ_cons, memReadN_drop c k (a + 1) n, Nat.add_sub_add_right]
    congr 1; omega

theorem memReadN_take (c : List Host.Cell) : ∀ (k a n : Nat), k ≤ n → (memReadN c a n).take k = memReadN c a k
  | 0, _, _, _ => by simp [memReadN]
  | k + 1, _, 0, h => by omega
  | k + 1, a, n + 1, h => by
    rw [memReadN, List.take_succ_cons, memReadN_take c k (a + 1) n (by omega)]
    rfl

/-- Bytes of a word, as a run of its own. -/
theorem slice_memReadN (c : List Host.Cell) (a n : Nat) (h : a % 8 + n ≤ 8) :
    slice (memReadN c (8 * (a / 8)) 8) (a % 8) n = memReadN c a n := by
  unfold slice
  rw [memReadN_drop, memReadN_take _ _ _ _ (by omega)]
  congr 1; omega

/-- A masked write leaves the BAR2 accesses that wait. -/
theorem shWriteMask_bar2 (ag : Agent) (a : Nat) (d : List (Option Byte)) (s : State) : (shWriteMask ag a d s).2.mem.bar2 = s.mem.bar2 := by
  have put : ∀ s : State, (shPut ag a d false s).2.mem.bar2 = s.mem.bar2 := by
    intro s
    unfold shPut
    dsimp only
    split
    · simp
    · refine keepIf (fun s => s.mem.bar2) (by simp) (keepIf (fun s => s.mem.bar2) (by simp) (by simp))
  unfold shWriteMask
  dsimp only
  split
  · exact congrArg MemSt.bar2 (accessErr_mem _ _ _ _)
  · split
    · rfl
    · split
      · rfl
      · split
        · rw [put]; simp
        · split
          · rw [put]
            simp [wordBack]
          · split
            · simp
            · simp

/-- An act that meets no bank asleep is that act. -/
theorem unlessAsleep_awake {f : State → State} {s : State} (h : (f s).mem.stall = none) : unlessAsleep f s = f s := by
  unfold unlessAsleep; simp only [h]

/-- An act that meets a bank asleep only begins its thaw. -/
theorem unlessAsleep_asleep {f : State → State} {s : State} {b : Nat} (h : (f s).mem.stall = some b) : unlessAsleep f s = bankTouch b s := by
  unfold unlessAsleep; simp only [h]

/-- An act that waits for no one, where no bank is asleep. -/
theorem throughThaw_awake {f : State → State} {s : State} {n : Nat} (h : (f s).mem.stall = none) : throughThaw f (n + 1) s = f s := by
  unfold throughThaw; simp only [h]

/-- Such an act meets a bank asleep: it goes again with that bank active. -/
theorem throughThaw_asleep {f : State → State} {s : State} {n b : Nat} (h : (f s).mem.stall = some b) : throughThaw f (n + 1) s =
    throughThaw f n (setBank b { bankOf (bankTouch b s) b with pwr := 0, thawing := false } (bankTouch b s)) := by
  rw [throughThaw]; simp only [h]

end Sys2Proof.Machine
end

