-- ==== Sys2Proof/Tests/Slice0.lean ====
section
/-! SUPPORT. Witnesses of the statements' hypotheses, well-formedness, and the worked examples of the spec. -/

open Sys2Proof Sys2Proof.Machine

/-- A state in which a command of opcode `op` with words `ws` waits in slot 4 of ring 1, with tag 9. -/
def waitingIn (s0 : State) (op : Byte) (ws : List W32) : State :=
  setRing 1 { Ring.empty with inflight := [⟨4, 9, false, op, ws, false, []⟩] } s0

/-- The same right after reset. -/
def waiting (op : Byte) (ws : List W32) : State := waitingIn State.reset op ws

/-- The waiting command can start. -/
theorem waitingIn_starts (s0 : State) (op : Byte) (ws : List W32) (hr : running s0 = true) (hv : s0.pwr.recovery = false) :
    cmdStarts (waitingIn s0 op ws) 1 4 op ⟨4, 9, false, op, ws, false, []⟩ := by
  refine ⟨hr, ?_, rfl, by simp, fun e => absurd (hv.symm.trans e) (by simp)⟩
  unfold findCmd waitingIn
  rw [ringOf_setRing_same]
  simp

/-- The same right after reset. -/
theorem waiting_starts (op : Byte) (ws : List W32) : cmdStarts (waiting op ws) 1 4 op ⟨4, 9, false, op, ws, false, []⟩ :=
  waitingIn_starts _ _ _ (by decide) (by decide)

theorem wit_StepRunsFrontCommand : ({ State.reset with pending := [.spiReadCompletion] } : State).pending = .spiReadCompletion :: [] := rfl

theorem wit_IdleStepTicks : State.reset.pending = [] ∧ (setPwr .off State.reset).pwr.st = .off := ⟨rfl, rfl⟩

theorem wit_RegisterFileKeepsOthers : (0 : Nat) < 1024 ∧ (47 : Nat) < 1024 ∧ (Reg.GLB_ID, 0, 0) ≠ (Reg.EVT_ROUTE, 47, 0) := by
  try unfold writes
  try unfold reads
  try dsimp only
  constructorm* _ ∧ _ <;> decide

theorem wit_FieldTypesGovernWrites : Reg.EVT_OUT_CTRL.desc.rw.getLsbD 0 = true ∧ Reg.EVT_PEND.desc.w1c.getLsbD 31 = true ∧
    Reg.QM_Q_OP.desc.w1s.getLsbD 0 = true ∧ Reg.GLB_ID.desc.rw.getLsbD 5 = false := by
  try unfold writes
  try unfold reads
  try dsimp only
  constructorm* _ ∧ _ <;> decide

theorem wit_WritesRefusedByAccessRules :
    (Instr.lockForce 9 0 ≠ .wdt3Kick 3) ∧ writeOf (.lockForce 9 0) = some (9, .MBX_LOCK_FORCE, 0, 0) ∧ running State.reset = true ∧
    regBad true 9 .MBX_LOCK_FORCE State.reset = true ∧ running (setPwr .frost State.reset) = false := by
  try unfold writes
  try unfold reads
  try dsimp only
  constructorm* _ ∧ _ <;> decide

theorem wit_EnvelopeRefusesPolicyWrites :
    (Instr.pioGstartLoWrite 3 5 ≠ .wdt3Kick 3) ∧ writeOf (.pioGstartLoWrite 3 5) = some (3, .PIO_GSTART_LO, 0, 5) ∧ running State.reset = true ∧
    regBad true 3 .PIO_GSTART_LO State.reset = false ∧ Reg.PIO_GSTART_LO.desc.banked = false ∧
    (let g := governs .PIO_GSTART_LO (partOf .PIO_GSTART_LO 3 State.reset) 5 State.reset
     envCheck g.1 g.2.1 g.2.2 State.reset = some 1) := by
  try unfold writes
  try unfold reads
  try dsimp only
  constructorm* _ ∧ _ <;> decide

theorem wit_EventRouterLatchesAndDelivers :
    let s := wr .EVT_ROUTE 34 0 0x00403021 State.reset
    (34 < 320) ∧ bit (rd s .EVT_ROUTE 34 0) 12 = true ∧ bit (rd s .EVT_ROUTE 34 0) 22 = true ∧
    fld (rd s .EVT_ROUTE 34 0) 17 13 < 24 ∧ bit (rd s .EVT_ROUTE 34 0) 5 = true ∧ bit (rd s .EVT_ROUTE 34 0) 23 = false ∧
    bit (rd State.reset .EVT_ROUTE 34 0) 12 = false ∧ bit (rd State.reset .EVT_ROUTE 34 0) 22 = false := by
  try unfold writes
  try unfold reads
  try dsimp only
  constructorm* _ ∧ _ <;> decide

theorem wit_RingRegistersControlTheRing :
    writes 0 .HIF_SQ_TAIL State.reset ∧ writes 1 .HIF_RING_CTRL State.reset ∧ writes 2 .HIF_CQ_HEAD State.reset ∧
    writes 0 .HIF_INBAND_CTRL State.reset ∧ reads 6 .EVT_ACCERR_ID State.reset ∧ bit 1 0 = true ∧ bit 0 0 = false ∧
    (ringOf (setRing 0 { Ring.empty with held := [⟨0, 0, 0, 0, 0, []⟩] } State.reset) 0).held ≠ [] ∧ (ringOf State.reset 0).held = [] ∧
    (let s := setRing 0 { Ring.empty with held := [⟨0, 0, 0, 0, 0, []⟩] } (wr .HIF_RING_CTRL 0 0 1 State.reset)
     ringLive s 0 = true ∧ cqFull s 0 = false ∧ (ringOf s 0).held = [⟨0, 0, 0, 0, 0, []⟩]) := by
  try unfold writes
  try unfold reads
  try dsimp only
  constructorm* _ ∧ _ <;> decide

/-- Ring 0 enabled with one command available. -/
def oneFetch : State := wr .HIF_SQ_TAIL 0 0 1 (wr .HIF_RING_CTRL 0 0 1 State.reset)

theorem wit_FetchedCommandsEnterTheRing :
    canFetch oneFetch 0 = true ∧ canFetch State.reset 0 = false ∧
    tagOut (setRing 0 { Ring.empty with fetch := 1 } oneFetch) 0 7 = false ∧ (0x20 : Nat) ∈ opcodes ∧ (0x21 + 1 : Nat) ∉ opcodes ∧
    tagOut (setRing 0 { Ring.empty with inflight := [⟨3, 7, false, 0, [], true, []⟩] } oneFetch) 0 7 = true ∧
    running State.reset = true ∧ dieUsed State.reset 8 < 15 ∧ tagOut State.reset 8 3 = false := by
  try unfold writes
  try unfold reads
  try dsimp only
  constructorm* _ ∧ _ <;> decide

theorem wit_CompletionsAreNeverOverwritten :
    ringLive State.reset 0 = false ∧
    cqFull (wr .HIF_CQ_HEAD 3 0 1 (wr .HIF_RING_CTRL 3 0 1 State.reset)) 3 = true := by
  try unfold writes
  try unfold reads
  try dsimp only
  constructorm* _ ∧ _ <;> decide

theorem wit_CommandsStartOnceAndInFenceOrder :
    ringCommand (.memTest 2 5) = some (2, 5, 0x21) ∧ findCmd State.reset 2 5 = none ∧
    findCmd (setRing 2 { Ring.empty with inflight := [⟨5, 0, true, 0x21, [], true, []⟩] } State.reset) 2 5 = none ∧
    (let s := setRing 2 { Ring.empty with inflight := [⟨4, 1, false, 0x20, [], true, []⟩, ⟨5, 0, true, 0x21, [], false, []⟩] } State.reset
     findCmd s 2 5 = some ⟨5, 0, true, 0x21, [], false, []⟩ ∧ (((ringOf s 2).inflight.head?.map (·.tag)) ≠ some 0)) := by
  try unfold writes
  try unfold reads
  try dsimp only
  constructorm* _ ∧ _ <;> decide

theorem wit_NopAndOnDieCompletions :
    cmdStarts (waiting 0 []) 1 4 0 ⟨4, 9, false, 0, [], false, []⟩ ∧ running State.reset = true ∧
    (ringOf (setRing 8 { Ring.empty with unread := [⟨0, 0, 0, 0, 0, []⟩] } State.reset) 8).unread = ⟨0, 0, 0, 0, 0, []⟩ :: [] ∧
    (ringOf State.reset 8).unread = [] := by
  refine ⟨⟨by decide, by decide, rfl, by simp, by decide⟩, by decide, by decide, by decide⟩


/-- Twelve address bytes, EtherType 0x88B5, sub-type 0x5A01, count 1. -/
def inbandBytes : List Byte := List.replicate 12 0 ++ [0x88, 0xB5, 0x5A, 0x01, 1, 0, 0, 0, 0, 9] ++ List.replicate 72 0

theorem wit_InbandFramesAreAcceptedInSequence :
    running State.reset = true ∧ isInband inbandBytes = true ∧ inbandOk State.reset 3 inbandBytes = false ∧
    byteAt inbandBytes (inbandTypeAt inbandBytes + 4) = 1 := by
  try unfold writes
  try unfold reads
  try dsimp only
  constructorm* _ ∧ _ <;> decide

theorem wit_BusAccessesByOffset :
    running State.reset = true ∧ (regAt (regOff .GLB_ID 0)).isSome = true ∧ regOff .GLB_ID 0 % 4 = 0 ∧ regAt 0x30000 = none ∧
    regBad false 2 .GLB_ID State.reset = false ∧ regBad false 9 .GLB_ID State.reset = true ∧
    0x2000000 % 8 + 8 ≤ 8 ∧ 0x2000000 + 8 ≤ bar2End ∧ bar2End ≤ 0x6000000 ∧ State.reset.mem.bar2 = [] ∧ State.reset.mem.stall = none ∧
    (shRead (.bar2 0) 0x2000000 8 (setBank 128 { bankReset 128 with owner := 3 } State.reset)).2.2.mem.stall = none ∧
    (shWriteMask (.bar2 0) 0x2000000 [some 1] (setBank 128 { bankReset 128 with owner := 3, pwr := 1 } State.reset)).2.mem.stall = some 128 := by
  try unfold writes
  try unfold reads
  try dsimp only
  constructorm* _ ∧ _ <;> decide

/-- CFG_STAGE of one entry of table 0x01, and operation 1. -/
def stageWords (op : W32) : List W32 := [0x10, 0, 1 + op * 256, 0, 1, 0, 0x1000, 0]

theorem wit_ConfigurationCommands :
    cmdStarts (waiting 0x10 (stageWords 0)) 1 4 0x10 ⟨4, 9, false, 0x10, stageWords 0, false, []⟩ ∧
    cmdByte (stageWords 0) 9 ≠ 1 ∧ stageOk (stageWords 0) = true ∧ stageOk [0x10] = false ∧ cmdByte (stageWords 1) 9 = 1 ∧
    inRestart (waiting 0x10 (stageWords 0)) = false ∧ stageBusy 1 (waiting 0x10 (stageWords 0)) = false ∧
    stageBusy 1 { State.reset with cfg := { State.reset.cfg with stager := some 0 } } = false ∧
    stageBusy 8 { State.reset with cfg := { State.reset.cfg with stager := some 0 } } = true ∧
    inRestart { State.reset with pwr := { State.reset.pwr with restarting := true } } = true ∧
    cmdStarts (waiting 0x11 []) 1 4 0x11 ⟨4, 9, false, 0x11, [], false, []⟩ ∧
    setCheck (begunCmd 1 9 (waiting 0x11 [])) State.reset.cfg.shadow = none ∧
    cmdStarts (waitingIn { State.reset with cfg := { State.reset.cfg with check := some 0 } } 0x12 [0x12, 0, 1, 0, 20000, 0]) 1 4 0x12
      ⟨4, 9, false, 0x12, [0x12, 0, 1, 0, 20000, 0], false, []⟩ ∧
    cmdByte [0x12, 0, 1, 0, 20000, 0] 8 = 1 ∧ 0 + 20000 ≤ cmd64 [0x12, 0, 1, 0, 20000, 0] 16 ∧
    cmdStarts (waitingIn { State.reset with cfg := { State.reset.cfg with armed := some ⟨some ⟨0, 0, 0, 0x12⟩, some 5, none, none, false⟩ } }
      0x13 []) 1 4 0x13 ⟨4, 9, false, 0x13, [], false, []⟩ := by
  refine ⟨waiting_starts _ _, by decide, by decide, by decide, by decide, by decide, by decide, by decide, by decide, by decide,
    waiting_starts _ _, by decide, waitingIn_starts _ _ _ (by decide) (by decide), by decide, by decide,
    waitingIn_starts _ _ _ (by decide) (by decide)⟩

theorem wit_SolsticeSwitchesTheSets :
    let a : Armed := ⟨some ⟨0, 0, 0, 0x12⟩, some 0, none, none, false⟩
    let s : State := { State.reset with cfg := { State.reset.cfg with armed := some a } }
    running s = true ∧ s.cfg.armed = some a ∧ commitDue s a = true ∧ inRestart s = false ∧ commitDue s { a with cmd := none } = true ∧
    inRestart { s with pwr := { s.pwr with restarting := true } } = true ∧
    commitDue s { a with instant := some 8 } = false ∧
    ({ State.reset with evt := { State.reset.evt with msixPend := [(34, 3)] } } : State).evt.msixPend = (34, 3) :: [] ∧
    bit 0 3 = false := by
  try unfold writes
  try unfold reads
  try dsimp only
  constructorm* _ ∧ _ <;> decide

theorem wit_TimeAdjustments_requests :
    let step : List W32 := [0x60, 0, 100, 0, 1, 1000]
    let slew : List W32 := [0x60, 0, 100, 0, 2, 1000]
    cmdStarts (waiting 0x60 step) 1 4 0x60 ⟨4, 9, false, 0x60, step, false, []⟩ ∧ cmdByte step 16 = 1 ∧
    starOnRunning (waiting 0x60 step) = false ∧ adjBusy (waiting 0x60 step) = false ∧ cmdByte slew 16 = 2 ∧
    slewTooFast 100 1000 = false ∧ slewTooFast 101 1000 = true ∧ cmdByte [0x60] 16 ∉ [1, 2, 3] ∧
    adjBusy (setTime { State.reset.time with step := some (.regs, 5) } State.reset) = true ∧
    writes 0 .TIME_ADJ_CTRL State.reset ∧ adjBusy (plainWrite .TIME_ADJ_CTRL 0 0 1 State.reset) = false := by
  refine ⟨waiting_starts _ _, ?_⟩
  try unfold writes
  try unfold reads
  try dsimp only
  constructorm* _ ∧ _ <;> decide

theorem wit_TimeAdjustments_acts :
    (setTime { State.reset.time with step := some (.regs, -5) } State.reset).time.step = some (.regs, -5) ∧
    (let s := setTime { State.reset.time with slew := some ⟨.regs, 100, 250000, 250000⟩ } State.reset;
      s.time.cancelled = [] ∧ s.time.slew = some ⟨.regs, 100, 250000, 250000⟩) ∧
    (setTime { State.reset.time with cancelled := [(⟨.regs, 100, 250000, 7⟩, .regs)] } State.reset).time.cancelled =
      [(⟨.regs, 100, 250000, 7⟩, .regs)] ∧
    writes 1 .TIME_INCR_FRAC State.reset ∧ writes 2 .TIME_INCR_NS State.reset ∧
    fld 4 3 0 * 2 ^ 32 + (rd State.reset .TIME_INCR_FRAC 0 0).toNat = 0x400000000 ∧
    fld 3 3 0 * 2 ^ 32 + (rd State.reset .TIME_INCR_FRAC 0 0).toNat < 0x3FF800000 := by
  try unfold writes
  try unfold reads
  try dsimp only
  constructorm* _ ∧ _ <;> decide

theorem wit_TimePinsStampsAndAlarms :
    running State.reset = true ∧ reads 3 .TIME_NOW_LO State.reset ∧ reads 0 .TIME_RXS_W0 State.reset ∧ reads 0 .TIME_TXS_W0 State.reset ∧
    firstStamp State.reset.time.txs = none ∧ firstStamp [(3, [⟨1, 2, 0, 4⟩])] = some (3, ⟨1, 2, 0, 4⟩) ∧
    bit (rd (wr .TIME_CTRL 0 0 7 State.reset) .TIME_CTRL 0 0) 2 = true ∧ guardPassed none 10 0 = true ∧
    guardPassed (some 5) 10 6 = false ∧
    ppsMissing (setTime { State.reset.time with now := 1100000000 } (wr .TIME_CTRL 0 0 7 State.reset)) = true ∧
    ppsOutDue (setTime { State.reset.time with now := 1000000000 } (wr .TIME_CTRL 0 0 7 State.reset)) = true ∧
    nmFind [(2, (0 : W64))] 2 = some 0 ∧
    (let s := setTime { State.reset.time with now := 999999996, ppsOutEnd := some 1000000100 } (wr .TIME_CTRL 0 0 7 State.reset)
     now s < 1000000100 ∧ ppsCount s (now s) < ppsCount s (now s + s.time.incr.toNat / 2 ^ 32 + 1)) ∧
    writes 0 .TIME_ALARM_CTRL State.reset ∧ alarmOf (setAlarm 1 (some 9) State.reset) 1 = some 9 := by
  try unfold writes
  try unfold reads
  try dsimp only
  constructorm* _ ∧ _ <;> decide

theorem wit_BankAccessesAreChecked :
    bankStatus (bankOf State.reset 0) .fabric = memOk ∧ bankStatus (bankOf State.reset 0) (.bar2 0) = memAccess ∧
    (bankOf State.reset 0).pwr ≠ 1 ∧ cycleOf State.reset 0 = ⟨none, none⟩ ∧ (0 / 8) ∉ State.reset.mem.poison ∧
    (let s : State := setBank 0 { bankReset 0 with pwr := 1 } State.reset
     bankStatus (bankOf s 0) .fabric = memOk ∧ (bankOf s 0).pwr = 1) ∧
    (let u : PortUse := ⟨0, true, false, [1, 2, 3, 4, 5, 6, 7, 8], false, false, none⟩
     let s : State := setCycle 0 ⟨some u, none⟩ (setBank 0 { bankReset 0 with owner := 3 } State.reset)
     bankStatus (bankOf s 0) (.bar2 0) = memOk ∧ cycleOf s 0 = (if onPortB (.bar2 0) then ⟨some u, none⟩ else ⟨none, some u⟩)) ∧
    (0 / 8) ∈ ({ State.reset with mem := { State.reset.mem with poison := [0] } } : State).mem.poison ∧ ([1, 2] : List Byte).length ≠ 8 := by
  try unfold writes
  try unfold reads
  try dsimp only
  constructorm* _ ∧ _ <;> decide

theorem wit_HandoverRequests :
    let host : State := setBank 0 { bankReset 0 with owner := 3 } State.reset
    let w : List W32 := [0x20, 0, 1, 0, 0, 0, 0, 0, 0, 0, 0, 0, 0, 0, 0]
    running host = true ∧ regBad true 0 .MEM_OWN host = false ∧ bit 0x80000000 31 = true ∧ chanOf .MEM_OWN 0 host = 0 ∧
    fld (rd host .MEM_OWN_STAT 0 0) 1 0 = 0 ∧ (bankOf host 0).owner = 3 ∧
    handoverReason 0 [0] 0 0 0 false host 0 = none ∧ handoverReason 0 [0] 9 0 0 false host 0 = some 7 ∧ (bankOf State.reset 0).owner = 1 ∧
    regBad true 3 .MEM_OWN State.reset = false ∧ envCheck 9 true true State.reset = some 1 ∧
    cmdStarts (waiting 0x20 w) 1 4 0x20 ⟨4, 9, false, 0x20, w, false, []⟩ ∧ maskBanks w = [0] ∧ maskBanks [0x20] = [] := by
  refine ⟨by decide, by decide, by decide, by decide, by decide, by decide, by decide, by decide, by decide, by decide, by decide,
    waiting_starts _ _, by decide, by decide⟩


theorem wit_HandoversComplete :
    (bankOf State.reset 5).pend = none ∧
    (bankOf (setBank 5 { bankReset 5 with pend := some ⟨3, 0, 0, true, false, 0⟩ } State.reset) 5).pend = some ⟨3, 0, 0, true, false, 0⟩ ∧
    (bankOf (setBank 5 { bankReset 5 with pend := some ⟨3, 0, 0, true, true, 40⟩ } State.reset) 5).pend = some ⟨3, 0, 0, true, true, 40⟩ := by
  try unfold writes
  try unfold reads
  try dsimp only
  constructorm* _ ∧ _ <;> decide

set_option maxRecDepth 4000 in
theorem wit_BankTestsPowerAndQuota :
    let w : List W32 := [0x21, 0, 1, 0, 0, 0, 0, 0, 0, 0, 0, 0, 0, 0, 2]
    let t : MemTest := ⟨some ⟨0, 0, 0, 0x21⟩, false, [0], 0, 0, 0⟩
    let s : State := setBank 0 { bankReset 0 with underTest := true } { State.reset with mem := { State.reset.mem with test := some t } }
    cmdStarts (waiting 0x21 w) 1 4 0x21 ⟨4, 9, false, 0x21, w, false, []⟩ ∧ maskBanks w = [0] ∧ cmdByte w 56 = 2 ∧
    State.reset.mem.test = none ∧ testReason 0 false 0 (begunCmd 1 9 (waiting 0x21 w)) = none ∧
    testReason 0 true 0 (begunCmd 1 9 (waiting 0x21 w)) = some 2 ∧
    s.mem.test = some t ∧ 0 ∈ t.left ∧ (bankOf s 0).underTest = true ∧ t.left.filter (· ≠ 0) = [] ∧
    (bankOf (setBank 3 { bankReset 3 with thawing := true } State.reset) 3).thawing = true ∧
    frostIdleDue 0 { wr .MEM_PWR 0 0 0x101 State.reset with ticks := 250 } = true ∧
    reads 0 .MEM_ECC_UE State.reset ∧ regBad true 0 .MEM_PWR State.reset = false ∧ pwrRefused 0 0 State.reset = false ∧
    pwrRefused 0 3 State.reset = true ∧ writes 0 .MEM_QUOTA State.reset ∧ 5 < banksOf State.reset 1 := by
  refine ⟨waiting_starts _ _, ?_⟩
  try unfold writes
  try unfold reads
  try dsimp only
  constructorm* _ ∧ _ <;> decide

theorem wit_EnqueuesAreCheckedInOrder :
    let s := wr .QM_Q_LIMIT 0 5 4 (wr .QM_Q_STAT 0 5 2 (wr .QM_Q_BIND 0 5 0x0809 State.reset))
    let d : BitVec 128 := 0x0000000000000000C0400000 <<< 32
    boundCode (qProducer s 5) = true ∧ qProducer s 5 = 9 ∧ (queueOf s 5).openBy = none ∧ descBad d = false ∧ dFirst d = true ∧
    dLast d = true ∧ isOn s .QM_Q_STAT 5 = true ∧ (queueOf s 5).descs.length < qLimit s 5 ∧
    boundCode 0x24 = false := by
  try unfold writes
  try unfold reads
  try dsimp only
  constructorm* _ ∧ _ <;> decide

theorem wit_QueueAccesses :
    let s := setQueue 5 { queueEmpty with descs := [1], vis := 1, pend := [(0, 0)] } (wr .QM_Q_BIND 0 5 0x0809 State.reset)
    let f := wr .QM_Q_CTRL 0 5 3 s
    writes 0 .QM_Q_E s ∧ reads 0 .QM_Q_DEQ s ∧ writes 0 .QM_Q_OP s ∧ reads 3 .QM_NOTICE_NEXT s ∧ reads 0 .QM_NGRP_NEXT s ∧
    (4 : Fin 97).val ≠ 96 ∧ coalDue (setTime { State.reset.time with now := 10000000 } s) 5 = true ∧ boundCode (qConsumer s 5) = true ∧
    qConsumer s 5 = 8 ∧ qStatBit s 5 5 = false ∧ (queueOf s 5).read < (queueOf s 5).vis ∧ qFlushMode s 5 = false ∧
    qFlushMode f 5 = true ∧ qConsumer f 5 = 8 := by
  try unfold writes
  try unfold reads
  try dsimp only
  constructorm* _ ∧ _ <;> decide

theorem wit_QueueControl :
    let on := wr .QM_Q_STAT 0 0 2 State.reset
    writes 0 .QM_Q_CTRL State.reset ∧ isOff State.reset .QM_Q_STAT 0 = true ∧ bit 3 0 = true ∧
    qEnableBad (wr .QM_Q_CTRL 0 0 3 (wr .QM_Q_BIND 0 0 0x0809 State.reset)) 0 = false ∧
    qEnableBad (wr .QM_Q_CTRL 0 0 1 (wr .QM_Q_BIND 0 0 0x7F State.reset)) 0 = true ∧ isOff on .QM_Q_STAT 0 = false ∧
    (rd on .QM_Q_CTRL 0 0 ^^^ 0) &&& 0xF6 = 0 ∧ fbState (fbOf (wr .QM_Q_STAT 0 7 1 State.reset) .QM_Q_STAT 7) = 1 ∧
    writes 0 .QM_Q_BIND on ∧ (rd on .QM_Q_BIND 0 0 ^^^ 9) &&& 0x7F7F ≠ 0 ∧
    writes 0 .QM_Q_LIMIT State.reset := by
  try unfold writes
  try unfold reads
  try dsimp only
  constructorm* _ ∧ _ <;> decide

/-- An Ethernet frame at port 0. -/
def frameIn : FabIn := { port := 0, queue := none, kind := .eth, bytes := List.replicate 60 0, known := none, stamp := 0 }

theorem wit_FramesEnterTheFabric :
    let s := setActive 7 6145 [1, 0x80000000] State.reset
    let up := wr .ETH_STAT 0 0 0x12 State.reset
    running s = true ∧ frameIn.queue = none ∧ frameIn.port.val < 16 ∧ redMode (cutArrivals 0 up) 0 frameIn.bytes = 0 ∧
    receives State.reset 0 0 = false ∧ receives up 0 0 = true ∧ macControl frameIn.bytes = false ∧ isInband frameIn.bytes = false ∧
    State.reset.mem.stall = none ∧
    vlanMember State.reset 1 0 = false ∧ vlanMember s 1 0 = true ∧ portRefuses State.reset 0 frameIn.bytes = some .ETH_RX_VLAN ∧
    portRefuses s 0 frameIn.bytes = none ∧
    ethVid frameIn.bytes (portVid s 0) = 1 ∧ ethFiltered s 0 frameIn.bytes = false ∧
    ethFiltered s 0 [0, 0, 0, 0, 0, 0, 1] = true ∧ classify s (clsKey 0 .eth frameIn.bytes 0) = none ∧
    classify (setActive 1 0 [0, 0, 0, 0, 0, 0, 0, 0, 0, 0x80000000] s) (clsKey 0 .eth frameIn.bytes 0) =
      some [0, 0, 0, 0, 0, 0, 0, 0, 0, 0x80000000] ∧
    (filterMeter frameIn [0, 0, 0, 0, 0, 0, 0, 0, 0, 0x80000000] 0 s).1 = some 3 ∧
    qConsumer (wr .QM_Q_BIND 0 5 0x5408 State.reset) 5 = 0x54 := by
  try unfold writes
  try unfold reads
  try dsimp only
  constructorm* _ ∧ _ <;> decide

theorem wit_AdmissionToEgressQueues :
    portUp State.reset 0 = false ∧ eqRed State.reset 136 = none ∧ (0 : Nat) < fld 1 20 0 * 65536 ∧
    eqRed (setActive 5 0 [0, 0, 0xC0000000, 0] State.reset) 0 = eqRed (setActive 5 0 [0, 0, 0xC0000000, 0] State.reset) 0 ∧
    running State.reset = true := by
  try unfold writes
  try unfold reads
  try dsimp only
  constructorm* _ ∧ _ <;> decide

/-- A frame in the buffer, its last cell still to come. -/
def flightIn : Flight :=
  { id := 7, inPort := 0, kind := .eth, bytes := [], stamp := 0, tc := 0, colour := 3, ptag := 0, vid := 0, untag := 0, dests := [.eth 1], cells := [],
    multi := true, whole := false, bad := false, badAt := [], full := [], cut := [], red := [], asIs := false, born := 0 }

/-- The same frame on its way in. -/
def arrivalIn : Arrival :=
  { id := 7, port := 0, kind := .eth, head := [], dropped := none, onward := false, tc := 0, colour := 3, filter := none, meter := none }

theorem wit_FramesLeaveTheFabric :
    let s := setFab { State.reset.fab with flights := [flightIn], arrivals := [arrivalIn] } State.reset
    let aged := setTime { State.reset.time with now := 1000000000000 } (setFab { State.reset.fab with flights := [{ flightIn with whole := true }] } State.reset)
    let c : Cell := ⟨7, .eth 1, 0, 0, 1, 24, 0, true⟩
    let cored := setFab { State.reset.fab with core := { State.reset.fab.core with inputs := [c] } } State.reset
    running s = true ∧ s.fab.arrivals.find? (fun a => a.id = 7) = some arrivalIn ∧ arrivalIn.dropped = none ∧ arrivalIn.filter = none ∧
    sfExceeds 64 100 = true ∧ sfExceeds 64 60 = false ∧
    (cored.fab.core.middle.map (·.2) ++ cored.fab.core.inputs).find? (fun c => c.flight = 7) = some c ∧
    nmGet 0 cored.fab.core.released c.stream = c.num ∧ nmGet 0 cored.fab.core.released c.stream ≠ 1 ∧
    aged.fab.flights.find? (fun f => f.id = 7 && mcAged aged f) = some { flightIn with whole := true } ∧
    fld (rd (wr .FAB_AGE_TIME 0 0 0 State.reset) .FAB_AGE_TIME 0 0) 15 0 = 0 ∧ inRestart State.reset = false ∧
    fld (rd (wr .FAB_AGE_TIME 0 0 9 State.reset) .FAB_AGE_TIME 0 0) 15 0 ≠ 0 ∧
    (setActive 6 3 [1, 0, 0x10000, 0x80000000] State.reset).cfg.active = [(tblKey 6 3, [1, 0, 0x10000, 0x80000000])] := by
  try unfold writes
  try unfold reads
  try dsimp only
  constructorm* _ ∧ _ <;> decide

theorem wit_ActiveSetWindows :
    let s := wr .FAB_ACT_SEL 0 3 0x40000 State.reset
    writes 3 .FAB_ACT_CTRL s ∧ writes 0 .CAN_ACT_CTRL State.reset ∧ actInRange fabWin (actSel fabWin 3 s).1 (actSel fabWin 3 s).2 = true ∧
    actInRange fabWin 8 0 = false ∧ inRestart s = false ∧ envCheck 1 true true s = some 1 := by
  try unfold writes
  try unfold reads
  try dsimp only
  constructorm* _ ∧ _ <;> decide

theorem wit_EthernetPortControl :
    writes 0 .ETH_MODE State.reset ∧ isOff State.reset .ETH_STAT 0 = true ∧ writes 0 .ETH_CTRL State.reset ∧
    writes 0 .ETH_TX_THR State.reset ∧ writes 0 .ETH_MDIO_CMD State.reset ∧ bit 0x80000000 31 = true ∧ fld 0x80000000 29 28 = 0 ∧
    bit 0x90000000 28 = true ∧ fld 0xA0000000 29 28 = 2 ∧ reads 0 (c64Reg 0).1 State.reset ∧ reads 0 (c64Reg 3).1 State.reset ∧
    isOff (wr .ETH_STAT 0 0 2 State.reset) .ETH_STAT 0 = false ∧ rd (wr .ETH_STAT 0 0 2 State.reset) .ETH_MODE 0 0 ≠ 1 ∧
    fbState (fbOf (wr .ETH_STAT 0 2 3 State.reset) .ETH_STAT 2) = 3 ∧ (portOf State.reset 2).leaving = none ∧
    (portOf State.reset 2).remainder = none ∧ arrivalsAt State.reset 2 = [] ∧
    bit (rd (wr .ETH_MDIO_CMD 1 0 0x90000000 State.reset) .ETH_MDIO_CMD 1 0) 31 = true := by
  try unfold writes
  try unfold reads
  try dsimp only
  constructorm* _ ∧ _ <;> decide

/-- Port 0 ON with its link up. -/
def portIsUp : State := wr .ETH_STAT 0 0 0x12 State.reset

theorem wit_EthernetReceive :
    running portIsUp = true ∧ portUp portIsUp 0 = true ∧ receives portIsUp 0 0 = true ∧ bit (rd (wr .ETH_PREEMPT_CFG 0 0 1 portIsUp) .ETH_PREEMPT_CFG 0 0) 0 = true ∧
    rxLen portIsUp 0 (List.replicate 60 0) = 64 ∧ 64 ≤ maxFrm portIsUp 0 ∧ rxLen portIsUp 0 [] < 64 ∧
    bit (rd portIsUp .ETH_MACSEC_CTRL 0 0) 1 = false ∧
    nmFind (portOf (setPort 0 { portReset with pausedUntil := [(3, 0)] } portIsUp) 0).pausedUntil 3 = some 0 ∧
    (nmGet 0 (portOf portIsUp 0).pfcNext 3).toNat ≤ now portIsUp ∧ (portOf portIsUp 0).control = [] ∧
    (∀ c : Fin 8, (nmGet 0 portIsUp.fab.pauseReq 0).getLsbD c = false) ∧
    (let r := setFab { portIsUp.fab with pauseReq := [(0, 8)] } portIsUp
     (∀ d : Fin 8, d ≠ 3 → (nmGet 0 r.fab.pauseReq 0).getLsbD d = false) ∧ (nmGet 0 r.fab.pauseReq 0).getLsbD 3 = true) ∧
    macControl [] = false ∧ macControl ([1, 0x80, 0xC2, 0, 0, 1] ++ List.replicate 6 0 ++ [0x88, 0x08]) = false ∧
    arrivalOf portIsUp 0 [] = none ∧ portRefuses portIsUp 0 [] = some .ETH_RX_VLAN ∧ redMode portIsUp 0 [] = 0 ∧ isInband [] = false ∧ verifying (wr .ETH_PREEMPT_STAT 0 0 2 portIsUp) 0 = true ∧
    fld (rd (wr .ETH_PREEMPT_STAT 0 0 2 portIsUp) .ETH_PREEMPT_STAT 0 0) 2 0 = 2 := by
  try unfold writes
  try unfold reads
  try dsimp only
  constructorm* _ ∧ _ <;> decide

theorem wit_EthernetTransmit :
    let x : Leaving := ⟨7, 0, 0, false, 0, false, [], 0⟩
    let s := setPort 0 { portReset with leaving := some x } portIsUp
    let eee := wr .ETH_EEE_CFG 0 0 1 (wr .ETH_MODE 0 0 2 (setTime { State.reset.time with now := 1000000 } portIsUp))
    let lpi := setPort 0 { portReset with lpi := true, leaving := some x } portIsUp
    let c := setPort 12 { portReset with leaving := some x } State.reset
    running s = true ∧ bit (rd s .ETH_STAT 0 0) 4 = true ∧ isOn s .ETH_STAT 0 = true ∧
    (portOf (fallBack 0 portIsUp) 0).leaving = none ∧ (portOf s 0).leaving = some x ∧ preemptAt s 0 x = none ∧
    (let y : Leaving := ⟨7, 0, 0, true, 0, false, List.replicate 124 0, 0⟩
     let h := wr .ETH_PREEMPT_CFG 0 0 1 (wr .ETH_PREEMPT_STAT 0 0 8 { (setPort 0 { portReset with hold := true, leaving := some y } portIsUp) with ticks := 14 })
     canPreempt h 0 y (sentNow h 0 y) = true ∧ closePoint h 0 y = none ∧ (portOf h 0).hold = true) ∧
    s.fab.flights.any (fun f => decide (f.id = x.flight) && decide (Dest.eth 0 ∈ f.dests) && decide (Dest.eth 0 ∉ f.full)) = false ∧ fld (rd s .ETH_TX_THR 0 0) 13 0 ≠ 0x3FFF ∧
    verifying (wr .ETH_PREEMPT_STAT 0 0 2 portIsUp) 0 = true ∧ (portOf portIsUp 0).verifyNext.toNat ≤ now portIsUp ∧
    (portOf portIsUp 0).verifySent < 3 ∧ portUp eee 0 = true ∧ eeeOn eee 0 = true ∧ (portOf eee 0).lpi = false ∧ portEmpty eee 0 = true ∧
    wakeAhead eee 0 0 = false ∧ elapsed eee (portOf eee 0).emptySince 1000 = true ∧
    (portOf lpi 0).lpi = true ∧ portEmpty lpi 0 = false ∧ (portOf c 12).leaving = some x ∧
    fld (rd (wr .ETH_PLCA_CFG 0 12 255 c) .ETH_PLCA_CFG 0 12) 7 0 = 255 := by
  try unfold writes
  try unfold reads
  unfold canPreempt closePoint
  dsimp only
  rw [List.length_replicate]
  constructorm* _ ∧ _ <;> decide

theorem wit_CanChannelControl :
    let on := wr .CAN_STAT 0 0 2 State.reset
    let off2 := wr .CAN_STAT 0 0 0x22 State.reset
    let logd := setCh 0 { chanReset with log := [(false, 0, 5, 9)], hpb := [([], 3)] } State.reset
    writes 0 .CAN_CTRL State.reset ∧ isOff State.reset .CAN_STAT 0 = true ∧ errOf State.reset 0 ≠ 2 ∧
    errOf (fbWrite .CAN_STAT 0 true (wr .CAN_CTRL 0 0 1 State.reset)) 0 ≠ 2 ∧ isOff on .CAN_STAT 0 = false ∧
    (rd on .CAN_CTRL 0 0 ^^^ 0xF8) &&& 0xF8 ≠ 0 ∧ bit 0x201 9 = true ∧
    errOf (fbWrite .CAN_STAT 0 (bit 0x201 0) (wr .CAN_CTRL 0 0 ((0x201 &&& 0x1D07) ||| (rd off2 .CAN_CTRL 0 0 &&& 0xF8)) off2)) 0 = 2 ∧
    (rd off2 .CAN_CTRL 0 0 ^^^ 0x201) &&& 0xF8 = 0 ∧ errOf (wr .CAN_STAT 0 4 0x32 State.reset) 4 = 3 ∧
    fbState (fbOf (wr .CAN_STAT 0 4 1 State.reset) .CAN_STAT 4) = 1 ∧ fbState (fbOf (wr .CAN_STAT 0 4 3 State.reset) .CAN_STAT 4) = 3 ∧
    (chOf State.reset 4).attempt = none ∧ reads 0 .CAN_TX_LOG logd ∧ reads 0 .CAN_HPB_POP logd ∧
    (chOf logd 0).log = [(false, 0, 5, 9)] ∧ (chOf logd 0).hpb = [([], 3)] ∧ (chOf State.reset 0).log = [] := by
  try unfold writes
  try unfold reads
  try dsimp only
  constructorm* _ ∧ _ <;> decide

/-- A classical frame with no data. -/
def canRec : List Byte := List.replicate 16 0

theorem wit_CanTransmission :
    let e : CanTx := ⟨canRec, 5, 0, 0, 0, 7⟩
    let on := wr .CAN_STAT 0 0 2 State.reset
    let q := setCh 0 { chanReset with fifo := [e] } on
    let a := setCh 0 { chanReset with fifo := [e], attempt := some ⟨false, 9, false, false, []⟩ } on
    running on = true ∧ recBad on 0 canRec = false ∧ recBad on 0 [0, 0, 0, 0, 0x60] = true ∧ isOn on .CAN_STAT 0 = true ∧
    isOn State.reset .CAN_STAT 0 = false ∧ busOf on 0 = 0 ∧ busOf (wr .CAN_STAT 0 0 0x82 State.reset) 0 = 2 ∧
    (chOf on 0).fifo.length < 32 ∧ (chOf on 0).hold.length < holdMax on 0 ∧ canStart q 0 = true ∧ (chOf q 0).sched = none ∧
    (chOf q 0).fifo = [e] ∧ canStart (setCh 0 { chanReset with sched := some e } on) 0 = true ∧
    (chOf a 0).attempt = some ⟨false, 9, false, false, []⟩ ∧ (chOf a 0).fifo = [e] ∧
    (chOf (setCh 0 { chanReset with release := some ([], 0) } on) 0).release = some ([], 0) := by
  try unfold writes
  try unfold reads
  try dsimp only
  constructorm* _ ∧ _ <;> decide

theorem wit_CanReception :
    let on := wr .CAN_STAT 0 0 2 State.reset
    let el := setActive 9 0 [0x80000000, 0, 1] on
    let rt := setActive 8 0 [0x80000000, 0, 1, 0, 0, 0] on
    running on = true ∧ canHears on 0 = true ∧ canHears State.reset 0 = false ∧ canFmt canRec = 0 ∧ canRec.length = 16 + canLen canRec ∧
    fmtEnabled on 0 0 = true ∧ canLenOk (canFmt canRec) (canLen canRec) = true ∧ 2 ≤ fbState (fbOf on .CAN_STAT 0) ∧ errOf on 0 < 2 ∧
    findEntry el 9 0 128 (fun e => (decide (fld (wordAt e 1) 31 29 = 0) || bit (wordAt e 1) (29 + canFmt canRec)) && idHit e canRec) =
      some (0, [0x80000000, 0, 1]) ∧ (chOf on 0).hpb.length < 4 ∧ canLen canRec ≤ 64 ∧ routeOf on 0 canRec = none ∧
    routeOf rt 0 canRec = some (0, [0x80000000, 0, 1]) := by
  try unfold writes
  try unfold reads
  try dsimp only
  constructorm* _ ∧ _ <;> decide

theorem wit_CanSleepWakeAndCancel :
    let e : CanTx := ⟨canRec, 5, 0, 0, 0, 7⟩
    let on := wr .CAN_STAT 0 0 2 State.reset
    let waking := setCh 0 { chanReset with wakeStep := 1 } (wr .CAN_STAT 0 0 0xC2 State.reset)
    let asleep := wr .CAN_WAKE_CFG 0 0 3 (wr .CAN_STAT 0 0 0x82 State.reset)
    writes 0 .CAN_TX_CMD on ∧ (chOf on 0).fifo = [] ∧ (chOf (setCh 0 { chanReset with fifo := [e] } on) 0).fifo = [e] ∧
    (chOf (setCh 0 { chanReset with fifo := [e] } on) 0).attempt = none ∧
    writes 0 .CAN_SLEEP on ∧ isOn (plainWrite .CAN_SLEEP 0 0 1 on) .CAN_STAT 0 = true ∧ busOf (plainWrite .CAN_SLEEP 0 0 1 on) 0 = 0 ∧
    busOf (plainWrite .CAN_SLEEP 0 0 2 asleep) 0 = 2 ∧ busOf waking 0 = 3 ∧ (chOf waking 0).wakeStep = 1 ∧ (chOf waking 0).wakeLocal = false ∧
    (chOf waking 0).wakeAt.toNat ≤ now waking ∧
    holdDue (setTime { State.reset.time with now := 100000000000 } (setCh 0 { chanReset with hold := [e] } on)) 0 = true ∧
    canWatches asleep 0 = true ∧ bit (rd asleep .CAN_WAKE_CFG 0 0) 0 = true ∧ bit (rd asleep .CAN_WAKE_CFG 0 0) 1 = true ∧
    (List.range 8).find? (fun k => wufMatch (wr .CAN_WUF 0 0 0x80000000 asleep) 0 k ⟨0, false, 0, 0⟩) = some 0 := by
  try unfold writes
  try unfold reads
  try dsimp only
  constructorm* _ ∧ _ <;> decide

theorem wit_StarControl :
    let al := wr .STAR_STAT 0 0 0x20222 State.reset
    let rn := wr .STAR_STAT 0 0 0x20242 State.reset
    let st := wr .STAR_STAT 0 0 1 State.reset
    let cl := wr .STAR_STAT 0 0 0x12 State.reset
    let cu := wr .STAR_STAT 0 0 0x20012 State.reset
    let ct : State := setTime { cl.time with now := 100000000000 } cl
    let cut : State := setTime { cl.time with now := 100000000000 } cu
    let lowPeer : State := setStar { cut.star with peer := some (0, false, 0, 0) } { cut with pwr := { cut.pwr with strapStar := 3 } }
    let highPeer : State := setStar { cut.star with peer := some (5, false, 0, 0) } { cut with pwr := { cut.pwr with strapStar := 3 } }
    writes 0 .STAR_CTRL State.reset ∧ isOff State.reset .STAR_STAT 0 = true ∧ isOff cl .STAR_STAT 0 = false ∧
    (rd cl .STAR_CTRL 0 0 &&& ~~~1) = ((0 : W32) &&& 0xFFFF &&& ~~~1) ∧ (rd cl .STAR_CTRL 0 0 &&& ~~~1) ≠ ((3 : W32) &&& 0xFFFF &&& ~~~1) ∧
    running st = true ∧ fbState (fbOf st .STAR_STAT 0) = 1 ∧ isOn (fbPut .STAR_STAT 0 (fbStarted (fbOf st .STAR_STAT 0)) st) .STAR_STAT 0 = true ∧
    starCtl st 1 = false ∧ starCtl (wr .STAR_CTRL 0 0 3 st) 1 = true ∧
    fbState (fbOf (wr .STAR_STAT 0 0 3 State.reset) .STAR_STAT 0) = 3 ∧ starRunning (wr .STAR_STAT 0 0 3 State.reset) = false ∧
    writes 0 .STAR_MODE_REQ State.reset ∧ bit 0x80000001 31 = true ∧ bit (rd cu .STAR_STAT 0 0) 17 = true ∧
    claiming (wr .STAR_CTRL 0 0 3 cl) = true ∧ isOn cl .STAR_STAT 0 = true ∧ runPhase al = 2 ∧ roleOf al = 2 ∧ isOn al .STAR_STAT 0 = true ∧ running al = true ∧
    roleOf rn = 2 ∧ isOn rn .STAR_STAT 0 = true ∧ starRunning (count32 .STAR_BR_RX_OK 0 24 (wr .STAR_BR_DELAY 0 24 0x8005 rn)) = true ∧
    bit (rd al .STAR_STAT 0 0) 17 = true ∧ runPhase (count32 .STAR_BR_RX_OK 0 24 (wr .STAR_BR_DELAY 0 24 0x8005 al)) = 2 ∧
    (setStar { rn.star with swLive := true } rn).star.swLive = true ∧
    runPhase ct = 1 ∧ bit (rd ct .STAR_STAT 0 0) 16 = false ∧
    ct.star.claimSince.toNat + max 1 (fld (rd ct .STAR_CLAIM_CFG 0 0) 7 0) * 1000000 ≤ now ct ∧ ct.star.peer = none ∧
    bit (rd ct .STAR_STAT 0 0) 17 = false ∧ bit (rd cut .STAR_STAT 0 0) 17 = true ∧
    (0 : BitVec 4).toNat < starId lowPeer ∧ lowPeer.star.peer = some (0, false, 0, 0) ∧
    starId highPeer < (5 : BitVec 4).toNat ∧ highPeer.star.peer = some (5, false, 0, 0) := by
  try unfold writes
  try unfold reads
  try dsimp only
  constructorm* _ ∧ _ <;> decide

/-- A star that runs: a latched mode of 64 us basic cycles with an Equinox at 0 in each, branch 0 active. -/
def starUp : State :=
  let s := wr .STAR_BR_STAT 0 0 3 (wr .STAR_BR_CTRL 0 0 1 (wr .STAR_STAT 0 0 0x42 State.reset))
  setStar { s.star with latch := [[0x8000FA00, 0xC0000000, 0, 0]] } s

/-- The same star 64 us later. -/
def starLater : State := setTime { starUp.time with now := 64000 } starUp

theorem wit_StarCycles :
    let b := wr .STAR_CTRL 0 0 2 (wr .STAR_STAT 0 0 0x20142 State.reset)
    let ic : State := setStar { b.star with refFrame := some (0, []) } b
    let w := setTime { State.reset.time with now := 100000 } (setActive 12 0 [0x80000FA0, 0, 0, 0] (wr .STAR_STAT 0 0 0x32 State.reset))
    let l := wr .STAR_BC 0 0 63 starLater
    let e := wr .TIME_CTRL 0 0 8 State.reset
    running starUp = true ∧ isOn starUp .STAR_STAT 0 = true ∧ runDue w = some (0, 0) ∧ running w = true ∧ isOn w .STAR_STAT 0 = true ∧
    starRunning starLater = true ∧ bcLen starLater ≠ 0 ∧ tBc starLater + bcLen starLater ≤ now starLater ∧ (bcNum starLater + 1) % 64 ≠ 0 ∧
    (bcNum l + 1) % 64 = 0 ∧ (brPlan starLater (0 : Fin 24)).1 ≠ 0 ∧ tBc starLater + bcLen starLater ≤ now starLater + (brPlan starLater (0 : Fin 24)).2 ∧
    (brOf starLater 0).refBc ≤ starLater.star.absBc + 1 ∧ eqxDue starUp = true ∧ bit (rd starUp .STAR_EQX_CANID 0 0) 31 = false ∧
    bit (rd (wr .STAR_EQX_CANID 0 0 0x80000000 starUp) .STAR_EQX_CANID 0 0) 31 = true ∧
    isOn (wr .CAN_STAT 0 3 2 starUp) .CAN_STAT 3 = true ∧ busOf (wr .CAN_STAT 0 3 2 starUp) 3 = 0 ∧ isOn starUp .CAN_STAT 3 = false ∧
    bit (rd e .TIME_CTRL 0 0) 3 = true ∧ guardPassed e.time.eqxLast 0 5 = true ∧ starCtl e 6 = false ∧
    guardPassed (some 5) 1 6 = false ∧ isOff State.reset .STAR_STAT 0 = true ∧
    bit (rd (wr .STAR_WAKE_CFG 0 0 1 State.reset) .STAR_WAKE_CFG 0 0) 0 = true ∧ State.reset.pwr.st ≠ .off ∧
    starCtl ic 1 = true ∧ bit (rd ic .STAR_STAT 0 0) 17 = true ∧ roleOf ic ≠ 2 ∧ ic.star.refFrame = some (ic.star.absBc, []) ∧ starCtl State.reset 1 = false := by
  try unfold writes
  try unfold reads
  try dsimp only
  constructorm* _ ∧ _ <;> decide

theorem wit_StarBranches :
    let win : State := setStar { starUp.star with latch := [[0x8000FA00, 0, 0, 0], [0, 1000, 0x000000A1, 1]] } starUp
    let iso := wr .STAR_BR_STAT 0 0 4 (wr .STAR_BR_CTRL 0 0 3 starUp)
    let off := wr .STAR_BR_STAT 0 0 0 (wr .STAR_BR_CTRL 0 0 0 starUp)
    let lis := wr .STAR_BR_STAT 0 0 1 starUp
    writes 0 .STAR_BR_CTRL starUp ∧ chanOf .STAR_BR_CTRL 0 starUp < 24 ∧ starRunning (plainWrite .STAR_BR_CTRL 0 0 1 starUp) = true ∧
    starRunning (plainWrite .STAR_BR_CTRL 0 0 1 State.reset) = false ∧ bit (rd starUp .STAR_BR_CTRL 0 0) 0 = true ∧
    bit (rd starUp .STAR_BR_CTRL 0 0) 1 = false ∧ brState (plainWrite .STAR_BR_CTRL 0 0 3 starUp) 0 = 3 ∧
    bit (rd iso .STAR_BR_CTRL 0 0) 1 = true ∧ brState (plainWrite .STAR_BR_CTRL 0 0 1 iso) 0 = 4 ∧
    bit (rd off .STAR_BR_CTRL 0 0) 0 = false ∧ brState (plainWrite .STAR_BR_CTRL 0 0 1 off) 0 = 0 ∧
    running win = true ∧ starRunning win = true ∧ guardAt win 0 (now win) = true ∧ guardAt starUp 0 (now starUp) = false ∧ brState win 0 ≠ 0 ∧
    (brOf win 0).outside = false ∧ winKind win 0 ≠ 2 ∧ echoDue lis 0 = true ∧ (brState lis 0 = 1 ∨ brState lis 0 = 2) ∧
    (brOf (setBr 0 { branchReset with echoWait := true } lis) 0).echoWait = true := by
  try unfold writes
  try unfold reads
  try dsimp only
  constructorm* _ ∧ _ <;> decide

theorem wit_StarWindows :
    let f : ArbFrame := ⟨0, 0, 0, 20, true, true, [0, 0, 0, 0]⟩
    let arb : State := setTime { starUp.time with now := 6200 } (setStar { starUp.star with latch := [[0x8000FA00, 0, 0, 0], [0, 10000, 2, 1]], arb := [f] } starUp)
    let lib := setActive 12 1 [0, 1000, 0x15, 0] (setActive 12 0 [0x80000FA0, 0, 0, 0] starUp)
    let dev : State := setStar { starUp.star with latch := [[0x8000FA00, 0, 0, 0], [0, 1000, 0x15, 0]], slots := [(1, ⟨[0, 0x40, 0, 0], 0⟩)], snaps := [(0, [0, 0x40, 0, 0])] } starUp
    running arb = true ∧ arbDue arb = some 0 ∧ arbBest [f] = some f ∧ (arb.star.arb.filter (·.win = 0)) = [f] ∧
    (20 : W64).toNat < (guardOf arb 0 0).2.1 ∧ starLenOk [0, 0x40, 0, 0] = true ∧ deviceSlot lib (starSlot [0, 0x40, 0, 0]) = true ∧
    deviceSlot starUp (starSlot [0, 0x40, 0, 0]) = false ∧ deviceNow dev 0 = true ∧ tBc dev + winOpen dev 0 ≤ now dev ∧
    nmFind dev.star.slots (fld (winW dev 0 2) 13 4) = some ⟨[0, 0x40, 0, 0], 0⟩ ∧ bit (winW dev 0 2) 3 = false ∧
    nmFind dev.star.snaps 0 = some [0, 0x40, 0, 0] := by
  try unfold writes
  try unfold reads
  try dsimp only
  constructorm* _ ∧ _ <;> decide

/-- Machine 0 of block 0 runs with a latched instruction. -/
def pioAt (k : Sm) (w : BitVec 24) : State := setSm 0 0 { k with running := true, latch := some w } State.reset

theorem wit_PioInstructions :
    running (pioAt smInit 0) = true ∧ (smOf (pioAt smInit 0) 0 0).running = true ∧ (smOf (pioAt smInit 0) 0 0).latch = some 0 ∧
    smFld 0x102005 23 20 = 1 ∧ smFld 0x102005 14 13 = 1 ∧ smFld 0x002005 15 13 = 1 ∧ (smOf (pioAt { smInit with c0 := 3 } 0x002005) 0 0).c0 ≠ 0 ∧
    (smOf (pioAt smInit 0x002005) 0 0).c0 = 0 ∧ smFld 0x104000 14 13 = 2 ∧ ((0x104000 : BitVec 24).getLsbD 15) = (blkOf (pioAt smInit 0) 0).seen.getLsbD 0 ∧
    smFld 0x100000 14 13 = 0 ∧ pinLevel (pioAt smInit 0) 0 = false ∧ smFld 0x200007 23 20 = 2 ∧ smFld 0x200007 15 13 = 0 ∧ (smOf (pioAt smInit 0x200007) 0 0).stall ≠ 2 ∧
    bit (rd (pioAt smInit 0) .SM_FRAME 0 0) 14 = false ∧ (smOf (pioAt smInit 0) 0 0).step < smFld 0x200007 5 0 ∧ smFld 0x300000 23 20 = 3 ∧
    (smOf (pioAt { smInit with tRem := 8 } 0x300000) 0 0).tRem ≠ 0 ∧ smFld 0x400000 23 20 = 4 ∧ (smOf (pioAt smInit 0) 0 0).txf = [] ∧
    (smOf (pioAt { smInit with txf := [5] } 0) 0 0).txf = [5] ∧ smFld 0x500000 23 20 = 5 ∧ rxFull (pioAt smInit 0) 0 0 = false ∧
    rxFull (pioAt { smInit with rxf := [1, 2, 3, 4] } 0) 0 0 = true ∧ smFld 0x601100 23 20 = 6 ∧ smFld 0x601100 11 8 = 1 ∧ smFld 0x601100 15 12 = 1 ∧
    smFld 0x704005 23 20 = 7 ∧ smFld 0x704005 15 13 = 2 ∧ smFld 0x800003 23 20 = 8 ∧ smFld 0x800003 15 14 = 0 ∧ 9 ≤ smFld 0x900000 23 20 ∧
    (smOf (setSm 0 0 { smInit with running := true } State.reset) 0 0).latch = none := by
  try dsimp only
  constructorm* _ ∧ _ <;> decide

theorem wit_PioControl :
    let full := pioAt { smInit with txf := [1, 2, 3, 4] } 0
    let one := pioAt { smInit with rxf := [1] } 0
    writes 0 .PIO_CTRL State.reset ∧ fld (oneBit 2) 3 0 ≠ 0 ∧ fld (oneBit 6) 7 4 ≠ 0 ∧ fld (oneBit 10) 11 8 ≠ 0 ∧ fld (oneBit 14) 15 12 ≠ 0 ∧
    writes 0 .PIO_GSTART_LO State.reset ∧ writes 0 .PIO_GSTART_HI State.reset ∧ txFull full 0 0 = true ∧ txFull State.reset 0 0 = false ∧ (smOf State.reset 0 0).txf.length + (State.reset.pio.txIn.filter (·.2.1 = 0)).length < txDepth State.reset 0 0 ∧
    ({ State.reset with pio := { State.reset.pio with txIn := [(9, 0, 1), (8, 0, 2)] } } : State).pio.txIn = [(9, 0, 1), (8, 0, 2)] ∧ bit (rd State.reset .PAD_FIO 0 0) 9 = false ∧
    bit (rd (wr .PAD_FIO 0 0 0x20F State.reset) .PAD_FIO 0 0) 9 = true ∧ 12 ≤ fld (rd State.reset .PAD_FIO 0 0) 3 0 ∧
    (setBlk 0 ⟨0, 0, 3, 0⟩ State.reset).pio.blocks = [(0, blkOf (setBlk 0 ⟨0, 0, 3, 0⟩ State.reset) 0)] ∧
    (smOf State.reset 0 0).rxf = [] ∧ (smOf one 0 0).rxf = [1] ∧ running State.reset = true ∧ writes 0 .SM_TXF State.reset ∧ State.reset.pwr.st ≠ .off ∧
    (let p := wr .EVT_PEND 0 0 2 (wr .EVT_ROUTE 1 0 0x20 State.reset)
     bit (rd p .EVT_ROUTE 1 0) 5 = true ∧ bit (rd p .EVT_PEND (1 / 32) 0) (1 % 32) = true) ∧ OutPin.inBankF (.fio 0) = false ∧
    reads 0 .SM_RXF State.reset ∧ writes 0 .PIO_FLAG_SET State.reset ∧ writes 0 .PIO_IMEM State.reset ∧ writes 0 .SM_FRAME State.reset ∧
    min 8 (fld (0x440000 : W32) 19 16) = fld (rd State.reset .SM_FRAME 0 0) 19 16 ∧ min (fld (0x440000 : W32) 23 20) (8 - min 8 (fld (0x440000 : W32) 19 16)) = fld (rd State.reset .SM_FRAME 0 0) 23 20 ∧
    min 8 (fld (0 : W32) 19 16) ≠ fld (rd State.reset .SM_FRAME 0 0) 19 16 ∧ (smOf State.reset 0 0).running = false ∧ (smOf one 0 0).running = true := by
  try unfold writes
  try unfold reads
  try dsimp only
  constructorm* _ ∧ _ <;> decide

/-- Thread `t` in a state. -/
def thrAt (t : Nat) (h : Thread) : State := setTh t h State.reset

theorem wit_EngineControl :
    let ld : List W32 := [0x30, 0, 1, 0, 0, 4, 0, 0]
    let st : List W32 := [0x31, 0, 1, 1, 0, 0, 0, 0]
    let op : MemOp := ⟨.load, 0, 4, false, 1, 0, false, 0⟩
    cmdStarts (waiting 0x30 ld) 1 4 0x30 ⟨4, 9, false, 0x30, ld, false, []⟩ ∧ cmdStarts (waiting 0x31 st) 1 4 0x31 ⟨4, 9, false, 0x31, st, false, []⟩ ∧
    cmdStarts (waiting 0x32 st) 1 4 0x32 ⟨4, 9, false, 0x32, st, false, []⟩ ∧ maskEngines 1 = [0] ∧ engBusy (begunCmd 1 9 (waiting 0x30 ld)) 0 = false ∧
    engBusy (thrAt 0 { Thread.clear with fb := 2 }) 0 = true ∧ cmdThreads st = [0] ∧ levelsBlocked State.reset = false ∧
    levelsBlocked { State.reset with pwr := { State.reset.pwr with held := true } } = true ∧
    bit (wordAt st 3) 4 = false ∧ (thOf (waiting 0x31 st) 0).fb = 0 ∧ (fbState (thOf (thStop 0 (thrAt 0 { Thread.clear with fb := 2 })) 0).fb ≠ 0) ∧
    writes 0 .ENG_CTRL State.reset ∧ fld (oneBit 1) 3 0 ≠ 0 ∧ fld (oneBit 5) 7 4 ≠ 0 ∧ fld (oneBit 9) 11 8 ≠ 0 ∧ running (thrAt 0 { Thread.clear with fb := 1 }) = true ∧
    fbState (thOf (thrAt 0 { Thread.clear with fb := 1 }) (0 : Fin 96)).fb = 1 ∧ (thOf (thrAt 0 { Thread.clear with fb := 3 }) (0 : Fin 96)).fb = 3 ∧
    (thOf (thrAt 0 { Thread.clear with fb := 3, ops := [op] }) 0).ops ≠ [] ∧
    thAwake (thrAt 0 { Thread.clear with fb := 2 }) (0 : Fin 96) = true ∧ atBreak (wr .ENG_T_BREAK 0 0 1 (thrAt 0 { Thread.clear with fb := 2 })) (0 : Fin 96) = true := by
  refine ⟨waiting_starts _ _, waiting_starts _ _, waiting_starts _ _, ?_⟩
  try unfold writes
  try dsimp only
  constructorm* _ ∧ _ <;> decide

theorem wit_EngineThreads :
    let ld : MemOp := ⟨.load, 0, 4, false, 1, 0, false, 0⟩
    let sb : MemOp := ⟨.store, 0, 1, false, 0, 7, false, 0⟩
    let sw : MemOp := ⟨.store, 0x40000000, 4, false, 0, 7, false, 0⟩
    budgetDue { State.reset with ticks := 1000000 } = true ∧ running { State.reset with ticks := 1000000 } = true ∧
    writes 0 .ENG_T_BUDGET State.reset ∧ fld 5 19 0 ≠ 0 ∧ fld 5 19 0 < (thOf (thrAt 0 { Thread.clear with used := 9 }) 0).used ∧
    writes 0 .ENG_IMEM_DATA State.reset ∧ engBusy State.reset 0 = false ∧ engBusy (thrAt 0 { Thread.clear with fb := 2 }) 0 = true ∧
    writes 0 .ENG_LMEM_DATA State.reset ∧ reads 0 .ENG_LMEM_DATA State.reset ∧ writes 0 .ENG_T_GDATA State.reset ∧ writes 0 .ENG_T_PC State.reset ∧
    fbState (thOf State.reset (tSel State.reset 0)).fb = 0 ∧ (thOf (thrAt 0 { Thread.clear with ops := [ld] }) (0 : Fin 97)).ops = [ld] ∧
    dataSpace 0 ld.addr = some 0 ∧ sb.width < 4 ∧ dataSpace 0 sw.addr = some 1 ∧ opThaws 0 sw (thrAt 0 { Thread.clear with ops := [sw] }) = none ∧
    (shWrite (.thread 0) (sw.addr.toNat - 0x40000000) (leBytes sw.width sw.data.toNat) (thrAt 0 Thread.clear)).1 ≠ memOk ∧
    (thOf (thrAt 0 { Thread.clear with wait := .waitt 0 }) (0 : Fin 97)).wait = .waitt 0 ∧ atOrAfter (State.reset.time.now.setWidth 32) 0 = true ∧
    (waiteTry 0 0x10000 1 (thrAt 0 { Thread.clear with wait := .waite 0x10000 1, tmrCount := 1 })).isSome = true ∧
    (waitqTry 0 1 (thrAt 0 Thread.clear)).isSome = false ∧ timeoutDue (thrAt 0 { Thread.clear with timeout := some 0, wait := .waitq 1 }) (0 : Fin 97) = true ∧
    (waiteTry 0 1 1 (thrAt 0 Thread.clear)).isSome = false ∧ fld 8 4 0 ≠ 0 ∧ fld 8 4 0 ≤ 24 ∧
    timerDue (thrAt 0 { Thread.clear with tmrNext := some 0 }) (0 : Fin 96) = true := by
  try unfold writes
  try unfold reads
  try dsimp only
  constructorm* _ ∧ _ <;> decide

/-- Thread 0 of engine 0 stands ready at its PC. -/
def thrOn (h : Thread) : State := thrAt 0 { h with fb := 2 }

theorem wit_SumsAndTheirOverflow :
    issues (0 : Fin 97) [(1 : Fin 32).val, (2 : Fin 32).val, (3 : Fin 32).val] (thrOn Thread.clear) ∧
    issues (0 : Fin 97) [(1 : Fin 32).val, (2 : Fin 32).val] (thrOn { Thread.clear with g := [(2, 0x80000000)] }) ∧
    gR (thOf (thrOn { Thread.clear with g := [(2, 0x80000000)] }) 0) 2 = 0x80000000 ∧ gR (thOf (thrOn Thread.clear) 0) 2 ≠ 0x80000000 := by
  unfold issues
  constructorm* _ ∧ _ <;> decide

theorem wit_DivisionFollowsR316 :
    let s := thrOn { Thread.clear with g := [(2, 0x80000000), (3, 0xFFFFFFFF), (4, 0)] }
    issues (0 : Fin 97) [(1 : Fin 32).val, (2 : Fin 32).val, (3 : Fin 32).val] s ∧ (0 : Fin 97).val ≠ 96 ∧
    gR (thOf s 0) 2 = 0x80000000 ∧ gR (thOf s 0) 3 = 0xFFFFFFFF ∧ gR (thOf s 0) 4 = 0 ∧
    issues (0 : Fin 97) [(1 : Fin 32).val, (3 : Fin 32).val, (2 : Fin 32).val] s ∧ ¬ (gR (thOf s 0) 3 = 0x80000000 ∧ gR (thOf s 0) 2 = 0xFFFFFFFF) := by
  unfold issues
  try dsimp only
  constructorm* _ ∧ _ <;> decide

theorem wit_LogicShiftsAndFields :
    issues (0 : Fin 97) [(1 : Fin 32).val, (2 : Fin 32).val, (3 : Fin 32).val] (thrOn Thread.clear) ∧
    issues (0 : Fin 97) [(1 : Fin 32).val, (2 : Fin 32).val] (thrOn Thread.clear) ∧ issues (0 : Fin 97) [(1 : Fin 32).val] (thrOn Thread.clear) := by
  unfold issues
  constructorm* _ ∧ _ <;> decide

theorem wit_EztielControlTransfer :
    let c3 : List LoopCtx := [⟨0, 8, 2⟩, ⟨0, 8, 1⟩, ⟨0, 8, 1⟩]
    let deep := thrOn { Thread.clear with ldepth := 3, loops := c3 }
    let valid := thrOn { Thread.clear with lvalid := true, g := [(2, 5), (29, 0x100)] }
    issues (0 : Fin 97) [(1 : Fin 32).val, (2 : Fin 32).val] (thrOn Thread.clear) ∧ issues (0 : Fin 97) [] (thrOn Thread.clear) ∧
    issues (0 : Fin 97) [(2 : Fin 32).val] deep ∧ ezDecode 0 0xFFFFFFFF = none ∧ issues (0 : Fin 97) (callUses valid 0) valid ∧
    (thOf (countIssue 0 valid) 0).lvalid = true ∧ (thOf (countIssue 0 valid) 0).sdepth ≠ 255 ∧ issues (0 : Fin 97) ((2 : Fin 32).val :: callUses (thrOn Thread.clear) 0) (thrOn Thread.clear) ∧
    (dataOp 0 ⟨.store, gR (thOf (countIssue 0 valid) 0) 29 - 4, 4, false, 0, 0, false, 0⟩ [3] (countIssue 0 valid)).1 = .seq ∧
    (dataOp 0 ⟨.load, gR (thOf (countIssue 0 valid) 0) 29, 4, false, 0, 0, true, 0⟩ [2] (countIssue 0 valid)).1 = .seq ∧
    issues (0 : Fin 97) (if (thOf valid 0).lvalid && (thOf valid 0).sdepth ≠ 0 then [29] else []) valid ∧ (thOf (countIssue 0 (thrOn Thread.clear)) 0).lvalid = false ∧
    (1 : BitVec 16) ≠ 0 ∧ 3 ≤ (thOf (countIssue 0 deep) 0).ldepth ∧ gR (thOf (countIssue 0 valid) 0) 2 ≠ 0 ∧ (thOf (countIssue 0 valid) 0).ldepth < 3 := by
  unfold issues
  try dsimp only
  constructorm* _ ∧ _ <;> decide

/-- The policy core stands ready in supervisor mode. -/
def policyOn : State := { State.reset with pol := { State.reset.pol with th := { Thread.clear with fb := 2 }, mode := 3 } }

theorem wit_EztielMemoryPortsAndExceptions :
    let s := thrOn { Thread.clear with g := [(2, 0x100), (4, 1)] }
    let c := countIssue 0 s
    dataSpace 0 0x30000000 = none ∧ dataSpace 0 0x101 = some 0 ∧ (0x101 : W32).toNat % 2 ≠ 0 ∧ (0x100 : W32).toNat % 4 = 0 ∧
    (mpuFault { policyOn with pol := { policyOn.pol with mode := 0 } } 96 false [2] 0).isSome = true ∧ mpuFault c 0 false [2] 0x100 = none ∧
    issues (0 : Fin 97) [(1 : Fin 32).val, (2 : Fin 32).val] s ∧ (dataOp 0 ⟨.load, 0x100, 4, false, 1, 0, false, 0⟩ [2] c).1 = .seq ∧
    (dataOp 0 ⟨.load, 0x101, 4, false, 1, 0, false, 0⟩ [2] c).1 = .fault 2 0x101 ∧ imemFault c 0 [2] 0x100 = none ∧ instrPoisoned c 0 0x100 = false ∧
    issues (96 : Fin 97) [(1 : Fin 32).val, (2 : Fin 32).val] policyOn ∧ supMode (countIssue 96 policyOn) = true ∧ imemFault (countIssue 96 policyOn) 96 [3] 0 = none ∧
    (mbxRank true 0x022 0 = none ∧ mbxRank true 0x400 0 ≠ none ∧ mbxRank false 0x100 0 = none ∧ mbxRank false 0x441 1 ≠ none) ∧
    (thOf c 0).ops = [] ∧ issues (0 : Fin 97) ([(2 : Fin 32).val, (2 : Fin 32).val, (4 : Fin 32).val] ++ [(2 : Fin 32).val + 1, (4 : Fin 32).val + 1]) s ∧
    issues (0 : Fin 97) ([(1 : Fin 32).val, (2 : Fin 32).val, (4 : Fin 32).val] ++ []) s ∧ issues (96 : Fin 97) [(1 : Fin 32).val] policyOn ∧
    (waitqTry 0 1 c).isSome = false ∧ atOrAfter (c.time.now.setWidth 32) (gR (thOf c 0) 4) = false ∧ atOrAfter (c.time.now.setWidth 32) (gR (thOf c 0) 5) = true ∧
    (waiteTry 0 ((gR (thOf c 0) 2 &&& 0x1FFFF).setWidth 64) 1 c).isSome = false ∧ issues (96 : Fin 97) [] policyOn ∧ policyOn.pol.mode.getLsbD 4 = false ∧
    eventDue { policyOn with pol := { policyOn.pol with mode := 7, excEn := 1 }, evt := { policyOn.evt with polLatch := 1 } } = some 0 ∧ fbState policyOn.pol.th.fb ≠ 0 ∧ running policyOn = true := by
  unfold issues
  try dsimp only
  constructorm* _ ∧ _ <;> decide

theorem wit_PolicyCore :
    let ld : List W32 := [0x38, 0, 0, 0, 8, 0, 0, 0]
    let go : List W32 := [0x38, 0, 0, 0, 8, 0, 0, 1]
    let held : State := { State.reset with pwr := { State.reset.pwr with held := true } }
    let on : State := { State.reset with pol := { State.reset.pol with th := { State.reset.pol.th with fb := 2 } } }
    let tm : State := { State.reset with pol := { State.reset.pol with tmrNext := some 0, tmrPeriod := 100 } }
    let bc : State := { State.reset with pol := { State.reset.pol with bcSync := true }, regs := (wr .STAR_STAT 0 0 0x42 State.reset).regs }
    let sup : State := { State.reset with pol := { State.reset.pol with mode := 1 }, pwr := { State.reset.pwr with wdt4At := some 0, wdt3At := some 0 } }
    writes 0 .POL_CTRL State.reset ∧ levelsBlocked (plainWrite .POL_CTRL 0 0 1 State.reset) = false ∧ levelsBlocked (plainWrite .POL_CTRL 0 0 1 held) = true ∧
    cmdByte ld 8 = 0 ∧ (wordAt ld 4).toNat = 8 ∧ bit (wordAt ld 7) 0 = false ∧ bit (wordAt go 7) 0 = true ∧ on.pol.th.fb ≠ 0 ∧
    (begunCmd 1 9 (waiting 0x38 ld)).pol.th.fb = 0 ∧ levelsBlocked (begunCmd 1 9 (waiting 0x38 go)) = false ∧
    (¬ ∃ a ∈ List.range 16, envBad a (((hostWords 64 false (List.replicate 36 0 ++ [0, 32, 320, 0])).drop (4 * a)).take 4) = true) ∧ envBad 9 [1, 32, 320, 0] = false ∧ envBad 9 [1, 31, 320, 0] = true ∧
    envBad 0 [1, 0, 0, 0] = true ∧ running tm = true ∧ tm.pol.tmrNext = some 0 ∧ tm.pol.bcSync = false ∧ atOrAfter (tm.time.now.setWidth 32) 0 = true ∧ polTimerDue State.reset = false ∧
    bc.pol.bcSync = true ∧ starRunning bc = true ∧ polTimerDue bc = true ∧ supMode sup = true ∧ sup.pwr.wdt4At = some 0 ∧ sup.pwr.wdt3At = some 0 ∧
    State.reset.pwr.wdt4At = none ∧ State.reset.pwr.wdt3At = none ∧ writes 1 .GLB_WDT3_KICK State.reset ∧
    (let one : State := { State.reset with pol := { State.reset.pol with placement := [⟨1, 0, 0, 1, 15, 0, 0, 0, 0⟩] } }
     instancesReport one = false) ∧
    writes 0 .POL_TBL_CTRL State.reset ∧ fld (rd State.reset .POL_TBL_SEL 0 0) 23 16 < 13 ∧
    fld (rd (wr .POL_TBL_SEL 0 0 0x0D0005 State.reset) .POL_TBL_SEL 0 0) 23 16 = 13 ∧ 5 < tblCount 13 := by
  try unfold writes
  try unfold reads
  try dsimp only
  constructorm* _ ∧ _ <;> decide

theorem wit_PolicyCore_starts : cmdStarts (waiting 0x38 [0x38, 0, 0, 0, 8, 0, 0, 0]) 1 4 0x38 ⟨4, 9, false, 0x38, [0x38, 0, 0, 0, 8, 0, 0, 0], false, []⟩ ∧
    cmdStarts (waiting 0x39 [0x39]) 1 4 0x39 ⟨4, 9, false, 0x39, [0x39], false, []⟩ := ⟨waiting_starts _ _, waiting_starts _ _⟩

/-- Engine 0's gateway thread and the policy core are ON, with signal route 0, wake rule 0 and instance 0. -/
def gateway : State :=
  let rule : List W32 := [0x80000021, 0x3, 0x2, 60]
  let route : List W32 := [0x80000000, 0x88B8, 0x1C000, 0x50007, 0, 256003, 10, 0x55]
  let s := setActive 15 0 rule (setActive 13 0 route (setTh 3 { Thread.clear with fb := 2 } (setTh 96 { State.reset.pol.th with fb := 2 } State.reset)))
  { s with pol := { s.pol with placement := [⟨1, 0, 0, 1, 15, 3, 1, 5, 0⟩] } }

/-- Queue 7 is its source queue, with one packet of one buffer. -/
def sourced : State :=
  let s := wr .QM_Q_BIND 0 7 0x80000854 gateway
  setQueue 7 { queueOf s 7 with descs := [0x4004000000000000], vis := 1 } s

theorem wit_SignalRoutes :
    let e := tbl gateway 13 0
    let eth : List W32 := [0, 0x88B8, 0, 0]
    let can : List W32 := [1, 3, 0, 0]
    let star : List W32 := [2, 5, 0, 0]
    let late : State := setTime { gateway.time with now := 20000 } (setSig 0 ⟨5, true, false, 3⟩ gateway)
    let old : State := { gateway with pol := { gateway.pol with sigPrev := [(9, gateway.cfg.active)] }, cfg := { gateway.cfg with active := [] } }
    ([] : List Byte).length * 8 < 0 + 8 ∧ 4 + 8 ≤ ([0xAB, 0xCD] : List Byte).length * 8 ∧ sigGet true [0xAB, 0xCD] 4 8 = some 0xBC ∧ sigGet false [0xAB, 0xCD] 4 8 = some 0xDA ∧
    fld (wordAt eth 0) 1 0 = 0 ∧ fld (wordAt can 0) 1 0 = 1 ∧ fld (wordAt star 0) 1 0 = 2 ∧
    sgSet gateway 3 = sigRoutes gateway.cfg.active ∧ (sgSet old 3 = gateway.cfg.active ∧ sgSet old 9 = []) ∧ sgValid e = true ∧ gwRuns gateway (sgEngine e) = true ∧ sgValid (tbl State.reset 13 0) = false ∧ State.reset.pol.sigPrev = [] ∧
    sgValid (tbl old 13 0) = false ∧ old.pol.sigPrev = [(9, gateway.cfg.active)] ∧
    gwRuns (setTh 3 { Thread.clear with fb := 0 } gateway) 0 = false ∧
    (sgRoutes gateway 3).filter (fun x => sgEngine x.2 = 0 && sgSrc x.2 = 7) = [(0, e)] ∧
    sgPayload e 0 0x88B8 [7] = some [] ∧ sgPayload e 0 0 [7] = none ∧
    ((sgUpdate [7] 3 0 e gateway).1 && sgRule e 0) = true ∧ ((sgUpdate [] 3 0 e gateway).1 && sgRule e 0) = false ∧
    (takePacket (.thread 3) (qUse gateway 7 + 1) 7 8 [] false none gateway).1 = none ∧
    (takePacket (.thread 3) (qUse sourced 7 + 1) 7 8 [] false none sourced).1.isSome = true ∧
    sgValid (tbl sourced 13 0) = true ∧ gwRuns sourced 0 = true ∧ (sgTake 0 7 gateway).mem.stall = none ∧
    cyclicDue gateway e = true ∧ cyclicDue State.reset (tbl State.reset 13 0) = false ∧ sgLate gateway 0 e = false ∧ sgLate late 0 (tbl late 13 0) = true ∧
    sgRule (tbl late 13 0) 0 = true := by
  try unfold writes
  try unfold reads
  try dsimp only
  constructorm* _ ∧ _ <;> decide

/-- Its map doorbell is full and T0 is ON. -/
def mapRung : State := setMbx 5 { mbxInit with full := true, words := [1] } (setTh 0 { Thread.clear with fb := 2 } gateway)

/-- Queue 7 is consumed by crypto recirculation. -/
def recirc : State := wr .QM_Q_BIND 0 7 0x80005A54 State.reset

/-- A packet of one buffer waits in it. -/
def recircOne : State := setQueue 7 { queueOf recirc 7 with descs := [0x4004000000000000], vis := 1 } recirc

theorem wit_GatewayAndFramework :
    let held : State := setTime { gateway.time with now := 70000000000 } { gateway with pol := { gateway.pol with wakeHold := [(3, 60, 0)] } }
    let caused : State := wr .CLK_WAKE_CAUSE 0 0 0x1104 { gateway with pwr := { gateway.pwr with causeDue := true } }
    (allRegs.find? (fun x => x.ctorIdx = Reg.STAR_ARB_LOST.ctorIdx % 1024) = some .STAR_ARB_LOST ∧ measured .STAR_ARB_LOST = true ∧
      (∀ k < 4, (c64Reg k).1 ≠ .STAR_ARB_LOST) ∧ allRegs.find? (fun x => x.ctorIdx = Reg.GLB_STAT.ctorIdx % 1024) = some .GLB_STAT ∧ measured .GLB_STAT = false) ∧
    (caused.pwr.causeDue = true ∧ fwRuns caused = true ∧ gateway.pwr.causeDue = false ∧ bit (rd caused .CLK_WAKE_CAUSE 0 0) 2 = true ∧
      bit (rd caused .CLK_WAKE_CAUSE 0 0) (8 + 0) = true ∧ bit (rd caused .CLK_WAKE_CAUSE 0 0) (12 + 0) = true) ∧
    fwRuns gateway = true ∧ wakeRules gateway 1 2 = [[0x80000021, 0x3, 0x2, 60]] ∧ holdPassed held 3 = true ∧ holdPassed gateway 3 = false ∧
    mayGovern .CAN_SLEEP 0 2 gateway = false ∧
    mapRung.pol.placement[0]? = some ⟨1, 0, 0, 1, 15, 3, 1, 5, 0⟩ ∧ running mapRung = true ∧ (mbxOf mapRung 5).full = true ∧ fbState (thOf mapRung (Fin.ofNat 97 0)).fb = 2 ∧
    running recirc = true ∧ qConsumer recirc (7 : Fin 4096) = 0x5A ∧
    (takePacket .fabric (qUse recirc 7 + 1) 7 0x5A [] false none recirc).1 = none ∧
    (takePacket .fabric (qUse recirc 7 + 1) 7 0x5A [] false none recirc).2.mem.stall = none ∧
    (takePacket .fabric (qUse recircOne 7 + 1) 7 0x5A [] false none recircOne).1.isSome = true := by
  try unfold writes
  try unfold reads
  try dsimp only
  constructorm* _ ∧ _ <;> decide

theorem wit_FrameworkStart :
    let p : Placement := ⟨1, 0, 0, 1, 15, 3, 1, 5, 0⟩
    let on : State := { State.reset with pol := { State.reset.pol with th := { Thread.clear with fb := 2 }, placement := [p] } }
    let set : ConfigSet := ⟨[], [], [], []⟩
    let stored : State := { on with pwr := { on.pwr with storedSet := some set } }
    let theirs : State := setBank 3 { bankOf on 3 with owner := 16 } on
    fbState State.reset.pol.th.fb ≠ 2 ∧ fbState stored.pol.th.fb = 2 ∧ stored.pwr.storedSet = some set ∧ stored.cfg.armed = none ∧ stored.cfg.stager = none ∧
    fbState on.pol.th.fb = 2 ∧ on.pwr.storedSet = none ∧ storedArmed on = false ∧ on.pol.placement[0]? = some p ∧ plOk on 0 p = false ∧
    theirs.pol.placement[0]? = some p ∧ plOk theirs 0 p = true ∧ (∀ b ∈ plBanks p, plHolds p theirs b = true) ∧ (∃ b ∈ plBanks p, plHolds p on b = false) ∧
    on.pol.placement[1]? = none := by
  try dsimp only
  constructorm* _ ∧ _ <;> decide

theorem wit_InstanceReports :
    let full : State := { gateway with pol := { gateway.pol with conns := [(0, 2)] } }
    (connKinds 1)[(⟨9, false, 0⟩ : ConnReq).kind]? = none ∧ (connKinds 1)[(⟨0, false, 0⟩ : ConnReq).kind]? = some (2, 0, false) ∧
    2 ≤ connsOf full 0 0 ∧ ¬ 2 ≤ connsOf gateway 0 0 ∧
    gateway.pol.placement[0]? = some ⟨1, 0, 0, 1, 15, 3, 1, 5, 0⟩ ∧ fwRuns gateway = true ∧ gwRuns gateway 0 = true ∧ reportQueue gateway = none ∧
    reportQueue (wr .QM_Q_STAT 0 7 2 (wr .QM_Q_BIND 0 7 0x80000059 gateway)) = some 7 ∧ State.reset.pol.placement[0]? = none := by
  try unfold writes
  try unfold reads
  try dsimp only
  constructorm* _ ∧ _ <;> decide

/-- Thread 0 has request `r` waiting and one completion. -/
def asked (op : W32) : State := setTh 0 { Thread.clear with cry := [⟨0, [op, 0, 0x40000000, 4, 0x40000100], false⟩], cryDone := [(0, 9)] } State.reset

/-- Key slot 2 of the state after reset: an AES-128 key for every use and user. -/
def keyed : State := setSlot 2 ⟨true, 0xFFD, 7⟩ State.reset

theorem wit_CryptoAndKeys :
    let r : CryReq := ⟨0, [0x20003, 0, 0x40000000, 4, 0x40000100], false⟩
    let full : State := setTh 0 { Thread.clear with cryDone := List.replicate 8 (0, 0) } State.reset
    let keysOk : State := { State.reset with pol := { State.reset.pol with envelope := [(12, [1, 0, 9])] } }
    running State.reset = true ∧ cryFree State.reset 0 ≠ 0 ∧ cryFree full 0 = 0 ∧ (cryBlock 0 0 State.reset).1 = crOk ∧ (cryBlock 0 0x20000 State.reset).1 ≠ crOk ∧
    ¬ (fld (0 : W32) 7 0 < 32 ∧ bit (0x8FE : W32) (fld (0 : W32) 7 0) = true) ∧ (fld (3 : W32) 7 0 < 32 ∧ bit (0x8FE : W32) (fld (3 : W32) 7 0) = true) ∧
    (thOf State.reset 0).cryDone = [] ∧ (thOf (asked 1) 0).cryDone = [(0, 9)] ∧ (thOf (asked 1) 0).cry[0]? = some ⟨0, [1, 0, 0x40000000, 4, 0x40000100], false⟩ ∧
    fld (rqW r 0) 7 0 = 3 ∧ keyStatus (rqSlot keyed r) [1, 2] useTag (thUser 0) = crOk ∧ keyStatus (rqSlot State.reset r) [1, 2] useTag (thUser 0) = crKeyEmpty ∧
    keyStatus (rqSlot keyed r) [3] useHmac (thUser 0) = crKeyUsage ∧ fld (rqSlot keyed r).attr 1 0 ∈ [1, 2] ∧ (cryRead 0x40000000 4 State.reset).1 ≠ crOk ∧
    (cryRead 0x40000000 4 (setBank 0 { bankOf State.reset 0 with owner := 2, del0 := 3 } State.reset)).1 = crOk ∧
    (({ State.reset with cry := { State.reset.cry with rngFailed := true } } : State)).cry.rngFailed = true ∧
    fld (slotOf keyed 2).attr 1 0 ≠ 0 ∧ (List.replicate 16 (0 : Byte)).length = typeLen 1 ∧ (slotOf keyed 2).loaded = true ∧ (slotOf State.reset 2).loaded = false ∧
    writes 0 .CRY_KEY_CTRL State.reset ∧ regBad true 3 .CRY_KEY_CTRL State.reset = false ∧ envCheck 12 (inRange State.reset 12 0) true State.reset = some 1 ∧
    envCheck 12 (inRange keysOk 12 0) true keysOk = none ∧ bit (rd State.reset .CRY_PROV_LOCK 0 0) 0 = false ∧
    bit (rd (wr .CRY_PROV_LOCK 0 0 1 State.reset) .CRY_PROV_LOCK 0 0) 0 = true ∧ fld (slotOf State.reset (keySel 0 State.reset)).attr 1 0 = 0 ∧
    fld (slotOf (wr .CRY_KEY_SEL 0 0 2 keyed) (keySel 0 (wr .CRY_KEY_SEL 0 0 2 keyed))).attr 1 0 ≠ 0 ∧ writes 0 .CRY_PROV_LOCK State.reset ∧
    State.reset.cry.provWritten = false ∧ ({ State.reset with cry := { State.reset.cry with provWritten := true } } : State).cry.provWritten = true := by
  try unfold writes
  try unfold reads
  try dsimp only
  constructorm* _ ∧ _ <;> decide

/-- Doorbell 3 and block channel 64 are bound from identity 0 to thread 0's master 8; the host and thread 0 select them. -/
def bound : State := wr .MBX_CHSEL 0 0 3 (wr .MBX_BIND 0 3 0x80000800 (wr .MBX_BIND 0 64 0x80000800 State.reset))

theorem wit_MailboxesAndLocks :
    let full : State := setMbx 3 { mbxInit with full := true, words := [7], due := some 100 } bound
    let late : State := setTime { full.time with now := 100 } full
    let locked : State := setLock 5 (some 0) State.reset
    isSender bound 3 0 = true ∧ isSender bound 3 1 = false ∧ isReceiver bound 3 8 = true ∧ isReceiver bound 3 0 = false ∧
    (mbxOf (mbxOverdue 3 bound) 3).full = false ∧ (mbxOf (mbxOverdue 3 full) 3).full = true ∧ (mbxOf late 3).due = some 100 ∧ running late = true ∧
    (100 : W64) ≤ late.time.now ∧ full.time.now < (100 : W64) ∧ (mbxOf bound 3).due = none ∧ mbxSelected (.reg 0) 3 bound = true ∧ mbxSelected (.port 0) 70 bound = true ∧
    writesVia (.reg 0) .MBX_DB_DATA bound ∧ readsVia (.reg 0) .MBX_DB_DATA bound ∧ writesVia (.port 0) .MBX_DB_DATA bound ∧ readsVia (.port 0) .MBX_DB_DATA bound ∧
    writesVia (.reg 0) .MBX_CMD bound ∧ writesVia (.port 0) .MBX_BLK_W bound ∧ 64 ≤ viaBlock (.port 0) bound ∧ viaBlock (.reg 0) bound < 64 ∧
    readsVia (.reg 0) .MBX_LOCK bound ∧ writesVia (.reg 0) .MBX_LOCK locked ∧ lockOf bound 5 = none ∧ lockOf locked 5 = some 0 ∧ lockOf locked 5 ≠ some 1 ∧
    writes 0 .MBX_LOCK_FORCE locked ∧ writes 0 .MBX_BIND bound ∧ bit (rd (wr .MBX_BIND_LOCK 0 0 1 bound) .MBX_BIND_LOCK 0 0) 0 = true ∧
    (¬ (bit (rd bound .MBX_BIND_LOCK 0 0) 0 = true ∨ 35 < fld (0x80000800 : W32) 5 0 ∨ 35 < fld (0x80000800 : W32) 13 8)) ∧
    writes 0 .MBX_BIND_LOCK bound ∧ bound.mbx.bindLockWritten = false ∧ ({ bound with mbx := { bound.mbx with bindLockWritten := true } } : State).mbx.bindLockWritten = true := by
  try unfold writesVia
  try unfold readsVia
  try unfold writes
  try unfold reads
  try dsimp only
  constructorm* _ ∧ _ <;> decide

/-- The recorder is ON, with recorder state `r`. -/
def recOn (r : RecSt) : State := setRec r (wr .REC_STAT 0 0 2 State.reset)

theorem wit_RecorderActs :
    let e : RecEntry := ⟨5, 5, false, true, 1, 2, [1, 2, 3, 4, 5, 6, 7, 8, 9, 10, 11, 12]⟩
    let r0 := State.reset.recorder
    let rec8 : List (List W32) := List.replicate 8 [7]
    let page : State := recOn { r0 with staged := rec8, erased := true }
    let retry : State := recOn { r0 with staged := rec8, erased := true, retry := true }
    let erase : State := recOn { r0 with staged := rec8, erasing := true, inFlash := [(0, [9])] }
    let eraseAgain : State := recOn { r0 with staged := rec8, erasing := true, retry := true }
    let hour : State := recOn { r0 with opS := r0.persistedS + 3600 }
    (r0.fifo.length < 32 ∧ 32 ≤ { r0 with fifo := List.replicate 32 e }.fifo.length) ∧ (recOn { r0 with fifo := [e] }).recorder.fifo = e :: [] ∧ recWorks (recOn r0) = true ∧ recWorks State.reset = false ∧ (recOn r0).recorder.staged.length < 8192 ∧
    (shWriteRun .recorder 0 [1] (setBank 0 { bankOf State.reset 0 with owner := 4 } State.reset)).1 = memOk ∧ (shWriteRun .recorder 0 [1] State.reset).1 ≠ memOk ∧
    pageReady page = true ∧ page.recorder.erasing = false ∧ eraseNeeded page = false ∧ slotRead page = false ∧ recSector page ∉ page.recorder.badSectors ∧
    page.recorder.retry = false ∧ retry.recorder.retry = true ∧
    pageReady retry = true ∧ eraseNeeded retry = false ∧ slotRead retry = false ∧ recWorks erase = true ∧ erase.recorder.erasing = true ∧ recSector erase = 0 ∧
    erase.recorder.retry = false ∧ eraseAgain.recorder.retry = true ∧ recWorks eraseAgain = true ∧
    running hour = true ∧ 3600 ≤ hour.recorder.opS.toNat - hour.recorder.persistedS.toNat ∧ r0.opS.toNat - r0.persistedS.toNat < 3600 ∧ State.reset.pwr.st = .run ∧
    (setPwr .frost State.reset).pwr.st ≠ .run ∧ (setPwr .frost State.reset).pwr.st ≠ .off ∧ writes 0 .REC_CTRL State.reset ∧ isOff State.reset .REC_STAT 0 = true ∧
    (bankOf State.reset (fld (rd State.reset .REC_STAGE_BANK 0 0) 8 0)).owner ≠ 4 ∧ isOff (recOn r0) .REC_STAT 0 = false ∧ writes 0 .REC_SW_CODE State.reset ∧
    bit 0x8001 15 = true ∧ writes 0 .REC_RD_CTRL page ∧ recFind page 7 = some ([7], false) ∧ recFind erase 9 = some ([9], true) ∧
    rd (wr .REC_RD_SEQ 0 0 9 erase) .REC_RD_SEQ 0 0 = 9 ∧ recFind State.reset 7 = none ∧ reads 0 .REC_OPTIME_S State.reset ∧
    (wordAt [0x50, 0, 1, 1, 32, 0, 0] 3).toNat = 1 ∧ cmd64 [0x50, 0, 1, 1, 32, 0, 0] 16 % 32 = 0 := by
  try unfold writes
  try unfold reads
  try dsimp only
  constructorm* _ ∧ _ <;> decide

theorem wit_RecorderActs_starts : cmdStarts (waiting 0x50 [0x50, 0, 1, 1, 32, 0, 0]) 1 4 0x50 ⟨4, 9, false, 0x50, [0x50, 0, 1, 1, 32, 0, 0], false, []⟩ := waiting_starts _ _

/-- Nothing that boots is found in the flash. -/
def noImage : BootIn := { ctlA := [], ctlB := [], slotA := ⟨[], true⟩, slotB := ⟨[], true⟩, sect6 := ⟨[], [], [], []⟩, stored := none, placement := [], recMap := [], badKeys := [] }

/-- The power-control state of the machine after reset, changed. -/
def pwrAs (f : PwrSt → PwrSt) : State := { State.reset with pwr := f State.reset.pwr }

theorem wit_RestartsBootAndUpdate :
    let due : State := { wr .GLB_WDT_CFG 0 0 0x00010001 (pwrAs fun p => { p with wdt3At := some 0, wdt4At := some 0 }) with ticks := 250000 }
    let busy := pwrAs fun p => { p with restarting := true, restartPending := true }
    let trial := pwrAs fun p => { p with ctl := { p.ctl with trial := true, trialFail := 9 }, imageRollback := 5 }
    let limit := pwrAs fun p => { p with restartTimes := List.replicate 15 0 }
    let loaded : State := { (pwrAs fun p => { p with restartLoaded := true }) with pol := { State.reset.pol with th := { Thread.clear with fb := 2 } } }
    running due = true ∧ wdtDue due false = true ∧ wdtDue due true = true ∧ wdtDue State.reset true = false ∧
    restartBusy busy = true ∧ restartBusy State.reset = false ∧ State.reset.pwr.ctl.trial = false ∧ (restartsCounted State.reset).length + 1 < restartLimit State.reset ∧
    restartLimit limit ≤ (restartsCounted limit).length + 1 ∧ trial.pwr.ctl.trial = true ∧ restartLimit trial ≤ min 15 (trial.pwr.ctl.trialFail.toNat + 1) ∧
    writes 0 .GLB_RST_CTRL State.reset ∧ fld (0x2A5C3 : W32) 15 0 = 0xA5C3 ∧ bit (0x2A5C3 : W32) 17 = true ∧ bit (0x2A5C3 : W32) 16 = false ∧
    writes 0 .FWU_CONFIRM trial ∧ trial.pwr.otp.toNat < trial.pwr.imageRollback.toNat ∧ State.reset.pwr.imageRollback.toNat ≤ State.reset.pwr.otp.toNat ∧
    running busy = true ∧ busy.pwr.restartPending = true ∧ State.reset.pwr.restartPending = false ∧ levelsOff busy = true ∧ areaTaken busy = false ∧
    areaTaken (setBank busy.pwr.ctl.areaBank { bankOf busy busy.pwr.ctl.areaBank with owner := 0 } busy) = true ∧ (bootLoad noImage false (enginesZero busy)).1 = none ∧
    (fwAdvance loaded).pwr.restartLoaded = true ∧ fbState (fwAdvance loaded).pol.th.fb = 2 ∧ (fwAdvance loaded).pwr.placePending = false ∧
    (fwAdvance loaded).pwr.starting = [] ∧ loaded.pwr.restartCmd = none ∧ (fwAdvance State.reset).pwr.restartLoaded = false ∧
    State.reset.mem.test = none ∧ State.reset.pwr.strapBoot ≠ 1 ∧ (pwrAs fun p => { p with strapBoot := 1 }).pwr.marched = false ∧
    State.reset.pwr.booted = false ∧ ctlPick (ctlOf noImage.ctlA) (ctlOf noImage.ctlB) = none ∧ (pwrAs fun p => { p with booted := true }).pwr.booted = true ∧
    (wordAt [0x40, 0, 0, 256, 0, 0, 0, 0] 3).toNat = 256 ∧ fwBusy State.reset = false ∧ fwBusy (pwrAs fun p => { p with fwWrite := some ⟨1, 4, 9, 0x40⟩ }) = true ∧
    (pwrAs fun p => { p with fwWrite := some ⟨1, 4, 9, 0x40⟩ }).pwr.fwWrite = some ⟨1, 4, 9, 0x40⟩ := by
  try unfold writes
  try unfold reads
  try dsimp only
  constructorm* _ ∧ _ <;> decide

theorem wit_RestartsBootAndUpdate_starts : cmdStarts (waiting 0x40 [0x40, 0, 0, 256, 0, 0, 0, 0]) 1 4 0x40 ⟨4, 9, false, 0x40, [0x40, 0, 0, 256, 0, 0, 0, 0], false, []⟩ ∧
    cmdStarts (waiting 0x41 [0x41]) 1 4 0x41 ⟨4, 9, false, 0x41, [0x41], false, []⟩ := ⟨waiting_starts _ _, waiting_starts _ _⟩

/-- The machine after reset in another power state, with wake sources 0 and 16 enabled. -/
def asleep (p : PwrState) : State := setPwr p (wr .CLK_WAKE_EN 0 0 0x10001 State.reset)

theorem wit_PowerStatesAndResets :
    let u (s : State) := withWakeOut (setB .CLK_WAKE_CAUSE 0 0 (oneBit 0)) s
    let alarm (p : PwrState) := wr .CLK_RTC_S 0 0 9 (wr .CLK_RTC_ALARM 0 0 9 (asleep p))
    writes 0 .CLK_PWR_REQ State.reset ∧ fld (0x0C1D0001 : W32) 1 0 = 1 ∧ fld (0x0C1D0001 : W32) 31 16 = 0x0C1D ∧ fld (0x0C1D0002 : W32) 1 0 = 2 ∧
    pwrReason State.reset = none ∧ pwrReason (wr .ETH_STAT 0 3 2 State.reset) = some 1 ∧ State.reset.pwr.st = .run ∧ (asleep .frost).pwr.st = .frost ∧
    bit (rd (u (asleep .frost)) .CLK_WAKE_EN 0 0) (0 : Fin 19) = true ∧ bit (rd (u (setPwr .frost State.reset)) .CLK_WAKE_EN 0 0) (0 : Fin 19) = false ∧
    (asleep .thaw).pwr.st = .thaw ∧ (asleep .midwinter).pwr.st = .midwinter ∧ (asleep .enteringMidwinter).pwr.st = .enteringMidwinter ∧
    rd State.reset .CLK_RTC_ALARM 0 0 = 0 ∧ rd (alarm .run) .CLK_RTC_ALARM 0 0 ≠ 0 ∧ rd (alarm .run) .CLK_RTC_S 0 0 = rd (alarm .run) .CLK_RTC_ALARM 0 0 ∧
    (alarm .run).pwr.st = .run ∧ (alarm .frost).pwr.st ≠ .run ∧ (alarm .frost).pwr.st ≠ .off ∧ running State.reset = true ∧
    bit (rd State.reset .CLK_PLL_STAT 0 0) 2 = true ∧ bit (rd (wr .CLK_PLL_STAT 0 0 0 State.reset) .CLK_PLL_STAT 0 0) 2 = false ∧
    canDoze State.reset 4 = true ∧ bit (rd State.reset .CLK_DOZE_DIS 0 0) 4 = false ∧ canDoze State.reset 0 = false ∧ (1000 : Nat) ≤ 1000 ∧
    writes 0 .GLB_RST_CTRL State.reset ∧ bit (0x1A5C3 : W32) 16 = true ∧ fld (0x1A5C3 : W32) 15 0 = 0xA5C3 ∧ State.reset.pwr.st ≠ .off := by
  try unfold writes
  try unfold reads
  try dsimp only
  constructorm* _ ∧ _ <;> decide

theorem wit_StateAtReset : (0 : Nat) < 1024 ∧ (Reg.GLB_ID, 0, 0) ≠ (Reg.GLB_RST_CAUSE, 0, 0) ∧ (Reg.GLB_ID, 0, 0) ≠ (Reg.EVT_PEND, 0, 0) := by decide

/-! ### Well-formed commands: each check accepts a term and refuses one -/

/-- A fabric frame of `n` bytes at port `p`. -/
def fabFrame (p : Fin 32) (k : FKind) (n : Nat) (q : Option (Fin 4096)) : FabIn :=
  { port := p, queue := q, kind := k, bytes := List.replicate n 0, known := none, stamp := 0 }

theorem test_wf_slots : Instr.wf (.hifNop 0 255) = true ∧ Instr.wf (.hifNop 0 256) = false ∧ Instr.wf (.hifNop 8 16) = false := by decide
theorem test_wf_words : Instr.wf (.commandFetch 0 (List.replicate 16 0)) = true ∧ Instr.wf (.commandFetch 0 []) = false ∧
    Instr.wf (.commandFetch 8 (List.replicate 16 0)) = false ∧ Instr.wf (.spiWriteCommand [1]) = false := by decide
theorem test_wf_offsets : Instr.wf (.spiReadRegister 0xFFFFFF) = true ∧ Instr.wf (.spiReadRegister 0x1000000) = false ∧
    Instr.wf (.registerWrite 0 0 4 0) = true ∧ Instr.wf (.registerWrite 0 0 3 0) = false := by decide
theorem test_wf_frames : Instr.wf (.inbandCommandFrame 0 (List.replicate 14 0)) = true ∧ Instr.wf (.inbandCommandFrame 0 []) = false ∧
    Instr.wf (.fabricFirstCell (fabFrame 20 .can 16 (some 3))) = true ∧ Instr.wf (.fabricFirstCell (fabFrame 20 .can 15 (some 3))) = false ∧
    Instr.wf (.fabricFirstCell (fabFrame 27 .can 16 (some 3))) = false ∧ Instr.wf (.fabricFirstCell (fabFrame 3 .can 16 (some 3))) = false := by decide
theorem test_wf_records : Instr.wf (.canTxArrive 0 (List.replicate 16 0) 0) = true ∧ Instr.wf (.canTxArrive 0 [] 0) = false ∧
    Instr.wf (.slotBufferWrite (List.replicate 4 0)) = true ∧ Instr.wf (.slotBufferWrite []) = false := by decide
theorem test_wf_lengths : Instr.wf (.bar2Access 0 0 4 []) = true ∧ Instr.wf (.bar2Access 0 0x8000000 4 []) = false ∧
    Instr.wf (.marchBankDone 0 [2047] [71] false) = true ∧ Instr.wf (.marchBankDone 0 [2048] [71] false) = false ∧
    Instr.wf (.marchBankDone 0 [1, 1] [] false) = false ∧ Instr.wf (.pfcFrameRx 0 0 []) = false := by decide
theorem test_wf_threads : Instr.wf (.memoryOpComplete 0 1023) = true ∧ Instr.wf (.memoryOpComplete 0 1024) = false ∧
    Instr.wf (.statusReport 23 ⟨[⟨3, false, 0⟩], []⟩) = true ∧ Instr.wf (.statusReport 24 ⟨[], []⟩) = false ∧
    Instr.wf (.statusReport 23 ⟨[⟨4, false, 0⟩], []⟩) = false ∧ Instr.wf (.counterReadClear 0 ⟨0, 2⟩) = true ∧ Instr.wf (.counterReadClear 0 ⟨0, 3⟩) = false ∧ Instr.wf (.mapSwitch 24) = false ∧
    Instr.wf (.tag 0 31) = true ∧ Instr.wf (.tag 0 32) = false ∧ Instr.wf (.blockPost (.port 0) 0x100000) = false := by decide

/-! ### The spec's worked examples -/

/-- The state that a command leads to. -/
def after (c : Instr) (s : State) : State :=
  match exec c s with
  | .next t => t
  | _ => s

/-- 12, after Table 12.7: BPERM g5, g6, 0x0123 is 0x24A6_0123. -/
theorem test_bperm_word : ezWord (.bperm 0 5 6 0x0123) = some (0, 0x24A60123) := by decide
/-- The same word decodes to it. -/
theorem test_bperm_decodes : ezDecode 0 0x24A60123 = some (execBperm 0 5 6 0x0123) := rfl

/-- A word that an instruction has, and one that none has. -/
theorem wit_WordsAndInstructionsAgree : ezWord (.bperm 0 5 6 0x0123) = some (0, 0x24A60123) ∧ (ezDecode 0 0x24A60123).isSome = true ∧
    (ezDecode 0 0xFFFFFFFF).isNone = true := by decide
/-- The same example: g6 = 0x1234_ABCD. -/
theorem test_bperm_values : bpermV 0 0x1234ABCD 0x0123 = 0xCDAB3412 ∧ bpermV 0 0x1234ABCD 0x9910 = 0xFFFFABCD ∧
    bpermV 0 0x1234ABCD 0xFF32 = 0x00001234 := by decide
/-- The same example as one command of thread 0. -/
theorem test_bperm_runs : gR (thOf (after (.bperm 0 5 6 0x0123) (thrOn { Thread.clear with g := [(6, 0x1234ABCD)] })) 0) 5 = 0xCDAB3412 := by decide

/-- 12 Table 12.9, step 1: CALL at 0x0310 with lvalid 0 sets the link and stores nothing. -/
theorem test_call_links :
    let t := after (.call 0 0x44) (thrOn { Thread.clear with g := [(29, 0x1F000)], pc := 0x310 })
    (thOf t 0).lk = 0x314 ∧ (thOf t 0).lvalid = true ∧ (thOf t 0).sdepth = 0 ∧ (thOf t 0).pc = 0x420 ∧ (thOf t 0).ops = [] := by decide
/-- Step 3: CALL at 0x0420 with lvalid 1 spills the link at sp - 4. -/
theorem test_call_spills :
    let t := after (.call 0 0x10) (thrOn { Thread.clear with g := [(29, 0x1EFF0)], pc := 0x420, lk := 0x314, lvalid := true })
    (thOf t 0).lk = 0x424 ∧ (thOf t 0).sdepth = 1 ∧ gR (thOf t 0) 29 = 0x1EFEC ∧
      ((thOf t 0).ops.map fun o => (o.addr, o.data)) = [(0x1EFEC, 0x314)] := by decide

/-- 03, rate trim: TIME_INCR_FRAC = 0xFFFC_B926, then TIME_INCR_NS = 3, make 17,179,654,438 units. -/
theorem test_rate_trim :
    (after (.incrNsWrite 0 3) (after (.incrFracWrite 0 0xFFFCB926) State.reset)).time.incr = 17179654438 := by decide

set_option maxRecDepth 20000 in
/-- 11, the CRC unit: the Modbus RTU example. -/
theorem test_modbus_crc :
    let h : Thread := { Thread.clear with crcPoly := 0x8005, crcCfg := 0x310, crcReg := 0xFFFF }
    crcResult (crcRun h (([0x01, 0x03, 0x00, 0x00, 0x00, 0x0A] : List Byte).flatMap (crcBits h))) = 0xCDC5 := by decide

/-- 13, before Table 13.8: the carried values of frames A, B and C. -/
theorem test_freshness_values : fvOfTime 0x4FFFFFE00 = 0x013FFFFF ∧ fvOfTime 0x5000491E0 = 0x01400124 ∧
    fvOfTime (0x5000491E0 + 2600000) = 0x01400B0F := by decide
/-- 13 Table 13.8: profile 12 with the window [0, 2 ms). -/
theorem test_freshness_verdicts :
    let s (last : Option W32) := setFlow 2048 last (setActive 14 12 [0x800B0C34, 2048, 0, 2000000, 0] State.reset)
    freshness (s none) 12 2048 179488 0x013FFFFF = crOk ∧ freshness (s (some 0x013FFFFF)) 12 2048 1179488 0x013FFFFF = crReplay ∧
    freshness (s (some 0x013FFFFF)) 12 2048 2799488 0x01400124 = crStale ∧ freshness (s (some 0x013FFFFF)) 12 2048 3049488 0x01400B0F = crOk := by decide

/-- 06 Table 6.11: the average with weight 9, and the drop probabilities of the three colours. -/
theorem test_red_burst :
    let prof : List W32 := [4000, 8000, 2000, 6000, 1000, 3000, 32 + 64 * 512 + 128 * 262144]
    redAvg (3480 * 65536) 13720 9 / 65536 = 3500 ∧ redP prof 0 (3500 * 65536) = 0 ∧ redP prof 1 (3500 * 65536) = 6144 ∧
    redP prof 2 (3500 * 65536) = 65536 := by decide

/-- 10, the worked example of PB3: 0x30_0787 is SHOUT pin 30, 8. -/
theorem test_shout_word : smFld 0x300787 23 20 = 3 ∧ smFld 0x300787 12 6 = 30 ∧ smFld 0x300787 5 0 + 1 = 8 := by decide

/-- 15, before Table 15.3: doorbell 12 fires source 289. -/
theorem test_doorbell_source : postSource 12 = 289 := by decide
/-- 15 Table 15.3: a lock held by identity 14 answers 0x8E. -/
theorem test_lock_held : (lockTake 15 5 (setLock 5 (some 14) State.reset)).1 = 0x8E := by decide

set_option maxRecDepth 20000 in
/-- 18 R440: IRQ_N is high-impedance until a pending source has msix_en, then low; R438: nothing is driven without power. -/
theorem test_irq_n : pinDrive State.reset .irqN = none ∧ pinDrive (wr .EVT_ROUTE 0 0 0x20 State.reset) .irqN = some false ∧
    pinDrive { wr .EVT_ROUTE 0 0 0x20 State.reset with pwr := { State.reset.pwr with st := .off } } .irqN = none := by decide
/-- 08 R229: CANn_STB is asserted in OFF, low when stb_pol is set. -/
theorem test_can_stb : pinDrive State.reset (.canStb 3) = none ∧ pinDrive (wr .CAN_CTRL 0 3 0x800 State.reset) (.canStb 3) = some true ∧
    pinDrive (wr .CAN_CTRL 0 3 0x1800 State.reset) (.canStb 3) = some false := by decide

/-- Bank 128 belongs to the fabric, with the host as a delegate; the fabric writes 1 at its first byte. -/
def bothPorts : State :=
  (shWriteMask .fabric 0x2000000 [some 1] (setBank 128 { bankReset 128 with owner := 1, del0 := 1 } State.reset)).2

set_option maxRecDepth 20000 in
/-- 04 R92, R93: in the cycle of port A's write, port B's write of the word is lost and counted, and its read gives the old byte. -/
theorem test_same_word :
    let s := setBank 128 { bankOf bothPorts 128 with owner := 16 } bothPorts
    let r := shWriteMask (.thread 0) 0x2000000 [some 2] s
    r.1 = memLost ∧ memRead r.2.stores.shared 0x2000000 = 1 ∧ rd r.2 .MEM_LOST_WR 0 128 = 1 ∧
    (shRead (.thread 0) 0x2000000 1 s).2.1 = [0] := by decide

/-- 15 R395: the holder's write of 0x100 releases, its bits 31 to 8 being reserved. -/
theorem test_lock_reserved_bits : lockOf (lockWrite 0 5 0x100 (setLock 5 (some 0) State.reset)) 5 = none := by decide

/-- Engine 0's T0 waits to post 7 on full doorbell 2, and engine 1's T0 to take it; both wait to read lock 3. -/
def mailboxCycle : State :=
  let io (i : Bool) (p : BitVec 16) : Thread := { Thread.clear with fb := 2, wait := .io i p 1 7 }
  let s := setTh 0 (io false 0x402) (setTh 4 (io true 0x402) (setTh 8 (io true 0x483) (setTh 12 (io true 0x483) State.reset)))
  setMbx 2 { mbxInit with full := true, words := [5] } (wr .MBX_BIND 0 2 0x80000908 s)

set_option maxRecDepth 20000 in
/-- 15 R389, R396: in one cycle the take of a full doorbell is served before the post, and a free lock goes to the lowest identity. -/
theorem test_mailbox_cycle :
    let s := tickMailbox mailboxCycle
    gR (thOf s 4) 1 = 5 ∧ (mbxOf s 2).full = true ∧ (mbxOf s 2).words = [7] ∧ (thOf s 0).wait = .none ∧ lockOf s 3 = some 10 ∧
    gR (thOf s 8) 1 = 0 ∧ gR (thOf s 12) 1 = 0x8A := by decide

/-- 14 R375, Table 14.2: a third serial line of personality 1 is refused and counted. -/
theorem test_third_line :
    let ask (s : State) := connAsk 0 (connKinds 1) ⟨0, false, 0⟩ s
    let s := ask (ask (ask State.reset))
    connsOf s 0 0 = 2 ∧ nmGet 0 s.pol.refused 0 = 1 := by decide

set_option maxRecDepth 20000 in
/-- 02 R20: a read of two bytes of BAR0 answers 0 and is an access error. -/
theorem test_narrow_read :
    let s := after (.counterReadClear 0 ⟨0, 2⟩) State.reset
    s.outbox.length = 1 + State.reset.outbox.length ∧ bit (rd s .EVT_ACCERR_ID 0 0) 31 = true := by decide

/-! ### The queue of commands -/

theorem test_step_takes_the_front :
    step { State.reset with pending := [.islDown, .islUp] } = exec .islDown { State.reset with pending := [.islUp] } := rfl
theorem test_no_word_spells_a_command : State.reset.withFetchWord 32 0 = State.reset := rfl
end

/-! The register file (O4, O5), and the CAN channels' sending and reception (O34, O35): one law for each case of each meaning, and the
obligations as their sums. -/

namespace Sys2Proof.Machine

/-! ### Registers: what a field write leaves in each bit (R5 to R7, Table 0.4) -/

/-- A written bit of a field: read-write bits follow the word, write-1-to-set bits join it, write-1-to-clear bits fall to it. -/
theorem getLsbD_rd_plainWrite (s : State) (r : Reg) (i c k : Nat) (v : W32) :
    (rd (plainWrite r i c v s) r i c).getLsbD k =
      (((rd s r i c).getLsbD k && !r.desc.rw.getLsbD k || v.getLsbD k && r.desc.rw.getLsbD k || v.getLsbD k && r.desc.w1s.getLsbD k) &&
        !(v.getLsbD k && r.desc.w1c.getLsbD k)) := by
  simp only [plainWrite, rd_wr_same, BitVec.getLsbD_and, BitVec.getLsbD_or, BitVec.getLsbD_not]
  by_cases hk : k < 32
  · simp [hk]
  · simp [BitVec.getLsbD_of_ge, Nat.le_of_not_lt hk]

/-- Settles O4: the key of an element says its register, index and part, and a write is a write of the sparse map at that key. -/
theorem registerFileKeepsOthers : Obligations.RegisterFileKeepsOthers := by
  intro s r q i j c d v hi hj
  refine ⟨rd_wr_same r i c v s, fun hne => rd_wr_ne r q i j c d v s fun hkey => hne ?_, rfl⟩
  obtain ⟨rfl, rfl, rfl⟩ := regKey_inj r q i j c d hi hj hkey
  rfl

/-- Settles O5, by the value of one bit after the write in each type of its field. -/
theorem fieldTypesGovernWrites : Obligations.FieldTypesGovernWrites := by
  intro s r i c k v old new rw w1c w1s
  have hnew : new = ((old && !rw || v.getLsbD k && rw || v.getLsbD k && w1s) && !(v.getLsbD k && w1c)) :=
    getLsbD_rd_plainWrite s r i c k v
  refine ⟨?readWrite, ?clears, ?sets, ?ignores⟩ <;> intro hrw hw1c hw1s <;> simp [hnew, hrw, hw1c, hw1s]

/-! ### Frames sent on a CAN channel -/

section arms
variable (c : Fin 32) (s : State)

theorem exec_canTxArrive_eq (l : List Byte) (cls : Fin 8) : exec (.canTxArrive c l cls) s = execCanTxArrive c l cls s := rfl

theorem exec_canTxAttempt_eq (stamp : W64) : exec (.canTxAttempt c stamp) s = execCanTxAttempt c stamp s := rfl

theorem exec_canAttemptEnd_eq (x : AttemptOver) : exec (.canAttemptEnd c x) s = execCanAttemptEnd c x s := rfl

theorem exec_scheduledSlotRelease_eq : exec (.scheduledSlotRelease c) s = execScheduledSlotRelease c s := rfl

end arms

section canSend
variable {s : State} {c : Nat} {l : List Byte} {cls : Nat}

/-- R206: a frame at a channel that is not ON is dropped and counted. -/
theorem canArrive_of_not_on (hon : isOn s .CAN_STAT c = false) :
    canArrive c l cls none s = count32 .CAN_TX_OFF_DROP 0 c s := by
  simp [canArrive, dropArrival, hon]

/-- R207: a record that no controller can send is dropped and counted. -/
theorem canArrive_of_bad (hon : isOn s .CAN_STAT c = true) (hbad : recBad s c l = true) :
    canArrive c l cls none s = canCause c 7 (count32 .CAN_TX_BAD 0 c s) := by
  simp [canArrive, dropArrival, hon, hbad]

variable (hon : isOn s .CAN_STAT c = true) (hbad : recBad s c l = false)
include hon hbad

/-- R219: a full FIFO drops the frame. -/
theorem canArrive_of_fifo_full (hawake : busOf s c = 0) (hfull : 32 ≤ (chOf s c).fifo.length) :
    canArrive c l cls none s = canCause c 5 (count32 .CAN_TX_FULL_DROP 0 c s) := by
  simp [canArrive, dropArrival, hon, hbad, hawake, hfull]

/-- R231: a full hold list of a bus that is not awake drops the frame. -/
theorem canArrive_of_hold_full (hasleep : busOf s c ≠ 0) (hfull : holdMax s c ≤ (chOf s c).hold.length) :
    canArrive c l cls none s = canCause c 6 (count32 .CAN_HOLD_DROP 0 c s) := by
  simp [canArrive, dropArrival, hon, hbad, hasleep, hfull]

/-- R219, R220: a frame of an awake bus joins the end of the FIFO under the next tag, its cells taken. -/
theorem canArrive_joins_fifo (hawake : busOf s c = 0) (hroom : (chOf s c).fifo.length < 32) {i : Nat} {u : State}
    (hflight : ensureFlight c l cls none s = (i, u)) :
    canArrive c l cls none s = setFifo c ((chOf u c).fifo ++ [⟨l, (chOf u c).nextTag, u.time.now, cls, 0, i⟩])
      (setCh c { chOf u c with nextTag := (chOf u c).nextTag + 1 } u) := by
  simp [canArrive, hon, hbad, hawake, Nat.not_le.mpr hroom, hflight]

/-- R231: a frame of a bus that is not awake joins the end of the hold list. -/
theorem canArrive_joins_hold (hasleep : busOf s c ≠ 0) (hroom : (chOf s c).hold.length < holdMax s c) {i : Nat} {u : State}
    (hflight : ensureFlight c l cls none s = (i, u)) :
    canArrive c l cls none s = canSettle c (setCh c { chOf u c with
      nextTag := (chOf u c).nextTag + 1, hold := (chOf u c).hold ++ [⟨l, (chOf u c).nextTag, u.time.now, cls, 0, i⟩] } u) := by
  simp [canArrive, hon, hbad, hasleep, Nat.not_le.mpr hroom, hflight]

end canSend

theorem exec_canTxArrive_running {s : State} (hrun : running s = true) (c : Fin 32) (l : List Byte) (cls : Fin 8) :
    exec (.canTxArrive c l cls) s = .next (canArrive c l cls none s) := by
  rw [exec_canTxArrive_eq]
  simp [execCanTxArrive, hrun]

section canAttempt
variable {s : State} {c : Fin 32}

/-- R224: the scheduled slot goes before the FIFO. -/
theorem exec_canTxAttempt_slot (hstart : canStart s c = true) {e : CanTx} (hsched : (chOf s c).sched = some e) (stamp : W64) :
    exec (.canTxAttempt c stamp) s = .next (setCh c { chOf s c with
      sched := some { e with lastSof := BitVec.ofNat 32 stamp.toNat }, attempt := some ⟨true, stamp, false, false, []⟩ } s) := by
  rw [exec_canTxAttempt_eq]
  simp [execCanTxAttempt, hstart, hsched]

/-- R221: with the slot free the head of the FIFO makes the attempt. -/
theorem exec_canTxAttempt_head (hstart : canStart s c = true) {e : CanTx} {r : List CanTx} (hsched : (chOf s c).sched = none)
    (hfifo : (chOf s c).fifo = e :: r) (stamp : W64) :
    exec (.canTxAttempt c stamp) s = .next (setCh c { chOf s c with
      fifo := { e with lastSof := BitVec.ofNat 32 stamp.toNat } :: r, attempt := some ⟨false, stamp, false, false, []⟩ } s) := by
  rw [exec_canTxAttempt_eq]
  simp [execCanTxAttempt, hstart, hsched, hfifo]

/-- The state at the end of attempt `a` before its outcome counts: no attempt, and the commands that waited for it are done. -/
def attemptClosed (c : Nat) (a : Attempt) (s : State) : State := cmdDone c a.askers (setCh c { chOf s c with attempt := none } s)

variable {a : Attempt} (hattempt : (chOf s c).attempt = some a)
include hattempt

/-- R222: lost arbitration leaves the entry where it is. -/
theorem exec_canAttemptEnd_arbLost (hkept : a.cancelled = false) (n : Fin 32) :
    exec (.canAttemptEnd c ⟨.arbLost, n⟩) s = .next (canSettle c (count32 .CAN_ARB_LOST 0 c (attemptClosed c a s))) := by
  rw [exec_canAttemptEnd_eq]
  simp [execCanAttemptEnd, attemptClosed, hattempt, hkept]

variable {e : CanTx} {r : List CanTx} (hhead : a.slot = false) (hfifo : (chOf s c).fifo = e :: r)
include hhead hfifo

/-- R221, R225: the head's attempt was sent. -/
theorem exec_canAttemptEnd_sent (hkept : a.cancelled = false) (n : Fin 32) :
    exec (.canAttemptEnd c ⟨.sent, n⟩) s =
      let u := attemptClosed c a s
      let v := say (.can c (onBus u c e.record)) (count32 .CAN_TX_OK 0 c u)
      .next (canSettle c (frameLeave c false 0 (confine c
        (setCh c { chOf v c with tec := (chOf v c).tec - 1, idColRun := 0, lastFrame := v.time.now } v)))) := by
  rw [exec_canAttemptEnd_eq]
  simp [execCanAttemptEnd, attemptClosed, hattempt, hhead, hfifo, hkept]

/-- R221: any other end of the head's attempt is a failed one. -/
theorem exec_canAttemptEnd_error {how : AttemptEnd} (hsent : how ≠ .sent) (harb : how ≠ .arbLost) (n : Fin 32) :
    exec (.canAttemptEnd c ⟨how, n⟩) s = .next (canSettle c (attemptFail c a how n e.record (attemptClosed c a s))) := by
  rw [exec_canAttemptEnd_eq]
  cases how <;> simp_all [execCanAttemptEnd, attemptClosed]

end canAttempt

/-- R2, R221, R228: what a failed attempt of the head, not cancelled meanwhile, adds and counts. -/
theorem attemptFail_of_head {a : Attempt} (hhead : a.slot = false) (hkept : a.cancelled = false) (c : Nat) (how : AttemptEnd) (n : Nat)
    (l : List Byte) (u : State) :
    attemptFail c a how n l u =
      let x := confine c (setCh c { chOf u c with
        tec := (chOf u c).tec + (txErrAdds u c how + 8 * n), idColRun := if how = .bitErr then (chOf u c).idColRun + 1 else 0 }
        (count32 .CAN_TX_ERR 0 c u))
      if 3 ≤ (chOf x c).idColRun then idCollision c l x else x := by
  simp [attemptFail, hhead, hkept]

/-- R225: the head leaves the FIFO with its status. -/
theorem frameLeave_head {s : State} {c : Nat} {e : CanTx} {r : List CanTx} (hfifo : (chOf s c).fifo = e :: r) (st : Nat) :
    frameLeave c false st s = txFree c false st e (setFifo c r s) := by
  simp [frameLeave, hfifo]

/-! ### The scheduled slot -/

section slot
variable {s : State} {c : Fin 32} {l : List Byte} {t : W64}

/-- R224: before its instant a scheduled frame waits. -/
theorem exec_scheduledSlotRelease_early (hrel : (chOf s c).release = some (l, t)) (hearly : now s < t.toNat) :
    exec (.scheduledSlotRelease c) s = .next s := by
  rw [exec_scheduledSlotRelease_eq]
  simp [execScheduledSlotRelease, hrel, hearly]

/-- R224: at its instant a scheduled frame is put into the slot. -/
theorem exec_scheduledSlotRelease_due (hrel : (chOf s c).release = some (l, t)) (hrun : running s = true) (hdue : t.toNat ≤ now s) :
    exec (.scheduledSlotRelease c) s = .next (slotPut c l (setCh c { chOf s c with release := none } s)) := by
  rw [exec_scheduledSlotRelease_eq]
  simp [execScheduledSlotRelease, hrel, hrun, Nat.not_lt.mpr hdue]

end slot

theorem slotPut_free {s : State} {c : Nat} (hfree : (chOf s c).sched = none) (l : List Byte) :
    slotPut c l s = setCh c { chOf s c with sched := some ⟨l, 0, s.time.now, 0, 0, 0⟩ } s := by
  simp [slotPut, hfree]

/-- R224, R225: the unsent frame of the slot is logged as removed and counted as missed. -/
theorem slotPut_taken {s : State} {c : Nat} {old : CanTx} (htaken : (chOf s c).sched = some old) (l : List Byte) :
    slotPut c l s =
      let v := canCause c 10 (count32 .CAN_SYNC_MISS 0 c (txLog c true 1 old s))
      setCh c { chOf v c with sched := some ⟨l, 0, s.time.now, 0, 0, 0⟩, attempt := (chOf v c).attempt.filter fun a => !a.slot } v := by
  simp [slotPut, htaken]

/-- Settles O34: one law for each case of the arrival, the attempt, its end and the scheduled slot. The error
counter's rules and the tag of a scheduled frame are those of logs 29 and 57. -/
theorem canTransmission : Obligations.CanTransmission := by
  refine ⟨?arrival, ?start, ?ending, ?leaving, ?slot⟩
  case arrival =>
    intro s c l cls hrun k
    rw [exec_canTxArrive_running hrun]
    refine ⟨fun hoff => by rw [canArrive_of_not_on hoff], fun hon hbad => by rw [canArrive_of_bad hon hbad],
      fun hbad hon => ⟨?_, ?_, ?_, ?_⟩⟩
    · intro hawake hfull
      rw [canArrive_of_fifo_full hon hbad hawake hfull]
    · intro hasleep hfull
      rw [canArrive_of_hold_full hon hbad hasleep hfull]
    · intro hawake hroom
      exact congrArg Host.Outcome.next (canArrive_joins_fifo hon hbad hawake hroom (Prod.eta _).symm)
    · intro hasleep hroom
      exact congrArg Host.Outcome.next (canArrive_joins_hold hon hbad hasleep hroom (Prod.eta _).symm)
  case start =>
    intro s c stamp hstart k sof
    exact ⟨fun e hsched => exec_canTxAttempt_slot hstart hsched stamp,
      fun e r hsched hfifo => exec_canTxAttempt_head hstart hsched hfifo stamp⟩
  case ending =>
    intro s c n a e r k hattempt hhead hkept hfifo u fails
    have hfails : ∀ how, how ≠ .sent → how ≠ .arbLost → exec (.canAttemptEnd c ⟨how, n⟩) s =
        .next (fails (if how = .bitErr then (chOf u c).idColRun + 1 else 0) (txErrAdds u c how)) := by
      intro how hsent harb
      rw [exec_canAttemptEnd_error hattempt hhead hfifo hsent harb, attemptFail_of_head hhead hkept]
      rfl
    refine ⟨exec_canAttemptEnd_sent hattempt hhead hfifo hkept n, exec_canAttemptEnd_arbLost hattempt hkept n,
      hfails .bitErr nofun nofun, hfails .otherErr nofun nofun, fun d => ?_, fun b => hfails (.stuffErr b) nofun nofun⟩
    rw [hfails (.ackErr d) nofun nofun]
    simp [txErrAdds]
  case leaving => exact fun s c st e r hfifo => frameLeave_head hfifo st
  case slot =>
    intro s c l t k hrel hrun
    refine ⟨exec_scheduledSlotRelease_early hrel, fun hdue => ?_⟩
    rw [exec_scheduledSlotRelease_due hrel hrun hdue]
    intro u e
    have hsched : (chOf u c).sched = k.sched := by simp [u]
    exact ⟨fun hfree => by rw [slotPut_free (hsched.trans hfree)]; rfl,
      fun old htaken => by rw [slotPut_taken (hsched.trans htaken)]; rfl⟩

/-! ### Frames and errors received on a CAN channel -/

section rxArms
variable (c : Fin 32) (s : State)

theorem exec_canRxFrame_eq (l : List Byte) (stamp : W64) : exec (.canRxFrame c l stamp) s = execCanRxFrame c l stamp s := rfl

theorem exec_canRouterFrame_eq (l : List Byte) (stamp : W64) : exec (.canRouterFrame c l stamp) s = execCanRouterFrame c l stamp s := rfl

theorem exec_canRxError_eq (x : RxError) : exec (.canRxError c x) s = execCanRxError c x s := rfl

end rxArms

section canReceive
variable {s : State} {c : Fin 32}

/-- R209: a well-formed record of an enabled format is counted, lowers the error counter and goes to the filter. -/
theorem exec_canRxFrame_heard {l : List Byte} (hrun : running s = true) (hhears : canHears s c = true) (hfmt : canFmt l ≠ 3)
    (henabled : fmtEnabled s c (canFmt l) = true) (hlen : l.length = 16 + canLen l) (hok : canLenOk (canFmt l) (canLen l) = true)
    (stamp : W64) :
    exec (.canRxFrame c l stamp) s = .next (canFilter c (rxRecord c l) stamp (confine c
      (setCh c { chOf s c with recv := min 127 ((chOf s c).recv - 1), lastFrame := s.time.now } (count32 .CAN_RX_OK 0 c s)))) := by
  rw [exec_canRxFrame_eq, execCanRxFrame, if_neg (by simp [hrun, hhears, hfmt, henabled, hlen, hok])]

theorem exec_canRxFrame_deaf (hdeaf : canHears s c = false) (l : List Byte) (stamp : W64) :
    exec (.canRxFrame c l stamp) s = .next s := by
  simp [exec_canRxFrame_eq, execCanRxFrame, hdeaf]

theorem exec_canRouterFrame_running (hrun : running s = true) (l : List Byte) (stamp : W64) :
    exec (.canRouterFrame c l stamp) s = .next (canRoute c l stamp s) := by
  simp [exec_canRouterFrame_eq, execCanRouterFrame, hrun]

/-- R209: what an error adds at a channel that is ON or stopping and takes part in the bus. -/
theorem exec_canRxError (hrun : running s = true) (hon : 2 ≤ fbState (fbOf s .CAN_STAT c)) (herr : errOf s c < 2) (x : RxError) :
    exec (.canRxError c x) s = .next (if x.pexc then canCause c 8 (count32 .CAN_PEXC 0 c s)
      else confine c (setCh c { chOf s c with recv := (chOf s c).recv + 1 + 8 * x.eights } (count32 .CAN_RX_ERR 0 c s))) := by
  rw [exec_canRxError_eq, execCanRxError, if_neg (by simp [hrun, hon, herr])]

end canReceive

/-! ### The filter and the high-priority buffer -/

/-- R210: a filter element that takes frame `l`, by its format and its masked identifier. -/
def elementHit (l : List Byte) (e : List W32) : Bool :=
  (decide (fld (wordAt e 1) 31 29 = 0) || bit (wordAt e 1) (29 + canFmt l)) && idHit e l

/-- R210: the governing filter element of channel `c`. -/
def elementOf (s : State) (c : Nat) (l : List Byte) : Option (Nat × List W32) := findEntry s 9 (c * 128) 128 (elementHit l)

section filter
variable {s : State} {c : Nat} {l : List Byte}

theorem canFilter_of_element {i : Nat} {e : List W32} (hel : elementOf s c l = some (i, e)) (stamp : W64) :
    canFilter c l stamp s =
      if fld (wordAt e 2) 1 0 = 0 then count32 .CAN_RX_DROP 0 c s
      else if fld (wordAt e 2) 1 0 = 1 then canRoute c l stamp s
      else if fld (wordAt e 2) 1 0 = 2 then canEnter c l stamp [.queue (fld (wordAt e 2) 15 4)] s
      else hpbPut c l stamp s := by
  unfold elementOf elementHit at hel
  simp only [canFilter, hel, canRxDrop]
  split <;> simp_all

theorem canFilter_of_no_element (hel : elementOf s c l = none) (stamp : W64) :
    canFilter c l stamp s = if bit (rd s .CAN_RX_DEF 0 c) 0 then canEnter c l stamp [.queue (fld (rd s .CAN_RX_DEF 0 c) 15 4)] s
      else count32 .CAN_RX_DROP 0 c s := by
  unfold elementOf elementHit at hel
  simp only [canFilter, hel, canRxDrop]

theorem hpbPut_overflow (h : 4 ≤ (chOf s c).hpb.length ∨ 64 < canLen l) (stamp : W64) :
    hpbPut c l stamp s = canCause c 9 (count32 .CAN_HPB_OVF 0 c s) := by
  simp [hpbPut, h]

theorem hpbPut_room (hroom : (chOf s c).hpb.length < 4) (hlen : canLen l ≤ 64) (stamp : W64) :
    hpbPut c l stamp s =
      raise (129 + 2 * c) (setCh c { chOf s c with hpb := (chOf s c).hpb ++ [(l, BitVec.ofNat 32 stamp.toNat)] } s) := by
  simp [hpbPut, Nat.not_le.mpr hroom, Nat.not_lt.mpr hlen]

end filter

/-! ### The router -/

theorem canRoute_miss {s : State} {c : Nat} {l : List Byte} (hmiss : routeOf s c l = none) (stamp : W64) :
    canRoute c l stamp s = count32 .CAN_RT_MISS 0 c s := by
  simp [canRoute, hmiss]

/-- The state with the hit of route `k` counted. -/
def routeHit (k : Nat) (s : State) : State := { s with can := { s.can with rtHit := rtBump s.can.rtHit k } }

section route
variable {s : State} {c : Nat} {l : List Byte} {k : Nat} {e : List W32} (hroute : routeOf s c l = some (k, e)) (stamp : W64)
include hroute

/-- R170 to R172, R215: a route without a rate limit counts and drops the frame in quarantine, and else sends its copies. -/
theorem canRoute_unlimited (hlimit : fld (wordAt e 5) 7 0 = 0) :
    canRoute c l stamp s =
      let t := routeHit k s
      if bit (wordAt e 2) 17 then { t with can := { t.can with rtQuar := rtBump t.can.rtQuar k } }
      else routeCopies c e (rewrite e l) stamp t := by
  simp [canRoute, hroute, routeHit, hlimit]

/-- R214: a frame within the limit of its window counts there, and its copies are sent. -/
theorem canRoute_within_limit (hlimit : fld (wordAt e 5) 7 0 ≠ 0)
    (hwithin : (rtWindow (routeHit k s) k e stamp).2 < fld (wordAt e 5) 7 0) (hfree : bit (wordAt e 2) 17 = false) :
    canRoute c l stamp s = routeCopies c e (rewrite e l) stamp (rtPass k (rtWindow (routeHit k s) k e stamp).1
      (fld (wordAt e 5) 31 16 * 1000) ((rtWindow (routeHit k s) k e stamp).2 + 1) (routeHit k s)) := by
  unfold routeHit at *
  simp [canRoute, hroute, hlimit, Nat.not_le.mpr hwithin, hfree]

/-- R214: a frame above the limit of its window is counted and dropped. -/
theorem canRoute_above_limit (hlimit : fld (wordAt e 5) 7 0 ≠ 0)
    (habove : fld (wordAt e 5) 7 0 ≤ (rtWindow (routeHit k s) k e stamp).2) :
    canRoute c l stamp s = fabEvent (83 + c / 16)
      { routeHit k s with can := { (routeHit k s).can with rtRate := rtBump (routeHit k s).can.rtRate k } } := by
  unfold routeHit at *
  simp [canRoute, hroute, hlimit, habove]

end route

/-- Settles O35: one law for each case of reception, of the filter, of the buffer and of the router. The error
counter's rules are those of log 29. -/
theorem canReception : Obligations.CanReception := by
  refine ⟨fun s c l stamp hrun => ?received, fun s c l stamp => ?disposed⟩
  case received =>
    refine ⟨fun hhears hfmt henabled hlen hok => exec_canRxFrame_heard hrun hhears hfmt henabled hlen hok stamp,
      fun hdeaf => exec_canRxFrame_deaf hdeaf l stamp, exec_canRouterFrame_running hrun l stamp,
      fun hon herr n => ⟨exec_canRxError hrun hon herr ⟨true, n⟩, exec_canRxError hrun hon herr ⟨false, n⟩⟩⟩
  case disposed =>
    refine ⟨fun i e hel => ?element, fun hel => canFilter_of_no_element hel stamp, fun h => hpbPut_overflow h stamp,
      fun hroom hlen => hpbPut_room hroom hlen stamp, fun hmiss => canRoute_miss hmiss stamp, fun k e hroute => ?route⟩
    case element =>
      rw [canFilter_of_element hel stamp]
      refine ⟨?_, ?_, ?_, ?_⟩ <;> intro haction <;> simp [haction]
    case route =>
      refine ⟨fun hlimit hquar => ?_, fun hlimit hfree => ?_, canRoute_within_limit hroute stamp, canRoute_above_limit hroute stamp⟩
      · simp [canRoute_unlimited hroute stamp hlimit, hquar, routeHit]
      · simp [canRoute_unlimited hroute stamp hlimit, hfree, routeHit]

end Sys2Proof.Machine

/-! The policy envelope's refusal (O7) and the Solstice switch with the deliveries of the event router (O17): what the checks of a
register write answer, said once; that every command that is a register write goes through them; and one law for each case of
SOLSTICE, MSIX_MESSAGE and EVT_OUT_PULSE_END. -/

namespace Sys2Proof.Machine

/-! ### The checks of a register write (R22, R26, R369, R454) -/

/-- R369: the first reason for which the envelope refuses the policy core's write of `v` to register `r`, if there is one. -/
def envelopeVerdict (r : Reg) (v : W32) (s : State) : Option Nat :=
  let g := governs r (partOf r 3 s) v s
  envCheck g.1 g.2.1 g.2.2 s

section checkedWrite
variable {m i : Nat} {r : Reg} {v : W32} {s : State}

/-- R369: the policy core's write of a register without a copy per master is refused for the envelope's first failing reason. -/
theorem withPolicy_refused {why : Nat} (hbanked : r.desc.banked = false) (henv : envelopeVerdict r v s = some why)
    (onRefuse k : State → State) :
    withPolicy 3 r i v onRefuse k s =
      onRefuse (govRefuse (governs r (partOf r 3 s) v s).1 why r.block (regOff r i % 0x10000) v s) := by
  unfold envelopeVerdict at henv
  simp [withPolicy, hbanked, henv]

/-- R22, R26, R454: an access that the device serves and admits is made. -/
theorem withReg_admitted (hrun : running s = true) (hadmit : regBad true m r s = false) (k : State → State) :
    withReg m r i k s = k s := by
  simp [withReg, hrun, hadmit]

/-- R369: an admitted write that the envelope refuses does nothing but be counted and recorded. -/
theorem withWrite_refused {why : Nat} (hrun : running s = true) (hadmit : regBad true 3 r s = false) (hbanked : r.desc.banked = false)
    (henv : envelopeVerdict r v s = some why) (k : State → State) :
    withWrite 3 r i v k s = govRefuse (governs r (partOf r 3 s) v s).1 why r.block (regOff r i % 0x10000) v s := by
  rw [withWrite, withReg_admitted hrun hadmit, withPolicy_refused hbanked henv, id]

end checkedWrite

/-! ### The commands that are register writes -/

/-- Command `c` makes the register write `w` (identity, register, element, value) from state `s`: it takes both checks, and then has
its own effect. -/
def MakesWrite (c : Instr) (s : State) (w : Fin 64 × Reg × Nat × W32) : Prop :=
  ∃ k, exec c s = .next (withWrite w.1 w.2.1 w.2.2.1 w.2.2.2 k s)

section makesWrite
variable {c : Instr} {s : State} {w w' : Fin 64 × Reg × Nat × W32} {k : State → State}

/-- A command that always writes. -/
theorem makesWrite_of_some (hw : some w = some w') (hexec : exec c s = .next (withWrite w.1 w.2.1 w.2.2.1 w.2.2.2 k s)) :
    MakesWrite c s w' := by
  cases hw
  exact ⟨k, hexec⟩

variable {p : Prop} [Decidable p]

/-- A command that writes where its value says so. -/
theorem makesWrite_of_ite_some (hw : (if p then some w else none) = some w')
    (hexec : exec c s = .next (if p then withWrite w.1 w.2.1 w.2.2.1 w.2.2.2 k s else s)) : MakesWrite c s w' := by
  obtain ⟨hp, hw⟩ := Option.ite_none_right_eq_some.mp hw
  exact makesWrite_of_some hw (by rw [hexec, if_pos hp])

/-- A command that writes where its value does not say otherwise. -/
theorem makesWrite_of_ite_none (hw : (if p then none else some w) = some w')
    (hexec : exec c s = .next (if p then s else withWrite w.1 w.2.1 w.2.2.1 w.2.2.2 k s)) : MakesWrite c s w' := by
  obtain ⟨hp, hw⟩ := Option.ite_none_left_eq_some.mp hw
  exact makesWrite_of_some hw (by rw [hexec, if_neg hp])

end makesWrite

/-- Every command that is a register write makes it under the checks of a register write; the framework's kick of the level-3
watchdog only when the instances have reported. -/
theorem makesWrite_of_writeOf {c : Instr} {s : State} {w : Fin 64 × Reg × Nat × W32} (hw : writeOf c = some w)
    (hkick : c = .wdt3Kick 3 → instancesReport s = true) : MakesWrite c s w := by
  cases c with
  | sqTailDoorbell | cqHeadAdvance | inbandSeqClear | incrFracWrite | incrNsWrite | alarmArm | alarmDisarm | memQuotaWrite
  | qmQBindWrite | qmQLimitWrite | fabActRead | fabActApply | canActRead | canActApply | ethModeWrite | txThrWrite | cancelByTag
  | headAbort | headAbortRequeue | pioGstartLoWrite | pioGstart | engTBudgetWrite | engImemDataWrite | engTGdataWrite | polTblRead
  | provLockWrite | mbxBindWrite | mbxBindLockWrite | lockForce | softwareRecord | recRdRead | fwuConfirm =>
    exact makesWrite_of_some hw rfl
  | ringEnable | timeAdjCtrlStep | timeAdjCtrlSlew | timeAdjCtrlCancel | queueEnable | portEnable | mdioWrite | mdioRead | mdioAddress
  | channelEnable | busOffRecover | busSleepRequest | busWakeRequest | starEnable | modeSwitchRequest | polEnable | recEnable
  | frostRequest | midwinterRequest | swDeviceReset =>
    exact makesWrite_of_ite_some hw rfl
  | ringDisable | queueDisable | portDisable | channelDisable | starDisable | polDisable | recDisable | swLevelRestart =>
    exact makesWrite_of_ite_none hw rfl
  | enqueue via | pioTxFifoWrite via | imemWrite via | smFrameWrite via =>
    cases via with
    | reg m => exact makesWrite_of_some hw rfl
    | port t => cases hw
  | wdt3Kick m =>
    have hreports : ¬ ((decide (m = 3) && !instancesReport s) = true) := by
      intro h
      obtain ⟨hm, hsilent⟩ := Bool.and_eq_true_iff.mp h
      simp [hkick (congrArg Instr.wdt3Kick (of_decide_eq_true hm))] at hsilent
    exact makesWrite_of_some hw (congrArg Host.Outcome.next (if_neg hreports))
  | _ => cases hw

/-- Settles O7: the command makes its write under the checks, and the envelope's check refuses it. -/
theorem envelopeRefusesPolicyWrites : Obligations.EnvelopeRefusesPolicyWrites := by
  intro c r i v s why hw hkick hrun hadmit hbanked henv
  obtain ⟨k, hexec⟩ := makesWrite_of_writeOf hw hkick
  exact hexec.trans (congrArg Host.Outcome.next (withWrite_refused hrun hadmit hbanked henv k))

/-! ### The Solstice switch (R15, R44, R46, R47) -/

section solstice
variable {s : State} {a : Armed}

theorem exec_solstice_eq (s : State) : exec .solstice s = execSolstice s := rfl

theorem exec_solstice_running (hrun : running s = true) : exec .solstice s = .next (solstice s) := by
  rw [exec_solstice_eq, execSolstice, if_pos hrun]

theorem solstice_due (harmed : s.cfg.armed = some a) (hdue : commitDue s a = true) (hrestart : inRestart s = false) :
    solstice s = switchSets a s := by
  simp [solstice, harmed, hdue, hrestart]

theorem solstice_in_restart (harmed : s.cfg.armed = some a) (hdue : commitDue s a = true) (hrestart : inRestart s = true) :
    solstice s = disarm stRestarting s := by
  simp [solstice, harmed, hdue, hrestart]

theorem solstice_early (harmed : s.cfg.armed = some a) (hearly : commitDue s a = false) : solstice s = s := by
  simp [solstice, harmed, hearly]

theorem exec_solstice_early (harmed : s.cfg.armed = some a) (hearly : commitDue s a = false) : exec .solstice s = .next s := by
  rw [exec_solstice_eq, execSolstice, solstice_early harmed hearly, ite_self]

/-- R46: the sets have swapped, `armed` standing for the commit; source 34 has fired after what follows in the other blocks. -/
def switched (armed : Option Armed) (s : State) : State :=
  raise 34 (afterSwitch s.cfg.active
    { s with cfg := { active := s.cfg.shadow, shadow := s.cfg.active, stager := none, check := some s.time.now, armed := armed } })

/-- R47: a commit's command completes OK with the tick of the switch. -/
theorem switchSets_command {c : CmdRef} (hcmd : a.cmd = some c) :
    switchSets a s = complete c stOk s.time.now (switched (some { a with switched := some s.time.now }) s) := by
  simp [switchSets, commitEnd, switched, hcmd]

/-- R452: the framework's own commit is over with the switch. -/
theorem switchSets_framework (hcmd : a.cmd = none) : switchSets a s = switched none s := by
  simp [switchSets, commitEnd, switched, hcmd]

end solstice

/-! ### MSI-X messages (R50, R450) -/

section msix
variable (s : State)

theorem mem_of_mem_msixKept (l : List (Nat × Nat)) : ∀ x ∈ msixKept s l, x ∈ l := by
  refine List.foldlRecOn (motive := fun kept => ∀ x ∈ kept, x ∈ l) l _ (by simp) fun kept ih e he => ?_
  split
  · exact ih
  · intro x hx
    rcases List.mem_append.mp hx with hkept | hlast
    · exact ih x hkept
    · exact List.mem_singleton.mp hlast ▸ he

/-- The oldest waiting message keeps its place. -/
theorem msixKept_cons (e : Nat × Nat) (l : List (Nat × Nat)) : ∃ t, msixKept s (e :: l) = e :: t := by
  have hfirst : msixKept s (e :: l) = l.foldl (fun l e => if msixMasked s e.2 && l.any (·.2 = e.2) then l else l ++ [e]) [e] := by
    simp [msixKept]
  rw [hfirst]
  refine List.foldlRecOn (motive := fun kept => ∃ t, kept = e :: t) l _ ⟨[], rfl⟩ fun kept ih x _ => ?_
  obtain ⟨t, rfl⟩ := ih
  split
  · exact ⟨t, rfl⟩
  · exact ⟨t ++ [x], rfl⟩

theorem exec_msixMessage_eq (x : MsixAct) : exec (.msixMessage x) s = .next (msixWrite x.src (msixMaskSet x.mask x.fn s)) := rfl

variable {s}

/-- The oldest of all messages is written where its vector is not masked. -/
theorem msixWrite_head {src vec : Nat} {rest : List (Nat × Nat)} (hrun : running s = true) (hpend : s.evt.msixPend = (src, vec) :: rest)
    (hfree : msixMasked s vec = false) :
    msixWrite src s = say (.msix vec src) { s with evt := { s.evt with msixPend := rest } } := by
  simp [msixWrite, hpend, hfree, hrun]

theorem msixWrite_function_masked (hmask : s.evt.msixFnMask = true) (src : Nat) : msixWrite src s = s := by
  have hnone : s.evt.msixPend.find? (fun e => e.1 = src && !msixMasked s e.2) = none := by simp [msixMasked, hmask]
  rw [msixWrite, hnone]

/-- The host has set its masks; what waits is still to be sorted by them. -/
def hostMasks (mask : W32) (fn : Bool) (s : State) : State :=
  { s with evt := { s.evt with msixMask := mask, msixFnMask := fn } }

theorem msixMaskSet_pend (mask : W32) (fn : Bool) (s : State) :
    (msixMaskSet mask fn s).evt.msixPend = msixKept (hostMasks mask fn s) s.evt.msixPend := rfl

/-- R50: at the masks that the host has set, the oldest message leaves where its vector is not masked; no other comes to wait. -/
theorem exec_msixMessage_head {src : Fin 328} {vec : Nat} {mask : W32} {rest : List (Nat × Nat)} (hrun : running s = true)
    (hpend : s.evt.msixPend = (src.val, vec) :: rest) (hfree : bit mask vec = false) :
    ∃ l, exec (.msixMessage ⟨src, mask, false⟩) s = .next (say (.msix vec src)
      { s with evt := { s.evt with msixMask := mask, msixFnMask := false, msixPend := l } }) ∧ ∀ x ∈ l, x ∈ s.evt.msixPend := by
  obtain ⟨l, hkept⟩ := msixKept_cons (hostMasks mask false s) (src.val, vec) rest
  rw [← hpend] at hkept
  refine ⟨l, ?_, fun x hx => mem_of_mem_msixKept _ _ x (hkept ▸ List.mem_cons_of_mem _ hx)⟩
  rw [exec_msixMessage_eq, msixWrite_head (s := msixMaskSet mask false s) hrun ((msixMaskSet_pend ..).trans hkept) hfree]
  rfl

/-- R50: while the function is masked no message leaves, and no other comes to wait. -/
theorem exec_msixMessage_function_masked (s : State) (src : Fin 328) (mask : W32) :
    ∃ l, exec (.msixMessage ⟨src, mask, true⟩) s =
      .next { s with evt := { s.evt with msixMask := mask, msixFnMask := true, msixPend := l } } ∧ ∀ x ∈ l, x ∈ s.evt.msixPend :=
  ⟨_, congrArg Host.Outcome.next (msixWrite_function_masked rfl src), mem_of_mem_msixKept _ _⟩

end msix

/-! ### Pulses on EVT_OUT (R448) -/

section pulse

/-- R448: the pin after the end, at tick `e`, of its pulse: a pulse pending behind it rises one tick later. -/
def pulseEnded (p : EvtPin) (e : Nat) : EvtPin :=
  if p.pend && p.rise.isNone then { p with stop := none, pend := false, rise := some (e + 1), sources := [], any_ := true }
  else { p with stop := none }

variable {p : EvtPin} (e : Nat)

@[simp] theorem pulseEnded_stop : (pulseEnded p e).stop = none := by
  unfold pulseEnded
  split <;> rfl

theorem pulseEnded_rise_of_pend (hpend : p.pend = true) (hrise : p.rise = none) : (pulseEnded p e).rise = some (e + 1) := by
  simp [pulseEnded, hpend, hrise]

/-- The pin of EVT_OUT `pin`, at rest where nothing has moved it. -/
def pinOf (s : State) (pin : Nat) : EvtPin := nmGet ⟨none, [], false, none, false⟩ s.evt.pins pin

/-- R448: a pulse that has lasted its time ends: the pin falls. -/
theorem exec_evtOutPulseEnd_over {s : State} {pin : Fin 4} {e : Nat} (hstop : (pinOf s pin).stop = some e) (hover : e ≤ s.ticks) :
    exec (.evtOutPulseEnd pin) s = .next (say (.pin pin false)
      { s with evt := { s.evt with pins := nmSet ⟨none, [], false, none, false⟩ s.evt.pins pin (pulseEnded (pinOf s pin) e) } }) := by
  have hexec : exec (.evtOutPulseEnd pin) s = execEvtOutPulseEnd pin s := rfl
  unfold pinOf at hstop
  simp only [hexec, execEvtOutPulseEnd, hstop, if_neg (Nat.not_lt.mpr hover)]
  rfl

end pulse

/-- Settles O17: one law for each case of SOLSTICE, of MSIX_MESSAGE and of EVT_OUT_PULSE_END. -/
theorem solsticeSwitchesTheSets : Obligations.SolsticeSwitchesTheSets := by
  refine ⟨?switches, ?restart, fun s a => exec_solstice_early, ?messages, ?pulse⟩
  case switches =>
    intro s a hrun harmed hdue hrestart
    rw [exec_solstice_running hrun, solstice_due harmed hdue hrestart]
    exact ⟨fun c hcmd => by rw [switchSets_command hcmd]; rfl, fun hcmd => by rw [switchSets_framework hcmd]; rfl⟩
  case restart =>
    intro s a hrun harmed hdue hrestart
    rw [exec_solstice_running hrun, solstice_in_restart harmed hdue hrestart]
  case messages =>
    intro s src vec mask rest hrun hpend
    exact ⟨exec_msixMessage_head hrun hpend, exec_msixMessage_function_masked s src mask⟩
  case pulse =>
    intro s pin e p hstop hover
    exact ⟨_, pulseEnded p e, exec_evtOutPulseEnd_over hstop hover, rfl, nmGet_nmSet_same .., pulseEnded_stop e,
      pulseEnded_rise_of_pend e⟩

end Sys2Proof.Machine

/-! The command interface and the state at reset (O6, O9, O11, O12, O13, O60): the checks that refuse a register write, the rule under
which a command of a ring starts, the taking of a command into its ring, and completions that wait. -/

namespace Sys2Proof.Machine

/-- Settles O6: the command makes its write under the checks of a register write (R22, R26, R454), which answer before its own
effect; that a write does nothing outside RUN is the model's choice (log 15). -/
theorem writesRefusedByAccessRules : Obligations.WritesRefusedByAccessRules := by
  intro c m r i v s hw hkick
  obtain ⟨k, hexec⟩ := makesWrite_of_writeOf hw hkick
  exact ⟨fun hrun hbad => hexec.trans (congrArg Host.Outcome.next (withWrite_of_bad hrun hbad ..)),
    fun hstopped => hexec.trans (congrArg Host.Outcome.next (withWrite_of_stopped hstopped ..))⟩

/-- Settles O9, by evaluating the moves at the six values that a function block's field takes (R56 to R58). -/
theorem functionBlockMoves : Obligations.FunctionBlockMoves := by
  unfold Obligations.FunctionBlockMoves
  decide

/-! ### The state after a power-on reset -/

/-- Different elements of registers have different keys. -/
theorem regKey_ne_of_ne {r q : Reg} {i j c d : Nat} (hi : i < 1024) (hj : j < 1024) (hne : (r, i, c) ≠ (q, j, d)) :
    regKey r i c ≠ regKey q j d := by
  intro hkey
  obtain ⟨rfl, rfl, rfl⟩ := regKey_inj q r j i d c hj hi hkey
  exact hne rfl

/-- Right after a power-on reset a register reads its reset value, but for the reset cause and the first word of pending events. -/
theorem rd_reset {r : Reg} {i c : Nat} (hi : i < 1024) (hcause : (r, i, c) ≠ (Reg.GLB_RST_CAUSE, 0, 0))
    (hpend : (r, i, c) ≠ (Reg.EVT_PEND, 0, 0)) : rd State.reset r i c = r.desc.reset := by
  have hcause := (regKey_ne_of_ne hi (by decide) hcause).symm
  have hpend := (regKey_ne_of_ne hi (by decide) hpend).symm
  simp [rd, nmGet, State.reset, resetRegs, nmFind, hcause, hpend]

/-- Right after a power-on reset a function block whose status register is reset to OFF is OFF. -/
theorem isOff_reset {r : Reg} (hcause : r ≠ .GLB_RST_CAUSE) (hpend : r ≠ .EVT_PEND) (hoff : fbState (BitVec.ofNat 4 r.desc.reset.toNat) = 0)
    (c : Nat) : isOff State.reset r c = true := by
  rw [isOff, fbOf, rd_reset (by decide) (by simp [hcause]) (by simp [hpend]), hoff]
  rfl

/-- Settles O60: the register file by its two listed keys, the rest by the fields of the state. The reset values that
the spec leaves open are those of log 14. -/
theorem stateAtReset : Obligations.StateAtReset := by
  refine ⟨fun r i c hi hcause hpend => rd_reset hi hcause hpend, by decide, by decide, fun _ => rfl, ?threads, fun _ => rfl,
    fun c => ⟨?_, ?_, ?_, ?_, ?_⟩, rfl, rfl, rfl, rfl, rfl, rfl, rfl, rfl⟩
  case threads =>
    intro t
    unfold thOf
    split <;> rfl
  all_goals exact isOff_reset (by decide) (by decide) (by decide) c

/-! ### When a command of a ring starts (R29) -/

section starts
variable {s : State} {ring : Fin 10} {slot : Nat} {op : Byte}

/-- No command of opcode `op` can start in slot `slot` of ring `ring`: none waits there, the oldest has another opcode, or its
fence holds it back. -/
def CommandBarred (s : State) (ring slot : Nat) (op : Byte) : Prop :=
  findCmd s ring slot = none ∨
    ∃ d, findCmd s ring slot = some d ∧ (d.opcode ≠ op ∨
      (d.fence = true ∧ (((ringOf s ring).inflight.head?.map (·.tag)) ≠ some d.tag ∨ (ringOf s ring).held ≠ [])))

/-- A command that is barred does nothing. -/
theorem startCmd_of_barred (hbar : CommandBarred s ring slot op) (bad : List W32 → Bool) (k : CmdRef → List W32 → State → State) :
    startCmd ring slot op bad k s = s := by
  unfold startCmd
  split
  · rfl
  · rcases hbar with hnone | ⟨d, hfind, hopcode | ⟨hfence, hbehind⟩⟩
    · simp only [hnone]
    · simp [hfind, hopcode]
    · have hnotFirst : (decide ((ringOf s ring).inflight.head?.map (·.tag) = some d.tag) && (ringOf s ring).held.isEmpty) = false := by
        rcases hbehind with hearlier | hheld
        · simp [hearlier]
        · simp [hheld]
      simp only [hfind, hfence, hnotFirst]
      simp

/-- Command `c` acts from state `s` by starting as the command of opcode `op` in its slot, or not at all. -/
def OnlyStarts (c : Instr) (s : State) (ring slot : Nat) (op : Byte) : Prop :=
  exec c s = .next s ∨ ∃ bad k, exec c s = .next (startCmd ring slot op bad k s)

/-- A command whose form is named in its parameters acts only where the waiting command has that form. -/
theorem onlyStarts_of_form {c : Instr} {other : Cmd → Prop} [DecidablePred other] {bad : List W32 → Bool}
    {k : CmdRef → List W32 → State → State}
    (hexec : exec c s = .next (match findCmd s ring slot with
      | none => s
      | some d => if other d then s else startCmd ring slot op bad k s)) : OnlyStarts c s ring slot op := by
  cases hfind : findCmd s ring slot with
  | none => exact .inl (by rw [hexec, hfind])
  | some d =>
    rw [hfind] at hexec
    by_cases hother : other d
    · exact .inl (by simpa [hother] using hexec)
    · exact .inr ⟨bad, k, by simpa [hother] using hexec⟩

/-- Every command of the host command interface starts under the one rule for its ring, slot and opcode. -/
theorem onlyStarts_of_ringCommand {c : Instr} (hc : ringCommand c = some (ring, slot, op)) (s : State) : OnlyStarts c s ring slot op := by
  cases c with
  | hifNop | cfgCheck | cfgCommit | cfgAbort | memHandover | memTest | engLoad | engStart | engStop | polLoad | polEnvelope | fwWrite
  | fwActivate | recSnapshot =>
    cases hc
    exact .inr ⟨_, _, rfl⟩
  | cfgStage | cfgStageCopy | timeAdjustStep | timeAdjustSlew | timeAdjustCancel =>
    cases hc
    exact onlyStarts_of_form rfl
  | _ => cases hc

end starts

/-- Settles O13: every command of the host command interface starts under one rule, which bars it here. -/
theorem commandsStartOnceAndInFenceOrder : Obligations.CommandsStartOnceAndInFenceOrder := by
  intro c ring slot op s hc hbar
  rcases onlyStarts_of_ringCommand hc s with hidle | ⟨bad, k, hstarts⟩
  · exact hidle
  · rw [hstarts, startCmd_of_barred hbar]

/-! ### A command enters its ring (R31, R34, R449) -/

theorem exec_commandFetch_eq (ring : Fin 10) (ws : List W32) (s : State) : exec (.commandFetch ring ws) s = execCommandFetch ring ws s := rfl

theorem exec_spiWriteCommand_eq (ws : List W32) (s : State) : exec (.spiWriteCommand ws) s = execSpiWriteCommand ws s := rfl

section takes
variable {s : State} {ring slot : Nat} {ws : List W32} {rep : List Byte}

/-- R31: a tag that is outstanding completes TAG_IN_USE. -/
theorem takeCmd_tag_in_use (hout : tagOut s ring (fld (wordAt ws 0) 24 16) = true) :
    takeCmd ring slot ws rep s =
      postCompl ring ⟨BitVec.ofNat 8 (fld (wordAt ws 0) 7 0), 4, fld (wordAt ws 0) 24 16, slot, 0, rep⟩ s := by
  simp [takeCmd, hout]

variable (hfree : tagOut s ring (fld (wordAt ws 0) 24 16) = false)
include hfree

/-- R34: an unknown opcode under a free tag completes BAD_OPCODE. -/
theorem takeCmd_bad_opcode (hop : (BitVec.ofNat 8 (fld (wordAt ws 0) 7 0)).toNat ∉ opcodes) :
    takeCmd ring slot ws rep s =
      postCompl ring ⟨BitVec.ofNat 8 (fld (wordAt ws 0) 7 0), 5, fld (wordAt ws 0) 24 16, slot, 0, rep⟩ s := by
  simp only [takeCmd, hfree, hop, Bool.false_eq_true, if_false, not_false_eq_true, if_true]
  rfl

/-- R31, R34: a known opcode under a free tag of the ring joins the ring's outstanding commands. -/
theorem takeCmd_joins (hop : (BitVec.ofNat 8 (fld (wordAt ws 0) 7 0)).toNat ∈ opcodes) (htag : 8 ≤ ring → fld (wordAt ws 0) 24 16 < 16) :
    takeCmd ring slot ws rep s =
      setRing ring { ringOf s ring with inflight := (ringOf s ring).inflight ++
        [⟨slot, fld (wordAt ws 0) 24 16, bit (wordAt ws 0) 8, BitVec.ofNat 8 (fld (wordAt ws 0) 7 0), ws, false, rep⟩] } s := by
  have hdie : ¬ ((decide (8 ≤ ring) && decide (16 ≤ fld (wordAt ws 0) 24 16)) = true) := by
    simp only [Bool.and_eq_true, decide_eq_true_eq, not_and, Nat.not_le]
    exact htag
  simp only [takeCmd, hfree, hop, Bool.false_eq_true, if_false, not_true_eq_false, if_neg hdie]

end takes

section fetches
variable {s : State} {ring : Fin 10}

/-- R449: the entry at the fetch index is taken, and the index moves on by one. -/
theorem exec_commandFetch_taken (hcan : canFetch s ring = true) (ws : List W32) :
    exec (.commandFetch ring ws) s =
      .next (takeCmd ring (ringOf s ring).fetch.toNat ws [] (setRing ring { ringOf s ring with fetch := (ringOf s ring).fetch + 1 } s)) := by
  rw [exec_commandFetch_eq, execCommandFetch, if_pos hcan]

theorem exec_commandFetch_none (hcannot : canFetch s ring = false) (ws : List W32) : exec (.commandFetch ring ws) s = .next s := by
  simp [exec_commandFetch_eq, execCommandFetch, hcannot]

/-- Only a PCIe ring is fetched from. -/
theorem lt_of_canFetch (hcan : canFetch s ring = true) : ring.val < 8 := by
  simp only [canFetch, Bool.and_eq_true, decide_eq_true_eq] at hcan
  obtain ⟨⟨⟨⟨_, hring⟩, _⟩, _⟩, _⟩ := hcan
  exact hring

/-- R34: a command written over SPI is taken into the on-die pair while that has room. -/
theorem exec_spiWriteCommand_taken (hrun : running s = true) (hroom : dieUsed s 8 < 15) (ws : List W32) :
    exec (.spiWriteCommand ws) s = .next (takeCmd 8 ((ringOf s 8).fetch.toNat % 16) ws []
      (setRing 8 { ringOf s 8 with fetch := BitVec.ofNat 8 (((ringOf s 8).fetch.toNat + 1) % 16) } s)) := by
  simp [exec_spiWriteCommand_eq, execSpiWriteCommand, hrun, hroom]

end fetches

/-- Settles O11: what a fetch or a write over SPI does is one taking of the command, whose cases have a law each. -/
theorem fetchedCommandsEnterTheRing : Obligations.FetchedCommandsEnterTheRing := by
  intro s ring ws r w tag op moved
  refine ⟨fun hcan => ?fetched, fun hcannot => exec_commandFetch_none hcannot ws, ?spi⟩
  case fetched =>
    rw [exec_commandFetch_taken hcan]
    refine ⟨fun hfree hop => ?_, fun hout => by rw [takeCmd_tag_in_use hout], fun hfree hop => by rw [takeCmd_bad_opcode hfree hop]⟩
    rw [takeCmd_joins hfree hop fun hdie => absurd (lt_of_canFetch hcan) (Nat.not_lt.mpr hdie)]
    refine ⟨_, rfl, rfl, ?_, fun k hk => ?_⟩
    · simp only [moved, ringOf_setRing_same]
      rfl
    · rw [ringOf_setRing_ne _ _ _ _ hk, ringOf_setRing_ne _ _ _ _ hk]
  case spi =>
    intro q moved hrun hroom hfree hop htag
    rw [exec_spiWriteCommand_taken hrun hroom, takeCmd_joins hfree hop fun _ => htag]
    refine ⟨_, rfl, rfl, ?_⟩
    simp only [moved, ringOf_setRing_same]
    rfl

/-! ### Completions that wait (R32, R449, R459) -/

section waiting
variable {s : State} {n : Nat}

/-- Completion ring `n` takes no completion now: its pair does not operate, or it is full. -/
def RingClosed (s : State) (n : Nat) : Prop := ringLive s n = false ∨ cqFull s n = true

/-- Nothing is written to a closed ring. -/
theorem flushCompl_of_closed (hclosed : RingClosed s n) (fuel : Nat) : flushCompl fuel n s = s := by
  cases fuel with
  | zero => rfl
  | succ fuel => rcases hclosed with hdead | hfull <;> simp [flushCompl, *]

/-- A look at the completions of a closed ring shows cq_full and does nothing else. -/
theorem pumpRing_of_closed (hclosed : RingClosed s n) : pumpRing n s = ringShow n s := by
  rw [pumpRing, flushCompl_of_closed hclosed]

/-- A pair on die always operates. -/
theorem ringLive_of_die (hdie : 8 ≤ n) (s : State) : ringLive s n = true := by simp [ringLive, hdie]

/-- A pair on die is full by its unread completions alone. -/
theorem cqFull_of_die (hdie : 8 ≤ n) (s : State) : cqFull s n = decide (15 ≤ (ringOf s n).unread.length) := by
  simp [cqFull, Nat.not_lt.mpr hdie]

/-- Completion `c` has joined the held ones of ring `n`, and a failed commit has fired its source (R453). -/
def joined (n : Nat) (c : Compl) (s : State) : State :=
  raiseIf (c.opcode = 0x12 && c.status ≠ 0) 35 (setRing n { ringOf s n with held := (ringOf s n).held ++ [c] } s)

@[simp] theorem ringOf_joined (n : Nat) (c : Compl) (s : State) :
    ringOf (joined n c s) n = { ringOf s n with held := (ringOf s n).held ++ [c] } := by
  rw [joined, ringOf_of_rings (raiseIf_rings ..), ringOf_setRing_same]

/-- R32: a completion that arises at a closed ring only joins the held ones; on die, cq_full is shown. -/
theorem postCompl_of_closed (hclosed : RingClosed s n) (c : Compl) :
    postCompl n c s = if n < 8 then joined n c s else ringShow n (joined n c s) := by
  unfold postCompl
  split
  · rfl
  · rename_i hpcie
    have hdie : 8 ≤ n := Nat.not_lt.mp hpcie
    have hfull : cqFull s n = true := hclosed.resolve_left (by simp [ringLive_of_die hdie])
    refine pumpRing_of_closed (s := joined n c s) (.inr ?_)
    rw [cqFull_of_die hdie] at hfull ⊢
    rw [ringOf_joined]
    exact hfull

end waiting

/-- Settles O12: a closed ring is not written to, and the completion joins those that wait. -/
theorem completionsAreNeverOverwritten : Obligations.CompletionsAreNeverOverwritten := by
  intro s n c hclosed
  refine ⟨pumpRing_of_closed hclosed, ?_⟩
  rw [postCompl_of_closed hclosed]
  split <;> simp [ringShow, joined, ringOf_of_rings (raiseIf_rings ..)]

end Sys2Proof.Machine

/-! The event router (O8): what a firing does in the order of its destinations, each said once. -/

namespace Sys2Proof.Machine

/-! ### A firing (R50, R51) -/

/-- The recorder takes a firing whose route entry enables it, and those of the policy's own sources always (R372). -/
def toRecorder (e : W32) (src : Nat) (d : List Byte) (s : State) : State :=
  if bit e 23 || (266 ≤ src && src ≤ 268) then recCapture (BitVec.ofNat 16 src) 0xFF false d s else s

/-- The engine line that a route entry enables. -/
def toEngine (e : W32) (s : State) : State :=
  if bit e 22 && fld e 17 13 < 24 then engLine (fld e 17 13) (fld e 21 18) s else s

/-- The policy core's line that a route entry enables. -/
def toPolicy (e : W32) (s : State) : State := if bit e 12 then polLine (fld e 11 6) s else s

/-- The message that a route entry enables. -/
def toHost (e : W32) (src : Nat) (s : State) : State := if bit e 5 then msixQueue src (fld e 4 0) s else s

/-- The pending bit of `src` has set, and the PIO latches that follow the source. -/
def latched (src : Nat) (s : State) : State := pioInputs src (setB .EVT_PEND (src / 32) 0 (oneBit (src % 32)) s)

theorem rd_of_regs {s t : State} (h : t.regs = s.regs) (r : Reg) (i c : Nat) : rd t r i c = rd s r i c := by unfold rd; rw [h]

theorem rd_latched_pend (src : Nat) (s : State) :
    rd (latched src s) .EVT_PEND (src / 32) 0 = rd s .EVT_PEND (src / 32) 0 ||| oneBit (src % 32) := by
  rw [latched, rd_of_regs (pioInputs_regs ..), setB, rd_wr_same]

theorem rd_latched_reg (src : Nat) (s : State) {r : Reg} (hr : r ≠ .EVT_PEND) (i c : Nat) : rd (latched src s) r i c = rd s r i c := by
  rw [latched, rd_of_regs (pioInputs_regs ..), setB, rd_wr_reg _ _ _ _ _ _ _ _ hr]

@[simp] theorem latched_evt (src : Nat) (s : State) : (latched src s).evt = s.evt := pioInputs_evt ..

@[simp] theorem latched_recorder (src : Nat) (s : State) : (latched src s).recorder = s.recorder := pioInputs_recorder ..

/-- A firing latches, and then goes to the destinations of its own route entry (02 Table 2.14). -/
theorem raiseD_eq (src : Nat) (d : List Byte) (s : State) :
    raiseD src d s =
      let e := rd s .EVT_ROUTE src 0
      evtOuts e src (toHost e src (toPolicy e (toEngine e (toRecorder e src d (latched src s))))) := by
  rw [← rd_latched_reg src s (r := .EVT_ROUTE) (by decide)]
  rfl

/-! ### What each destination leaves alone -/

section destinations
variable (e : W32) (src : Nat) (d : List Byte) (s : State)

/-- The pins of EVT_OUT touch nothing of the router but their own state. -/
theorem evtOuts_keeps {γ : Type} (p : EvtSt → γ) (hp : ∀ (v : EvtSt) pins, p { v with pins := pins } = p v) :
    p (evtOuts e src s).evt = p s.evt :=
  foldl_keeps (fun s => p s.evt) (fun s k => if bit e (24 + k) then evtPulse k src s else s)
    (fun _ _ => keepIf (fun s => p s.evt) (hp ..) rfl) _ s

@[simp] theorem evtOuts_polLatch : (evtOuts e src s).evt.polLatch = s.evt.polLatch := evtOuts_keeps e src s (·.polLatch) fun _ _ => rfl
@[simp] theorem evtOuts_engLatch : (evtOuts e src s).evt.engLatch = s.evt.engLatch := evtOuts_keeps e src s (·.engLatch) fun _ _ => rfl
@[simp] theorem evtOuts_msixPend : (evtOuts e src s).evt.msixPend = s.evt.msixPend := evtOuts_keeps e src s (·.msixPend) fun _ _ => rfl

@[simp] theorem toRecorder_evt : (toRecorder e src d s).evt = s.evt := keepRun State.evt (fun _ => recCapture_evt ..) rfl

@[simp] theorem toEngine_polLatch : (toEngine e s).evt.polLatch = s.evt.polLatch := keepIf (·.evt.polLatch) rfl rfl
@[simp] theorem toEngine_recorder : (toEngine e s).recorder = s.recorder := keepIf State.recorder rfl rfl
@[simp] theorem toEngine_regs : (toEngine e s).regs = s.regs := keepIf State.regs rfl rfl
@[simp] theorem msixMasked_toEngine (vec : Nat) : msixMasked (toEngine e s) vec = msixMasked s vec := keepIf (msixMasked · vec) rfl rfl

@[simp] theorem toPolicy_engLatch : (toPolicy e s).evt.engLatch = s.evt.engLatch := keepIf (·.evt.engLatch) rfl rfl
@[simp] theorem toPolicy_recorder : (toPolicy e s).recorder = s.recorder := keepIf State.recorder rfl rfl
@[simp] theorem toPolicy_regs : (toPolicy e s).regs = s.regs := keepIf State.regs rfl rfl
@[simp] theorem msixMasked_toPolicy (vec : Nat) : msixMasked (toPolicy e s) vec = msixMasked s vec := keepIf (msixMasked · vec) rfl rfl

@[simp] theorem toHost_polLatch : (toHost e src s).evt.polLatch = s.evt.polLatch := keepIf (·.evt.polLatch) (keepIf (·.evt.polLatch) rfl rfl) rfl
@[simp] theorem toHost_engLatch : (toHost e src s).evt.engLatch = s.evt.engLatch := keepIf (·.evt.engLatch) (keepIf (·.evt.engLatch) rfl rfl) rfl
@[simp] theorem toHost_recorder : (toHost e src s).recorder = s.recorder := keepRun State.recorder (fun _ => msixQueue_recorder ..) rfl
@[simp] theorem toHost_regs : (toHost e src s).regs = s.regs := keepRun State.regs (fun _ => msixQueue_regs ..) rfl

end destinations

/-- R50: after a firing a message of its source waits for the vector, or the masked vector keeps a message of some source. -/
theorem msixQueue_waits (src vec : Nat) (s : State) :
    ((msixQueue src vec s).evt.msixPend.any fun x => decide (x.2 = vec) && (decide (x.1 = src) || msixMasked s vec)) = true := by
  unfold msixQueue
  split
  next hmerges =>
    obtain ⟨x, hx, hmerges⟩ := List.any_eq_true.mp hmerges
    refine List.any_eq_true.mpr ⟨x, hx, ?_⟩
    simp only [Bool.and_eq_true, Bool.or_eq_true, decide_eq_true_eq] at hmerges ⊢
    exact hmerges.imp_right fun h => h.symm.imp_left And.left
  next => simp

/-! ### What a firing does at each destination -/

section firing
variable (src : Nat) (d : List Byte) (s : State)

theorem raiseD_polLatch :
    (raiseD src d s).evt.polLatch =
      let e := rd s .EVT_ROUTE src 0
      if bit e 12 then s.evt.polLatch ||| BitVec.ofNat 64 (2 ^ fld e 11 6) else s.evt.polLatch := by
  simp only [raiseD_eq, evtOuts_polLatch, toHost_polLatch, toPolicy]
  split <;> simp [polLine]

theorem raiseD_engLatch :
    (raiseD src d s).evt.engLatch =
      let e := rd s .EVT_ROUTE src 0
      if bit e 22 && fld e 17 13 < 24 then
        nmSet 0 s.evt.engLatch (fld e 17 13) (nmGet 0 s.evt.engLatch (fld e 17 13) ||| BitVec.ofNat 16 (2 ^ fld e 21 18))
      else s.evt.engLatch := by
  simp only [raiseD_eq, evtOuts_engLatch, toHost_engLatch, toPolicy_engLatch, toEngine]
  split <;> simp [engLine]

theorem raiseD_msix_waits (hmsix : bit (rd s .EVT_ROUTE src 0) 5 = true) :
    let vec := fld (rd s .EVT_ROUTE src 0) 4 0
    ((raiseD src d s).evt.msixPend.any fun x => decide (x.2 = vec) && (decide (x.1 = src) || msixMasked s vec)) = true := by
  have hmask : ∀ e vec, msixMasked (toPolicy e (toEngine e (toRecorder e src d (latched src s)))) vec = msixMasked s vec := by
    intro e vec
    rw [msixMasked_toPolicy, msixMasked_toEngine, msixMasked, toRecorder_evt, latched_evt, ← msixMasked]
  simp only [raiseD_eq, evtOuts_msixPend, toHost, hmsix, if_true]
  rw [← hmask]
  exact msixQueue_waits ..

theorem raiseD_recorder_of_disabled (hrec : bit (rd s .EVT_ROUTE src 0) 23 = false) (hgov : ¬(266 ≤ src ∧ src ≤ 268)) :
    (raiseD src d s).recorder = s.recorder := by
  simp [raiseD_eq, toRecorder, hrec, hgov]

theorem rd_raiseD_pend :
    rd (raiseD src d s) .EVT_PEND (src / 32) 0 = rd s .EVT_PEND (src / 32) 0 ||| oneBit (src % 32) := by
  have hdest : ∀ e u, (evtOuts e src (toHost e src (toPolicy e (toEngine e u)))).regs = u.regs := by simp
  rw [raiseD_eq, ← rd_latched_pend, rd_of_regs (hdest ..)]
  refine keepRun (rd · .EVT_PEND (src / 32) 0) (fun s => ?_) rfl
  exact rd_recCapture _ _ _ _ s _ _ _ (regKey_ne_of_reg _ _ _ _ _ _ (by decide))

end firing

/-! ### The frame of a firing -/

/-- Two states differ in the registers, the router, the PIO and the recorder at most, exactly when they agree elsewhere. -/
theorem eq_but_events_iff (s t : State) :
    t = { s with regs := t.regs, evt := t.evt, pio := t.pio, recorder := t.recorder } ↔
      t.stores = s.stores ∧ t.time = s.time ∧ t.rings = s.rings ∧ t.cfg = s.cfg ∧ t.mem = s.mem ∧ t.qm = s.qm ∧ t.fab = s.fab ∧
      t.eth = s.eth ∧ t.can = s.can ∧ t.star = s.star ∧ t.eng = s.eng ∧ t.pol = s.pol ∧ t.cry = s.cry ∧ t.mbx = s.mbx ∧
      t.pwr = s.pwr ∧ t.ticks = s.ticks ∧ t.freeCtr = s.freeCtr ∧ t.outbox = s.outbox ∧ t.pending = s.pending := by
  cases s
  cases t
  simp only [State.mk.injEq, true_and]

theorem raise_frame (src : Nat) (s : State) :
    raise src s = { s with regs := (raise src s).regs, evt := (raise src s).evt, pio := (raise src s).pio,
                           recorder := (raise src s).recorder } :=
  (eq_but_events_iff s (raise src s)).mpr (by simp)

/-- Settles O8: a firing latches, and each destination of its route entry has a law. -/
theorem eventRouterLatchesAndDelivers : Obligations.EventRouterLatchesAndDelivers := by
  intro s src hsrc t e
  have hword : src / 32 < 1024 := by omega
  have hpol : t.evt.polLatch = if bit e 12 then _ else _ := raiseD_polLatch src (stampData s) s
  have heng : t.evt.engLatch = if bit e 22 && fld e 17 13 < 24 then _ else _ := raiseD_engLatch src (stampData s) s
  refine ⟨raise_frame src s, rd_raiseD_pend .., fun r i c hi hpend hlost => ?others, fun hon => ?policy, fun hoff => ?noPolicy,
    fun hon hexists => ?engine, fun hoff => ?noEngine, fun hon => raiseD_msix_waits src _ s hon,
    fun hoff hgov => raiseD_recorder_of_disabled src _ s hoff hgov⟩
  case others => exact rd_raiseD _ _ _ _ _ _ (regKey_ne_of_ne hi (by decide) hlost) (regKey_ne_of_ne hi hword hpend)
  case policy => rw [hpol, if_pos hon]
  case noPolicy => rw [hpol, if_neg (by simp [hoff])]
  case engine => rw [heng, if_pos (by simp [hon, hexists]), nmGet_nmSet_same]
  case noEngine => rw [heng, if_neg (by simp [hoff])]

end Sys2Proof.Machine

/-! The on-die and in-band commands (O14), and the control of engine threads (O43): one law for each case of each meaning. -/

namespace Sys2Proof.Machine

/-! ### NOP, and the pair read over SPI (R32, R34) -/

section arms
variable (s : State)

theorem exec_hifNop_eq (ring : Fin 10) (slot : Nat) : exec (.hifNop ring slot) s = execHifNop ring slot s := rfl
theorem exec_spiReadCompletion_eq : exec .spiReadCompletion s = execSpiReadCompletion s := rfl
theorem exec_inbandCommandFrame_eq (p : Fin 16) (l : List Byte) :
    exec (.inbandCommandFrame p l) s = execInbandCommandFrame p l s := rfl
theorem exec_engLoad_eq (ring : Fin 10) (slot : Nat) (data : List W32) (err : Bool) :
    exec (.engLoad ring slot data err) s = execEngLoad ring slot data err s := rfl
theorem exec_engStart_eq (ring : Fin 10) (slot : Nat) : exec (.engStart ring slot) s = execEngStart ring slot s := rfl
theorem exec_engStop_eq (ring : Fin 10) (slot : Nat) : exec (.engStop ring slot) s = execEngStop ring slot s := rfl
theorem exec_engCtrlStart_eq (m : Fin 64) (v : W32) : exec (.engCtrlStart m v) s = .next (engCtrlRow 0 m v s) := rfl
theorem exec_engCtrlStop_eq (m : Fin 64) (v : W32) : exec (.engCtrlStop m v) s = .next (engCtrlRow 4 m v s) := rfl
theorem exec_engCtrlStep_eq (m : Fin 64) (v : W32) : exec (.engCtrlStep m v) s = .next (engCtrlRow 8 m v s) := rfl
theorem exec_threadStarted_eq (t : Fin 96) : exec (.threadStarted t) s = .next (threadStarted t s) := rfl
theorem exec_threadStopped_eq (t : Fin 96) : exec (.threadStopped t) s = .next (threadStopped t s) := rfl
theorem exec_breakpoint_eq (t : Fin 96) : exec (.breakpoint t) s = execBreakpoint t s := rfl

end arms

section hif
variable {s : State}

theorem exec_hifNop {ring : Fin 10} {slot : Nat} {c : Cmd} (hstarts : cmdStarts s ring slot 0x00 c) :
    exec (.hifNop ring slot) s = .next (complete ⟨ring, slot, c.tag, 0x00⟩ stOk 0 (begunCmd ring c.tag s)) := by
  rw [exec_hifNop_eq, execHifNop, startCmd_of_starts hstarts rfl]

theorem exec_spiReadCompletion_some {c : Compl} {rest : List Compl} (hrun : running s = true) (hunread : (ringOf s 8).unread = c :: rest) :
    exec .spiReadCompletion s =
      let w := complWords 8 (if (ringOf s 8).unread.length ≤ (ringOf s 8).write.toNat then (ringOf s 8).phase else !(ringOf s 8).phase) c
      .next (pumpRing 8 (setRing 8 { ringOf s 8 with unread := rest } (say (.completion 8 w.1 w.2 c.result) s))) := by
  simp [exec_spiReadCompletion_eq, execSpiReadCompletion, hrun, hunread]

theorem exec_spiReadCompletion_none (hunread : (ringOf s 8).unread = []) : exec .spiReadCompletion s = .next s := by
  simp [exec_spiReadCompletion_eq, execSpiReadCompletion, hunread]

/-! ### In-band frames (R35, R36) -/

variable {l : List Byte} {p : Fin 16}

theorem exec_inbandCommandFrame (hrun : running s = true) (hinband : isInband l = true) :
    exec (.inbandCommandFrame p l) s = .next (inbandRx p l s) := by
  simp [exec_inbandCommandFrame_eq, execInbandCommandFrame, hrun, hinband]

theorem inbandRx_of_refused (hbad : inbandOk s p l = false) : inbandRx p l s = raise 36 (count16 .HIF_INBAND_REJ 0 0 s) := by
  simp [inbandRx, hbad]

/-- What the completion frame of an in-band command returns: port, key slot, the addresses exchanged, any VLAN tag, and the seq. -/
def inbandReply (s : State) (p : Nat) (l : List Byte) : List Byte :=
  [BitVec.ofNat 8 p, BitVec.ofNat 8 (fld (rd s .HIF_INBAND_KEY 0 0) 7 0)] ++ slice l 6 6 ++ slice l 0 6 ++
    slice l 12 (inbandTypeAt l - 12) ++ slice l (inbandTypeAt l + 6) 4

/-- R36: an accepted frame of one command sets the seq, and its command enters the in-band pair. -/
theorem inbandRx_of_one (hok : inbandOk s p l = true) (hone : byteAt l (inbandTypeAt l + 4) = 1) :
    inbandRx p l s = inbandTake
      ((List.range 16).map fun w => BitVec.ofNat 32 (ofLe (slice l (inbandTypeAt l + 10 + 4 * w) 4))) (inbandReply s p l)
      (setB .HIF_INBAND_CTRL 0 0 1 (wr .HIF_INBAND_SEQ 0 0 (inbandSeq l) s)) := by
  simp only [inbandRx, hok, if_true, hone]
  rfl

end hif

/-- Settles O14: one law for each case of the NOP, of a read over SPI and of an in-band frame. -/
theorem nopOnDieAndInbandCommands : Obligations.NopOnDieAndInbandCommands := by
  refine ⟨⟨fun s ring slot c => exec_hifNop, fun s c rest hrun hunread => ?read, fun s => exec_spiReadCompletion_none⟩,
    fun s p l hrun hinband => ⟨fun hbad => ?refused, fun hok hone => ⟨inbandReply s p l, ?taken⟩⟩⟩
  case read =>
    rw [exec_spiReadCompletion_some hrun hunread]
    simp [complWords]
  case refused => rw [exec_inbandCommandFrame hrun hinband, inbandRx_of_refused hbad]
  case taken => rw [exec_inbandCommandFrame hrun hinband, inbandRx_of_one hok hone]

/-! ### ENG_LOAD (R304) -/

section load
variable {s : State} {ring : Fin 10} {slot : Nat} {c : Cmd}

/-- ENG_LOAD writes words `ws` at offset `off` of memory `space` (0 instruction, 1 local) of engines `es`. -/
def engPut (space off : Nat) (ws : List W32) (es : List Nat) (s : State) : State :=
  es.foldl (fun s e => if space = 0 then engIWrite e off ws s else engLWrite e off ws s) s

/-- What ENG_LOAD requires of its parameters, as R304 words it. -/
theorem engLoadBad_iff (w : List W32) :
    engLoadBad w = true ↔ 1 < cmdByte w 12 ∨ (wordAt w 4).toNat % 4 ≠ 0 ∨ (wordAt w 5).toNat % 4 ≠ 0 ∨ (wordAt w 5).toNat < 4 ∨
      (if cmdByte w 12 = 0 then 0x10000 else 0x20000) < (wordAt w 4).toNat + (wordAt w 5).toNat ∨ cmd64 w 24 % 4 ≠ 0 := by
  simp [engLoadBad, or_assoc]

variable (hstarts : cmdStarts s ring slot 0x30 c) (data : List W32) (err : Bool)
include hstarts

theorem exec_engLoad_bad (hbad : engLoadBad c.words = true) :
    exec (.engLoad ring slot data err) s = .next (complete ⟨ring, slot, c.tag, 0x30⟩ stBadParam 0 (begunCmd ring c.tag s)) := by
  rw [exec_engLoad_eq, execEngLoad, startCmd_of_bad hstarts hbad]

theorem exec_engLoad_busy (hok : engLoadBad c.words = false) (hbusy : (maskEngines (wordAt c.words 2)).any (engBusy (begunCmd ring c.tag s)) = true) :
    exec (.engLoad ring slot data err) s = .next (complete ⟨ring, slot, c.tag, 0x30⟩ stBusy 0 (begunCmd ring c.tag s)) := by
  rw [exec_engLoad_eq, execEngLoad, startCmd_of_starts hstarts hok]
  simp [hbusy]

theorem exec_engLoad_written (hok : engLoadBad c.words = false)
    (hoff : (maskEngines (wordAt c.words 2)).any (engBusy (begunCmd ring c.tag s)) = false) :
    exec (.engLoad ring slot data err) s =
      let put := engPut (cmdByte c.words 12) (wordAt c.words 4).toNat (hostWords ((wordAt c.words 5).toNat / 4) err data)
        (maskEngines (wordAt c.words 2)) (begunCmd ring c.tag s)
      .next (if err then complete ⟨ring, slot, c.tag, 0x30⟩ stFailed 0 put
        else complete ⟨ring, slot, c.tag, 0x30⟩ stOk (BitVec.ofNat 64 (wordAt c.words 5).toNat) put) := by
  rw [exec_engLoad_eq, execEngLoad, startCmd_of_starts hstarts hok]
  simp only [hoff, Bool.false_eq_true, if_false]
  rfl

end load

/-! ### ENG_START and ENG_STOP (R305, R306) -/

section startStop
variable {s : State} {ring : Fin 10} {slot : Nat} {c : Cmd}

/-- ENG_START is turned away: levels 3 and 4 are held (log 42), or a thread that it names is not OFF. -/
def StartRefused (s : State) (ts : List Nat) : Prop := levelsBlocked s = true ∨ ∃ t ∈ ts, (thOf s t).fb ≠ 0

/-- ENG_START with words `w` enables thread `t`, cleaned first where its state is not kept. -/
def threadGo (w : List W32) (s : State) (t : Nat) : State :=
  thEnable (bit (wordAt w 3) 4) t (if bit (wordAt w 3) 4 then s else setTh t (engClean t
    (BitVec.ofNat 32 (cmdByte w (16 + 2 * (t % 4)) + 256 * cmdByte w (17 + 2 * (t % 4)))) (wordAt w (6 + t % 4)) (thOf s t)) s)

theorem startRefused_iff (s : State) (ts : List Nat) :
    StartRefused s ts ↔ (levelsBlocked s || ts.any fun t => decide ((thOf s t).fb ≠ 0)) = true := by
  simp [StartRefused]

theorem exec_engStart_refused (hstarts : cmdStarts s ring slot 0x31 c) (hno : StartRefused (begunCmd ring c.tag s) (cmdThreads c.words)) :
    exec (.engStart ring slot) s = .next (complete ⟨ring, slot, c.tag, 0x31⟩ stBusy 0 (begunCmd ring c.tag s)) := by
  rw [exec_engStart_eq, execEngStart, startCmd_of_starts hstarts rfl]
  simp only [if_pos ((startRefused_iff ..).mp hno)]

theorem exec_engStart_waits (hstarts : cmdStarts s ring slot 0x31 c) (hgo : ¬StartRefused (begunCmd ring c.tag s) (cmdThreads c.words))
    (hsome : cmdThreads c.words ≠ []) :
    exec (.engStart ring slot) s =
      let u := (cmdThreads c.words).foldl (threadGo c.words) (begunCmd ring c.tag s)
      .next { u with eng := { u.eng with starting := u.eng.starting ++ [(⟨ring, slot, c.tag, 0x31⟩, cmdThreads c.words)] } } := by
  rw [exec_engStart_eq, execEngStart, startCmd_of_starts hstarts rfl]
  simp only [if_neg (mt (startRefused_iff ..).mpr hgo), List.isEmpty_iff, hsome, if_false]
  rfl

/-- Keeping a thread's state, ENG_START only enables it. -/
theorem threadGo_of_keep {w : List W32} (hkeep : bit (wordAt w 3) 4 = true) : threadGo w = fun s t => thEnable true t s := by
  funext s t
  simp [threadGo, hkeep]

theorem threadGo_of_clean {w : List W32} (hclean : bit (wordAt w 3) 4 = false) :
    threadGo w = fun s t => thEnable false t (setTh t (engClean t
      (BitVec.ofNat 32 (cmdByte w (16 + 2 * (t % 4)) + 256 * cmdByte w (17 + 2 * (t % 4)))) (wordAt w (6 + t % 4)) (thOf s t)) s) := by
  funext s t
  simp [threadGo, hclean]

theorem exec_engStop (hstarts : cmdStarts s ring slot 0x32 c) :
    exec (.engStop ring slot) s =
      let u := (cmdThreads c.words).foldl (fun s t => thStop t s) (begunCmd ring c.tag s)
      let left := (cmdThreads c.words).filter fun t => fbState (thOf u t).fb ≠ 0
      .next (if left = [] then complete ⟨ring, slot, c.tag, 0x32⟩ stOk 0 u
        else { u with eng := { u.eng with stopping := u.eng.stopping ++ [(⟨ring, slot, c.tag, 0x32⟩, left)] } }) := by
  rw [exec_engStop_eq, execEngStop, startCmd_of_starts hstarts rfl]
  simp only [List.isEmpty_iff]

end startStop

/-! ### ENG_CTRL (R305, R306, R308) -/

section ctrl
variable {s : State} {m : Fin 64}

/-- A write of ENG_CTRL that names what its row does acts as the register. -/
theorem engCtrlRow_of_writes (hwrites : writes m .ENG_CTRL s) {lo : Nat} {v : W32} (hnames : fld v (lo + 3) lo ≠ 0) :
    engCtrlRow lo m v s = engCtrlWrite (chanOf .ENG_CTRL m s) v s := by
  rw [engCtrlRow, if_pos hnames, withWrite_of_writes hwrites]

/-- A single bit of ENG_CTRL starts, stops or steps its one thread. -/
theorem engCtrlWrite_oneBit (e : Nat) (k : Fin 4) (s : State) :
    engCtrlWrite e (oneBit k) s = thEnable true (4 * e + k) s ∧ engCtrlWrite e (oneBit (4 + k)) s = thStop (4 * e + k) s ∧
      engCtrlWrite e (oneBit (8 + k)) s = thStep (4 * e + k) s := by
  fin_cases k <;> exact ⟨rfl, rfl, rfl⟩

end ctrl

/-! ### Threads that start, stop and meet their breakpoint (R56 to R58, R285, R308) -/

section threads
variable {s : State} {t : Nat}

/-- An enable of a thread that is OFF begins STARTING. -/
theorem thEnable_of_off (hoff : (thOf s t).fb = 0) (hfree : levelsBlocked s = false) (keep : Bool) :
    thEnable keep t s = setTh t { startFlags (thOf s t) with fb := 1, skipBreak := keep } s := by
  simp [thEnable, hoff, enableHeld, hfree, fbState, fbEnable]

theorem thStep_of_off (hoff : (thOf s t).fb = 0) (hfree : levelsBlocked s = false) :
    thStep t s = setTh t { startFlags (thOf s t) with fb := 1, stepping := true, skipBreak := true } s := by
  simp [thStep, hoff, hfree]

theorem threadStarted_of_starting (hrun : running s = true) (hstarting : fbState (thOf s t).fb = 1) :
    threadStarted t s = engSettle t false (setTh t { thOf s t with fb := fbStarted (thOf s t).fb } s) := by
  simp [threadStarted, hrun, hstarting]

theorem threadStopped_of_busy (hbusy : (thOf s t).ops ≠ []) : threadStopped t s = s := by
  simp [threadStopped, hbusy]

variable (hrun : running s = true) (hstopping : fbState (thOf s t).fb = 3) (hidle : (thOf s t).ops = [])
include hrun hstopping hidle

/-- The end of STOPPING with nothing in flight. -/
theorem threadStopped_of_idle :
    threadStopped t s = engSettle t true (setTh t
      (if fbState (stoppedHeld s (thOf s t).fb) = 1 then { startFlags (thOf s t) with fb := stoppedHeld s (thOf s t).fb, skipBreak := true }
        else { thOf s t with fb := stoppedHeld s (thOf s t).fb, stepping := false }) s) := by
  rw [threadStopped, if_pos (by simp [hrun, hstopping, hidle])]

/-- The thread is OFF where no enable is pending, or where the pending enable lapses. -/
theorem threadStopped_off (hoff : stoppedHeld s (thOf s t).fb = 0) :
    threadStopped t s = engSettle t true (setTh t { thOf s t with fb := 0, stepping := false } s) := by
  rw [threadStopped_of_idle hrun hstopping hidle, hoff, if_neg (by decide)]

theorem threadStopped_again (hagain : stoppedHeld s (thOf s t).fb = 1) :
    threadStopped t s = engSettle t true (setTh t { startFlags (thOf s t) with fb := 1, skipBreak := true } s) := by
  rw [threadStopped_of_idle hrun hstopping hidle, hagain, if_pos (by decide)]

end threads

theorem exec_breakpoint_met {s : State} {t : Fin 96} (hrun : running s = true) (hawake : thAwake s t = true) (hbreak : atBreak s t = true) :
    exec (.breakpoint t) s =
      .next (engCause (t / 4) (12 + t % 4) (setTh t { thOf s t with broke := true, fb := fbDisable (thOf s t).fb } s)) := by
  simp [exec_breakpoint_eq, execBreakpoint, hrun, hawake, hbreak]

/-- Settles O43: one law for each case of the three commands, of ENG_CTRL and of a thread's own moves. BUSY while the
levels are held and the lapse of a pending enable are log 42, the order within ENG_CTRL is log 34. -/
theorem engineControl : Obligations.EngineControl := by
  refine ⟨?load, ?start, ?stop, ?ctrl, ?enable, ?moves⟩
  case load =>
    intro s ring slot c data err hstarts g w k es space off len bad put
    refine ⟨fun hbad => exec_engLoad_bad hstarts data err ((engLoadBad_iff w).mpr hbad), fun hok hbusy => ?_, fun hok hoff => ?_⟩
    all_goals have hok : engLoadBad w = false := Bool.eq_false_iff.mpr (mt (engLoadBad_iff w).mp hok)
    · exact exec_engLoad_busy hstarts data err hok (List.any_eq_true.mpr hbusy)
    · have hwritten := exec_engLoad_written hstarts data err hok (List.any_eq_false.mpr fun e he => Bool.eq_false_iff.mp (hoff e he))
      exact ⟨fun herr => hwritten.trans (congrArg Host.Outcome.next (if_neg (Bool.eq_false_iff.mp herr))),
        fun herr => hwritten.trans (congrArg Host.Outcome.next (if_pos herr))⟩
  case start =>
    intro s ring slot c hstarts g w k ts no
    refine ⟨exec_engStart_refused hstarts, fun hgo hsome hkeep => ?_, fun hgo hsome hclean => ?_⟩
    · rw [exec_engStart_waits hstarts hgo hsome, threadGo_of_keep hkeep]
    · rw [exec_engStart_waits hstarts hgo hsome, threadGo_of_clean hclean]
  case stop =>
    intro s ring slot c hstarts k ts u left
    rw [exec_engStop hstarts]
    exact ⟨fun hall => congrArg Host.Outcome.next (if_pos hall), fun hleft => congrArg Host.Outcome.next (if_neg hleft)⟩
  case ctrl =>
    intro s m v hwrites e
    rw [exec_engCtrlStart_eq, exec_engCtrlStop_eq, exec_engCtrlStep_eq]
    have hrow : ∀ lo, fld v (lo + 3) lo ≠ 0 → (.next (engCtrlRow lo m v s) : Res) = .next (engCtrlWrite e v s) :=
      fun lo hnames => congrArg Host.Outcome.next (engCtrlRow_of_writes hwrites hnames)
    exact ⟨hrow 0, hrow 4, hrow 8, fun k => engCtrlWrite_oneBit e k s⟩
  case enable =>
    exact fun s t => ⟨fun hoff hfree => ⟨thEnable_of_off hoff hfree true, thEnable_of_off hoff hfree false, thStep_of_off hoff hfree⟩, rfl⟩
  case moves =>
    intro s t hrun h
    rw [exec_threadStarted_eq, exec_threadStopped_eq]
    refine ⟨fun hstarting => by rw [threadStarted_of_starting hrun hstarting], fun hfb hidle => ?off, fun hfb hidle hheld => ?lapses,
      fun hfb hidle hfree => ?again, fun _ hbusy => by rw [threadStopped_of_busy hbusy], exec_breakpoint_met hrun⟩
    all_goals have hstopping : fbState (thOf s t).fb = 3 := by rw [hfb]; rfl
    case off => rw [threadStopped_off hrun hstopping hidle (by rw [hfb, stoppedHeld, ite_eq_left_iff]; exact fun _ => rfl)]
    case lapses => rw [threadStopped_off hrun hstopping hidle (if_pos hheld)]
    case again => rw [threadStopped_again hrun hstopping hidle (by rw [hfb, stoppedHeld, if_neg (by simp [hfree])]; rfl)]

end Sys2Proof.Machine

/-! The time base (O18, O19): adjustments, the increment, reads of the clock, stamp queues, time pins and alarms, one law for each
case of each meaning. -/

namespace Sys2Proof.Machine

section arms
variable (s : State)

theorem exec_timeAdjustStep_eq (ring : Fin 10) (slot : Nat) : exec (.timeAdjustStep ring slot) s = execTimeAdjustStep ring slot s := rfl
theorem exec_timeAdjustSlew_eq (ring : Fin 10) (slot : Nat) : exec (.timeAdjustSlew ring slot) s = execTimeAdjustSlew ring slot s := rfl
theorem exec_timeAdjustCancel_eq (ring : Fin 10) (slot : Nat) :
    exec (.timeAdjustCancel ring slot) s = execTimeAdjustCancel ring slot s := rfl
theorem exec_timeAdjCtrlStep_eq (m : Fin 64) (v : W32) : exec (.timeAdjCtrlStep m v) s = execTimeAdjCtrlStep m v s := rfl
theorem exec_timeAdjCtrlSlew_eq (m : Fin 64) (v : W32) : exec (.timeAdjCtrlSlew m v) s = execTimeAdjCtrlSlew m v s := rfl
theorem exec_timeAdjCtrlCancel_eq (m : Fin 64) (v : W32) : exec (.timeAdjCtrlCancel m v) s = execTimeAdjCtrlCancel m v s := rfl
theorem exec_stepApply_eq : exec .stepApply s = execStepApply s := rfl
theorem exec_slewEnd_eq : exec .slewEnd s = execSlewEnd s := rfl
theorem exec_incrFracWrite_eq (m : Fin 64) (v : W32) : exec (.incrFracWrite m v) s = execIncrFracWrite m v s := rfl
theorem exec_incrNsWrite_eq (m : Fin 64) (v : W32) : exec (.incrNsWrite m v) s = execIncrNsWrite m v s := rfl
theorem exec_timeNowRead_eq (m : Fin 64) : exec (.timeNowRead m) s = execTimeNowRead m s := rfl
theorem exec_stampQueuePop_eq (m : Fin 64) (tx : Bool) : exec (.stampQueuePop m tx) s = execStampQueuePop m tx s := rfl
theorem exec_ppsInEdge_eq (stamp : W64) : exec (.ppsInEdge stamp) s = execPpsInEdge stamp s := rfl
theorem exec_ppsInMissing_eq : exec .ppsInMissing s = execPpsInMissing s := rfl
theorem exec_ppsOutPulse_eq : exec .ppsOutPulse s = execPpsOutPulse s := rfl
theorem exec_timePinPulseEnd_eq (pin : Fin 5) : exec (.timePinPulseEnd pin) s = execTimePinPulseEnd pin s := rfl
theorem exec_alarmArm_eq (m : Fin 64) (n : Fin 2) : exec (.alarmArm m n) s = execAlarmArm m n s := rfl
theorem exec_alarmDisarm_eq (m : Fin 64) (n : Fin 2) : exec (.alarmDisarm m n) s = execAlarmDisarm m n s := rfl
theorem exec_alarmFire_eq (n : Fin 2) : exec (.alarmFire n) s = execAlarmFire n s := rfl

end arms

/-! ### Requests: what each answers, by the command and by the register (R67 to R71) -/

/-- The range of a slew as R69 words it. -/
theorem slewBad_iff (ofs : Int) (us : Nat) :
    slewBad ofs us = true ↔ us < 1000 ∨ 1000000000 < us ∨ slewTooFast ofs us = true := by
  simp [slewBad, or_assoc]

theorem slewBad_of_within {ofs : Int} {us : Nat} (hmin : 1000 ≤ us) (hmax : us ≤ 1000000000) (hslow : slewTooFast ofs us = false) :
    slewBad ofs us = false := by
  simp [slewBad, hmin, hmax, hslow]

section begins
variable (ring tag : Nat) (s : State)
@[simp] theorem begunCmd_time : (begunCmd ring tag s).time = s.time := rfl
@[simp] theorem adjBusy_begunCmd : adjBusy (begunCmd ring tag s) = adjBusy s := rfl
@[simp] theorem starOnRunning_begunCmd : starOnRunning (begunCmd ring tag s) = starOnRunning s := rfl
end begins

section command
variable {s : State} {ring : Fin 10} {slot : Nat} {c : Cmd} (hstarts : cmdStarts s ring slot 0x60 c)
include hstarts

/-- A command of the form that waits in its slot starts there, or ends BAD_PARAM by its own check. -/
theorem exec_of_form {x : Instr} {other : Cmd → Prop} [DecidablePred other] {bad : List W32 → Bool} {k : CmdRef → List W32 → State → State}
    (hexec : exec x s = .next (match findCmd s ring slot with
      | none => s
      | some d => if other d then s else startCmd ring slot 0x60 bad k s)) (hform : ¬other c) :
    exec x s = .next (if bad c.words then complete ⟨ring, slot, c.tag, 0x60⟩ stBadParam 0 (begunCmd ring c.tag s)
      else k ⟨ring, slot, c.tag, 0x60⟩ c.words (begunCmd ring c.tag s)) := by
  have hcases := startCmd_cases hstarts bad k
  obtain ⟨_, hfind, _⟩ := hstarts
  rw [hexec, hfind]
  simp only [if_neg hform, hcases]

theorem exec_timeAdjustStep (hmode : cmdByte c.words 16 = 1) :
    exec (.timeAdjustStep ring slot) s =
      .next (if starOnRunning s || adjBusy s then complete ⟨ring, slot, c.tag, 0x60⟩ stBusy 0 (begunCmd ring c.tag s)
        else setTime { s.time with step := some (.cmd ⟨ring, slot, c.tag, 0x60⟩, cmdOfs c.words) } (begunCmd ring c.tag s)) := by
  rw [exec_of_form hstarts (exec_timeAdjustStep_eq s ring slot) (by simp [hmode])]
  simp [hmode]

/-- R34: a mode that is none of the three is a parameter out of range. -/
theorem exec_timeAdjustStep_bad_mode (hmode : cmdByte c.words 16 ∉ [1, 2, 3]) :
    exec (.timeAdjustStep ring slot) s = .next (complete ⟨ring, slot, c.tag, 0x60⟩ stBadParam 0 (begunCmd ring c.tag s)) := by
  simp only [List.mem_cons, List.not_mem_nil, or_false, not_or] at hmode
  obtain ⟨hstep, hslew, hcancel⟩ := hmode
  rw [exec_of_form hstarts (exec_timeAdjustStep_eq s ring slot) (by simp [hslew, hcancel])]
  simp [hstep]

theorem exec_timeAdjustSlew (hmode : cmdByte c.words 16 = 2) :
    exec (.timeAdjustSlew ring slot) s =
      .next (if slewBad (cmdOfs c.words) (cmdIntv c.words) then complete ⟨ring, slot, c.tag, 0x60⟩ stBadParam 0 (begunCmd ring c.tag s)
        else if adjBusy s then complete ⟨ring, slot, c.tag, 0x60⟩ stBusy 0 (begunCmd ring c.tag s)
        else setTime { s.time with slew := some ⟨.cmd ⟨ring, slot, c.tag, 0x60⟩, cmdOfs c.words, cmdIntv c.words * 250, 0⟩ }
          (begunCmd ring c.tag s)) := by
  rw [exec_of_form hstarts (exec_timeAdjustSlew_eq s ring slot) (by simp [hmode])]
  rfl

theorem exec_timeAdjustCancel_slew (hmode : cmdByte c.words 16 = 3) {x : Slew} (hslew : s.time.slew = some x) :
    exec (.timeAdjustCancel ring slot) s =
      .next (setTime { s.time with slew := none, cancelled := s.time.cancelled ++ [(x, .cmd ⟨ring, slot, c.tag, 0x60⟩)] }
        (begunCmd ring c.tag s)) := by
  rw [exec_of_form hstarts (exec_timeAdjustCancel_eq s ring slot) (by simp [hmode])]
  simp [noBad, hslew, cancelSlew]

theorem exec_timeAdjustCancel_none (hmode : cmdByte c.words 16 = 3) (hslew : s.time.slew = none) :
    exec (.timeAdjustCancel ring slot) s = .next (complete ⟨ring, slot, c.tag, 0x60⟩ stFailed 0 (begunCmd ring c.tag s)) := by
  rw [exec_of_form hstarts (exec_timeAdjustCancel_eq s ring slot) (by simp [hmode])]
  simp [noBad, hslew]

end command

section register
variable {s : State} {m : Fin 64} {v : W32}

theorem adjCtrlWrite_step (hmode : fld v 1 0 = 1) :
    adjCtrlWrite v s =
      let b := plainWrite .TIME_ADJ_CTRL 0 0 v s
      if starOnRunning b || adjBusy b then adjRefused b
      else setTime { s.time with step := some (.regs, (BitVec.ofNat 64 (rd64 b .TIME_ADJ_OFS_LO .TIME_ADJ_OFS_HI 0 0)).toInt) } b := by
  simp only [adjCtrlWrite, hmode, plainWrite_time]

theorem adjCtrlWrite_slew (hmode : fld v 1 0 = 2) :
    adjCtrlWrite v s =
      let b := plainWrite .TIME_ADJ_CTRL 0 0 v s
      let ofs := (BitVec.ofNat 64 (rd64 b .TIME_ADJ_OFS_LO .TIME_ADJ_OFS_HI 0 0)).toInt
      let us := (rd b .TIME_ADJ_INTV 0 0).toNat
      if adjBusy b || slewBad ofs us then adjRefused b
      else setTime { s.time with slew := some ⟨.regs, ofs, us * 250, 0⟩ } b := by
  simp only [adjCtrlWrite, hmode, startSlew, plainWrite_time]

theorem adjCtrlWrite_cancel_slew (hmode : fld v 1 0 = 3) {x : Slew} (hslew : s.time.slew = some x) :
    adjCtrlWrite v s = setTime { s.time with slew := none, cancelled := s.time.cancelled ++ [(x, .regs)] }
      (plainWrite .TIME_ADJ_CTRL 0 0 v s) := by
  simp only [adjCtrlWrite, hmode, plainWrite_time, hslew, cancelSlew]

theorem adjCtrlWrite_cancel_none (hmode : fld v 1 0 = 3) (hslew : s.time.slew = none) :
    adjCtrlWrite v s = adjRefused (plainWrite .TIME_ADJ_CTRL 0 0 v s) := by
  simp only [adjCtrlWrite, hmode, plainWrite_time, hslew]

variable (hwrites : writes m .TIME_ADJ_CTRL s)
include hwrites

theorem exec_timeAdjCtrlStep (hmode : fld v 1 0 = 1) : exec (.timeAdjCtrlStep m v) s = .next (adjCtrlWrite v s) := by
  rw [exec_timeAdjCtrlStep_eq, execTimeAdjCtrlStep, if_pos hmode, withWrite_of_writes hwrites]

theorem exec_timeAdjCtrlSlew (hmode : fld v 1 0 = 2) : exec (.timeAdjCtrlSlew m v) s = .next (adjCtrlWrite v s) := by
  rw [exec_timeAdjCtrlSlew_eq, execTimeAdjCtrlSlew, if_pos hmode, withWrite_of_writes hwrites]

theorem exec_timeAdjCtrlCancel (hmode : fld v 1 0 = 3) : exec (.timeAdjCtrlCancel m v) s = .next (adjCtrlWrite v s) := by
  rw [exec_timeAdjCtrlCancel_eq, execTimeAdjCtrlCancel, if_pos hmode, withWrite_of_writes hwrites]

end register

/-! ### The adjust unit at its tick: steps, ended and cancelled slews (R67, R70, R72) -/

section adjusts
variable {s : State}

@[simp] theorem adjDone_time (t : Nat) (s : State) : (adjDone t s).time = s.time := by simp [adjDone]

theorem rd_adjDone_lo (t : Nat) (s : State) : rd (adjDone t s) .TIME_ADJ_DONE_LO 0 0 = BitVec.ofNat 32 t := by
  rw [adjDone, rd_raise _ _ _ _ _ (by decide) (by decide), wr64, rd_wr_reg _ _ _ _ _ _ _ _ (by decide), rd_wr_same]

/-- The step by `ofs` ns is made: the gates follow, and the unit is done. -/
def stepped (ofs : Int) (s : State) : State :=
  adjDone s.time.now.toNat (gatesJump (setTime { s.time with now := s.time.now + BitVec.ofInt 64 ofs, step := none } s))

/-- Of the time base a step changes the nanoseconds, and no request is pending any more. -/
@[simp] theorem stepped_time (ofs : Int) (s : State) :
    (stepped ofs s).time = { s.time with now := s.time.now + BitVec.ofInt 64 ofs, step := none } := by
  simp [stepped]

theorem exec_stepApply {src : AdjSrc} {ofs : Int} (hstep : s.time.step = some (src, ofs)) :
    exec .stepApply s = .next (adjComplete src stOk s.time.now (stepped ofs s)) := by
  rw [exec_stepApply_eq, execStepApply, hstep]
  rfl

theorem exec_slewEnd_cancelled {w : Slew} {by_ : AdjSrc} {es : List (Slew × AdjSrc)} (hcancelled : s.time.cancelled = (w, by_) :: es) :
    exec .slewEnd s = .next (slewAborted w by_ (setTime { s.time with cancelled := es } s)) := by
  rw [exec_slewEnd_eq, execSlewEnd, hcancelled]

theorem exec_slewEnd_running {w : Slew} (hcancelled : s.time.cancelled = []) (hslew : s.time.slew = some w) :
    exec .slewEnd s =
      .next (if w.total ≤ w.done then
          adjComplete w.src stOk s.time.now (adjDone s.time.now.toNat (setTime { s.time with slew := none } s))
        else s) := by
  rw [exec_slewEnd_eq, execSlewEnd]
  simp only [hcancelled, hslew]

end adjusts

/-! ### The increment (R62, R63) -/

section increment
variable {s : State} {v : W32}

/-- The increment that a write of TIME_INCR_NS asks for, in units of 2^-32 ns. -/
def incrAsked (v : W32) (s : State) : Nat := fld v 3 0 * 2 ^ 32 + (rd s .TIME_INCR_FRAC 0 0).toNat

theorem incrNsWrite_within (hmin : 0x3FF800000 ≤ incrAsked v s) (hmax : incrAsked v s ≤ 0x400800000) :
    incrNsWrite v s = setTime { s.time with incr := BitVec.ofNat 36 (incrAsked v s) } (plainWrite .TIME_INCR_NS 0 0 v s) :=
  if_pos (by simp only [Bool.and_eq_true, decide_eq_true_eq]; exact ⟨hmin, hmax⟩)

theorem incrNsWrite_outside (hout : incrAsked v s < 0x3FF800000 ∨ 0x400800000 < incrAsked v s) :
    incrNsWrite v s = raise 18 (setB .TIME_STAT 0 0 2 s) :=
  if_neg (by simp only [Bool.and_eq_true, decide_eq_true_eq]; unfold incrAsked at hout; omega)

end increment

/-- Settles O18: one law for each request of the command and of the register, for the adjust unit's acts and for the increment.
That a cancelled slew completes before its cancel is log 53; the range of the increment is R62's, 2^23 units of 2^-32 ns about 4 ns. -/
theorem timeAdjustments : Obligations.TimeAdjustments := by
  refine ⟨⟨?command, ?register⟩, ?step, ?slew, ?cancelled, ?increment⟩
  case command =>
    intro s ring slot c hstarts b w ref ofs us
    refine ⟨fun hmode => ?_, exec_timeAdjustStep_bad_mode hstarts, fun hmode => ?_, fun hmode => ?_⟩
    · rw [exec_timeAdjustStep hstarts hmode]
      exact ⟨fun hstar hfree => congrArg _ (if_neg (by simp [hstar, hfree])), fun hbar => congrArg _ (if_pos (Bool.or_eq_true_iff.mpr hbar))⟩
    · rw [exec_timeAdjustSlew hstarts hmode]
      refine ⟨fun hmin hmax hslow hfree => ?_, fun hbad => congrArg _ (if_pos ((slewBad_iff ..).mpr hbad)),
        fun hmin hmax hslow hbusy => ?_⟩
      all_goals have hok : slewBad (cmdOfs c.words) (cmdIntv c.words) = false := slewBad_of_within hmin hmax hslow
      · exact congrArg _ ((if_neg (by simp [hok])).trans (if_neg (by simp [hfree])))
      · exact congrArg _ ((if_neg (by simp [hok])).trans (if_pos hbusy))
    · exact ⟨fun x => exec_timeAdjustCancel_slew hstarts hmode, exec_timeAdjustCancel_none hstarts hmode⟩
  case register =>
    intro s m v hwrites b ofs us
    refine ⟨fun hmode => ?_, fun hmode => ?_, fun hmode => ?_⟩
    · rw [exec_timeAdjCtrlStep hwrites hmode, adjCtrlWrite_step hmode]
      exact ⟨fun hstar hfree => congrArg _ (if_neg (by simp [hstar, hfree, b])),
        fun hbar => congrArg _ (if_pos (Bool.or_eq_true_iff.mpr hbar))⟩
    · rw [exec_timeAdjCtrlSlew hwrites hmode, adjCtrlWrite_slew hmode]
      refine ⟨fun hmin hmax hslow hfree => congrArg _ (if_neg ?_), fun hbad => congrArg _ (if_pos ?_)⟩
      · rw [hfree, slewBad_of_within hmin hmax hslow]; decide
      · exact Bool.or_eq_true_iff.mpr (hbad.imp_right (slewBad_iff ..).mpr)
    · rw [exec_timeAdjCtrlCancel hwrites hmode]
      exact ⟨fun x hslew => congrArg _ (adjCtrlWrite_cancel_slew hmode hslew),
        fun hslew => congrArg _ (adjCtrlWrite_cancel_none hmode hslew)⟩
  case step =>
    intro s src ofs hstep b
    have htime : b.time = { s.time with now := s.time.now + BitVec.ofInt 64 ofs, step := none } := stepped_time ofs s
    rw [exec_stepApply hstep, htime]
    exact ⟨fun hsrc => by rw [hsrc]; rfl, fun c hsrc => by rw [hsrc]; rfl, rfl, rfl, rfl, rd_adjDone_lo ..⟩
  case slew =>
    intro s w hcancelled hslew b
    rw [exec_slewEnd_running hcancelled hslew]
    refine ⟨fun hdone => ?_, fun hleft => congrArg _ (if_neg (Nat.not_le.mpr hleft))⟩
    rw [if_pos hdone]
    exact ⟨fun hsrc => by rw [hsrc]; rfl, fun c hsrc => by rw [hsrc]; rfl⟩
  case cancelled =>
    intro s w by_ es hcancelled b sum
    rw [exec_slewEnd_cancelled hcancelled, slewAborted]
    exact ⟨fun hsrc hby => by rw [hsrc, hby]; rfl, fun c hsrc hby => by rw [hsrc, hby]; rfl,
      fun d hsrc hby => by rw [hsrc, hby]; rfl, fun c d hsrc hby => by rw [hsrc, hby]; rfl⟩
  case increment =>
    intro s m v
    refine ⟨fun hwrites => ?_, fun hwrites => ?_⟩
    · rw [exec_incrFracWrite_eq, execIncrFracWrite, withWrite_of_writes hwrites]
    · rw [exec_incrNsWrite_eq, execIncrNsWrite, withWrite_of_writes hwrites]
      exact ⟨fun hmin hmax => congrArg _ (incrNsWrite_within hmin hmax), fun hout => congrArg _ (incrNsWrite_outside hout)⟩

/-! ### Reads of the clock and of the stamp queues (R65, R80) -/

section reading
variable {s : State} {m : Fin 64}

theorem exec_timeNowRead (hreads : reads m .TIME_NOW_LO s) : exec (.timeNowRead m) s = .next (replyOf m (timeNowRead m s)) := by
  rw [exec_timeNowRead_eq, execTimeNowRead, withRead_of_reads hreads]

variable {tx : Bool}

theorem exec_stampQueuePop (hreads : reads m (if tx then .TIME_TXS_W0 else .TIME_RXS_W0) s) :
    exec (.stampQueuePop m tx) s = .next (replyOf m (stampPop m tx s)) := by
  rw [exec_stampQueuePop_eq, execStampQueuePop, withRead_of_reads hreads]

theorem stampPop_empty (hempty : firstStamp (if tx then s.time.txs else s.time.rxs) = none) : stampPop m tx s = (0, s) := by
  simp only [stampPop, hempty]

/-- The pop of entry `e` of port `p` answers valid and the port, drops the entry, and latches its other words for the reader. -/
theorem stampPop_first {p : Nat} {e : Stamp} (hfirst : firstStamp (if tx then s.time.txs else s.time.rxs) = some (p, e)) :
    ∃ t, stampPop m tx s = (BitVec.ofNat 32 (2 ^ 31 + p), t) ∧ t = { s with regs := t.regs, time := t.time } ∧
      nmGet [] (if tx then t.time.txs else t.time.rxs) p = (nmGet [] (if tx then s.time.txs else s.time.rxs) p).drop 1 ∧
      rd t (if tx then .TIME_TXS_W2 else .TIME_RXS_W2) 0 m = BitVec.ofNat 32 e.ns.toNat := by
  simp only [stampPop, hfirst]
  refine ⟨_, rfl, rfl, ?_, ?_⟩
  · cases tx <;> simp
  · rw [rd_wr_reg _ _ _ _ _ _ _ _ (by cases tx <;> decide), rd_wr_same]

end reading

/-! ### Time pins (R85, R86) -/

section pins
variable {s : State}

theorem exec_ppsInEdge (hrun : running s = true) (henabled : bit (rd s .TIME_CTRL 0 0) 2 = true) (stamp : W64) :
    exec (.ppsInEdge stamp) s =
      .next (if guardPassed s.time.ppsLast (fld (rd s .TIME_PPSIN_GUARD 0 0) 9 0) stamp then
        raise 16 (wr64 .TIME_PPSIN_LO .TIME_PPSIN_HI 0 0 stamp.toNat
          (setTime { s.time with ppsLast := some stamp, ppsBase := stamp, ppsMissFired := false } s))
      else pinReject s) := by
  rw [exec_ppsInEdge_eq, execPpsInEdge, if_pos (by rw [hrun, henabled]; rfl)]

theorem exec_ppsInMissing_due (hmissing : ppsMissing s = true) :
    exec .ppsInMissing s = .next (raise 17 (setTime { s.time with ppsMissFired := true } s)) := by
  rw [exec_ppsInMissing_eq, execPpsInMissing, if_pos hmissing]

theorem exec_ppsOutPulse_due (hdue : ppsOutDue s = true) :
    exec .ppsOutPulse s = .next (say (.timePin 4 true (BitVec.ofNat 64 (ppsEdge s))) (setTime { s.time with
      ppsAt := s.time.now,
      ppsOutEnd := some (BitVec.ofNat 64 (ppsEdge s + min 500000 (max 1 (fld (rd s .TIME_PPSOUT_CFG 0 0) 19 0)) * 1000)) } s)) := by
  rw [exec_ppsOutPulse_eq, execPpsOutPulse, if_pos hdue]

section ppsOut
variable {e : W64} (hpulse : s.time.ppsOutEnd = some e)
include hpulse

/-- R85: the pulse of PPS_OUT ends at its end time, or at the present one where its next edge comes first. -/
theorem exec_timePinPulseEnd_ppsOut (hdue : ppsEndDue s e = true) :
    exec (.timePinPulseEnd 0) s = .next (say (.timePin 4 false (if e.toNat ≤ now s then e else s.time.now))
      (setTime { s.time with ppsOutEnd := none } s)) := by
  rw [exec_timePinPulseEnd_eq, execTimePinPulseEnd]
  simp [hpulse, hdue]

theorem exec_timePinPulseEnd_ppsOut_over (hover : e.toNat ≤ now s) :
    exec (.timePinPulseEnd 0) s = .next (say (.timePin 4 false e) (setTime { s.time with ppsOutEnd := none } s)) := by
  rw [exec_timePinPulseEnd_ppsOut hpulse (by simp [ppsEndDue, hover]), if_pos hover]

theorem exec_timePinPulseEnd_ppsOut_cut (hlasts : now s < e.toNat)
    (hnext : ppsCount s (now s) < ppsCount s (now s + s.time.incr.toNat / 2 ^ 32 + 1)) :
    exec (.timePinPulseEnd 0) s = .next (say (.timePin 4 false s.time.now) (setTime { s.time with ppsOutEnd := none } s)) := by
  rw [exec_timePinPulseEnd_ppsOut hpulse (by simp only [ppsEndDue, hnext, decide_true, Bool.or_true]), if_neg (Nat.not_le.mpr hlasts)]

end ppsOut

theorem exec_timePinPulseEnd_eqxOut {k : Fin 4} {e : W64} (hpulse : nmFind s.time.eqxOutEnd k = some e) (hover : e.toNat ≤ now s) :
    exec (.timePinPulseEnd ⟨k + 1, by omega⟩) s = .next (say (.timePin (5 + k) (bit (rd s .TIME_EQXOUT_CFG k 0) 1) e)
      (setTime { s.time with eqxOutEnd := nmErase s.time.eqxOutEnd k } s)) := by
  have hpin : 4 + (k.val + 1) = 5 + k.val := by omega
  rw [exec_timePinPulseEnd_eq, execTimePinPulseEnd]
  simp [hpulse, hover, hpin]

end pins

/-! ### Alarms (R87, R88) -/

section alarms
variable {s : State} {m : Fin 64} {n : Fin 2}

/-- The arm bit of an alarm alone arms it. -/
theorem alarmCtrlWrite_arm (n : Fin 2) (s : State) : alarmCtrlWrite (oneBit n) s = alarmArm n s := by
  fin_cases n <;> rfl

/-- The disarm bit of an alarm alone disarms it. -/
theorem alarmCtrlWrite_disarm (n : Fin 2) (s : State) : alarmCtrlWrite (oneBit (16 + n)) s = alarmDisarm n s := by
  fin_cases n <;> rfl

theorem exec_alarmArm (hwrites : writes m .TIME_ALARM_CTRL s) : exec (.alarmArm m n) s = .next (alarmArm n s) := by
  rw [exec_alarmArm_eq, execAlarmArm, withWrite_of_writes hwrites, alarmCtrlWrite_arm]

theorem exec_alarmDisarm (hwrites : writes m .TIME_ALARM_CTRL s) : exec (.alarmDisarm m n) s = .next (alarmDisarm n s) := by
  rw [exec_alarmDisarm_eq, execAlarmDisarm, withWrite_of_writes hwrites, alarmCtrlWrite_disarm]

variable {t : W64} (harmed : alarmOf s n = some t)
include harmed

theorem exec_alarmFire_due (hrun : running s = true) (hdue : t.toNat ≤ now s) :
    exec (.alarmFire n) s = .next (raise (22 + n) (alarmDisarm n s)) := by
  rw [exec_alarmFire_eq, execAlarmFire, harmed]
  simp [clockRuns, hrun, hdue]

theorem exec_alarmFire_early (hearly : now s < t.toNat) : exec (.alarmFire n) s = .next s := by
  rw [exec_alarmFire_eq, execAlarmFire, harmed]
  simp [Nat.not_le.mpr hearly]

end alarms

/-- Settles O19: one law for each case of the reads, the pins and the alarms. -/
theorem timePinsStampsAndAlarms : Obligations.TimePinsStampsAndAlarms := by
  intro s m hrun
  refine ⟨exec_timeNowRead, fun tx hreads => ?stamps, fun stamp henabled => ?edge, exec_ppsInMissing_due, exec_ppsOutPulse_due,
    fun e hpulse => ⟨exec_timePinPulseEnd_ppsOut_over hpulse, exec_timePinPulseEnd_ppsOut_cut hpulse⟩,
    fun k e => exec_timePinPulseEnd_eqxOut,
    fun n => ⟨fun hwrites => ⟨exec_alarmArm hwrites, exec_alarmDisarm hwrites⟩,
      fun t harmed => ⟨exec_alarmFire_due harmed hrun, exec_alarmFire_early harmed⟩⟩⟩
  case stamps =>
    rw [exec_stampQueuePop hreads]
    refine ⟨fun hempty => by rw [stampPop_empty hempty]; rfl, fun p e hfirst => ?_⟩
    obtain ⟨t, hpop, hkept⟩ := stampPop_first (m := m) hfirst
    exact ⟨t, by rw [hpop]; rfl, hkept⟩
  case edge =>
    rw [exec_ppsInEdge hrun henabled]
    exact ⟨fun hpassed => congrArg _ (if_pos hpassed), fun hguarded => congrArg _ (if_neg (by simp [hguarded]))⟩

end Sys2Proof.Machine

/-! The queue manager (O23, O24): what every answer to an enqueue leaves alone, the checks of R458 in their order, and one law for
each case of the consumer's operations. -/

namespace Sys2Proof.Machine

section arms
variable (s : State) (via : Via)

theorem exec_enqueue_eq (v : W32) : exec (.enqueue via v) s = execEnqueue via v s := rfl
theorem exec_dequeue_eq : exec (.dequeue via) s = execDequeue via s := rfl
theorem exec_qmark_eq : exec (.qmark via) s = execQmark via s := rfl
theorem exec_rewind_eq : exec (.rewind via) s = execRewind via s := rfl
theorem exec_release_eq : exec (.release via) s = execRelease via s := rfl
theorem exec_flush_eq : exec (.flush via) s = execFlush via s := rfl
theorem exec_noticeListPop_eq : exec (.noticeListPop via) s = execNoticeListPop via s := rfl
theorem exec_noticeGroupPop_eq (m : Fin 64) (g : Fin 12) : exec (.noticeGroupPop m g) s = execNoticeGroupPop m g s := rfl
theorem exec_noticeCoalesceTimeout_eq (q : Fin 4096) :
    exec (.noticeCoalesceTimeout q) s = execNoticeCoalesceTimeout q s := rfl

end arms

/-! ### What counters, events and notices leave alone -/

/-- What an operation on queue `q` must spare: the other queues, the memories, the engines and the policy core. -/
def besideQueue (q : Nat) (s : State) : ({j // j ≠ q} → Queue) × Stores × EngSt × PolSt :=
  (fun j => queueOf s j, s.stores, s.eng, s.pol)

section spared
variable (q j src : Nat) (s : State)

@[simp] theorem queueOf_raise : queueOf (raise src s) j = queueOf s j := by simp [queueOf]
@[simp] theorem queueOf_wr (r : Reg) (i c : Nat) (v : W32) : queueOf (wr r i c v s) j = queueOf s j := rfl
@[simp] theorem queueOf_setB (r : Reg) (i c : Nat) (v : W32) : queueOf (setB r i c v s) j = queueOf s j := rfl
@[simp] theorem queueOf_count16 (r : Reg) (i c : Nat) : queueOf (count16 r i c s) j = queueOf s j := rfl

@[simp] theorem besideQueue_raise : besideQueue q (raise src s) = besideQueue q s := by simp [besideQueue]
@[simp] theorem besideQueue_wr (r : Reg) (i c : Nat) (v : W32) : besideQueue q (wr r i c v s) = besideQueue q s := rfl
@[simp] theorem besideQueue_setB (r : Reg) (i c : Nat) (v : W32) : besideQueue q (setB r i c v s) = besideQueue q s := rfl
@[simp] theorem besideQueue_count16 (r : Reg) (i c : Nat) : besideQueue q (count16 r i c s) = besideQueue q s := rfl

@[simp] theorem besideQueue_setQueue (k : Queue) : besideQueue q (setQueue q k s) = besideQueue q s := by
  have hothers : (fun j : {j // j ≠ q} => queueOf (setQueue q k s) j) = fun j : {j // j ≠ q} => queueOf s j :=
    funext fun j => queueOf_setQueue_ne q j k s j.property
  rw [besideQueue, hothers]
  rfl

/-- R125: beside firing its group's source, a notice changes the notice lists alone. -/
theorem noticeDeliver_keeps {γ : Type} (f : State → γ) (hraise : ∀ n s, f (raise n s) = f s)
    (hlists : ∀ s el pl g, f { s with qm := { s.qm with engList := el, polList := pl, groups := g } } = f s) :
    f (noticeDeliver q s) = f s := by
  unfold noticeDeliver
  dsimp only
  split_ifs
  · exact (hraise _ _).trans (hlists _ _ _ _)
  · rfl
  · exact hlists _ _ _ _
  · exact hlists _ _ _ _
  · rfl

@[simp] theorem queueOf_noticeSet : queueOf (noticeSet q s) j = queueOf s j :=
  keepIf (queueOf · j) rfl ((noticeDeliver_keeps q _ (queueOf · j) (queueOf_raise j) fun _ _ _ _ => rfl).trans rfl)

@[simp] theorem besideQueue_noticeSet (n : Nat) : besideQueue q (noticeSet n s) = besideQueue q s :=
  keepIf (besideQueue q) rfl ((noticeDeliver_keeps n _ (besideQueue q) (besideQueue_raise q) fun _ _ _ _ => rfl).trans rfl)

/-- R124: a notice takes the pending count of its queue to 0. -/
@[simp] theorem queueOf_notice_same : queueOf (notice q s) q = { queueOf s q with pend := [] } := by simp [notice]

@[simp] theorem besideQueue_notice : besideQueue q (notice q s) = besideQueue q s := by simp [notice]

theorem besideQueue_eq {q : Nat} {s t : State} (hsame : besideQueue q t = besideQueue q s) :
    (∀ j, j ≠ q → queueOf t j = queueOf s j) ∧ t.stores = s.stores ∧ t.eng = s.eng ∧ t.pol = s.pol := by
  simp only [besideQueue, Prod.mk.injEq] at hsame
  exact ⟨fun j hj => congrFun hsame.1 ⟨j, hj⟩, hsame.2⟩

end spared

/-! ### What an enqueue does to its queue (R116 to R122, R457) -/

section enqueue
variable (q p th : Nat) (d : BitVec 128) (s : State)

@[simp] theorem besideQueue_packetDone : besideQueue q (packetDone q s) = besideQueue q s := by
  unfold packetDone
  dsimp only
  split_ifs <;> simp

/-- R119: a complete packet is visible to its last descriptor; whether its notice is due now or later shows in `pend` alone. -/
theorem queueOf_packetDone : ∃ waiting, queueOf (packetDone q s) q =
    { queueOf s q with vis := (queueOf s q).base + (queueOf s q).descs.length, openBy := none, pend := waiting } := by
  unfold packetDone
  dsimp only
  split_ifs <;> simp

/-- R122: a refusal counts and fires, and changes no queue. -/
@[simp] theorem queueOf_qRefuse (j st : Nat) : queueOf (qRefuse q st s).2 j = queueOf s j := by
  unfold qRefuse
  dsimp only
  split_ifs <;> simp

@[simp] theorem besideQueue_qRefuse (st : Nat) : besideQueue q (qRefuse q st s).2 = besideQueue q s := by
  unfold qRefuse
  dsimp only
  split_ifs <;> simp

@[simp] theorem besideQueue_qDrop (cause : DiscardCause) (lst : Bool) :
    besideQueue q (qDrop q p th cause lst s).2 = besideQueue q s := by
  cases cause <;> cases lst <;> simp [qDrop, qCountFlushed]

@[simp] theorem besideQueue_qAppend : besideQueue q (qAppend q p th d s).2 = besideQueue q s := by
  unfold qAppend
  dsimp only
  split_ifs <;> simp

@[simp] theorem besideQueue_qCloseBad (lst : Bool) : besideQueue q (qCloseBad q p th lst s).2 = besideQueue q s := by
  simp [qCloseBad]

/-- Every answer of R458 is a refusal, a drop, an append or a close of queue `q`, at most after its discard entries changed. -/
theorem besideQueue_qEnqueue : besideQueue q (qEnqueue q p th d s).2 = besideQueue q s := by
  unfold qEnqueue
  dsimp only
  split_ifs <;> simp

/-- R118, R119: the descriptor joins the end; with last its packet is complete and visible, else its thread's packet is open. -/
theorem queueOf_qAppend : ∃ waiting, queueOf (qAppend q p th d s).2 q =
    { queueOf s q with
      descs := (queueOf s q).descs ++ [d]
      vis := if dLast d then (queueOf s q).base + (queueOf s q).descs.length + 1 else (queueOf s q).vis
      openBy := if dLast d then none else some (p, th)
      pend := waiting } := by
  cases hlast : dLast d
  case false => exact ⟨(queueOf s q).pend, by simp [qAppend, hlast]⟩
  case true =>
    obtain ⟨waiting, hdone⟩ := queueOf_packetDone q
      (setQueue q { queueOf s q with descs := (queueOf s q).descs ++ [d], openBy := some (p, th) } s)
    exact ⟨waiting, by simp [qAppend, hlast, hdone, Nat.add_assoc]⟩

end enqueue

/-! ### The order of the checks (R458) -/

/-- The party to which a side of a queue is bound passes the check of R131. -/
theorem bindCheck_passes {code party : Nat} (hbound : boundCode code = true) (hparty : code = party) :
    ¬(!boundCode code || decide (code ≠ party)) = true := by
  simp [← hparty, hbound]

section checks
variable {q p th : Nat} {d : BitVec 128} {s : State}

theorem qEnqueue_unbound (hunbound : boundCode (qProducer s q) = false ∨ qProducer s q ≠ p) :
    qEnqueue q p th d s = qRefuse q qNotBound s :=
  if_pos (by simpa using hunbound)

section bound
variable (hbound : boundCode (qProducer s q) = true) (hproducer : qProducer s q = p)
include hbound hproducer

theorem qEnqueue_otherOpen (hopen : (queueOf s q).openBy.isSome = true) (hother : (queueOf s q).openBy ≠ some (p, th)) :
    qEnqueue q p th d s = qRefuse q qOpen (setQueue q (undiscard p th (queueOf s q)) s) := by
  rw [qEnqueue, if_neg (bindCheck_passes hbound hproducer), if_pos (by simp [hopen, hother])]

variable (hclosed : (queueOf s q).openBy = none)
include hclosed

theorem qEnqueue_discarded {e : Nat × Nat × DiscardCause}
    (hdiscard : ((queueOf s q).discard.find? fun e => e.1 = p && e.2.1 = th) = some e) (hlater : dFirst d = false) :
    qEnqueue q p th d s = qDrop q p th e.2.2 (dLast d) s := by
  rw [qEnqueue, if_neg (bindCheck_passes hbound hproducer)]
  simp [hclosed, hdiscard, hlater]

/-- The checks that a descriptor out of discard meets where no packet is open. -/
theorem qEnqueue_closed
    (hfresh : ((queueOf s q).discard.find? fun e => e.1 = p && e.2.1 = th) = none ∨ dFirst d = true) :
    qEnqueue q p th d s =
      let t := setQueue q (undiscard p th (queueOf s q)) s
      if descBad d = true ∨ dFirst d = false then qRefuse q qBadDesc t
      else if isOn s .QM_Q_STAT q = false then qRefuse q qOff t
      else if qLimit s q ≤ (queueOf s q).descs.length then qRefuse q qRefused t
      else if descFree t = 0 then qRefuse q qNoDesc t
      else qAppend q p th d t := by
  have hundiscarded : ¬(((queueOf s q).discard.find? fun e => e.1 = p && e.2.1 = th).isSome && !dFirst d) = true := by
    rcases hfresh with hnone | hfirst
    · simp [hnone]
    · simp [hfirst]
  rw [qEnqueue, if_neg (bindCheck_passes hbound hproducer), if_neg (by simp [hclosed]), if_neg hundiscarded]
  cases hfirst : dFirst d
  case false => simp [hclosed]
  case true => simp [hclosed, qUse, undiscard, qLimit, isOn, fbOf]

end bound
end checks

/-- Settles O23: each check of R458 that stops the descriptor is the first true condition of the chain, taken in its order. -/
theorem enqueuesAreCheckedInOrder : Obligations.EnqueuesAreCheckedInOrder := by
  intro s q p th d k x dis
  obtain ⟨hothers, hstores, heng, hpol⟩ := besideQueue_eq (besideQueue_qEnqueue q p th d s)
  refine ⟨hothers, hstores, heng, hpol, qEnqueue_unbound,
    fun hbound hproducer => ⟨qEnqueue_otherOpen hbound hproducer, fun hclosed =>
      ⟨fun e => qEnqueue_discarded hbound hproducer hclosed, fun hfresh => ?fresh⟩⟩,
    fun st => ⟨queueOf_qRefuse q s q st, rfl⟩⟩
  have hchecks := qEnqueue_closed hbound hproducer hclosed hfresh
  refine ⟨fun hbad => hchecks.trans (if_pos hbad), fun hgood hfirst => ?_⟩
  replace hchecks := hchecks.trans (if_neg (by simp [hgood, hfirst]))
  refine ⟨fun hoff => hchecks.trans (if_pos hoff), fun hon => ?_⟩
  replace hchecks := hchecks.trans (if_neg (by simp [hon]))
  refine ⟨fun hfull => hchecks.trans (if_pos hfull), fun hroom => ?_⟩
  replace hchecks := hchecks.trans (if_neg (Nat.not_le.mpr hroom))
  refine ⟨fun hram => hchecks.trans (if_pos hram), fun hram => ?_⟩
  replace hchecks : x = _ := hchecks.trans (if_neg hram)
  obtain ⟨waiting, happended⟩ := queueOf_qAppend q p th d (setQueue q (undiscard p th k) s)
  rw [hchecks, happended, queueOf_setQueue_same]
  exact ⟨rfl, rfl, fun hmore => by simp [hmore, undiscard], fun hlast => by simp [hlast, undiscard, k]⟩

/-! ### Consumer operations (R119, R126 to R129) -/

section consumer
variable {s : State} {q c : Nat}

theorem qDequeue_unbound (hother : qConsumer s q ≠ c) : qDequeue q c s = (qNotBound, 0, s) :=
  if_pos (by simp [hother])

theorem qConsumerOp_unbound (hother : qConsumer s q ≠ c) (k : State → State) : qConsumerOp q c k s = (qNotBound, s) :=
  if_pos (by simp [hother])

variable (hbound : boundCode (qConsumer s q) = true) (hconsumer : qConsumer s q = c)
include hbound hconsumer

theorem qDequeue_empty (hunflushed : qStatBit s q 5 = false) (hread : (queueOf s q).vis ≤ (queueOf s q).read) :
    qDequeue q c s = (qEmpty, 0, s) := by
  rw [qDequeue, if_neg (bindCheck_passes hbound hconsumer), if_neg (by simp [hunflushed]), if_pos hread]

/-- R119: a dequeue answers OK and the descriptor at the read position. -/
theorem qDequeue_unread (hunflushed : qStatBit s q 5 = false) (hunread : (queueOf s q).read < (queueOf s q).vis) :
    ∃ t, qDequeue q c s = (qOk, (queueOf s q).descs.getD ((queueOf s q).read - (queueOf s q).base) 0, t) := by
  rw [qDequeue, if_neg (bindCheck_passes hbound hconsumer), if_neg (by simp [hunflushed]), if_neg (Nat.not_le.mpr hunread)]
  exact ⟨_, rfl⟩

theorem qConsumerOp_release (hmode : qFlushMode s q = false) (k : State → State) : qConsumerOp q c k s = (qOk, k s) := by
  rw [qConsumerOp, if_neg (bindCheck_passes hbound hconsumer), if_neg (by simp [hmode])]

theorem qConsumerOp_flush (hmode : qFlushMode s q = true) (k : State → State) :
    qConsumerOp q c k s = (qWrongMode, raise 50 s) := by
  rw [qConsumerOp, if_neg (bindCheck_passes hbound hconsumer), if_pos hmode, qWrong]

theorem qFlush_release (hmode : qFlushMode s q = false) : qFlush q c s = (qWrongMode, raise 50 s) := by
  rw [qFlush, if_neg (by simp [← hconsumer, hbound]), if_pos (by simp [hmode]), qWrong]

theorem qFlush_flush (hmode : qFlushMode s q = true) : (qFlush q c s).1 = qOk := by
  rw [qFlush, if_neg (by simp [← hconsumer, hbound]), if_neg (by simp [hmode])]

end consumer

/-! ### Accesses by register and by port (R126, Table 5.2) -/

section access
variable {s : State} {m : Fin 64} {t : Fin 97}

theorem exec_enqueue_reg (hwrites : writes m .QM_Q_E s) (v : W32) :
    exec (.enqueue (.reg m) v) s = .next (enqueueWord3 (.reg m) v s) := by
  rw [exec_enqueue_eq, execEnqueue, withWrite_of_writes hwrites]

theorem exec_dequeue_reg (hreads : reads m .QM_Q_DEQ s) : exec (.dequeue (.reg m)) s = .next (dequeueRead (.reg m) s) := by
  rw [exec_dequeue_eq, execDequeue, withRead_of_reads hreads]

section operation
variable (hwrites : writes m .QM_Q_OP s)
include hwrites

theorem viaOpWrite_reg (n : Nat) (op : Nat → Nat → State → Nat × State) : viaOpWrite (.reg m) n op s = viaOp (.reg m) op s :=
  withWrite_of_writes hwrites ..

theorem exec_qmark_reg : exec (.qmark (.reg m)) s = .next (viaOp (.reg m) qMark s) := by
  rw [exec_qmark_eq, execQmark, viaOpWrite_reg hwrites]

theorem exec_rewind_reg : exec (.rewind (.reg m)) s = .next (viaOp (.reg m) qRewind s) := by
  rw [exec_rewind_eq, execRewind, viaOpWrite_reg hwrites]

theorem exec_release_reg : exec (.release (.reg m)) s = .next (viaOp (.reg m) qRelease s) := by
  rw [exec_release_eq, execRelease, viaOpWrite_reg hwrites]

theorem exec_flush_reg : exec (.flush (.reg m)) s = .next (viaOp (.reg m) qFlush s) := by
  rw [exec_flush_eq, execFlush, viaOpWrite_reg hwrites]

end operation

theorem exec_noticeListPop_reg (hreads : reads m .QM_NOTICE_NEXT s) :
    exec (.noticeListPop (.reg m)) s = .next (reply m (popPol s).1 (popPol s).2) := by
  rw [exec_noticeListPop_eq, execNoticeListPop, withRead_of_reads hreads]

theorem exec_noticeListPop_thread (hengine : t.val ≠ 96) :
    exec (.noticeListPop (.port t)) s = .next (reply (thMaster t) (popEng (t / 4) s).1 (popEng (t / 4) s).2) := by
  rw [exec_noticeListPop_eq, execNoticeListPop, if_neg hengine]

theorem exec_noticeGroupPop_reg {g : Fin 12} (hreads : reads m .QM_NGRP_NEXT s) :
    exec (.noticeGroupPop m g) s = .next (reply m (popGroup g s).1 (popGroup g s).2) := by
  rw [exec_noticeGroupPop_eq, execNoticeGroupPop, withRead_of_reads hreads]

theorem exec_noticeCoalesceTimeout_due {q : Fin 4096} (hrun : running s = true) (hdue : coalDue s q = true) :
    exec (.noticeCoalesceTimeout q) s = .next (notice q s) := by
  rw [exec_noticeCoalesceTimeout_eq, execNoticeCoalesceTimeout, if_pos (by simp [hrun, hdue])]

end access

/-- Settles O24: one law for each access by register and by port, and for each case of the consumer's operations. -/
theorem queueAccesses : Obligations.QueueAccesses := by
  refine ⟨fun s t v g m => ?access, fun s q c =>
    ⟨fun hbound hconsumer => ⟨fun hunflushed hunread => ?unread, qDequeue_empty hbound hconsumer, fun hmode => ?release, fun hmode => ?flush⟩,
      fun hother => ⟨qDequeue_unbound hother, qConsumerOp_unbound hother _, qConsumerOp_unbound hother _,
        qConsumerOp_unbound hother _⟩⟩⟩
  case access =>
    exact ⟨exec_enqueue_eq s (.port t) v, fun hwrites => exec_enqueue_reg hwrites v, exec_dequeue_eq s (.port t), exec_dequeue_reg,
      fun hwrites => ⟨exec_qmark_reg hwrites, exec_rewind_reg hwrites, exec_release_reg hwrites, exec_flush_reg hwrites⟩,
      exec_qmark_eq s (.port t), exec_rewind_eq s (.port t), exec_release_eq s (.port t), exec_flush_eq s (.port t),
      exec_noticeListPop_reg, exec_noticeListPop_thread, exec_noticeGroupPop_reg, fun q => exec_noticeCoalesceTimeout_due⟩
  case unread =>
    obtain ⟨t, hdequeue⟩ := qDequeue_unread hbound hconsumer hunflushed hunread
    rw [hdequeue]
    exact ⟨rfl, rfl⟩
  case release =>
    have hserved := qConsumerOp_release hbound hconsumer hmode
    exact ⟨hserved _, hserved _, hserved _, fun _ => by rw [qFlush_release hbound hconsumer hmode]⟩
  case flush =>
    have hwrong := qConsumerOp_flush hbound hconsumer hmode
    exact ⟨hwrong _, hwrong _, hwrong _, qFlush_flush hbound hconsumer hmode⟩

end Sys2Proof.Machine

/-! The switch fabric (O29, O26, O27): what the windows into the active set answer, in the order of log 16; one law for each case of a
frame's first cell; and one law for each answer of an egress queue's admission. -/

namespace Sys2Proof.Machine

/-! ### The windows into the active set (R174, R175, Table 6.17) -/

section arms
variable (m : Fin 64) (s : State)

theorem exec_fabActRead_eq : exec (.fabActRead m) s = execFabActRead m s := rfl
theorem exec_fabActApply_eq : exec (.fabActApply m) s = execFabActApply m s := rfl
theorem exec_canActRead_eq : exec (.canActRead m) s = execCanActRead m s := rfl
theorem exec_canActApply_eq : exec (.canActApply m) s = execCanActApply m s := rfl

end arms

theorem actCtrlWrite_read (w : ActWin) (m : Nat) (s : State) : actCtrlWrite w m 1 s = actRead w m s := rfl
theorem actCtrlWrite_apply (w : ActWin) (m : Nat) (s : State) : actCtrlWrite w m 2 s = actApply w m s := rfl

/-- A window's status shows in its control register alone. -/
@[simp] theorem actStatus_cfg (w : ActWin) (m st : Nat) (s : State) : (actStatus w m st s).cfg = s.cfg := rfl

/-- A refusal by the envelope is counted and recorded, and changes no table. -/
@[simp] theorem govRefuse_cfg (a why tbl idx : Nat) (v : W32) (s : State) : (govRefuse a why tbl idx v s).cfg = s.cfg := by
  simp [govRefuse]

/-- The entry of table `id` that master `m` has spelled in the window's words. -/
def windowEntry (w : ActWin) (m id : Nat) (s : State) : List W32 := (List.range (tblWords id)).map fun k => rd s w.words k m

/-- R175: entry `e` cannot stand at index `i` of table `id`: a field out of range, a gate interval of no length, or a clash with another
active entry. -/
def entryUnfit (id i : Nat) (e : List W32) (s : State) : Bool :=
  entryRange id i e || (decide (id = 2) && decide (2048 ≤ i) && decide (fld (wordAt e 0) 29 0 = 0)) ||
    intervalBad s.cfg.active id i e || (decide (id = 6) && entryValid id i e && macBad s.cfg.active i e)

section window
variable {s : State} {m : Fin 64} {w : ActWin}

section commands
variable (hw : w = fabWin ∨ w = canWin) (hwrites : writes m w.ctrl s)
include hw hwrites

/-- R174, R218: the command of a window's read bit reads through that window. -/
theorem exec_windowRead : exec (if w = fabWin then .fabActRead m else .canActRead m) s = .next (actRead w m s) := by
  rcases hw with rfl | rfl
  · rw [if_pos rfl, exec_fabActRead_eq, execFabActRead, ← actCtrlWrite_read]
    exact congrArg Host.Outcome.next (withWrite_of_writes hwrites ..)
  · rw [if_neg (by decide), exec_canActRead_eq, execCanActRead, ← actCtrlWrite_read]
    exact congrArg Host.Outcome.next (withWrite_of_writes hwrites ..)

/-- R174, R218: the command of a window's apply bit applies through that window. -/
theorem exec_windowApply : exec (if w = fabWin then .fabActApply m else .canActApply m) s = .next (actApply w m s) := by
  rcases hw with rfl | rfl
  · rw [if_pos rfl, exec_fabActApply_eq, execFabActApply, ← actCtrlWrite_apply]
    exact congrArg Host.Outcome.next (withWrite_of_writes hwrites ..)
  · rw [if_neg (by decide), exec_canActApply_eq, execCanActApply, ← actCtrlWrite_apply]
    exact congrArg Host.Outcome.next (withWrite_of_writes hwrites ..)

end commands

section selected
variable {id i : Nat} (hsel : actSel w m s = (id, i))
include hsel

/-- R174: a read copies the selected entry into the window's words. -/
theorem actRead_in_range (hrange : actInRange w id i = true) :
    actRead w m s = actStatus w m actOk ((List.range w.words.desc.n).foldl (fun u k => wr w.words k m (tblW u id i k) u) s) := by
  simp only [actRead, hsel, if_pos hrange]

theorem actRead_bad_index (hrange : actInRange w id i = false) : actRead w m s = actStatus w m actBadIndex s := by
  simp [actRead, hsel, hrange]

section policy
variable (hpolicy : m.val = 3) (hrestart : inRestart s = false)
include hpolicy hrestart

/-- R175: the policy core's request outside a restart is checked for its index, its entry and the envelope, in this order. -/
theorem actApply_of_policy :
    actApply w m s =
      if !actInRange w id i then actStatus w m actBadIndex s
      else if entryUnfit id i (windowEntry w m id s) s then actStatus w m actBadEntry s
      else
        let e := windowEntry w m id s
        let g := actGoverns id i e s
        match envCheck g.1 g.2.1 g.2.2 s with
        | some why => actStatus w m actRefused (govRefuse g.1 why id i (wordAt e 0) s)
        | none => actStatus w m actOk (actPut id i e (govAccept g.1 id i (wordAt e 0) s)) := by
  have hadmitted : ¬ (decide (m.val ≠ 3) || inRestart s) = true := by simp [hpolicy, hrestart]
  simp only [actApply, hsel, if_neg hadmitted]
  rfl

theorem actApply_bad_index (hrange : actInRange w id i = false) : actApply w m s = actStatus w m actBadIndex s := by
  simp [actApply_of_policy hsel hpolicy hrestart, hrange]

variable (hrange : actInRange w id i = true)
include hrange

/-- R175: an entry that cannot stand where it is selected is not applied. -/
theorem actApply_bad_entry (hunfit : entryUnfit id i (windowEntry w m id s) s = true) :
    actApply w m s = actStatus w m actBadEntry s := by
  simp [actApply_of_policy hsel hpolicy hrestart, hrange, hunfit]

variable {e : List W32} (hentry : windowEntry w m id s = e) (hfit : entryUnfit id i e s = false)
  {a : Nat} {scope bound : Bool} (hgoverns : actGoverns id i e s = (a, scope, bound))
include hentry hfit hgoverns

/-- R369: an entry that the envelope refuses is counted and recorded, and not applied. -/
theorem actApply_envelope_refused {why : Nat} (henv : envCheck a scope bound s = some why) :
    actApply w m s = actStatus w m actRefused (govRefuse a why id i (wordAt e 0) s) := by
  simp [actApply_of_policy hsel hpolicy hrestart, hrange, hentry, hfit, hgoverns, henv]

/-- R175: an entry that passes every check takes effect. -/
theorem actApply_accepted (henv : envCheck a scope bound s = none) :
    actApply w m s = actStatus w m actOk (actPut id i e (govAccept a id i (wordAt e 0) s)) := by
  simp [actApply_of_policy hsel hpolicy hrestart, hrange, hentry, hfit, hgoverns, henv]

end policy

end selected

/-- R174: only the policy core applies entries, and not within a restart. -/
theorem actApply_refused (hbarred : m.val ≠ 3 ∨ inRestart s = true) : actApply w m s = actStatus w m actRefused s :=
  if_pos (by simpa using hbarred)

end window

/-- Settles O29: each answer of a window has a law. That the index and the entry are judged before the envelope is log 16. -/
theorem activeSetWindows : Obligations.ActiveSetWindows := by
  intro s m w hw hwrites id i e badE g apply read
  have hread : exec read s = .next (actRead w m s) := exec_windowRead hw hwrites
  have happly : exec apply s = .next (actApply w m s) := exec_windowApply hw hwrites
  have hsel : actSel w m s = (id, i) := rfl
  have hentry : windowEntry w m id s = e := rfl
  have hgoverns : actGoverns id i e s = (g.1, g.2.1, g.2.2) := rfl
  rw [hread, happly]
  refine ⟨fun hrange => by rw [actRead_in_range hsel hrange], fun hrange => by rw [actRead_bad_index hsel hrange],
    fun hbarred => by rw [actApply_refused hbarred], fun hpolicy hrestart =>
      ⟨fun hrange => by rw [actApply_bad_index hsel hpolicy hrestart hrange], fun hrange =>
        ⟨fun hunfit => by rw [actApply_bad_entry hsel hpolicy hrestart hrange hunfit],
          fun hfit => ⟨fun why henv => ?refused, fun henv => ?accepted⟩⟩⟩,
    fun st => actStatus_cfg w m st s⟩
  case refused =>
    rw [actApply_envelope_refused hsel hpolicy hrestart hrange hentry hfit hgoverns henv]
    exact ⟨_, rfl, rfl, by simp⟩
  case accepted => rw [actApply_accepted hsel hpolicy hrestart hrange hentry hfit hgoverns henv]

/-! ### A frame's first cell (R137) -/

section arms
variable (s : State)

theorem exec_fabricFirstCell_eq (f : FabIn) : exec (.fabricFirstCell f) s = execFabricFirstCell f s := rfl
theorem exec_redIdleUpdate_eq (eq : Fin 216) : exec (.redIdleUpdate eq) s = execRedIdleUpdate eq s := rfl

end arms

section enters
variable {s : State} {f : FabIn} (hrun : running s = true)
include hrun

theorem exec_fabricFirstCell_queue {q : Fin 4096} (hqueue : f.queue = some q) :
    exec (.fabricFirstCell f) s = .next (fabFromQueue q s) := by
  simp [exec_fabricFirstCell_eq, execFabricFirstCell, hrun, hqueue]

variable (hqueue : f.queue = none)
include hqueue

theorem exec_fabricFirstCell_eth (hport : f.port.val < 16) (hkind : f.kind = .eth) :
    exec (.fabricFirstCell f) s = .next (portFirst f s) := by
  simp [exec_fabricFirstCell_eq, execFabricFirstCell, hrun, hqueue, hport, hkind]

/-- R137: the frame of a CAN or star port enters. -/
theorem exec_fabricFirstCell_bus (hlo : 16 ≤ f.port.val) (hhi : f.port.val < 20) :
    exec (.fabricFirstCell f) s = .next (fabFirst f none false none s) := by
  simp [exec_fabricFirstCell_eq, execFabricFirstCell, hrun, hqueue, Nat.not_lt.mpr hlo, hlo, hhi]

end enters

section port
variable {s : State} {f : FabIn}

/-- 07 R177: a frame that its port does not receive or keeps for itself never enters the fabric. -/
theorem portFirst_unseen (hunseen : receives s f.port f.stamp = false ∨ macControl f.bytes = true ∨ isInband f.bytes = true) :
    portFirst f s = s :=
  if_pos (by simpa [or_assoc] using hunseen)

/-- The state in which a frame comes in at port `p`: a port that does not reassemble fragments has lost the end of one still on its
way in. -/
def beforeArrival (p : Nat) (s : State) : State := if p < 12 ∧ bit (rd s .ETH_PREEMPT_CFG 0 p) 0 = true then s else cutArrivals p s

/-- R137: at a port outside a redundancy pair every other frame enters. -/
theorem portFirst_enters (hreceived : receives s f.port f.stamp = true) (hcontrol : macControl f.bytes = false)
    (hinband : isInband f.bytes = false) (hprp : redMode (beforeArrival f.port s) f.port f.bytes ≠ 1)
    (hhsr : redMode (beforeArrival f.port s) f.port f.bytes ≠ 2) :
    portFirst f s = fabFirst f none false none (beforeArrival f.port s) := by
  have hseen : ¬ (!receives s f.port f.stamp || macControl f.bytes || isInband f.bytes) = true := by
    simp [hreceived, hcontrol, hinband]
  have hcut : (if f.port.val < 12 && bit (rd s .ETH_PREEMPT_CFG 0 f.port) 0 then s else cutArrivals f.port s) =
      beforeArrival f.port s := by
    simp only [beforeArrival, Bool.and_eq_true, decide_eq_true_eq]
  have hunpaired : (decide (redMode (beforeArrival f.port s) f.port f.bytes ≠ 1) &&
      decide (redMode (beforeArrival f.port s) f.port f.bytes ≠ 2)) = true := by simp [hprp, hhsr]
  simp only [portFirst, if_neg hseen, hcut, if_pos hunpaired]

end port

section checks
variable {s : State} {p : Nat} {l : List Byte}

/-- 07 R180, order 7: the VLAN comes first. -/
theorem portRefuses_vlan (hvlan : vlanMember s (ethVid l (portVid s p)) p = false) : portRefuses s p l = some .ETH_RX_VLAN := by
  simp [portRefuses, hvlan]

variable (hvlan : vlanMember s (ethVid l (portVid s p)) p = true)
include hvlan

/-- 07 R180, order 8: the receive filter comes next. -/
theorem portRefuses_filter (hstopped : ethFiltered s p l = true) : portRefuses s p l = some .ETH_RX_FILTER := by
  simp [portRefuses, hvlan, hstopped]

theorem portRefuses_none (hpasses : ethFiltered s p l = false) : portRefuses s p l = none := by
  simp [portRefuses, hvlan, hpasses]

end checks

/-! ### The classifier's answer (R140 to R153) -/

/-- The VLAN of a frame that comes in: only Ethernet frames have one. -/
def frameVid (f : FabIn) (s : State) : Nat := if f.kind = .eth then ethVid f.bytes (portVid s f.port) else 0

/-- An Ethernet frame at an Ethernet port: one that its port's checks and learning concern. -/
def atEthPort (f : FabIn) : Bool := f.port.val < 16 && f.kind = .eth

/-- Frame `f` is known as an arrival. -/
def arrived (f : FabIn) (s : State) : State := arrive f.port f.kind f.bytes s

/-- 07 R180: the check of its port that the arrived frame fails. -/
def frameRefused (f : FabIn) (s : State) : Option Reg :=
  if atEthPort f then portRefuses (arrived f s) f.port f.bytes else none

/-- R144: an Ethernet port has learned the source address of the arrived frame. -/
def sourceLearned (f : FabIn) (s : State) : State :=
  if atEthPort f then learn f.port (frameVid f s) (ethSrc f.bytes) (arrived f s) else arrived f s

/-- R140: the classifier's entry for the frame, once its source is learned. -/
def frameEntry (f : FabIn) (s : State) : Option (List W32) :=
  classify (sourceLearned f s) (clsKey f.port f.kind f.bytes (portVid s f.port))

/-- R141: the class of a frame that entry `e` matches: the entry's own, or that of a frame which no entry sets. -/
def entryTc (f : FabIn) (e : List W32) (queueTc : Option Nat) (s : State) : Nat :=
  if bit (wordAt e 8) 19 then fld (wordAt e 8) 18 16 else defaultTc s f.port f.kind f.bytes queueTc

/-- R150, R153: what the filter and the meter of entry `e` say of the frame. -/
def entryVerdict (f : FabIn) (e : List W32) (queueTc : Option Nat) (s : State) : Option Nat × State :=
  filterMeter f e (entryTc f e queueTc (sourceLearned f s)) (sourceLearned f s)

section firstCell
variable {s : State} {f : FabIn} {queueTc : Option Nat} {bad : Bool} {pre : Option (List Dest)}

theorem atEthPort_iff : atEthPort f = true ↔ f.port.val < 16 ∧ f.kind = .eth := by simp [atEthPort]

/-- 07 R180: a frame that its port refuses goes no further, and its last cell will count the check it failed. -/
theorem fabFirst_refused {r : Reg} (hrefused : frameRefused f s = some r) :
    fabFirst f queueTc bad pre s = arrivalDropped s.fab.nextId r (arrived f s) := by
  unfold frameRefused atEthPort arrived at hrefused
  simp only [fabFirst, hrefused, arrived]

variable (hadmitted : frameRefused f s = none)
include hadmitted

/-- R140 to R142: a frame that its port admits is sent as the classifier has it. -/
theorem fabFirst_admitted :
    fabFirst f queueTc bad pre s =
      match frameEntry f s with
      | none =>
        let v := raise 80 (count16 .FAB_CLS_MISS 0 0 (sourceLearned f s))
        forward f s.fab.nextId 0xFFFE (frameVid f s) (defaultTc v f.port f.kind f.bytes queueTc) 3 0 bad pre v
      | some e =>
        match (entryVerdict f e queueTc s).1 with
        | none => (entryVerdict f e queueTc s).2
        | some colour =>
          let tc := entryTc f e queueTc (sourceLearned f s)
          let t := (entryVerdict f e queueTc s).2
          forward f s.fab.nextId (fld (wordAt e 8) 15 0) (frameVid f s) tc colour (BitVec.ofNat 16 (fld (wordAt e 9) 24 9)) bad pre
            (mapArrival s.fab.nextId (governed f e tc colour t) t) := by
  unfold frameRefused atEthPort arrived at hadmitted
  simp only [fabFirst, hadmitted]
  rfl

/-- R141: a frame that no entry matches counts a miss, fires source 80, and is looked up. -/
theorem fabFirst_miss (hmiss : frameEntry f s = none) :
    fabFirst f queueTc bad pre s =
      let v := raise 80 (count16 .FAB_CLS_MISS 0 0 (sourceLearned f s))
      forward f s.fab.nextId 0xFFFE (frameVid f s) (defaultTc v f.port f.kind f.bytes queueTc) 3 0 bad pre v := by
  rw [fabFirst_admitted hadmitted, hmiss]

variable {e : List W32} (hentry : frameEntry f s = some e)
include hentry

/-- R150, R153: a frame that its filter or meter drops goes no further. -/
theorem fabFirst_stopped (hstopped : (entryVerdict f e queueTc s).1 = none) :
    fabFirst f queueTc bad pre s = (entryVerdict f e queueTc s).2 := by
  simp only [fabFirst_admitted hadmitted, hentry, hstopped]

/-- R142: any other frame is sent where the entry says, and its last cell will need what governed it. -/
theorem fabFirst_sent {colour : Nat} (hcolour : (entryVerdict f e queueTc s).1 = some colour) :
    fabFirst f queueTc bad pre s =
      let tc := entryTc f e queueTc (sourceLearned f s)
      let t := (entryVerdict f e queueTc s).2
      forward f s.fab.nextId (fld (wordAt e 8) 15 0) (frameVid f s) tc colour (BitVec.ofNat 16 (fld (wordAt e 9) 24 9)) bad pre
        (mapArrival s.fab.nextId (governed f e tc colour t) t) := by
  simp only [fabFirst_admitted hadmitted, hentry, hcolour]

end firstCell

/-! ### A packet of a queue, and the drop destination -/

/-- R142: destination 0xFFFF names no destination. -/
theorem destsFor_drop (f : FabIn) (vid : Nat) (pre : Option (List Dest)) (s : State) : destsFor f 0xFFFF vid pre s = ([], .single) :=
  if_pos rfl

/-- R142, R148: a frame sent to 0xFFFF is one lost copy, and its length is not checked. -/
theorem forward_drop (f : FabIn) (id vid tc colour : Nat) (ptag : BitVec 16) (bad : Bool) (pre : Option (List Dest)) (s : State) :
    forward f id 0xFFFF vid tc colour ptag bad pre s = mapArrival id (fun a => { a with filter := none }) (inDrop f.port 2 tc s) := by
  simp [forward, destsFor_drop, pairDests, admitAll, List.range_succ]

section packet
variable {s t : State} {q : Fin 4096} (hlo : 0x54 ≤ qConsumer s q) (hhi : qConsumer s q ≤ 0x59) {l : List Byte} {bad : Bool}
  {d : BitVec 128} (htake : takePacket .fabric (qUse s q + 1) q (qConsumer s q) [] false none s = (some (l, bad, d), t))
include hlo hhi htake

/-- R138, 04 R107: a packet that its fabric port takes comes in whole, unless a bank of it sleeps. -/
theorem fabFromQueue_takes :
    fabFromQueue q s = unlessAsleep (fun _ => fabTake (queueFrame q l d t) (some (fld (dWord d 1) 15 13)) bad none t) s := by
  have hfabric : ¬ (!(decide (0x54 ≤ qConsumer s q) && decide (qConsumer s q ≤ 0x59))) = true := by simp [hlo, hhi]
  simp only [fabFromQueue, if_neg hfabric, unlessAsleep, htake]

end packet

/-- Settles O26: one law for each case of the first cell, of its port's checks, of the classifier's answer and of a packet. -/
theorem framesEnterTheFabric : Obligations.FramesEnterTheFabric := by
  refine ⟨?port, ?firstCell, fun s p l => ⟨portRefuses_vlan, portRefuses_filter, portRefuses_none⟩, ?packet,
    fun s f => forward_drop f (s := s)⟩
  case port =>
    intro s f hrun hqueue p
    refine ⟨fun hport hkind => ?_, exec_fabricFirstCell_bus hrun hqueue⟩
    rw [exec_fabricFirstCell_eth hrun hqueue hport hkind]
    refine ⟨fun hunseen => by rw [portFirst_unseen hunseen], ?_⟩
    intro hreceived hcontrol hinband u hprp hhsr
    rw [portFirst_enters hreceived hcontrol hinband hprp hhsr]
    rfl
  case firstCell =>
    intro s f queueTc bad pre p id vid u
    refine ⟨fun r hport hkind hrefuses => fabFirst_refused ((if_pos (atEthPort_iff.mpr ⟨hport, hkind⟩)).trans hrefuses), ?_⟩
    intro hadmits t
    have hadmitted : frameRefused f s = none := by
      simp only [frameRefused, ite_eq_right_iff, atEthPort_iff]
      exact fun heth => hadmits heth.1 heth.2
    have ht : t = sourceLearned f s := if_congr atEthPort_iff.symm rfl rfl
    clear_value t
    subst ht
    exact ⟨fun hmiss => fabFirst_miss hadmitted hmiss, fun e hentry =>
      ⟨fun hstopped => fabFirst_stopped hadmitted hentry hstopped, fun colour hcolour => fabFirst_sent hadmitted hentry hcolour⟩⟩
  case packet =>
    intro s f q hrun hqueue hlo hhi l bad d t htake r
    rw [exec_fabricFirstCell_queue hrun hqueue, fabFromQueue_takes hlo hhi htake]
    exact ⟨fun hawake => congrArg _ (unlessAsleep_awake (f := fun _ => r) hawake),
      fun b hasleep => congrArg _ (unlessAsleep_asleep (f := fun _ => r) hasleep)⟩

/-! ### Admission to an egress queue (R156 to R158, R161, 07 R178) -/

/-- Egress queue `eq` refuses a frame of class `tc` for want of room or of a link: FAB_Q_DROP_BUF counts it. -/
def bufferDrop (eq tc : Nat) (s : State) : State := fabEvent (64 + tc) (count32 .FAB_Q_DROP_BUF 0 eq s)

/-- R158, R161: egress queue `eq` is below its cap, within its reserve or its share of the pool, and a cell is free. -/
def hasRoom (s : State) (eq : Nat) : Bool :=
  (match eqCap s eq with
    | some c => decide (eqUse s eq < c)
    | none => true) &&
    (decide (eqUse s eq < eqReserve s eq) || decide ((eqUse s eq - eqReserve s eq) * 64 < 2 ^ eqAlpha s eq * sharedFree s)) &&
    decide (0 < bufFree s)

theorem hasRoom_iff {s : State} {eq : Nat} :
    hasRoom s eq = true ↔ (∀ c, eqCap s eq = some c → eqUse s eq < c) ∧
      (eqUse s eq < eqReserve s eq ∨ (eqUse s eq - eqReserve s eq) * 64 < 2 ^ eqAlpha s eq * sharedFree s) ∧ 0 < bufFree s := by
  cases hcap : eqCap s eq <;> simp [hasRoom, hcap, and_assoc]

section admission
variable {s : State} {d : Dest} {tc colour : Nat}

/-- 07 R178: a queue of an Ethernet port whose link is down refuses. -/
theorem takeAt_link_down {p : Nat} (hdest : d = .eth p) (hdown : portUp s p = false) :
    takeAt d tc colour s = (false, bufferDrop (destPort s d * 8 + tc) tc s) := by
  subst hdest
  simp [takeAt, hdown, bufferDrop]

/-- R158: with the link up and without RED, the queue's room alone decides. -/
theorem takeAt_without_red (hup : ∀ p, d = .eth p → portUp s p = true) (hred : eqRed s (destPort s d * 8 + tc) = none) :
    takeAt d tc colour s =
      if hasRoom s (destPort s d * 8 + tc) then (true, s) else (false, bufferDrop (destPort s d * 8 + tc) tc s) := by
  cases d with
  | eth p =>
    simp only [takeAt, hup p rfl, hred]
    rfl
  | _ =>
    simp only [takeAt, hred]
    rfl

end admission

section red
variable {prof : List W32} {avg : Nat}

/-- R157: below the minimum RED drops nothing. -/
theorem redP_below_min (hlow : avg < fld (wordAt prof 0) 20 0 * 65536) : redP prof 0 avg = 0 :=
  if_pos hlow

/-- R157: from the maximum on RED drops everything. -/
theorem redP_from_max (hmin : fld (wordAt prof 0) 20 0 * 65536 ≤ avg) (hmax : fld (wordAt prof 1) 20 0 * 65536 ≤ avg) :
    redP prof 0 avg = 65536 :=
  (if_neg (Nat.not_lt.mpr hmin)).trans (if_pos hmax)

/-- R156: the average of an empty queue follows its use, which is 0. -/
theorem exec_redIdleUpdate_empty {s : State} {eq : Fin 216} {r : Nat} (hrun : running s = true) (hred : eqRed s eq = some r)
    (hempty : eqUse s eq = 0) :
    exec (.redIdleUpdate eq) s = .next (setEgress eq { egressOf s eq with
      avg := redAvg (egressOf s eq).avg 0 (fld (tblW s 4 r 6) 30 27) } s) := by
  simp [exec_redIdleUpdate_eq, execRedIdleUpdate, hrun, hred, hempty]

end red

/-- Settles O27: one law for each answer of the queue, and one for each part of RED. -/
theorem admissionToEgressQueues : Obligations.AdmissionToEgressQueues := by
  refine ⟨fun s d tc colour => ⟨fun p => takeAt_link_down, fun hup hred => ?room⟩, fun prof avg =>
    ⟨redP_below_min, redP_from_max⟩, fun s eq r => exec_redIdleUpdate_empty⟩
  case room =>
    rw [takeAt_without_red hup hred]
    exact ⟨fun hroom => if_pos (hasRoom_iff.mpr hroom), fun hfull => if_neg (mt hasRoom_iff.mp hfull)⟩

end Sys2Proof.Machine

/-! Ethernet ports (O30, O31, O32): what the writes of a port's registers and the acts of its link do; each check of a received frame, in
the order of 07 Table 7.3; and each thing that a port may start, end or give up as it sends. -/

namespace Sys2Proof.Machine

section arms
variable (s : State) (m : Fin 64) (v : W32) (p : Fin 16)

theorem exec_ethModeWrite_eq : exec (.ethModeWrite m v) s = execEthModeWrite m v s := rfl
theorem exec_portEnable_eq : exec (.portEnable m v) s = execPortEnable m v s := rfl
theorem exec_portDisable_eq : exec (.portDisable m v) s = execPortDisable m v s := rfl
theorem exec_txThrWrite_eq : exec (.txThrWrite m v) s = execTxThrWrite m v s := rfl
theorem exec_mdioWrite_eq (b : Fin 2) : exec (.mdioWrite m b v) s = execMdioWrite m b v s := rfl
theorem exec_mdioRead_eq (b : Fin 2) : exec (.mdioRead m b v) s = execMdioRead m b v s := rfl
theorem exec_mdioAddress_eq (b : Fin 2) : exec (.mdioAddress m b v) s = execMdioAddress m b v s := rfl
theorem exec_mdioDone_eq (b : Fin 2) (d : BitVec 16) : exec (.mdioDone b d) s = execMdioDone b d s := rfl
theorem exec_counter64LoRead_eq (k : Fin 4) : exec (.counter64LoRead m k) s = execCounter64LoRead m k s := rfl
theorem exec_portStarted_eq : exec (.portStarted p) s = execPortStarted p s := rfl
theorem exec_portStopped_eq : exec (.portStopped p) s = execPortStopped p s := rfl
theorem exec_linkChange_eq (up : Bool) (rate : Fin 8) : exec (.linkChange p up rate) s = execLinkChange p up rate s := rfl

end arms

/-! ### Mode and enable of a port (R176 to R178) -/

/-- R176: the mode that a write of `v` asks port `p` for; one that it does not offer is no interface. -/
def modeAsked (p : Nat) (v : W32) : W32 := if modeOffered p (v &&& 0xFF) then v &&& 0xFF else putFld (v &&& 0xFF) 3 0 0

section mode
variable {s : State} {p : Nat} {v : W32}

theorem ethModeWrite_off (hoff : isOff s .ETH_STAT p = true) : ethModeWrite p v s = wr .ETH_MODE 0 p (modeAsked p v) s :=
  if_pos hoff

/-- R176: outside OFF a write that would change the mode sets mode_err alone. -/
theorem ethModeWrite_change (hrunning : isOff s .ETH_STAT p = false) (hchange : modeAsked p v ≠ rd s .ETH_MODE 0 p) :
    ethModeWrite p v s = setB .ETH_STAT 0 p 0x100 s :=
  (if_neg (Bool.eq_false_iff.mp hrunning)).trans (if_neg hchange)

end mode

/-- R178: a port that a write of ETH_CTRL leaves not ON discards its queued frames, and one that was ON keeps the time. -/
theorem ethCtrlWrite_eq (p : Nat) (v : W32) (s : State) :
    ethCtrlWrite p v s =
      let u := fbWrite .ETH_STAT p (bit v 0) (plainWrite .ETH_CTRL 0 p v s)
      if isOn u .ETH_STAT p then u
      else if isOn s .ETH_STAT p then discardQueued p false (setPort p { portOf u p with stopAt := u.time.now } u)
      else discardQueued p false u := by
  simp only [ethCtrlWrite, apply_ite (discardQueued p false)]

section portWrites
variable {s : State} {m : Fin 64} {v : W32}

theorem exec_ethModeWrite (hwrites : writes m .ETH_MODE s) :
    exec (.ethModeWrite m v) s = .next (ethModeWrite (chanOf .ETH_MODE m s) v s) := by
  rw [exec_ethModeWrite_eq, execEthModeWrite, withWrite_of_writes hwrites]

theorem exec_portEnable (hwrites : writes m .ETH_CTRL s) (hen : bit v 0 = true) :
    exec (.portEnable m v) s = .next (ethCtrlWrite (chanOf .ETH_CTRL m s) v s) := by
  rw [exec_portEnable_eq, execPortEnable, if_pos hen, withWrite_of_writes hwrites]

theorem exec_portDisable (hwrites : writes m .ETH_CTRL s) (hen : bit v 0 = false) :
    exec (.portDisable m v) s = .next (ethCtrlWrite (chanOf .ETH_CTRL m s) v s) := by
  rw [exec_portDisable_eq, execPortDisable, if_neg (Bool.eq_false_iff.mp hen), withWrite_of_writes hwrites]

theorem exec_txThrWrite (hwrites : writes m .ETH_TX_THR s) :
    exec (.txThrWrite m v) s = .next (txThrWrite (chanOf .ETH_TX_THR m s) v s) := by
  rw [exec_txThrWrite_eq, execTxThrWrite, withWrite_of_writes hwrites]

theorem exec_counter64LoRead {k : Fin 4} (hreads : reads m (c64Reg k).1 s) :
    exec (.counter64LoRead m k) s = .next (replyOf m (c64Read m (chanOf (c64Reg k).1 m s) k s)) := by
  rw [exec_counter64LoRead_eq, execCounter64LoRead, withRead_of_reads hreads]

end portWrites

/-! ### MDIO (Table 7.9) -/

section mdio
variable {s : State} {m : Fin 64} {b : Fin 2} {v : W32}

/-- A go puts the frame on the bus with the data that ETH_MDIO_DATA holds. -/
theorem mdioCmdWrite_go (hgo : bit v 31 = true) :
    mdioCmdWrite b v s =
      let u := plainWrite .ETH_MDIO_CMD b 0 v s
      say (.mdio b (rd u .ETH_MDIO_CMD b 0) (BitVec.ofNat 16 (rd u .ETH_MDIO_DATA b 0).toNat)) u :=
  if_pos hgo

section go
variable (hwrites : writes m .ETH_MDIO_CMD s) (hgo : bit v 31 = true)
include hwrites hgo

theorem exec_mdioWrite (hop : fld v 29 28 = 0) : exec (.mdioWrite m b v) s = .next (mdioCmdWrite b v s) := by
  rw [exec_mdioWrite_eq, execMdioWrite, if_pos (by simp [hgo, hop]), withWrite_of_writes hwrites]

theorem exec_mdioRead (hop : bit v 28 = true) : exec (.mdioRead m b v) s = .next (mdioCmdWrite b v s) := by
  rw [exec_mdioRead_eq, execMdioRead, if_pos (by simp [hgo, hop]), withWrite_of_writes hwrites]

theorem exec_mdioAddress (hop : fld v 29 28 = 2) : exec (.mdioAddress m b v) s = .next (mdioCmdWrite b v s) := by
  rw [exec_mdioAddress_eq, execMdioAddress, if_pos (by simp [hgo, hop]), withWrite_of_writes hwrites]

end go

/-- The end of the frame on the bus clears go, and brings the data of a read. -/
theorem exec_mdioDone_going {d : BitVec 16} (hrun : running s = true) (hgo : bit (rd s .ETH_MDIO_CMD b 0) 31 = true) :
    exec (.mdioDone b d) s =
      let u := clrB .ETH_MDIO_CMD b 0 0x80000000 s
      .next (if bit (rd s .ETH_MDIO_CMD b 0) 28 then setF .ETH_MDIO_DATA b 0 15 0 d.toNat u else u) := by
  rw [exec_mdioDone_eq, execMdioDone, if_pos (by simp [hrun, hgo])]

end mdio

/-! ### Start, stop and link of a port (R177, R178) -/

section portMoves
variable {s : State} {p : Fin 16} (hrun : running s = true)
include hrun

theorem exec_portStarted : exec (.portStarted p) s = .next (fbPut .ETH_STAT p (fbStarted (fbOf s .ETH_STAT p)) s) := by
  rw [exec_portStarted_eq, execPortStarted, if_pos hrun]

/-- R177: a stop ends once nothing leaves the port or is on its way in. -/
theorem exec_portStopped (hstopping : fbState (fbOf s .ETH_STAT p) = 3) (hleaving : (portOf s p).leaving = none)
    (hremainder : (portOf s p).remainder = none) (harrivals : arrivalsAt s p = []) :
    exec (.portStopped p) s =
      .next (linkSet p false (fld (rd s .ETH_STAT 0 p) 7 5) (fbPut .ETH_STAT p (fbStopped (fbOf s .ETH_STAT p)) s)) := by
  rw [exec_portStopped_eq, execPortStopped, if_pos (by simp [hrun, hstopping, hleaving, hremainder, harrivals])]

theorem exec_linkChange_taken {up : Bool} {rate : Fin 8} (hallowed : up = false ∨ isOff s .ETH_STAT p = false) :
    exec (.linkChange p up rate) s = .next (linkSet p up rate s) := by
  rw [exec_linkChange_eq, execLinkChange, if_pos (by simpa [hrun] using hallowed)]

end portMoves

/-- Settles O30: one law for each register write, for each act of a port and its link, and for the MDIO frames. -/
theorem ethernetPortControl : Obligations.EthernetPortControl := by
  refine ⟨fun s m v => ⟨?mode, ?enable, exec_txThrWrite, ?mdio, fun k => exec_counter64LoRead⟩,
    fun s p hrun => ⟨exec_portStarted hrun, exec_portStopped hrun, fun up rate => exec_linkChange_taken hrun⟩, ?mdioDone⟩
  case mode =>
    intro hwrites
    rw [exec_ethModeWrite hwrites]
    exact ⟨fun hoff => congrArg _ (ethModeWrite_off hoff), fun hrunning hchange => congrArg _ (ethModeWrite_change hrunning hchange)⟩
  case enable =>
    intro hwrites
    refine ⟨fun hen => ?_, fun hen => ?_⟩
    · rw [exec_portEnable hwrites hen, ethCtrlWrite_eq, hen]
    · rw [exec_portDisable hwrites hen, ethCtrlWrite_eq, hen]
  case mdio =>
    intro b hwrites hgo u t
    have hgoes : mdioCmdWrite b v s = t := mdioCmdWrite_go hgo
    rw [← hgoes]
    exact ⟨exec_mdioWrite hwrites hgo, exec_mdioRead hwrites hgo, exec_mdioAddress hwrites hgo⟩
  case mdioDone =>
    intro s b d hrun hgo
    rw [exec_mdioDone_going hrun hgo]
    exact ⟨fun hread => congrArg _ (if_pos hread), fun hwrite => congrArg _ (if_neg (Bool.eq_false_iff.mp hwrite))⟩

/-! ### The checks of a received frame (R180, Table 7.3) -/

section rxArms
variable (s : State) (p : Fin 16)

theorem exec_ethRxFrame_eq (rx : EthRx) : exec (.ethRxFrame p rx) s = execEthRxFrame p rx s := rfl
theorem exec_pfcFrameRx_eq (en : BitVec 8) (times : List (BitVec 16)) :
    exec (.pfcFrameRx p en times) s = execPfcFrameRx p en times s := rfl
theorem exec_pauseFrameRx_eq (q : BitVec 16) : exec (.pauseFrameRx p q) s = execPauseFrameRx p q s := rfl
theorem exec_pauseExpired_eq (c : Fin 8) : exec (.pauseExpired p c) s = execPauseExpired p c s := rfl
theorem exec_pfcRefresh_eq : exec (.pfcRefresh p) s = execPfcRefresh p s := rfl
theorem exec_prpEntryForget_eq (k : Fin 6) : exec (.prpEntryForget k) s = execPrpEntryForget k s := rfl
theorem exec_preemptRespondRx_eq : exec (.preemptRespondRx p) s = execPreemptRespondRx p s := rfl

end rxArms

section rxCheck
variable {s : State} {p : Nat} {rx : EthRx}

/-- Order 1: code errors come first. -/
theorem rxCheck_symbol (hsymbol : rx.symbolErr = true) : rxCheck s p rx = some .ETH_RX_SYMBOL := if_pos hsymbol

variable (hsymbol : rx.symbolErr = false)
include hsymbol

/-- Order 2. -/
theorem rxCheck_runt (hshort : rxLen s p rx.bytes < 64) : rxCheck s p rx = some .ETH_RX_RUNT := by
  simp [rxCheck, hsymbol, hshort]

variable (hmin : 64 ≤ rxLen s p rx.bytes)
include hmin

/-- Order 3. -/
theorem rxCheck_giant (hlong : maxFrm s p < rxLen s p rx.bytes) : rxCheck s p rx = some .ETH_RX_GIANT := by
  simp [rxCheck, hsymbol, Nat.not_lt.mpr hmin, hlong]

variable (hmax : rxLen s p rx.bytes ≤ maxFrm s p)
include hmax

/-- Order 4: only 10 and 100 Mbit/s can be out of alignment. -/
theorem rxCheck_align (halign : rx.alignErr = true) (hslow : bitTenths s p = 100 ∨ bitTenths s p = 1000) :
    rxCheck s p rx = some .ETH_RX_ALIGN := by
  simp [rxCheck, hsymbol, Nat.not_lt.mpr hmin, Nat.not_lt.mpr hmax, halign, hslow]

variable (halign : rx.alignErr = false)
include halign

/-- Order 5. -/
theorem rxCheck_fcs (hfcs : crc32 rx.bytes ≠ rx.fcs.toNat) : rxCheck s p rx = some .ETH_RX_FCS := by
  simp [rxCheck, hsymbol, Nat.not_lt.mpr hmin, Nat.not_lt.mpr hmax, halign, hfcs]

theorem rxCheck_none (hfcs : crc32 rx.bytes = rx.fcs.toNat) : rxCheck s p rx = none := by
  simp [rxCheck, hsymbol, Nat.not_lt.mpr hmin, Nat.not_lt.mpr hmax, halign, hfcs]

end rxCheck

theorem macsecRx_off {s : State} {p : Nat} {l : List Byte} (hoff : bit (rd s .ETH_MACSEC_CTRL 0 p) 1 = false) :
    macsecRx p l s = (l, false, s) := by
  simp [macsecRx, hoff]

section received
variable {s : State} {p : Fin 16} {rx : EthRx} (hrun : running s = true) (hreceived : receives s p rx.stamp = true)
include hrun hreceived

/-- R192: a fragment that its port cannot join to the others counts, before any check. -/
theorem exec_ethRxFrame_fragment (hfragment : rx.fragErr = true) (hport : p.val < 12)
    (hpreempt : bit (rd s .ETH_PREEMPT_CFG 0 p) 0 = true) :
    exec (.ethRxFrame p rx) s = .next (rxBroken p rx.bytes (count32 .ETH_RX_FRAG_ERR 0 p s)) := by
  rw [exec_ethRxFrame_eq, execEthRxFrame, if_neg (by simp [hrun, hreceived]), if_pos (by simp [hfragment, hport, hpreempt])]

variable (hfragment : rx.fragErr = false)
include hfragment

/-- R189: a verify mPacket has no checks but its code and its FCS. -/
theorem exec_ethRxFrame_verify (hverify : rx.smdV = true) :
    exec (.ethRxFrame p rx) s =
      .next (if rx.symbolErr || decide (crc32 rx.bytes ≠ rx.fcs.toNat) then s else verifyRx p s) := by
  rw [exec_ethRxFrame_eq, execEthRxFrame, if_neg (by simp [hrun, hreceived]), if_neg (by simp [hfragment]), if_pos hverify]

variable (hframe : rx.smdV = false)
include hframe

/-- R180: the first check that a frame fails counts it and drops it. -/
theorem exec_ethRxFrame_fails {r : Reg} (hfails : rxCheck s p rx = some r) :
    exec (.ethRxFrame p rx) s = .next (rxDrop p r rx.bytes s) := by
  rw [exec_ethRxFrame_eq, execEthRxFrame, if_neg (by simp [hrun, hreceived]), if_neg (by simp [hfragment]),
    if_neg (Bool.eq_false_iff.mp hframe)]
  simp only [hfails]

/-- 03 R74: a frame that passes outside MACsec is taken with its stamp corrected by the port's ingress latency. -/
theorem exec_ethRxFrame_passes (hpasses : rxCheck s p rx = none) (hoff : bit (rd s .ETH_MACSEC_CTRL 0 p) 1 = false) :
    exec (.ethRxFrame p rx) s =
      .next (rxAccept p (rxLen s p rx.bytes) rx.bytes (rx.stamp + BitVec.ofInt 64 (sfld16 (rd s .TIME_LATC p 0) 0)) s) := by
  rw [exec_ethRxFrame_eq, execEthRxFrame, if_neg (by simp [hrun, hreceived]), if_neg (by simp [hfragment]),
    if_neg (Bool.eq_false_iff.mp hframe)]
  simp [hpasses, macsecRx_off hoff]

end received

/-! ### A frame that has passed the checks (R180, R183, R197) -/

section accepted
variable {s : State} {p n : Nat} {l : List Byte} {stamp : W64}

theorem rxAccept_control (hcontrol : macControl l = true) : rxAccept p n l stamp s = controlRx p l (countGood p n s) :=
  if_pos hcontrol

/-- R204: a frame counts as good unless the fabric has dropped it at its first cell. -/
def countAccepted (p n : Nat) (l : List Byte) (s : State) : State :=
  if ((arrivalOf s p l).bind (·.dropped)).isSome then s else countGood p n s

variable {u : State} (hcontrol : macControl l = false) (hstamped : rxStamp p l stamp s = u)
include hcontrol hstamped

/-- R180, orders 7 and 8: a whole frame that its port refuses is counted and dropped. -/
theorem rxAccept_refused {r : Reg} (hwhole : arrivalOf u p l = none) (hrefuses : portRefuses u (ingressOf u p l) l = some r) :
    rxAccept p n l stamp s = dropRx p r u := by
  rw [rxAccept, if_neg (Bool.eq_false_iff.mp hcontrol)]
  simp only [hstamped, hwhole, hrefuses]

/-- 02 R35, R197: any other frame counts, and is one of in-band commands, of its redundancy pair, or of the fabric. -/
theorem rxAccept_admitted (hadmits : arrivalOf u p l = none → portRefuses u (ingressOf u p l) l = none) :
    rxAccept p n l stamp s =
      let v := countAccepted p n l u
      if isInband l then inbandRx p l v
      else if redMode v p l = 1 ∨ redMode v p l = 2 then pairRx p l stamp v
      else rxIntoFabric p l stamp v := by
  rw [rxAccept, if_neg (Bool.eq_false_iff.mp hcontrol)]
  simp only [hstamped, Bool.or_eq_true, decide_eq_true_eq]
  cases harrival : arrivalOf u p l with
  | none =>
    simp only [hadmits harrival, countAccepted, harrival]
  | some a =>
    simp only [countAccepted, harrival]

end accepted

/-! ### Pauses and the duplicate table (R189, R193, R194, R197) -/

theorem exec_pauseExpired_due {s : State} {p : Fin 16} {c : Fin 8} {t : W64} (hpaused : nmFind (portOf s p).pausedUntil c = some t)
    (hdue : t.toNat ≤ now s) :
    exec (.pauseExpired p c) s = .next (setPort p { portOf s p with pausedUntil := nmErase (portOf s p).pausedUntil c } s) := by
  rw [exec_pauseExpired_eq, execPauseExpired]
  simp only [hpaused, if_pos hdue]

section portFrames
variable {s : State} {p : Fin 16} (hrun : running s = true)
include hrun

theorem exec_pfcFrameRx_up (hup : portUp s p = true) (en : BitVec 8) (times : List (BitVec 16)) :
    exec (.pfcFrameRx p en times) s = .next (pfcRx p en times s) := by
  rw [exec_pfcFrameRx_eq, execPfcFrameRx, if_pos (by simp [hrun, hup])]

theorem exec_pauseFrameRx_up (hup : portUp s p = true) (q : BitVec 16) :
    exec (.pauseFrameRx p q) s = .next (pauseRx p q.toNat s) := by
  rw [exec_pauseFrameRx_eq, execPauseFrameRx, if_pos (by simp [hrun, hup])]

theorem exec_prpEntryForget (k : Fin 6) :
    exec (.prpEntryForget k) s = .next (setPair k { pairOf s k with dups := freshDups s k (pairOf s k).dups } s) := by
  rw [exec_prpEntryForget_eq, execPrpEntryForget, if_pos hrun]

/-- R189: the answer to a verify mPacket ends the verification. -/
theorem exec_preemptRespondRx_verifying (hverifying : verifying s p = true) (hasked : fld (rd s .ETH_PREEMPT_STAT 0 p) 2 0 = 2) :
    exec (.preemptRespondRx p) s = .next (wr .ETH_PREEMPT_STAT 0 p 0xB s) := by
  rw [exec_preemptRespondRx_eq, execPreemptRespondRx, if_pos (by simp [hrun, hverifying, hasked])]

end portFrames

/-! ### The refresh of pause requests (R194) -/

/-- A pause frame for class `c` waits at port `p` to be sent. -/
def pauseWaits (s : State) (p c : Nat) : Bool :=
  (portOf s p).control.any fun x => match x with | .pfc cs t _ => cs.getLsbD c && t ≠ 0 | _ => false

/-- R194: the request of class `c` at port `p`, where it holds, is due, and does not wait already, is sent again. -/
def pfcRefreshClass (p : Nat) (s : State) (c : Nat) : State :=
  if (nmGet 0 s.fab.pauseReq p).getLsbD c && decide ((nmGet 0 (portOf s p).pfcNext c).toNat ≤ now s) && !pauseWaits s p c then
    pfcSend p c (fld (rd s .ETH_PFC_CFG 0 p) 15 0) s
  else s

theorem exec_pfcRefresh_classes {s : State} {p : Fin 16} (hrun : running s = true) :
    exec (.pfcRefresh p) s = .next ((List.range 8).foldl (pfcRefreshClass p) s) :=
  congrArg Host.Outcome.next (if_pos hrun)

@[simp] theorem pfcSend_fab (p c time : Nat) (s : State) : (pfcSend p c time s).fab = s.fab := keepIf State.fab rfl rfl

section refresh
variable {s : State} {p c : Nat}

@[simp] theorem pfcRefreshClass_fab : (pfcRefreshClass p s c).fab = s.fab := keepIf State.fab (pfcSend_fab ..) rfl

theorem pfcRefreshClass_unasked (hasked : (nmGet 0 s.fab.pauseReq p).getLsbD c = false) : pfcRefreshClass p s c = s :=
  if_neg (by rw [hasked]; simp)

theorem pfcRefreshClass_early (hearly : now s < (nmGet 0 (portOf s p).pfcNext c).toNat) : pfcRefreshClass p s c = s :=
  if_neg (by rw [decide_eq_false (Nat.not_le.mpr hearly)]; simp)

theorem pfcRefreshClass_due (hasked : (nmGet 0 s.fab.pauseReq p).getLsbD c = true)
    (hdue : (nmGet 0 (portOf s p).pfcNext c).toNat ≤ now s) (hcontrol : (portOf s p).control = []) :
    pfcRefreshClass p s c = pfcSend p c (fld (rd s .ETH_PFC_CFG 0 p) 15 0) s :=
  if_pos (by rw [hasked, decide_eq_true hdue, pauseWaits, hcontrol]; rfl)

end refresh

section folds
variable {β : Type} {f : State → β → State} {s : State}

/-- A fold whose steps all leave the state alone does so too. -/
theorem foldl_of_fixed : ∀ {l : List β}, (∀ b ∈ l, f s b = s) → l.foldl f s = s
  | [], _ => rfl
  | b :: l, hfixed => by
    rw [List.foldl_cons, hfixed b List.mem_cons_self]
    exact foldl_of_fixed fun d hd => hfixed d (List.mem_cons_of_mem b hd)

/-- A fold of which one element alone moves the state is that element's step. -/
theorem foldl_of_one_moving {c : β} : ∀ {l : List β}, l.Nodup → c ∈ l → (∀ d ∈ l, d ≠ c → f s d = s) →
    (∀ d ∈ l, d ≠ c → f (f s c) d = f s c) → l.foldl f s = f s c
  | b :: l, hnodup, hmem, hbefore, hafter => by
    obtain ⟨hb, hl⟩ := List.nodup_cons.mp hnodup
    rcases List.mem_cons.mp hmem with rfl | hc
    · exact foldl_of_fixed fun d hd => hafter d (List.mem_cons_of_mem _ hd) fun hdc => hb (hdc ▸ hd)
    · rw [List.foldl_cons, hbefore b List.mem_cons_self fun hbc => hb (hbc ▸ hc)]
      exact foldl_of_one_moving hl hc (fun d hd => hbefore d (List.mem_cons_of_mem b hd))
        fun d hd => hafter d (List.mem_cons_of_mem b hd)

end folds

section requests
variable {s : State} {p : Fin 16} (hrun : running s = true)
include hrun

theorem exec_pfcRefresh_unasked (hasked : ∀ c : Fin 8, (nmGet 0 s.fab.pauseReq p).getLsbD c = false) :
    exec (.pfcRefresh p) s = .next s := by
  rw [exec_pfcRefresh_classes hrun,
    foldl_of_fixed fun c hc => pfcRefreshClass_unasked (hasked ⟨c, List.mem_range.mp hc⟩)]

/-- With the request of one class alone, the refresh is that class's. -/
theorem exec_pfcRefresh_one {c : Fin 8} (halone : ∀ d : Fin 8, d ≠ c → (nmGet 0 s.fab.pauseReq p).getLsbD d = false) :
    exec (.pfcRefresh p) s = .next (pfcRefreshClass p s c) := by
  have hothers : ∀ t : State, t.fab = s.fab → ∀ d ∈ List.range 8, d ≠ c.val → pfcRefreshClass p t d = t :=
    fun t hfab d hd hne => pfcRefreshClass_unasked (hfab ▸ halone ⟨d, List.mem_range.mp hd⟩ fun heq => hne (congrArg Fin.val heq))
  rw [exec_pfcRefresh_classes hrun, foldl_of_one_moving List.nodup_range (List.mem_range.mpr c.isLt) (hothers s rfl)
    (hothers _ pfcRefreshClass_fab)]

end requests

/-- Settles O31: one law for each check of Table 7.3, for each way that an accepted frame goes, and for pauses and the duplicate table.
The ingress correction is that of 03 R74; that ETH_RX_FRAME brings a frame whole, unless the fabric has begun it, is log 27. -/
theorem ethernetReceive : Obligations.EthernetReceive := by
  refine ⟨?checks, ?accepted, ?pauses⟩
  case checks =>
    intro s p rx hrun hreceived n
    refine ⟨exec_ethRxFrame_fragment hrun hreceived, fun hfragment hverify => ?_, fun hfragment hframe => ?_⟩
    · rw [exec_ethRxFrame_verify hrun hreceived hfragment hverify]
      exact ⟨fun hbad => congrArg _ (if_pos (by simpa using hbad)), fun hcode hfcs => congrArg _ (if_neg (by simp [hcode, hfcs]))⟩
    · have hfails {r : Reg} : rxCheck s p rx = some r → exec (.ethRxFrame p rx) s = .next (rxDrop p r rx.bytes s) :=
        exec_ethRxFrame_fails hrun hreceived hfragment hframe
      refine ⟨fun hsymbol => hfails (rxCheck_symbol hsymbol), fun hsymbol => ⟨fun hshort => hfails (rxCheck_runt hsymbol hshort),
        fun hmin hlong => hfails (rxCheck_giant hsymbol hmin hlong), fun hmin hmax =>
        ⟨fun halign hslow => hfails (rxCheck_align hsymbol hmin hmax halign hslow), fun halign =>
        ⟨fun hfcs => hfails (rxCheck_fcs hsymbol hmin hmax halign hfcs), fun hfcs =>
          exec_ethRxFrame_passes hrun hreceived hfragment hframe (rxCheck_none hsymbol hmin hmax halign hfcs)⟩⟩⟩⟩
  case accepted =>
    intro s p n l stamp
    refine ⟨rxAccept_control, fun hcontrol => ?_⟩
    intro u
    refine ⟨fun r => rxAccept_refused hcontrol rfl, fun hadmits => ?_⟩
    rw [rxAccept_admitted hcontrol rfl hadmits]
    intro v
    refine ⟨fun hinband => if_pos hinband, fun hinband hpair => ?_, fun hinband hprp hhsr => ?_⟩
    · exact (if_neg (Bool.eq_false_iff.mp hinband)).trans (if_pos hpair)
    · exact (if_neg (Bool.eq_false_iff.mp hinband)).trans (if_neg (not_or.mpr ⟨hprp, hhsr⟩))
  case pauses =>
    intro s p hrun
    refine ⟨fun hup en times q => ⟨exec_pfcFrameRx_up hrun hup en times, exec_pauseFrameRx_up hrun hup q⟩,
      fun c t => exec_pauseExpired_due, exec_pfcRefresh_unasked hrun, fun c halone hasked hcontrol => ?_,
      exec_prpEntryForget hrun, exec_preemptRespondRx_verifying hrun⟩
    rw [exec_pfcRefresh_one hrun halone]
    exact ⟨fun hearly => congrArg _ (pfcRefreshClass_early hearly), fun hdue => congrArg _ (pfcRefreshClass_due hasked hdue hcontrol)⟩

/-! ### What a port starts, pre-empts and ends (R182, R186, R190, R202) -/

section txArms
variable (s : State) (p : Fin 16)

theorem exec_ethTxStart_eq : exec (.ethTxStart p) s = execEthTxStart p s := rfl
theorem exec_ethTxEnd_eq : exec (.ethTxEnd p) s = execEthTxEnd p s := rfl
theorem exec_txUnderrun_eq : exec (.txUnderrun p) s = execTxUnderrun p s := rfl
theorem exec_gateEntryChange_eq : exec (.gateEntryChange p) s = execGateEntryChange p s := rfl
theorem exec_preemptVerifySend_eq : exec (.preemptVerifySend p) s = execPreemptVerifySend p s := rfl
theorem exec_eeeLpiEnter_eq : exec (.eeeLpiEnter p) s = execEeeLpiEnter p s := rfl
theorem exec_eeeLpiExit_eq : exec (.eeeLpiExit p) s = execEeeLpiExit p s := rfl
theorem exec_collision_eq (p : Fin 4) (late : Bool) : exec (.collision p late) s = execCollision p late s := rfl

end txArms

/-- R186: under PLCA a port that sends nothing has its transmit opportunity, for one frame and its burst. -/
def opportunityBegun (p : Nat) (s : State) : State :=
  if plcaOn s p = true ∧ (portOf s p).leaving = none then setPort p { portOf s p with opp := some (plcaBurst s p) } s else s

theorem exec_ethTxStart_running {s : State} {p : Fin 16} (hrun : running s = true) :
    exec (.ethTxStart p) s = .next (txRun p (opportunityBegun p s)) := by
  rw [exec_ethTxStart_eq, execEthTxStart, if_pos hrun]
  simp only [opportunityBegun, Bool.and_eq_true, Option.isNone_iff_eq_none]

section txRun
variable {s : State} {p : Nat} (hlink : bit (rd s .ETH_STAT 0 p) 4 = true)
  (hactive : isOn s .ETH_STAT p = true ∨ (portOf s p).remainder.isSome = true)
include hlink hactive

theorem not_idle_of_link_up :
    ¬(!(bit (rd s .ETH_STAT 0 p) 4 && (isOn s .ETH_STAT p || (portOf s p).remainder.isSome))) = true := by
  rw [hlink, Bool.or_eq_true_iff.mpr hactive]
  decide

/-- R186, R188: a port that sends nothing sends a control frame that waits, then what may start. -/
theorem txRun_silent (hleaving : (portOf (fallBack p s) p).leaving = none) :
    txRun p s = txSelect p (sendControl p (fallBack p s)) := by
  rw [txRun, if_neg (not_idle_of_link_up hlink hactive)]
  simp only [hleaving]

variable {x : Leaving} (hleaving : (portOf (fallBack p s) p).leaving = some x)
include hleaving

theorem txRun_preempts {n : Nat} (hpoint : preemptAt (fallBack p s) p x = some n) :
    txRun p s = preempt p x n (fallBack p s) := by
  rw [txRun, if_neg (not_idle_of_link_up hlink hactive)]
  simp only [hleaving, hpoint]

theorem txRun_goes_on (hpoint : preemptAt (fallBack p s) p x = none) : txRun p s = fallBack p s := by
  rw [txRun, if_neg (not_idle_of_link_up hlink hactive)]
  simp only [hleaving, hpoint]

end txRun

/-- R190: with no gate about to close, a hold or an express frame pre-empts at once where both parts reach the minimum. -/
theorem preemptAt_now {s : State} {p : Nat} {x : Leaving} (hparts : canPreempt s p x (sentNow s p x) = true)
    (hclose : closePoint s p x = none) (hasked : (portOf s p).hold = true ∨ (pickClass s p true).isSome = true) :
    preemptAt s p x = some (sentNow s p x) := by
  rw [preemptAt, hclose]
  exact if_pos (by rw [hparts, Bool.true_and, Bool.or_eq_true]; exact hasked)

section leaving
variable {s : State} {p : Fin 16} {x : Leaving} (hrun : running s = true) (hleaving : (portOf s p).leaving = some x)
include hrun hleaving

/-- R186: a frame ends when it is bad or its last cell has come to the port. -/
theorem exec_ethTxEnd_whole (hwhole : x.bad = true ∨ s.fab.flights.any (fun f =>
      decide (f.id = x.flight) && decide (Dest.eth p ∈ f.dests) && decide (Dest.eth p ∉ f.full)) = false) :
    exec (.ethTxEnd p) s = .next (txFinish p x s) := by
  rw [exec_ethTxEnd_eq, execEthTxEnd]
  simp only [hleaving]
  exact congrArg _ (if_pos (by rw [hrun, Bool.true_and, Bool.or_eq_true, Bool.not_eq_true']; exact hwhole))

/-- R202: a frame that runs dry is cut where it stands, and its port's threshold rises. -/
theorem exec_txUnderrun_dry (hcut : fld (rd s .ETH_TX_THR 0 p) 13 0 ≠ 0x3FFF) (hgood : x.bad = false) :
    exec (.txUnderrun p) s =
      let thr := fld (rd s .ETH_TX_THR 0 p) 13 0
      .next (wr .ETH_TX_THR 0 p (BitVec.ofNat 32 (if 9216 < thr + 64 then 0x3FFF else thr + 64))
        (ethCause p 1 (count32 .ETH_TX_UNDERRUN 0 p (serveDest x.flight (.eth p)
          (setPort p { portOf s p with leaving := some (cutBad (x.sent + sentNow s p x) x) } s))))) := by
  rw [exec_txUnderrun_eq, execTxUnderrun]
  simp only [hleaving]
  exact congrArg _ (if_neg (by simp [hrun, hcut, hgood]))

end leaving

/-! ### Gates, verification and low-power idle (R185, R189, R195) -/

section idle
variable {s : State} {p : Fin 16} (hrun : running s = true)
include hrun

theorem exec_gateEntryChange_running : exec (.gateEntryChange p) s = .next (gateUpdate p false s) := by
  rw [exec_gateEntryChange_eq, execGateEntryChange, if_pos hrun]

section verify
variable (hverifying : verifying s p = true) (hdue : (portOf s p).verifyNext.toNat ≤ now s)
include hverifying hdue

/-- R189: at most three requests are sent, verify_ms apart. -/
theorem exec_preemptVerifySend_request (hsent : (portOf s p).verifySent < 3) :
    exec (.preemptVerifySend p) s = .next (setF .ETH_PREEMPT_STAT 0 p 2 0 2
      (setPort p { portOf s p with verifySent := (portOf s p).verifySent + 1,
                                   verifyNext := s.time.now + BitVec.ofNat 64 (verifyTime s p),
                                   control := (portOf s p).control ++ [.verify] } s)) := by
  rw [exec_preemptVerifySend_eq, execPreemptVerifySend, if_pos (by simp [hrun, hverifying, hdue])]
  exact congrArg _ (if_pos hsent)

/-- R189: the verification fails when the third request has had no answer. -/
theorem exec_preemptVerifySend_fails (hsent : 3 ≤ (portOf s p).verifySent) :
    exec (.preemptVerifySend p) s = .next (ethCause p 4 (wr .ETH_PREEMPT_STAT 0 p 4 s)) := by
  rw [exec_preemptVerifySend_eq, execPreemptVerifySend, if_pos (by simp [hrun, hverifying, hdue])]
  exact congrArg _ (if_neg (Nat.not_lt.mpr hsent))

end verify

/-- R195: low-power idle begins when the port has been empty for the idle time, and no gate wakes it soon. -/
theorem exec_eeeLpiEnter_idle (hup : portUp s p = true) (heee : eeeOn s p = true) (hawake : (portOf s p).lpi = false)
    (hempty : portEmpty s p = true) (hgates : wakeAhead s p (wakeTime s p) = false)
    (hidle : elapsed s (portOf s p).emptySince (max 1 (fld (rd s .ETH_EEE_CFG 0 p) 23 16) * 1000) = true) :
    exec (.eeeLpiEnter p) s = .next (setPort p { portOf s p with lpi := true } s) := by
  rw [exec_eeeLpiEnter_eq, execEeeLpiEnter, if_pos (by simp [hrun, hup, heee, hawake, hempty, hgates, hidle])]

/-- R195: a frame that waits or a gate near its opening ends it, and the port sends again after the wake time. -/
theorem exec_eeeLpiExit_wakes (hlpi : (portOf s p).lpi = true)
    (hwakes : portEmpty s p = false ∨ wakeAhead s p (wakeTime s p) = true) :
    exec (.eeeLpiExit p) s = .next (setPort p { portOf s p with
      lpi := false, lpiReady := s.time.now + BitVec.ofNat 64 (wakeTime s p) } s) := by
  rw [exec_eeeLpiExit_eq, execEeeLpiExit, if_pos (by simpa [hrun, hlpi] using hwakes)]

end idle

/-! ### Collisions without PLCA (R179) -/

/-- The collisions of leaving frame `x` so far, with the one that occurs now. -/
def collisionCount (k : Port) (x : Leaving) : Nat :=
  1 + (match k.retry with | some (id, m) => if id = x.flight then m else 0 | none => 0)

theorem collisionCount_eq (k : Port) (x : Leaving) :
    collisionCount k x = 1 + (if k.retry.map (·.1) = some x.flight then (k.retry.map (·.2)).getD 0 else 0) := by
  cases hretry : k.retry <;> simp [collisionCount, hretry]

/-- R179: leaving frame `x` of port `q`, which was in state `k`, is given up. -/
def frameGivenUp (q : Nat) (k : Port) (x : Leaving) (s : State) : State :=
  noteEmpty q (serveDest x.flight (.eth q) (setPort q { k with leaving := none, retry := none, opp := none } s))

/-- R179: leaving frame `x` of port `q`, which was in state `k`, waits at the head of its class after its `n`-th collision. -/
def frameRequeued (q : Nat) (k : Port) (x : Leaving) (n : Nat) (s : State) : State :=
  let eq := q * 8 + x.cls
  setEgress eq { egressOf s eq with waiting := x.flight :: (egressOf s eq).waiting }
    (setPort q { k with leaving := none, retry := some (x.flight, n), opp := none } s)

/-- R179: the `n`-th collision of leaving frame `x` of port `q`; what is counted and when it is the last depends on PLCA. -/
def collided (q : Nat) (late : Bool) (x : Leaving) (n : Nat) (s : State) : State :=
  let csma := !plcaOn s q
  let gone := x.bad || (if csma then late || decide (16 ≤ n) else decide (16 < n))
  let t := if csma && !gone then s else count32 .ETH_TX_COLL 0 q s
  if gone then frameGivenUp q (portOf s q) x t else frameRequeued q (portOf s q) x n t

theorem exec_collision_leaving {s : State} {p : Fin 4} {late : Bool} {x : Leaving} {n : Nat} (hrun : running s = true)
    (hleaving : (portOf s (12 + p.val)).leaving = some x) (hcount : collisionCount (portOf s (12 + p.val)) x = n) :
    exec (.collision p late) s = .next (collided (12 + p.val) late x n s) := by
  subst hcount
  rw [exec_collision_eq, execCollision]
  simp only [hleaving]
  exact congrArg _ (if_neg (by simp [hrun]))

section csma
variable {s : State} {q n : Nat} {late : Bool} {x : Leaving}

theorem plcaOn_of_csma (hcsma : fld (rd s .ETH_PLCA_CFG 0 q) 7 0 = 255) : plcaOn s q = false := by
  simp [plcaOn, hcsma]

variable (hplca : plcaOn s q = false)
include hplca

/-- R179: a collision of a bad frame, a late one and the sixteenth are a frame's last, and count. -/
theorem collided_last (hlast : x.bad = true ∨ late = true ∨ 16 ≤ n) :
    collided q late x n s = frameGivenUp q (portOf s q) x (count32 .ETH_TX_COLL 0 q s) := by
  rcases hlast with hbad | hlate | hmany
  · simp [collided, hplca, hbad]
  · simp [collided, hplca, hlate]
  · simp [collided, hplca, hmany]

theorem collided_again (hgood : x.bad = false) (hearly : late = false) (hfew : n < 16) :
    collided q late x n s = frameRequeued q (portOf s q) x n s := by
  simp [collided, hplca, hgood, hearly, Nat.not_le.mpr hfew]

end csma

/-- Settles O32: one law for each thing that a port starts, pre-empts or ends, for its idle acts, and for a collision's two outcomes. The
transmit opportunity is that of log 60; when a frame ends and where a frame that collided waits are log 26; the bytes sent by a tick are
log 55. -/
theorem ethernetTransmit : Obligations.EthernetTransmit := by
  refine ⟨fun s p hrun => ⟨?start, fun x => preemptAt_now, ?leaving, exec_gateEntryChange_running hrun, fun hverifying hdue =>
    ⟨exec_preemptVerifySend_request hrun hverifying hdue, exec_preemptVerifySend_fails hrun hverifying hdue⟩,
    exec_eeeLpiEnter_idle hrun, exec_eeeLpiExit_wakes hrun⟩, ?collision⟩
  case start =>
    intro hlink hactive
    rw [exec_ethTxStart_running hrun]
    exact ⟨fun hsilent => congrArg _ (txRun_silent hlink hactive hsilent), fun x hleaving =>
      ⟨fun n hpoint => congrArg _ (txRun_preempts hlink hactive hleaving hpoint),
        fun hpoint => congrArg _ (txRun_goes_on hlink hactive hleaving hpoint)⟩⟩
  case leaving =>
    exact fun x hleaving => ⟨exec_ethTxEnd_whole hrun hleaving, exec_txUnderrun_dry hrun hleaving⟩
  case collision =>
    intro s p late x hrun q k csma n hleaving hcsma
    have hplca : plcaOn s q = false := plcaOn_of_csma hcsma
    rw [exec_collision_leaving hrun hleaving (collisionCount_eq k x)]
    exact ⟨fun hlast => congrArg _ (collided_last hplca hlast),
      fun hgood hearly hfew => congrArg _ (collided_again hplca hgood hearly hfew)⟩

end Sys2Proof.Machine

/-! CAN channels: their control (O33), and the cancellation of frames with the sleep and the wake of the bus (O36). What a write of
CAN_CTRL stores, a recovery's start apart from it; each outcome of a cancellation; and each step of a bus between AWAKE and ASLEEP. -/

namespace Sys2Proof.Machine

section arms
variable (s : State) (m : Fin 64) (v : W32) (c : Fin 32)

theorem exec_channelEnable_eq : exec (.channelEnable m v) s = execChannelEnable m v s := rfl
theorem exec_channelDisable_eq : exec (.channelDisable m v) s = execChannelDisable m v s := rfl
theorem exec_busOffRecover_eq : exec (.busOffRecover m v) s = execBusOffRecover m v s := rfl
theorem exec_recoveryDone_eq : exec (.recoveryDone c) s = execRecoveryDone c s := rfl
theorem exec_channelIntegrated_eq : exec (.channelIntegrated c) s = execChannelIntegrated c s := rfl
theorem exec_channelStopped_eq : exec (.channelStopped c) s = execChannelStopped c s := rfl
theorem exec_txLogPop_eq : exec (.txLogPop m) s = execTxLogPop m s := rfl
theorem exec_hpbPop_eq : exec (.hpbPop m) s = execHpbPop m s := rfl
theorem exec_cancelByTag_eq (tag : Byte) : exec (.cancelByTag m tag) s = execCancelByTag m tag s := rfl
theorem exec_headAbort_eq : exec (.headAbort m) s = execHeadAbort m s := rfl
theorem exec_headAbortRequeue_eq : exec (.headAbortRequeue m) s = execHeadAbortRequeue m s := rfl
theorem exec_busSleepRequest_eq : exec (.busSleepRequest m v) s = execBusSleepRequest m v s := rfl
theorem exec_busWakeRequest_eq : exec (.busWakeRequest m v) s = execBusWakeRequest m v s := rfl
theorem exec_holdExpired_eq : exec (.holdExpired c) s = execHoldExpired c s := rfl
theorem exec_wakeSettleExpired_eq : exec (.wakeSettleExpired c) s = execWakeSettleExpired c s := rfl
theorem exec_wakeUpPatternSent_eq : exec (.wakeUpPatternSent c) s = execWakeUpPatternSent c s := rfl
theorem exec_wakeUpPatternDetect_eq (n : Fin 8) : exec (.wakeUpPatternDetect n) s = execWakeUpPatternDetect n s := rfl
theorem exec_wakeUpFrameMatch_eq (n : Fin 8) (fr : WakeFrame) : exec (.wakeUpFrameMatch n fr) s = execWakeUpFrameMatch n fr s := rfl

end arms

/-! ### A write of CAN_CTRL (R205, R206, R223, R455) -/

/-- R205, R455: CAN_CTRL after a write of `v` outside OFF, which leaves the option fields as they were. -/
def ctrlKeptOptions (c : Nat) (v : W32) (s : State) : State :=
  wr .CAN_CTRL 0 c ((v &&& 0x1D07) ||| (rd s .CAN_CTRL 0 c &&& 0xF8)) s

/-- R205, R206, R455: a write of `v` has stored its fields and its enable has acted; a recovery may start next. -/
def ctrlWritten (c : Nat) (v : W32) (s : State) : State :=
  fbWrite .CAN_STAT c (bit v 0)
    (if isOff s .CAN_STAT c then wr .CAN_CTRL 0 c (v &&& 0x1DFF) s
    else if (rd s .CAN_CTRL 0 c ^^^ v) &&& 0xF8 = 0 then ctrlKeptOptions c v s
    else setB .CAN_STAT 0 c 0x100 (ctrlKeptOptions c v s))

theorem canCtrlWrite_eq (c : Nat) (v : W32) (s : State) :
    canCtrlWrite c v s =
      if (bit v 8 || bit v 9) && errOf (ctrlWritten c v s) c = 2 then setF .CAN_STAT 0 c 5 4 3 (ctrlWritten c v s)
      else ctrlWritten c v s := rfl

section ctrlWritten
variable {s : State} {c : Nat} {v : W32}

theorem ctrlWritten_off (hoff : isOff s .CAN_STAT c = true) :
    ctrlWritten c v s = fbWrite .CAN_STAT c (bit v 0) (wr .CAN_CTRL 0 c (v &&& 0x1DFF) s) := by
  rw [ctrlWritten, if_pos hoff]

variable (hrunning : isOff s .CAN_STAT c = false)
include hrunning

theorem ctrlWritten_same_options (hsame : (rd s .CAN_CTRL 0 c ^^^ v) &&& 0xF8 = 0) :
    ctrlWritten c v s = fbWrite .CAN_STAT c (bit v 0) (ctrlKeptOptions c v s) := by
  rw [ctrlWritten, if_neg (Bool.eq_false_iff.mp hrunning), if_pos hsame]

/-- R455: other options outside OFF set cfg_err. -/
theorem ctrlWritten_other_options (hother : (rd s .CAN_CTRL 0 c ^^^ v) &&& 0xF8 ≠ 0) :
    ctrlWritten c v s = fbWrite .CAN_STAT c (bit v 0) (setB .CAN_STAT 0 c 0x100 (ctrlKeptOptions c v s)) := by
  rw [ctrlWritten, if_neg (Bool.eq_false_iff.mp hrunning), if_neg hother]

end ctrlWritten

section recovery
variable {s : State} {c : Nat} {v : W32}

theorem canCtrlWrite_not_busOff (herr : errOf (ctrlWritten c v s) c ≠ 2) : canCtrlWrite c v s = ctrlWritten c v s := by
  rw [canCtrlWrite_eq, if_neg (by simp [herr])]

theorem canCtrlWrite_no_recovery (hauto : bit v 8 = false) (hrecover : bit v 9 = false) :
    canCtrlWrite c v s = ctrlWritten c v s := by
  rw [canCtrlWrite_eq, if_neg (by simp [hauto, hrecover])]

/-- R223: recover or auto_recover starts the recovery of a channel that is bus-off. -/
theorem canCtrlWrite_recovers (hasked : bit v 8 = true ∨ bit v 9 = true) (herr : errOf (ctrlWritten c v s) c = 2) :
    canCtrlWrite c v s = setF .CAN_STAT 0 c 5 4 3 (ctrlWritten c v s) := by
  rw [canCtrlWrite_eq, if_pos (by simpa [herr] using hasked)]

end recovery

section ctrlWrites
variable {s : State} {m : Fin 64} {v : W32} (hwrites : writes m .CAN_CTRL s)
include hwrites

theorem exec_channelEnable (hen : bit v 0 = true) :
    exec (.channelEnable m v) s = .next (canCtrlWrite (chanOf .CAN_CTRL m s) v s) := by
  rw [exec_channelEnable_eq, execChannelEnable, if_pos hen, withWrite_of_writes hwrites]

theorem exec_channelDisable (hen : bit v 0 = false) :
    exec (.channelDisable m v) s = .next (canCtrlWrite (chanOf .CAN_CTRL m s) v s) := by
  rw [exec_channelDisable_eq, execChannelDisable, if_neg (Bool.eq_false_iff.mp hen), withWrite_of_writes hwrites]

theorem exec_busOffRecover (hrecover : bit v 9 = true) :
    exec (.busOffRecover m v) s = .next (canCtrlWrite (chanOf .CAN_CTRL m s) v s) := by
  rw [exec_busOffRecover_eq, execBusOffRecover, if_pos hrecover, withWrite_of_writes hwrites]

end ctrlWrites

/-! ### Recovered, started, stopped (R206, R223) -/

section channelMoves
variable {s : State} {c : Fin 32}

theorem exec_recoveryDone_recovering (hrun : running s = true) (herr : errOf s c = 3) :
    exec (.recoveryDone c) s =
      .next (canCause c 2 (setF .CAN_STAT 0 c 5 4 0 (setCh c { chOf s c with tec := 0, recv := 0 } s))) := by
  rw [exec_recoveryDone_eq, execRecoveryDone, if_pos (by simp [hrun, herr])]

theorem exec_channelIntegrated_starting (hrun : running s = true) (hstarting : fbState (fbOf s .CAN_STAT c) = 1) :
    exec (.channelIntegrated c) s =
      .next (canSettle c (setBus c 0 (fbPut .CAN_STAT c (fbStarted (fbOf s .CAN_STAT c)) s))) := by
  rw [exec_channelIntegrated_eq, execChannelIntegrated, if_neg (by simp [hrun]), if_pos hstarting]

/-- R206: the entries of FIFO and hold list have left channel `c` as discarded. -/
def framesDiscarded (c : Nat) (s : State) : State :=
  ((chOf s c).fifo ++ (chOf s c).hold).foldl (fun s e => txFree c false 5 e s) s

theorem exec_channelStopped_idle (hstopping : fbState (fbOf s .CAN_STAT c) = 3) (hidle : (chOf s c).attempt = none) :
    exec (.channelStopped c) s =
      let u := framesDiscarded c s
      .next (setBus c 0 (fbPut .CAN_STAT c (fbStopped (fbOf u .CAN_STAT c))
        (setCh c { chOf u c with fifo := [], hold := [], wakeStep := 0 } u))) := by
  rw [exec_channelStopped_eq, execChannelStopped, if_pos (by simp [hstopping, hidle])]
  rfl

end channelMoves

/-! ### Reads that pop (R211, R225) -/

section pops
variable {s : State} {m : Fin 64}

theorem exec_txLogPop (hreads : reads m .CAN_TX_LOG s) :
    exec (.txLogPop m) s = .next (replyOf m (txLogPop m (chanOf .CAN_TX_LOG m s) s)) := by
  rw [exec_txLogPop_eq, execTxLogPop, withRead_of_reads hreads]

theorem exec_hpbPop (hreads : reads m .CAN_HPB_POP s) :
    exec (.hpbPop m) s = .next (replyOf m (hpbPop m (chanOf .CAN_HPB_POP m s) s)) := by
  rw [exec_hpbPop_eq, execHpbPop, withRead_of_reads hreads]

variable {c : Nat}

theorem txLogPop_empty (hempty : (chOf s c).log = []) (m : Nat) : txLogPop m c s = (0, s) := by
  simp only [txLogPop, hempty]

theorem txLogPop_oldest {slot : Bool} {st : BitVec 3} {tag : Byte} {stamp : W32} {r : List (Bool × BitVec 3 × Byte × W32)}
    (hlog : (chOf s c).log = (slot, st, tag, stamp) :: r) (m : Nat) :
    txLogPop m c s = (BitVec.ofNat 32 (2 ^ 31 + ofBool slot * 2 ^ 30 + st.toNat * 2 ^ 16 + tag.toNat),
      wr .CAN_TX_LOG_STAMP 0 (c * 64 + m) stamp (setCh c { chOf s c with log := r } s)) := by
  simp only [txLogPop, hlog]

theorem hpbPop_empty (hempty : (chOf s c).hpb = []) (m : Nat) : hpbPop m c s = (0, s) := by
  simp only [hpbPop, hempty]

theorem foldl_wr_can {β : Type} (q : Reg) (part : Nat) (at_ : β → Nat) (val : β → W32) (bs : List β) (s : State) :
    (bs.foldl (fun s b => wr q (at_ b) part (val b) s) s).can = s.can :=
  foldl_keeps State.can _ (fun s b => wr_can q (at_ b) part (val b) s) bs s

/-- R211: the pop answers valid and the entries left, drops the oldest, and latches it for the reader. -/
theorem hpbPop_oldest {l : List Byte} {stamp : W32} {r : List (List Byte × W32)} (hhpb : (chOf s c).hpb = (l, stamp) :: r) (m : Nat) :
    ∃ t, hpbPop m c s = (BitVec.ofNat 32 (2 ^ 31 + r.length), t) ∧ t = { s with regs := t.regs, can := t.can } ∧
      (chOf t c).hpb = r ∧ rd t .CAN_HPB_STAMP 0 (c * 64 + m) = stamp := by
  simp only [hpbPop, hhpb]
  refine ⟨_, rfl, rfl, ?_, rd_wr_same ..⟩
  rw [chOf, wr_can, foldl_wr_can, foldl_wr_can]
  exact congrArg Chan.hpb (chOf_setCh_same c _ s)

end pops

/-- Settles O33: one law for each way of a write of CAN_CTRL, for each act of a channel, and for the two reads that pop. -/
theorem canChannelControl : Obligations.CanChannelControl := by
  refine ⟨fun s m v hwrites => ⟨?off, ?otherOptions, exec_busOffRecover hwrites, ?recovery⟩,
    fun s c => ⟨exec_recoveryDone_recovering, exec_channelIntegrated_starting, exec_channelStopped_idle⟩,
    fun s m => ⟨?txLog, ?hpb⟩⟩
  case off =>
    intro hoff _ u herr
    have hu : u = ctrlWritten (chanOf .CAN_CTRL m s) v s := (ctrlWritten_off hoff).symm
    have hwritten : canCtrlWrite (chanOf .CAN_CTRL m s) v s = u := (canCtrlWrite_not_busOff (hu ▸ herr)).trans hu.symm
    exact ⟨fun hen => by rw [exec_channelEnable hwrites hen, hwritten], fun hen => by rw [exec_channelDisable hwrites hen, hwritten]⟩
  case otherOptions =>
    intro hrunning hother hauto hrecover hen
    rw [exec_channelDisable hwrites hen, canCtrlWrite_no_recovery hauto hrecover, ctrlWritten_other_options hrunning hother, hen]
    rfl
  case recovery =>
    intro u hasked hrunning hsame hu herr
    have hwritten : ctrlWritten (chanOf .CAN_CTRL m s) v s = u := (ctrlWritten_same_options hrunning hsame).trans hu.symm
    rw [canCtrlWrite_recovers hasked (by rw [hwritten, herr]), hwritten]
  case txLog =>
    intro hreads
    rw [exec_txLogPop hreads]
    exact ⟨fun hempty => by rw [txLogPop_empty hempty]; rfl, fun slot st tag stamp r hlog => by rw [txLogPop_oldest hlog]; rfl⟩
  case hpb =>
    intro hreads
    rw [exec_hpbPop hreads]
    refine ⟨fun hempty => by rw [hpbPop_empty hempty]; rfl, fun l stamp r hhpb => ?_⟩
    obtain ⟨t, hpop, hframe, hleft, hstamp⟩ := hpbPop_oldest hhpb m
    exact ⟨t, by rw [hpop]; rfl, hframe, hleft, hstamp⟩

/-! ### Cancellation (R226, R227) -/

theorem headIsSlot_of_idle {k : Chan} (hidle : k.attempt = none) : headIsSlot k = k.sched.isSome := by
  simp only [headIsSlot, hidle]

section cancel
variable {s : State} {c m : Nat} {requeue : Bool}

/-- R226, R227: the head of the FIFO leaves, or goes to its end with requeue. -/
theorem frameCancel_head {e : CanTx} {r : List CanTx} (hfifo : (chOf s c).fifo = e :: r) (requeue : Bool) :
    frameCancel c false requeue s =
      if requeue then txLog c false 4 e (setFifo c (r ++ [e]) s) else txFree c false 1 e (setFifo c r s) := by
  cases requeue <;> simp [frameCancel, frameLeave_head hfifo, hfifo]

theorem frameCancel_slot {e : CanTx} (hsched : (chOf s c).sched = some e) :
    frameCancel c true false s = txLog c true 1 e (setCh c { chOf s c with sched := none } s) := by
  simp [frameCancel, frameLeave, hsched]

theorem cancelHead_empty (hfifo : (chOf s c).fifo = []) (hslot : headIsSlot (chOf s c) = false) :
    cancelHead c m requeue s = cmdStat c m 4 s := by
  simp [cancelHead, hfifo, hslot]

/-- Table 8.7: with no attempt under way the frame that would make the next one is cancelled. -/
theorem cancelHead_idle (hidle : (chOf s c).attempt = none) (hframe : headIsSlot (chOf s c) = true ∨ (chOf s c).fifo ≠ []) :
    cancelHead c m requeue s = canSettle c (cmdStat c m 2 (frameCancel c (headIsSlot (chOf s c)) requeue s)) := by
  have hsome : ¬ (!headIsSlot (chOf s c) && (chOf s c).fifo.isEmpty) = true := by
    rcases hframe with hslot | hfifo <;> simp [*]
  simp only [cancelHead, if_neg hsome, hidle]

/-- Table 8.7: once the first identifier bit is sampled the attempt ends first. -/
theorem cancelHead_sampled {a : Attempt} (hattempt : (chOf s c).attempt = some a) (hfifo : (chOf s c).fifo ≠ [])
    (hsampled : firstSample s c ≤ (s.time.now - a.sof).toNat * 1000) :
    cancelHead c m requeue s = cmdStat c m 1 (setCh c { chOf s c with
      attempt := some { a with cancelled := true, requeue := requeue, askers := m :: a.askers } } s) := by
  have hsome : ¬ (!headIsSlot (chOf s c) && (chOf s c).fifo.isEmpty) = true := by simp [hfifo]
  simp only [cancelHead, if_neg hsome, hattempt, if_neg (Nat.not_lt.mpr hsampled)]

/-- R226: no entry of FIFO or hold list has the tag, and it is not the slot's frame. -/
theorem cancelTag_not_found {tag : Byte} (hfifo : ∀ e ∈ (chOf s c).fifo, e.tag ≠ tag) (hhold : ∀ e ∈ (chOf s c).hold, e.tag ≠ tag)
    (hslot : headIsSlot (chOf s c) = false ∨ tag ≠ 0) : cancelTag c m tag s = cmdStat c m 3 s := by
  have hnone : ∀ {l : List CanTx}, (∀ e ∈ l, e.tag ≠ tag) → l.find? (·.tag = tag) = none := by
    intro l hl
    simpa using hl
  have hother : ¬ (headIsSlot (chOf s c) && tag = 0) = true := by simpa [imp_iff_not_or] using hslot
  simp only [cancelTag, hnone hfifo, hnone hhold, if_neg hother]

end cancel

section cancelWrites
variable {s : State} {m : Fin 64} (hwrites : writes m .CAN_TX_CMD s)
include hwrites

theorem exec_cancelByTag (tag : Byte) :
    exec (.cancelByTag m tag) s = .next (cancelTag (chanOf .CAN_TX_CMD m s) m tag s) := by
  rw [exec_cancelByTag_eq, execCancelByTag, withWrite_of_writes hwrites]

theorem exec_headAbort : exec (.headAbort m) s = .next (cancelHead (chanOf .CAN_TX_CMD m s) m false s) := by
  rw [exec_headAbort_eq, execHeadAbort, withWrite_of_writes hwrites]

theorem exec_headAbortRequeue : exec (.headAbortRequeue m) s = .next (cancelHead (chanOf .CAN_TX_CMD m s) m true s) := by
  rw [exec_headAbortRequeue_eq, execHeadAbortRequeue, withWrite_of_writes hwrites]

end cancelWrites

/-! ### Bus sleep and wake by request (R230) -/

section sleep
variable {s : State} {c : Nat} {v : W32} (hon : isOn (plainWrite .CAN_SLEEP 0 c v s) .CAN_STAT c = true)
include hon

section asksSleep
variable (hsleep : fld v 1 0 = 1)
include hsleep

theorem sleepWrite_sleep_awake (hawake : busOf (plainWrite .CAN_SLEEP 0 c v s) c = 0) :
    sleepWrite c v s = canSettle c (setBus c 1 (plainWrite .CAN_SLEEP 0 c v s)) := by
  simp [sleepWrite, hon, hsleep, hawake]

/-- Table 8.9: a sleep request to a waking bus is latched. -/
theorem sleepWrite_sleep_waking (hwaking : busOf (plainWrite .CAN_SLEEP 0 c v s) c = 3) :
    sleepWrite c v s = setB .CAN_SLEEP 0 c 0x10 (plainWrite .CAN_SLEEP 0 c v s) := by
  simp [sleepWrite, hon, hsleep, hwaking]

end asksSleep

section asksWake
variable (hwake : fld v 1 0 = 2)
include hwake

theorem sleepWrite_wake_draining (hdraining : busOf (plainWrite .CAN_SLEEP 0 c v s) c = 1) :
    sleepWrite c v s = canSettle c (setBus c 0 (plainWrite .CAN_SLEEP 0 c v s)) := by
  simp [sleepWrite, hon, hwake, hdraining]

theorem sleepWrite_wake_asleep (hasleep : busOf (plainWrite .CAN_SLEEP 0 c v s) c = 2) :
    sleepWrite c v s = wakeBegin c (plainWrite .CAN_SLEEP 0 c v s) := by
  simp [sleepWrite, hon, hwake, hasleep]

/-- Table 8.9: a wake request to a waking bus drops the latched sleep request. -/
theorem sleepWrite_wake_waking (hwaking : busOf (plainWrite .CAN_SLEEP 0 c v s) c = 3) :
    sleepWrite c v s = clrB .CAN_SLEEP 0 c 0x10 (plainWrite .CAN_SLEEP 0 c v s) := by
  simp [sleepWrite, hon, hwake, hwaking]

end asksWake

end sleep

section sleepWrites
variable {s : State} {m : Fin 64} {v : W32} (hwrites : writes m .CAN_SLEEP s)
include hwrites

theorem exec_busSleepRequest (hsleep : fld v 1 0 = 1) :
    exec (.busSleepRequest m v) s = .next (sleepWrite (chanOf .CAN_SLEEP m s) v s) := by
  rw [exec_busSleepRequest_eq, execBusSleepRequest, if_pos hsleep, withWrite_of_writes hwrites]

theorem exec_busWakeRequest (hwake : fld v 1 0 = 2) :
    exec (.busWakeRequest m v) s = .next (sleepWrite (chanOf .CAN_SLEEP m s) v s) := by
  rw [exec_busWakeRequest_eq, execBusWakeRequest, if_pos hwake, withWrite_of_writes hwrites]

end sleepWrites

/-! ### Held frames, the steps of a wake, and its detectors (R231 to R233) -/

theorem exec_holdExpired_due {s : State} {c : Fin 32} {e : CanTx} {r : List CanTx} (hhold : (chOf s c).hold = e :: r)
    (hdue : holdDue s c = true) :
    exec (.holdExpired c) s =
      .next (canCause c 6 (count32 .CAN_HOLD_DROP 0 c (txFree c false 6 e (setCh c { chOf s c with hold := r } s)))) := by
  simp only [exec_holdExpired_eq, execHoldExpired, hhold, hdue, if_true]

section wakeSteps
variable {s : State} {c : Fin 32} (hrun : running s = true) (hwaking : busOf s c = 3) (hdue : (chOf s c).wakeAt.toNat ≤ now s)
include hrun hwaking hdue

/-- R232: after the settle time the wake-up pattern's three phases are driven, but after a local wake the controller integrates. -/
theorem exec_wakeSettleExpired_due (hstep : (chOf s c).wakeStep = 1) :
    exec (.wakeSettleExpired c) s = .next (if (chOf s c).wakeLocal then setCh c { chOf s c with wakeStep := 3 } s
      else say (.canWup c) (setCh c { chOf s c with
        wakeStep := 2, wakeAt := (chOf s c).wakeAt + BitVec.ofNat 64 (3 * max 1 (fld (rd s .CAN_WAKE_TIM 0 c) 19 12) * 1000) } s)) := by
  rw [exec_wakeSettleExpired_eq, execWakeSettleExpired, if_neg (by simp [hrun, hwaking, hdue, hstep])]

theorem exec_wakeUpPatternSent_due (hstep : (chOf s c).wakeStep = 2) :
    exec (.wakeUpPatternSent c) s = .next (setCh c { chOf s c with wakeStep := 3 } s) := by
  rw [exec_wakeUpPatternSent_eq, execWakeUpPatternSent, if_pos (by simp [hrun, hwaking, hdue, hstep])]

end wakeSteps

section detectors
variable {s : State} {c : Fin 8} (hwatches : canWatches s c = true)
include hwatches

theorem exec_wakeUpPatternDetect_watched (henabled : bit (rd s .CAN_WAKE_CFG 0 c) 0 = true) :
    exec (.wakeUpPatternDetect c) s = .next (canDetected c 1 0 s) := by
  rw [exec_wakeUpPatternDetect_eq, execWakeUpPatternDetect, if_pos (by simp [hwatches, henabled])]

/-- R233: the first matcher that takes the frame latches it. -/
theorem exec_wakeUpFrameMatch_watched {fr : WakeFrame} (henabled : bit (rd s .CAN_WAKE_CFG 0 c) 1 = true) {k : Nat}
    (hmatch : (List.range 8).find? (fun k => wufMatch s c k fr) = some k) :
    exec (.wakeUpFrameMatch c fr) s =
      .next (canDetected c 2 k (wr .CAN_WAKE_ID 0 c (BitVec.ofNat 32 (fr.id.toNat + ofBool fr.ide * 2 ^ 29)) s)) := by
  rw [exec_wakeUpFrameMatch_eq, execWakeUpFrameMatch, if_pos (by simp [hwatches, henabled]), hmatch]

end detectors

/-- Settles O36: one law for each outcome of a cancellation, for each request at each state of the bus, and for each step of a wake. The
slot's frame as the head is log 57's; what the detectors latch is log 30's. -/
theorem canSleepWakeAndCancel : Obligations.CanSleepWakeAndCancel := by
  refine ⟨?cancel, ?requests, fun s c e r => exec_holdExpired_due, ?steps, fun s c fr hwatches =>
    ⟨exec_wakeUpPatternDetect_watched hwatches, fun henabled k => exec_wakeUpFrameMatch_watched hwatches henabled⟩⟩
  case cancel =>
    intro s m tag hwrites c k
    refine ⟨exec_cancelByTag hwrites tag, exec_headAbort hwrites, exec_headAbortRequeue hwrites,
      fun hfifo hslot => ⟨cancelHead_empty hfifo hslot, cancelHead_empty hfifo hslot⟩, cancelTag_not_found,
      fun e r hfifo => ⟨fun hidle hsched => ?_, fun a requeue hattempt _ =>
        cancelHead_sampled hattempt (hfifo ▸ List.cons_ne_nil e r)⟩, fun e hidle hsched => ?_⟩
    · have hframe : headIsSlot k = false := by simp [headIsSlot_of_idle hidle, hsched]
      constructor <;> rw [cancelHead_idle hidle (.inr (by simp [k, c, hfifo])), hframe, frameCancel_head hfifo] <;> rfl
    · have hframe : headIsSlot k = true := by simp [headIsSlot_of_idle hidle, hsched]
      rw [cancelHead_idle hidle (.inl hframe), hframe, frameCancel_slot hsched]
  case requests =>
    intro s m v hwrites c u
    refine ⟨fun hsleep hon => ?_, fun hwake hon => ?_⟩
    · rw [exec_busSleepRequest hwrites hsleep]
      exact ⟨fun hawake => congrArg _ (sleepWrite_sleep_awake hon hsleep hawake),
        fun hwaking => congrArg _ (sleepWrite_sleep_waking hon hsleep hwaking)⟩
    · rw [exec_busWakeRequest hwrites hwake]
      exact ⟨fun hdraining => congrArg _ (sleepWrite_wake_draining hon hwake hdraining),
        fun hasleep => congrArg _ (sleepWrite_wake_asleep hon hwake hasleep),
        fun hwaking => congrArg _ (sleepWrite_wake_waking hon hwake hwaking)⟩
  case steps =>
    intro s c hrun hwaking hdue k wup
    refine ⟨fun hstep hbus => ?_, fun hstep hlocal => ?_, exec_wakeUpPatternSent_due hrun hwaking hdue⟩
    · rw [exec_wakeSettleExpired_due hrun hwaking hdue hstep, if_neg (Bool.eq_false_iff.mp hbus)]
    · rw [exec_wakeSettleExpired_due hrun hwaking hdue hstep, if_pos hlocal]

end Sys2Proof.Machine

/-! The Rewick star (O37, O38, O39): what a write of STAR_CTRL stores, how a star of a pair finds its role, and the switches of mode;
how a run and each of its basic cycles begin, with their reference frames and Equinoxes; and what a branch does with a write of its
control register, with the frames that come on it and with its echoes. -/

namespace Sys2Proof.Machine

section arms
variable (s : State) (m : Fin 64) (v : W32) (n : Fin 24)

theorem exec_starEnable_eq : exec (.starEnable m v) s = execStarEnable m v s := rfl
theorem exec_starDisable_eq : exec (.starDisable m v) s = execStarDisable m v s := rfl
theorem exec_starStarted_eq : exec .starStarted s = execStarStarted s := rfl
theorem exec_starStopped_eq : exec .starStopped s = execStarStopped s := rfl
theorem exec_modeSwitchRequest_eq : exec (.modeSwitchRequest m v) s = execModeSwitchRequest m v s := rfl
theorem exec_islUp_eq : exec .islUp s = execIslUp s := rfl
theorem exec_islDown_eq : exec .islDown s = execIslDown s := rfl
theorem exec_claimSend_eq : exec .claimSend s = execClaimSend s := rfl
theorem exec_claimFrameRx_eq (id : Fin 16) (run : Bool) (mc : W32) (t : W64) :
    exec (.claimFrameRx id run mc t) s = execClaimFrameRx id run mc t s := rfl
theorem exec_claimDecision_eq : exec .claimDecision s = execClaimDecision s := rfl
theorem exec_secondaryAlign_eq (d : Nat) (t : W64) (mc : W32) (x : RefCopy) (t0 : W64) :
    exec (.secondaryAlign d t mc x t0) s = execSecondaryAlign d t mc x t0 s := rfl
theorem exec_runStart_eq : exec .runStart s = execRunStart s := rfl
theorem exec_basicCycleStart_eq : exec .basicCycleStart s = execBasicCycleStart s := rfl
theorem exec_referenceFrameSend_eq : exec (.referenceFrameSend n) s = execReferenceFrameSend n s := rfl
theorem exec_equinox_eq : exec .equinox s = execEquinox s := rfl
theorem exec_eqxInEdge_eq (stamp : W64) : exec (.eqxInEdge stamp) s = execEqxInEdge stamp s := rfl
theorem exec_starWakePattern_eq (b : Fin 4) : exec (.starWakePattern b) s = execStarWakePattern b s := rfl
theorem exec_branchEnable_eq : exec (.branchEnable m v) s = execBranchEnable m v s := rfl
theorem exec_branchDisable_eq : exec (.branchDisable m v) s = execBranchDisable m v s := rfl
theorem exec_branchReadmit_eq : exec (.branchReadmit m v) s = execBranchReadmit m v s := rfl
theorem exec_branchRemeasure_eq : exec (.branchRemeasure m v) s = execBranchRemeasure m v s := rfl
theorem exec_branchQuarSet_eq : exec (.branchQuarSet m v) s = execBranchQuarSet m v s := rfl
theorem exec_branchQuarClear_eq : exec (.branchQuarClear m v) s = execBranchQuarClear m v s := rfl
theorem exec_guardianOpen_eq : exec (.guardianOpen n) s = execGuardianOpen n s := rfl
theorem exec_guardianClose_eq : exec (.guardianClose n) s = execGuardianClose n s := rfl
theorem exec_starFrameRx_eq (fr : StarRx) : exec (.starFrameRx n fr) s = execStarFrameRx n fr s := rfl
theorem exec_echoRequestSend_eq : exec (.echoRequestSend n) s = execEchoRequestSend n s := rfl
theorem exec_echoResponseRx_eq (rt ta : Nat) (valid : Bool) :
    exec (.echoResponseRx n rt ta valid) s = execEchoResponseRx n rt ta valid s := rfl

end arms

/-! ### A write of STAR_CTRL (R253, R254, R455, 02 R42) -/

/-- 02 R42: a commit armed for a matrix cycle ends unless the star runs in ON. -/
def commitOfRun (s : State) : State := if starOnRunning s then s else runCommitEnd s

/-- R455: STAR_CTRL after a write of `v` outside OFF, which takes the enable alone. -/
def enTaken (v : W32) (s : State) : State :=
  wr .STAR_CTRL 0 0 ((rd s .STAR_CTRL 0 0 &&& ~~~1) ||| (v &&& 0xFFFF &&& 1)) s

/-- R254, R455: STAR_CTRL after a write of `v`: all its fields in OFF, else the enable alone, with cfg_err for a change of another. -/
def starCtrlStored (v : W32) (s : State) : State :=
  if isOff s .STAR_STAT 0 then wr .STAR_CTRL 0 0 (v &&& 0xFFFF) s
  else if (rd s .STAR_CTRL 0 0 &&& ~~~1) = (v &&& 0xFFFF &&& ~~~1) then enTaken v s
  else setB .STAR_STAT 0 0 0x40000 (enTaken v s)

section starCtrl
variable {s : State} {v : W32}

theorem bit_zero_low_half (v : W32) : bit (v &&& 0xFFFF) 0 = bit v 0 := by simp [bit]

theorem starCtrlWrite_eq (v : W32) (s : State) :
    starCtrlWrite v s = commitOfRun (fbWrite .STAR_STAT 0 (bit v 0) (starCtrlStored v s)) := by
  rw [← bit_zero_low_half v]
  rfl

theorem starCtrlStored_off (hoff : isOff s .STAR_STAT 0 = true) : starCtrlStored v s = wr .STAR_CTRL 0 0 (v &&& 0xFFFF) s :=
  if_pos hoff

variable (hnotOff : isOff s .STAR_STAT 0 = false)
include hnotOff

theorem starCtrlStored_same_options (hsame : (rd s .STAR_CTRL 0 0 &&& ~~~1) = (v &&& 0xFFFF &&& ~~~1)) :
    starCtrlStored v s = enTaken v s :=
  (if_neg (Bool.eq_false_iff.mp hnotOff)).trans (if_pos hsame)

theorem starCtrlStored_other_options (hother : (rd s .STAR_CTRL 0 0 &&& ~~~1) ≠ (v &&& 0xFFFF &&& ~~~1)) :
    starCtrlStored v s = setB .STAR_STAT 0 0 0x40000 (enTaken v s) :=
  (if_neg (Bool.eq_false_iff.mp hnotOff)).trans (if_neg hother)

end starCtrl

section starCtrlWrites
variable {s : State} {m : Fin 64} {v : W32} (hwrites : writes m .STAR_CTRL s)
include hwrites

theorem exec_starEnable (hen : bit v 0 = true) :
    exec (.starEnable m v) s = .next (commitOfRun (fbWrite .STAR_STAT 0 true (starCtrlStored v s))) := by
  rw [exec_starEnable_eq, execStarEnable, if_pos hen, withWrite_of_writes hwrites, starCtrlWrite_eq, hen]

theorem exec_starDisable (hen : bit v 0 = false) :
    exec (.starDisable m v) s = .next (commitOfRun (fbWrite .STAR_STAT 0 false (starCtrlStored v s))) := by
  rw [exec_starDisable_eq, execStarDisable, if_neg (Bool.eq_false_iff.mp hen), withWrite_of_writes hwrites, starCtrlWrite_eq, hen]

end starCtrlWrites

/-! ### Started and stopped (R253, R254) -/

/-- R253, R260: what a star does when its STARTING has ended: one of a pair claims, another waits for its start. -/
def starBegins (s : State) : State := if !isOn s .STAR_STAT 0 then s else if starCtl s 1 then claimBegin s else waitStart s

section starBegins
variable {s : State}

theorem starBegins_disabled (hon : isOn s .STAR_STAT 0 = false) : starBegins s = s := by simp [starBegins, hon]

variable (hon : isOn s .STAR_STAT 0 = true)
include hon

theorem starBegins_of_pair (hpair : starCtl s 1 = true) : starBegins s = claimBegin s := by simp [starBegins, hon, hpair]

theorem starBegins_alone (halone : starCtl s 1 = false) : starBegins s = waitStart s := by simp [starBegins, hon, halone]

end starBegins

section starMoves
variable {s : State} (hrun : running s = true)
include hrun

theorem exec_starStarted_starting (hstarting : fbState (fbOf s .STAR_STAT 0) = 1) :
    exec .starStarted s = .next (starBegins (fbPut .STAR_STAT 0 (fbStarted (fbOf s .STAR_STAT 0)) s)) := by
  rw [exec_starStarted_eq, execStarStarted, if_pos (by simp [hrun, hstarting])]
  rfl

/-- R254: the run of a star that stops ends with its basic cycle. -/
theorem exec_starStopped_stopping (hstopping : fbState (fbOf s .STAR_STAT 0) = 3)
    (hcycleOver : starRunning s = false ∨ tBc s + bcLen s ≤ now s) :
    exec .starStopped s = .next (fbPut .STAR_STAT 0 (fbStopped (fbOf s .STAR_STAT 0)) (runEnd s)) := by
  rw [exec_starStopped_eq, execStarStopped, if_pos (by simpa [hrun, hstopping] using hcycleOver)]

end starMoves

/-! ### Mode switches (R255, R263) -/

/-- R255, R263: a request for mode `g` is refused: the star does not run in ON, a restart is under way, a switch is announced, the mode is
not valid or runs already, or its matrix cycle comes too soon. -/
def switchRefused (g : Nat) (s : State) : Prop :=
  starOnRunning s = false ∨ inRestart s = true ∨ s.star.swLive = true ∨ modeValid s g = false ∨ g = curMode s ∨
    (rd s .STAR_MODE_TARGET 0 0 ≠ 0 ∧ (rd s .STAR_MODE_TARGET 0 0).toNat < (rd s .STAR_MC_NUM 0 0).toNat + 3)

section modeSwitch
variable {s : State} {g : Nat}

theorem modeRequest_refused (hno : switchRefused g s) : modeRequest g s = setF .STAR_MODE_STAT 0 0 2 0 5 s := by
  rw [modeRequest, if_pos (by simpa [switchRefused, or_assoc] using hno)]

theorem modeRequest_announced (hok : ¬ switchRefused g s) :
    modeRequest g s = setModeStat 1 g (wr .STAR_ACK 0 0 0 (setStar { s.star with
      swLive := true, swMode := g, lastReq := some (rd s .STAR_MC_NUM 0 0),
      swTarget := if rd s .STAR_MODE_TARGET 0 0 = 0 then rd s .STAR_MC_NUM 0 0 + 3 else rd s .STAR_MODE_TARGET 0 0 } s)) := by
  rw [modeRequest, if_neg (by simpa [switchRefused, or_assoc] using hok)]

theorem exec_modeSwitchRequest_go {m : Fin 64} {v : W32} (hwrites : writes m .STAR_MODE_REQ s) (hgo : bit v 31 = true) :
    exec (.modeSwitchRequest m v) s = .next (modeRequest (fld v 2 0) (wr .STAR_MODE_REQ 0 0 (v &&& 7) s)) := by
  rw [exec_modeSwitchRequest_eq, execModeSwitchRequest, if_pos hgo, withWrite_of_writes hwrites, modeReqWrite, if_pos hgo]

end modeSwitch

/-! ### The link of a pair, and its claims (R260, R262) -/

section isl
variable {s : State} (hrun : running s = true)
include hrun

theorem exec_islUp_running : exec .islUp s = .next (setB .STAR_STAT 0 0 0x20000 s) := by
  rw [exec_islUp_eq, execIslUp, if_pos hrun]

theorem exec_claimSend_claiming (hclaims : claiming s = true) :
    exec .claimSend s = .next (say (.star 24 (claimFrame s) s.time.now) s) := by
  rw [exec_claimSend_eq, execClaimSend, if_pos (by simp [hrun, hclaims])]

/-- R262: with the link down a SECONDARY is alone; claiming anew where it does not run yet is log 31's. -/
theorem exec_islDown_up (hup : bit (rd s .STAR_STAT 0 0) 17 = true) :
    exec .islDown s =
      let u := raise 221 (clrB .STAR_STAT 0 0 0x20000 s)
      let v := setF .STAR_STAT 0 0 9 8 0 u
      .next (if roleOf u ≠ 2 then u else if runPhase v = 2 then claimBegin (setStar { v.star with align := none } v) else v) := by
  rw [exec_islDown_eq, execIslDown, if_pos (by simp [hrun, hup])]

end isl

/-- R260: a claim frame has come; its star is the known peer. -/
def peerKnown (id : Fin 16) (run : Bool) (mc : W32) (t : W64) (s : State) : State :=
  let w := islRx s
  setF .STAR_ID 0 0 12 12 1 (setF .STAR_ID 0 0 11 8 id (setStar { w.star with peer := some (BitVec.ofNat 4 id, run, mc, t) } w))

theorem exec_claimFrameRx_of_pair {s : State} (hrun : running s = true) (hon : isOn s .STAR_STAT 0 = true) (hpair : starCtl s 1 = true)
    (id : Fin 16) (run : Bool) (mc : W32) (t : W64) :
    exec (.claimFrameRx id run mc t) s =
      let u := peerKnown id run mc t s
      .next (if starRunning u && id.val = starId u then idConflict u else u) := by
  rw [exec_claimFrameRx_eq, execClaimFrameRx, if_pos (by simp [hrun, hon, hpair])]
  rfl

theorem idConflict_idle {s : State} (hidle : starRunning s = false) :
    idConflict s = raise 220 (setB .STAR_STAT 0 0 0x10000 (setPhase 1 s)) := by
  simp [idConflict, hidle]

/-- Log 31: a conflict also ends the run of a running star. -/
theorem idConflict_running {s : State} (hstar : starRunning s = true) :
    idConflict s = raise 220 (setB .STAR_STAT 0 0 0x10000 (setPhase 1 (runEnd s))) := by
  simp [idConflict, hstar]

/-! ### The claim decision (R260) -/

/-- The claim phase repeats, from now on. -/
def claimAgain (s : State) : State := setStar { s.star with claimSince := s.time.now } s

/-- R260: with the link down a star that may run alone waits for its start, another refuses and claims once more. -/
def soloOrRefused (s : State) : State :=
  if starCtl s 2 then waitStart (setF .STAR_STAT 0 0 9 8 0 s) else setPhase 5 (claimAgain s)

/-- The star is PRIMARY, and waits for its start. -/
def becomePrimary (s : State) : State := waitStart (setF .STAR_STAT 0 0 9 8 1 s)

/-- The star is SECONDARY, and aligns itself with its peer. -/
def becomeSecondary (s : State) : State := setPhase 2 (setF .STAR_STAT 0 0 9 8 2 s)

/-- What a claim decision that has come makes of the star. -/
def claimDecided (s : State) : State :=
  let up := bit (rd s .STAR_STAT 0 0) 17
  match s.star.peer with
  | some (id, run, _, _) =>
    if id.toNat = starId s then idConflict s
    else if !up then soloOrRefused s
    else if run then becomeSecondary s
    else if starId s < id.toNat then becomePrimary s
    else becomeSecondary s
  | none => if up then claimAgain s else soloOrRefused s

theorem exec_claimDecision_due {s : State} (hrun : running s = true) (hon : isOn s .STAR_STAT 0 = true)
    (hphase : runPhase s = 1 ∨ runPhase s = 5) (hfree : bit (rd s .STAR_STAT 0 0) 16 = false)
    (hdue : s.star.claimSince.toNat + max 1 (fld (rd s .STAR_CLAIM_CFG 0 0) 7 0) * 1000000 ≤ now s) :
    exec .claimDecision s = .next (claimDecided s) := by
  have hnow : ¬ now s < s.star.claimSince.toNat + max 1 (fld (rd s .STAR_CLAIM_CFG 0 0) 7 0) * 1000000 := Nat.not_lt.mpr hdue
  rw [exec_claimDecision_eq, execClaimDecision, if_neg (by simpa [hrun, hon, hfree, hnow, or_iff_not_imp_left] using hphase), claimDecided]
  cases s.star.peer <;> rfl

section peer
variable {s : State} {id : BitVec 4} {run : Bool} {mc : W32} {t : W64} (hpeer : s.star.peer = some (id, run, mc, t))
include hpeer

theorem claimDecided_conflict (hequal : id.toNat = starId s) : claimDecided s = idConflict s := by
  simp [claimDecided, hpeer, hequal]

theorem claimDecided_link_down (hother : id.toNat ≠ starId s) (hdown : bit (rd s .STAR_STAT 0 0) 17 = false) :
    claimDecided s = soloOrRefused s := by
  simp [claimDecided, hpeer, hother, hdown]

/-- R260: the star aligns itself with a peer that runs, or that has the lower ID. -/
theorem claimDecided_secondary (hother : id.toNat ≠ starId s) (hup : bit (rd s .STAR_STAT 0 0) 17 = true)
    (hpeerFirst : run = true ∨ id.toNat < starId s) : claimDecided s = becomeSecondary s := by
  rcases hpeerFirst with rfl | hlower
  · simp [claimDecided, hpeer, hother, hup]
  · simp [claimDecided, hpeer, hother, hup, Nat.not_lt.mpr hlower.le]

theorem claimDecided_primary (hup : bit (rd s .STAR_STAT 0 0) 17 = true) (hidle : run = false) (hlower : starId s < id.toNat) :
    claimDecided s = becomePrimary s := by
  simp [claimDecided, hpeer, hlower.ne', hup, hidle, hlower]

end peer

section noPeer
variable {s : State} (hnone : s.star.peer = none)
include hnone

/-- Log 31: with the link up and no peer known the star claims for one more claim time. -/
theorem claimDecided_unknown_peer (hup : bit (rd s .STAR_STAT 0 0) 17 = true) : claimDecided s = claimAgain s := by
  simp [claimDecided, hnone, hup]

theorem claimDecided_no_peer_link_down (hdown : bit (rd s .STAR_STAT 0 0) 17 = false) : claimDecided s = soloOrRefused s := by
  simp [claimDecided, hnone, hdown]

end noPeer

theorem soloOrRefused_solo {s : State} (hsolo : starCtl s 2 = true) :
    soloOrRefused s = waitStart (setF .STAR_STAT 0 0 9 8 0 s) := if_pos hsolo

theorem soloOrRefused_refused {s : State} (hno : starCtl s 2 = false) : soloOrRefused s = setPhase 5 (claimAgain s) :=
  if_neg (Bool.eq_false_iff.mp hno)

/-! ### A reference copy of the primary (R261) -/

/-- A reference copy has come over the link, whose delay is `d`. -/
def copyReceived (d : Nat) (s : State) : State := islRx (wr .STAR_BR_DELAY 0 24 (BitVec.ofNat 32 (d % 4096 + 0x8000)) s)

/-- The running star holds its offset from the primary. -/
def offsetHeld (d : Nat) (s : State) : State :=
  wr .STAR_ISL_OFS 0 0 (BitVec.ofInt 32 (max (-(2 ^ 31)) (min (2 ^ 31 - 1) (islOffset d s)))) s

section secondary
variable {s : State} (hrun : running s = true) (hon : isOn s .STAR_STAT 0 = true) (hsecondary : roleOf s = 2)
  {d : Nat} {t t0 : W64} {mc : W32} {x : RefCopy}
include hrun hon hsecondary

theorem exec_secondaryAlign_of_secondary :
    exec (.secondaryAlign d t mc x t0) s =
      let u := copyReceived d s
      .next (if runPhase u = 2 then
          setTime { u.time with now := t + BitVec.ofNat 64 d } (setStar { u.star with align := some (mc, x.mode, t0) } u)
        else if starRunning u then followPrimary x (offsetHeld d u) else u) := by
  rw [exec_secondaryAlign_eq, execSecondaryAlign, if_neg (by simp [hrun, hon, hsecondary])]
  rfl

theorem exec_secondaryAlign_running (hstar : starRunning (copyReceived d s) = true) :
    exec (.secondaryAlign d t mc x t0) s = .next (followPrimary x (offsetHeld d (copyReceived d s))) := by
  have hphase : runPhase (copyReceived d s) ≠ 2 := by
    have hfour : runPhase (copyReceived d s) = 4 := of_decide_eq_true hstar
    omega
  rw [exec_secondaryAlign_of_secondary hrun hon hsecondary]
  simp only [if_neg hphase, if_pos hstar]

end secondary

section follow
variable {s : State} {x : RefCopy}

theorem followPrimary_no_switch (hsw : x.sw = 0) : followPrimary x s = s := by simp [followPrimary, hsw]

theorem followPrimary_announced (hsw : x.sw = 1) (hlive : s.star.swLive = true) :
    followPrimary x s =
      setModeStat 2 x.swMode (setStar { s.star with swLive := true, swMode := x.swMode, swTarget := x.target } s) := by
  simp [followPrimary, hsw, hlive]

theorem followPrimary_commit (hsw : x.sw = 2) :
    followPrimary x s =
      setModeStat 3 x.swMode (setStar { s.star with swLive := false, committed := some (x.swMode.val, x.target) } s) := by
  simp [followPrimary, hsw]

theorem followPrimary_abort (hsw : x.sw = 3) :
    followPrimary x s = raise 219 (setModeStat 4 x.swMode (setStar { s.star with swLive := false, committed := none } s)) := by
  simp [followPrimary, hsw]

end follow

/-- Settles O37: one law for each way of a write of STAR_CTRL, for each outcome of a claim decision, for each act of a reference copy, and
for a mode switch. Claiming anew on a link that goes down in ALIGN, a conflict that ends a run, the reading of the offset, and the claim
time once more with an unknown peer are log 31's; that a restart refuses a switch is R263. -/
theorem starControl : Obligations.StarControl := by
  refine ⟨?ctrl, ?started, fun s => exec_starStopped_stopping, ?modeSwitch, ?pair, ?claim,
    fun s => ⟨idConflict_idle, idConflict_running⟩⟩
  case ctrl =>
    intro s m v hwrites old w u fin
    refine ⟨fun hoff => ⟨fun hen => ?_, fun hen => ?_⟩, fun hnotOff hsame hen => ?_, fun hnotOff hother hen => ?_⟩
    · rw [exec_starEnable hwrites hen, starCtrlStored_off hoff]; rfl
    · rw [exec_starDisable hwrites hen, starCtrlStored_off hoff]; rfl
    · rw [exec_starDisable hwrites hen, starCtrlStored_same_options hnotOff hsame]; rfl
    · rw [exec_starEnable hwrites hen, starCtrlStored_other_options hnotOff hother]; rfl
  case started =>
    intro s hrun hstarting u
    rw [exec_starStarted_starting hrun hstarting]
    exact ⟨fun hon hpair => congrArg _ (starBegins_of_pair hon hpair), fun hon halone => congrArg _ (starBegins_alone hon halone),
      fun hon => congrArg _ (starBegins_disabled hon)⟩
  case modeSwitch =>
    intro s m v hwrites hgo u g n k no
    rw [exec_modeSwitchRequest_go hwrites hgo]
    exact ⟨fun hno => congrArg _ (modeRequest_refused hno), fun hok => congrArg _ (modeRequest_announced hok)⟩
  case pair =>
    intro s hrun
    refine ⟨exec_islUp_running hrun, fun hup => ?down, exec_claimSend_claiming hrun, fun id run mc t hon hpair => ?claimFrame,
      fun d t mc x t0 hon hsecondary => ⟨fun halign => ?aligning, fun hstar => ?following⟩⟩
    case down =>
      intro u v
      rw [exec_islDown_up hrun hup]
      exact ⟨fun hrole => congrArg _ (if_pos hrole), fun hrole hphase => congrArg _ ((if_neg (not_not.mpr hrole)).trans (if_neg hphase)),
        fun hrole hphase => congrArg _ ((if_neg (not_not.mpr hrole)).trans (if_pos hphase))⟩
    case claimFrame =>
      intro w u
      have hu : peerKnown id run mc t s = u := rfl
      rw [exec_claimFrameRx_of_pair hrun hon hpair, hu]
      exact ⟨fun hno => congrArg _ (if_neg (by simpa using hno)),
        fun hstar hequal => congrArg _ (if_pos (by simpa using ⟨hstar, hequal⟩))⟩
    case aligning =>
      rw [exec_secondaryAlign_of_secondary hrun hon hsecondary]
      exact congrArg _ (if_pos halign)
    case following =>
      rw [exec_secondaryAlign_running hrun hon hsecondary hstar]
      exact ⟨fun hsw => congrArg _ (followPrimary_no_switch hsw), fun hsw hlive => congrArg _ (followPrimary_announced hsw hlive),
        fun hsw => congrArg _ (followPrimary_commit hsw), fun hsw => congrArg _ (followPrimary_abort hsw)⟩
  case claim =>
    intro s hrun hon hphase hfree hdue up again
    rw [exec_claimDecision_due hrun hon hphase hfree hdue]
    refine ⟨fun id run mc t hpeer => ⟨fun hequal => ?_, fun hother hup hfirst => ?_, fun hup hidle hlower => ?_,
      fun hother hdown hsolo => ?_, fun hother hdown hno => ?_⟩, fun hnone hup => ?_, fun hnone hdown hsolo => ?_,
      fun hnone hdown hno => ?_⟩
    · rw [claimDecided_conflict hpeer hequal]
    · rw [claimDecided_secondary hpeer hother hup hfirst, becomeSecondary]
    · rw [claimDecided_primary hpeer hup hidle hlower, becomePrimary]
    · rw [claimDecided_link_down hpeer hother hdown, soloOrRefused_solo hsolo]
    · rw [claimDecided_link_down hpeer hother hdown, soloOrRefused_refused hno]; rfl
    · rw [claimDecided_unknown_peer hnone hup]; rfl
    · rw [claimDecided_no_peer_link_down hnone hdown, soloOrRefused_solo hsolo]
    · rw [claimDecided_no_peer_link_down hnone hdown, soloOrRefused_refused hno]; rfl

/-! ### A run begins (R251, R253) -/

/-- R253, R257: local time is the first T_bc of a run in mode `m`, whose schedule is latched; nothing of an earlier run is left. -/
def runScheduled (m : Nat) (s : State) : State :=
  setStar { s.star with
    latch := libMode s m, tbc := s.time.now, absBc := 0, branches := [], slots := [], snaps := [], snapped := [], swLive := false,
    committed := none, refFrame := none, align := none, arb := [], arbDone := [], eqxDone := false, eqxSeen := false } s

/-- The registers at the start of a run in mode `m`: basic cycle 0 of matrix cycle `mc`. -/
def runRegisters (m : Nat) (mc : W32) (s : State) : State :=
  wr .STAR_MODE_STAT 0 0 0 (wr .STAR_ACK 0 0 0 (wr .STAR_BC 0 0 0 (wr .STAR_MC_NUM 0 0 mc
    (setF .STAR_STAT 0 0 14 12 m (setPhase 4 s)))))

theorem exec_runStart_due {s : State} (hrun : running s = true) (hon : isOn s .STAR_STAT 0 = true) {m : Nat} {mc : W32}
    (hdue : runDue s = some (m, mc)) :
    exec .runStart s =
      .next (islCopy (matrixStart (allBranches.foldl brBegin (runRegisters m mc (runScheduled m (wakeBranches s)))))) := by
  simp only [exec_runStart_eq, execRunStart, hrun, hon, hdue, Bool.not_true, Bool.or_self, Bool.false_eq_true, if_false]
  rfl

/-! ### A basic cycle begins (R256, R257) -/

/-- The arbitration decisions still open are made (log 59), and the reference frame of the basic cycle to come exists. -/
def cycleClosed (s : State) : State := ensureRef (s.star.absBc + 1) (arbSettle true s)

/-- R257: the branches take their changes, T_bc moves on, and basic cycle `bc` begins, the `a`-th of the run. -/
def cycleBegun (a bc : Nat) (s : State) : State :=
  let u := allBranches.foldl brAtBc s
  wr .STAR_BC 0 0 (BitVec.ofNat 32 bc) (setStar { u.star with
    tbc := u.star.tbc + BitVec.ofNat 64 (bcLen u), absBc := a, snaps := [], snapped := [], arb := [], arbDone := [], eqxDone := false } u)

/-- R256: the mode of a COMMIT for matrix cycle `mc` is taken, where it is still valid. -/
def commitTaken (mc : W32) (s : State) : State :=
  if s.star.committed.map (·.2) = some mc then
    let u := setStar { s.star with committed := none } s
    if modeValid u (modeFor s mc) then raise 218 (setF .STAR_STAT 0 0 14 12 (modeFor s mc) u) else raise 219 u
  else s

/-- R257: the schedule of the current mode is latched, where the mode is valid. -/
def scheduleLatched (s : State) : State :=
  if modeValid s (curMode s) then setStar { s.star with latch := libMode s (curMode s) } s else s

/-- R256, R257: matrix cycle `mc` begins: the sets switch first, then the mode of a COMMIT, then the schedule is latched. -/
def matrixBegun (mc : W32) (s : State) : State :=
  matrixStart (scheduleLatched (commitTaken mc (solstice (wr .STAR_MC_NUM 0 0 mc s))))

section cycle
variable {s : State} (hrun : running s = true) (hon : isOn s .STAR_STAT 0 = true) (hstar : starRunning s = true) (hlen : bcLen s ≠ 0)
  (hdue : tBc s + bcLen s ≤ now s)
include hrun hon hstar hlen hdue

theorem exec_basicCycleStart_due :
    exec .basicCycleStart s =
      let v := cycleClosed s
      let w := cycleBegun (s.star.absBc + 1) ((bcNum v + 1) % 64) v
      .next (if (bcNum v + 1) % 64 ≠ 0 then islCopy w else islCopy (matrixBegun (rd w .STAR_MC_NUM 0 0 + 1) w)) := by
  have hnow : ¬ now s < tBc s + bcLen s := Nat.not_lt.mpr hdue
  rw [exec_basicCycleStart_eq, execBasicCycleStart, if_neg (by simp [hrun, hon, hstar, hlen, hnow])]
  simp only [matrixBegun, commitTaken, Bool.not_eq_true', decide_eq_false_iff_not, ite_not]
  rfl

end cycle

section commit
variable {s : State} {mc : W32}

theorem commitTaken_none (hnone : s.star.committed.map (·.2) ≠ some mc) : commitTaken mc s = s := if_neg hnone

variable (hcommit : s.star.committed.map (·.2) = some mc)
include hcommit

theorem commitTaken_valid (hvalid : modeValid (setStar { s.star with committed := none } s) (modeFor s mc) = true) :
    commitTaken mc s = raise 218 (setF .STAR_STAT 0 0 14 12 (modeFor s mc) (setStar { s.star with committed := none } s)) :=
  (if_pos hcommit).trans (if_pos hvalid)

theorem commitTaken_invalid (hvalid : modeValid (setStar { s.star with committed := none } s) (modeFor s mc) = false) :
    commitTaken mc s = raise 219 (setStar { s.star with committed := none } s) :=
  (if_pos hcommit).trans (if_neg (Bool.eq_false_iff.mp hvalid))

end commit

/-! ### Reference frames (R238, R261) -/

theorem ensureRef_built {s : State} {a : Nat} {l : List Byte} (hbuilt : s.star.refFrame = some (a, l)) : ensureRef a s = s :=
  if_pos (by rw [hbuilt]; rfl)

section sendRef
variable {s : State} {a n t : Nat}

theorem sendRef_sent (hsent : a < (brOf s n).refBc) : sendRef a n t s = s := if_pos hsent

theorem sendRef_built {l : List Byte} (hfirst : (brOf s n).refBc ≤ a) (hbuilt : s.star.refFrame = some (a, l)) :
    sendRef a n t s = say (.star n l (BitVec.ofNat 64 t)) (setBr n { brOf s n with refBc := a + 1 } s) := by
  simp only [sendRef, if_neg (Nat.not_lt.mpr hfirst), ensureRef_built hbuilt, hbuilt]

end sendRef

/-- R238: the reference frame of the next basic cycle leaves at its T_bc less the branch's delay. -/
theorem exec_referenceFrameSend_next {s : State} {n : Fin 24} (hrun : running s = true) (hstar : starRunning s = true)
    (hon : isOn s .STAR_STAT 0 = true) (hjoined : (brPlan s n).1 ≠ 0) (hdue : tBc s + bcLen s ≤ now s + (brPlan s n).2) :
    exec (.referenceFrameSend n) s = .next (sendRef (s.star.absBc + 1) n (tBc s + bcLen s - (brPlan s n).2) s) := by
  rw [exec_referenceFrameSend_eq, execReferenceFrameSend, if_neg (by simp [hrun, hstar])]
  simp only [hdue, hon, hjoined, ne_eq, not_false_eq_true, decide_true, Bool.and_self, if_true]

/-- R261: the copy at each T_bc is log 31's. -/
theorem islCopy_built {s : State} {l : List Byte} (hpair : starCtl s 1 = true) (hup : bit (rd s .STAR_STAT 0 0) 17 = true)
    (hrole : roleOf s ≠ 2) (hbuilt : s.star.refFrame = some (s.star.absBc, l)) : islCopy s = say (.star 24 l s.star.tbc) s := by
  have hsends : (starCtl s 1 && bit (rd s .STAR_STAT 0 0) 17 && decide (roleOf s ≠ 2)) = true := by simp [hpair, hup, hrole]
  simp only [islCopy, if_pos hsends, ensureRef_built hbuilt, hbuilt]

theorem islCopy_none {s : State} (hno : ¬ (starCtl s 1 = true ∧ bit (rd s .STAR_STAT 0 0) 17 = true ∧ roleOf s ≠ 2)) :
    islCopy s = s :=
  if_neg (by simpa [and_assoc] using hno)

/-! ### Equinox (R258, R259) and its pins (03 R85, R86) -/

/-- R258: the Equinox of the basic cycle at `t` has fired. -/
def equinoxFired (t : Nat) (s : State) : State :=
  raise 216 (wr64 .STAR_EQX_LAST_LO .STAR_EQX_LAST_HI 0 0 t (setStar { s.star with eqxDone := true, eqxSeen := true } s))

/-- 03 R85: the pulses of EQX_OUT without an offset begin. -/
def eqxPinsStarted (t : Nat) (s : State) : State :=
  [0, 1, 2, 3].foldl (fun s k =>
    if bit (rd s .TIME_EQXOUT_CFG k 0) 0 && fld (rd s .TIME_EQXOUT_CFG k 0) 31 16 = 0 then eqxPinStart k (BitVec.ofNat 64 t) s else s) s

/-- R259: every selected channel takes the Equinox frame. -/
def eqxFramesScheduled (t : Nat) (s : State) : State :=
  (List.range 32).foldl (fun s c => if bit (rd s .STAR_EQX_CAN 0 0) c then eqxFrame c t s else s) s

theorem exec_equinox_due {s : State} (hrun : running s = true) (hdue : eqxDue s = true) :
    exec .equinox s =
      let t := tBc s + fld (hdrW s 1) 23 0
      let v := eqxPinsStarted t (equinoxFired t s)
      .next (if bit (rd v .STAR_EQX_CANID 0 0) 31 then eqxFramesScheduled t v else v) := by
  rw [exec_equinox_eq, execEquinox, if_neg (by simp [hrun, hdue])]
  rfl

section eqxFrame
variable {s : State} {c t : Nat}

theorem eqxFrame_awake (hon : isOn s .CAN_STAT c = true) (hawake : busOf s c = 0) :
    eqxFrame c t s = schedule c (leBytes 4 (fld (rd s .STAR_EQX_CANID 0 0) 29 0) ++ leBytes 4 (c + 8 * 2 ^ 16 + 8 * 2 ^ 28) ++
      List.replicate 8 0 ++ beBytes 8 t) s.time.now s :=
  if_pos (by simp [hon, hawake])

theorem eqxFrame_skipped (hno : isOn s .CAN_STAT c = false ∨ busOf s c ≠ 0) : eqxFrame c t s = count32 .CAN_SYNC_SKIP 0 c s :=
  if_neg (by simpa [imp_iff_not_or] using hno)

end eqxFrame

section eqxIn
variable {s : State} {stamp : W64} (hrun : running s = true) (hinput : bit (rd s .TIME_CTRL 0 0) 3 = true)
include hrun hinput

/-- 03 R86: an edge inside the guard time is rejected. -/
theorem exec_eqxInEdge_rejected
    (hguard : guardPassed s.time.eqxLast (fld (rd s .TIME_PPSIN_GUARD 0 0) 19 10) stamp = false) :
    exec (.eqxInEdge stamp) s = .next (pinReject s) := by
  rw [exec_eqxInEdge_eq, execEqxInEdge, if_pos (by simp [hrun, hinput]), if_neg (by simp [hguard])]

/-- An accepted edge is stamped; the star that compares no edges holds no difference. -/
theorem exec_eqxInEdge_stamped
    (hguard : guardPassed s.time.eqxLast (fld (rd s .TIME_PPSIN_GUARD 0 0) 19 10) stamp = true)
    (hno : starCtl (raise 319 (wr64 .TIME_EQXIN_LO .TIME_EQXIN_HI 0 0 stamp.toNat
      (setTime { s.time with eqxLast := some stamp } s))) 6 = false) :
    exec (.eqxInEdge stamp) s = .next (raise 319 (wr64 .TIME_EQXIN_LO .TIME_EQXIN_HI 0 0 stamp.toNat
      (setTime { s.time with eqxLast := some stamp } s))) := by
  rw [exec_eqxInEdge_eq, execEqxInEdge, if_pos (by simp [hrun, hinput]), if_pos hguard]
  simp only [hno]

end eqxIn

/-! ### Wake patterns (R264) -/

/-- R264: B0 to B3 of a star that is OFF watch; the cause fires where the device runs. -/
theorem exec_starWakePattern_watched {s : State} {n : Fin 4} (hoff : isOff s .STAR_STAT 0 = true)
    (henabled : bit (rd s .STAR_WAKE_CFG 0 0) n = true) (hpowered : s.pwr.st ≠ .off) :
    exec (.starWakePattern n) s =
      let u := setB .STAR_WAKE_STAT 0 0 (oneBit n) s
      .next (if running u then brCause n 5 u else u) := by
  rw [exec_starWakePattern_eq, execStarWakePattern, if_pos (by simp [hoff, henabled, hpowered])]

/-- Settles O38: one law for the start of a run, for the start of a basic cycle with its parts, for the reference frames, for the
Equinox with its pins and frames, and for a wake pattern. The copy on the link at each T_bc, the reference frame built once and the
offset of the pins are log 31's; the decisions still open at a basic-cycle start are log 59's. -/
theorem starCycles : Obligations.StarCycles := by
  refine ⟨fun s hrun hon => ⟨fun m mc hdue => ?runStart, fun hstar hlen hdue => ?cycle⟩, ?reference, ?copy, ?equinox,
    fun s c t => ⟨eqxFrame_awake, eqxFrame_skipped⟩, ?edge, ?wake⟩
  case runStart => exact exec_runStart_due hrun hon hdue
  case cycle =>
    intro a v bc u w mc x latched y
    rw [exec_basicCycleStart_due hrun hon hstar hlen hdue]
    have hbegins (hzero : bc = 0) : (if bc ≠ 0 then islCopy w else islCopy (matrixBegun mc w)) =
        islCopy (matrixStart (latched (commitTaken mc x))) := if_neg (not_not.mpr hzero)
    refine ⟨fun hmid => congrArg _ (if_pos hmid), fun hzero hnone => congrArg _ ((hbegins hzero).trans ?_),
      fun hzero hcommit => ⟨fun hvalid => congrArg _ ((hbegins hzero).trans ?_), fun hvalid => congrArg _ ((hbegins hzero).trans ?_)⟩⟩
    · rw [commitTaken_none hnone]
    · rw [commitTaken_valid hcommit hvalid]
    · rw [commitTaken_invalid hcommit hvalid]
  case reference =>
    intro s n l hrun hstar a hon hjoined hdue
    have hsends := exec_referenceFrameSend_next hrun hstar hon hjoined hdue
    exact ⟨hsends, fun hfirst hbuilt => hsends.trans (congrArg _ (sendRef_built hfirst hbuilt)),
      fun hsent => hsends.trans (congrArg _ (sendRef_sent hsent))⟩
  case copy =>
    intro s l on
    exact ⟨fun ⟨hpair, hup, hrole⟩ => islCopy_built hpair hup hrole, islCopy_none⟩
  case equinox =>
    intro s hrun hdue t u v
    rw [exec_equinox_due hrun hdue]
    exact ⟨fun hno => congrArg _ (if_neg (Bool.eq_false_iff.mp hno)), fun hframes => congrArg _ (if_pos hframes)⟩
  case edge =>
    exact fun s stamp hrun hinput => ⟨exec_eqxInEdge_rejected hrun hinput, exec_eqxInEdge_stamped hrun hinput⟩
  case wake =>
    intro s n hoff henabled u
    exact ⟨fun hrun hpowered => (exec_starWakePattern_watched hoff henabled hpowered).trans (congrArg _ (if_pos hrun)),
      fun hrun hpowered => (exec_starWakePattern_watched hoff henabled hpowered).trans
        (congrArg _ (if_neg (Bool.eq_false_iff.mp hrun)))⟩

/-! ### A write of STAR_BR_CTRL (R247, R248, R251) -/

section branchWrites
variable {s : State} {m : Fin 64} {v : W32} (hwrites : writes m .STAR_BR_CTRL s)
include hwrites

/-- A row that a write of STAR_BR_CTRL asks for is that write. -/
theorem brCtrlRow_of_writes {ok : Bool} (hasked : ok = true) :
    brCtrlRow ok m v s = .next (starBrWrite (chanOf .STAR_BR_CTRL m s) v s) := by
  rw [brCtrlRow, if_pos hasked, withWrite_of_writes hwrites]

theorem exec_branchEnable (hen : bit v 0 = true) :
    exec (.branchEnable m v) s = .next (starBrWrite (chanOf .STAR_BR_CTRL m s) v s) := by
  rw [exec_branchEnable_eq, execBranchEnable, brCtrlRow_of_writes hwrites hen]

theorem exec_branchDisable (hen : bit v 0 = false) :
    exec (.branchDisable m v) s = .next (starBrWrite (chanOf .STAR_BR_CTRL m s) v s) := by
  rw [exec_branchDisable_eq, execBranchDisable, brCtrlRow_of_writes hwrites (by simp [hen])]

theorem exec_branchReadmit (hreadmit : bit v 2 = true) :
    exec (.branchReadmit m v) s = .next (starBrWrite (chanOf .STAR_BR_CTRL m s) v s) := by
  rw [exec_branchReadmit_eq, execBranchReadmit, brCtrlRow_of_writes hwrites hreadmit]

theorem exec_branchRemeasure (hmeasure : bit v 3 = true) :
    exec (.branchRemeasure m v) s = .next (starBrWrite (chanOf .STAR_BR_CTRL m s) v s) := by
  rw [exec_branchRemeasure_eq, execBranchRemeasure, brCtrlRow_of_writes hwrites hmeasure]

theorem exec_branchQuarSet (hquar : bit v 1 = true) :
    exec (.branchQuarSet m v) s = .next (starBrWrite (chanOf .STAR_BR_CTRL m s) v s) := by
  rw [exec_branchQuarSet_eq, execBranchQuarSet, brCtrlRow_of_writes hwrites hquar]

theorem exec_branchQuarClear (hquar : bit v 1 = false) :
    exec (.branchQuarClear m v) s = .next (starBrWrite (chanOf .STAR_BR_CTRL m s) v s) := by
  rw [exec_branchQuarClear_eq, execBranchQuarClear, brCtrlRow_of_writes hwrites (by simp [hquar])]

end branchWrites

/-- R251: an enable takes branch `n` out of OFF, its delay invalid. -/
def enableStep (n : Nat) (old v : W32) (s : State) : State :=
  if bit v 0 && !bit old 0 && brState s n = 0 then
    let w := wr .STAR_BR_DELAY 0 n 0 (setBr n (brJoin n s) s)
    if bit v 1 then isolate n w else setBrState n 1 w
  else s

/-- R248: a quarantine isolates branch `n` at once; a cleared one is due at T_bc. -/
def quarStep (n : Nat) (old v : W32) (s : State) : State :=
  if bit v 1 && !bit old 1 then
    if brState s n = 0 || brState s n = 4 then setBr n { brOf s n with due := 0 } s else isolate n s
  else if !bit v 1 && bit old 1 && brState s n = 4 then brDue n 1 s
  else s

/-- R247: the readmission of isolated branch `n` is due at T_bc. -/
def readmitStep (n : Nat) (v : W32) (s : State) : State :=
  if bit v 2 && brState s n = 4 && !bit v 1 then brDue n 2 s else s

/-- R251: the new measurement of branch `n` is due at T_bc. -/
def remeasureStep (n : Nat) (v : W32) (s : State) : State :=
  if bit v 3 && (brState s n = 3 || brState s n = 4) then brDue n 4 s else s

section steps
variable {n : Nat} {old v : W32} {s : State}

theorem enableStep_same (hsame : bit v 0 = bit old 0) : enableStep n old v s = s := if_neg (by simp [hsame])

theorem enableStep_listen (hen : bit v 0 = true) (hwas : bit old 0 = false) (hoff : brState s n = 0) (hquar : bit v 1 = false) :
    enableStep n old v s = setBrState n 1 (wr .STAR_BR_DELAY 0 n 0 (setBr n (brJoin n s) s)) :=
  (if_pos (by simp [hen, hwas, hoff])).trans (if_neg (Bool.eq_false_iff.mp hquar))

theorem enableStep_isolated (hen : bit v 0 = true) (hwas : bit old 0 = false) (hoff : brState s n = 0) (hquar : bit v 1 = true) :
    enableStep n old v s = isolate n (wr .STAR_BR_DELAY 0 n 0 (setBr n (brJoin n s) s)) :=
  (if_pos (by simp [hen, hwas, hoff])).trans (if_pos hquar)

theorem quarStep_same (hsame : bit v 1 = bit old 1) : quarStep n old v s = s :=
  (if_neg (by simp [hsame])).trans (if_neg (by simp [hsame]))

theorem quarStep_set (hquar : bit v 1 = true) (hwas : bit old 1 = false) (hoff : brState s n ≠ 0) (hfree : brState s n ≠ 4) :
    quarStep n old v s = isolate n s :=
  (if_pos (by simp [hquar, hwas])).trans (if_neg (by simp [hoff, hfree]))

theorem quarStep_clear (hquar : bit v 1 = false) (hwas : bit old 1 = true) (hisolated : brState s n = 4) :
    quarStep n old v s = brDue n 1 s :=
  (if_neg (by simp [hquar])).trans (if_pos (by simp [hquar, hwas, hisolated]))

theorem readmitStep_unasked (hno : bit v 2 = false) : readmitStep n v s = s := if_neg (by simp [hno])

theorem readmitStep_isolated (hreadmit : bit v 2 = true) (hisolated : brState s n = 4) (hquar : bit v 1 = false) :
    readmitStep n v s = brDue n 2 s := if_pos (by simp [hreadmit, hisolated, hquar])

theorem remeasureStep_unasked (hno : bit v 3 = false) : remeasureStep n v s = s := if_neg (by simp [hno])

theorem remeasureStep_measured (hmeasure : bit v 3 = true) (hstate : brState s n = 3 ∨ brState s n = 4) :
    remeasureStep n v s = brDue n 4 s := if_pos (by simpa [hmeasure] using hstate)

end steps

section starBrWrite
variable {n : Nat} {v : W32} {s : State} (hbranch : n < 24)
include hbranch

theorem starBrWrite_idle (hidle : starRunning (plainWrite .STAR_BR_CTRL 0 n v s) = false) :
    starBrWrite n v s = plainWrite .STAR_BR_CTRL 0 n v s := by
  simp [starBrWrite, Nat.not_le.mpr hbranch, hidle]

/-- In a run the bits of the write act in the order enable, quarantine, readmission, new measurement. -/
theorem starBrWrite_running (hstar : starRunning (plainWrite .STAR_BR_CTRL 0 n v s) = true) :
    starBrWrite n v s = remeasureStep n v (readmitStep n v (quarStep n (rd s .STAR_BR_CTRL 0 n) v
      (enableStep n (rd s .STAR_BR_CTRL 0 n) v (plainWrite .STAR_BR_CTRL 0 n v s)))) := by
  rw [starBrWrite, if_neg (Nat.not_le.mpr hbranch)]
  exact if_neg (by simp [hstar])

end starBrWrite

/-! ### Guardians (R246) -/

section guardian
variable {s : State} {n : Fin 24} (hrun : running s = true)
include hrun

theorem exec_guardianOpen_inside (hstar : starRunning s = true) (hopen : guardAt s n (now s) = true) :
    exec (.guardianOpen n) s = .next (setBr n { brOf s n with guardOpen := true } s) := by
  rw [exec_guardianOpen_eq, execGuardianOpen, if_pos (by simp [hrun, hstar, hopen])]

theorem exec_guardianClose_outside (hclosed : guardAt s n (now s) = false) :
    exec (.guardianClose n) s = .next (setBr n { brOf s n with guardOpen := false } s) := by
  rw [exec_guardianClose_eq, execGuardianClose, if_pos (by simp [hrun, hclosed])]

end guardian

/-! ### Received frames (R239, R240, R246) -/

/-- The window of branch `n` whose guardian is open at time `t`. -/
def openWindow (s : State) (n t : Nat) : Option Nat :=
  (guardWins s n).find? fun w => let (o, c, _) := guardOf s n w; o ≤ t && t < c

/-- A frame of branch `n` from `t` to `finish` begins before a guardian opens and lasts into it. -/
def beginsEarly (s : State) (n t finish : Nat) : Bool :=
  (guardWins s n).any fun w => let (o, _, _) := guardOf s n w; decide (t < o) && decide (o < finish)

section frame
variable {s : State} {n : Fin 24} {fr : StarRx} (hrun : running s = true) (hstar : starRunning s = true) (hbranch : brState s n ≠ 0)
include hrun hstar hbranch

theorem exec_starFrameRx_inside {w : Nat} (hwin : openWindow s n fr.start.toNat = some w) :
    exec (.starFrameRx n fr) s =
      let u := measure n fr.start.toNat (guardOf s n w).2.2 s
      .next (if winKind u w = 2 then rxArbitrating n w fr (guardOf s n w).2.2 u else rxExclusive n w fr (guardOf s n w).2.1 u) := by
  rw [openWindow] at hwin
  rw [exec_starFrameRx_eq, execStarFrameRx, if_neg (by simp [hrun, hstar, hbranch])]
  simp only [hwin]

/-- R246: a frame outside all windows is a violation: an early one each time, another once in a basic cycle. -/
theorem exec_starFrameRx_outside (hwin : openWindow s n fr.start.toNat = none) :
    exec (.starFrameRx n fr) s = .next (if beginsEarly s n fr.start.toNat fr.finish.toNat then violation n .STAR_BR_VIOL_EARLY s
      else if (brOf s n).outside then s
      else violation n .STAR_BR_VIOL_OUTSIDE (setBr n { brOf s n with outside := true } s)) := by
  rw [openWindow] at hwin
  rw [exec_starFrameRx_eq, execStarFrameRx, if_neg (by simp [hrun, hstar, hbranch])]
  simp only [hwin, beginsEarly]

end frame

/-- R246: the header of a frame in window `w` has come, and its slot or its cycle is not the window's. -/
def wrongSlot (w : Nat) (fr : StarRx) (s : State) : Prop :=
  fr.start.toNat + 2000 ≤ fr.finish.toNat ∧
    (starSlot (starRecord fr) ≠ fld (winW s w 2) 13 4 ∨ starCycle (starRecord fr) ≠ bcNum s)

/-- R239: the frame is repeated on the other branches, or its cut copy. -/
def frameRepeated (n : Nat) (fr : StarRx) (cut : Bool) (s : State) : State :=
  repeatFrame n (starRecord fr) (fr.start.toNat + 160) cut s

section exclusive
variable {n w close : Nat} {fr : StarRx} {s : State}

/-- The guardian closes before the header has come. -/
theorem rxExclusive_late_in_header (hlate : close ≤ fr.finish.toNat) (hheader : close ≤ fr.start.toNat + 2000) :
    rxExclusive n w fr close s = violation n .STAR_BR_VIOL_LATE (frameRepeated n fr true s) :=
  if_pos (by simp [hlate, hheader])

theorem rxExclusive_wrong_slot (hheader : ¬ (close ≤ fr.finish.toNat ∧ close ≤ fr.start.toNat + 2000)) (hwrong : wrongSlot w fr s) :
    rxExclusive n w fr close s = violation n .STAR_BR_VIOL_SLOT (frameRepeated n fr true s) :=
  (if_neg (by simpa using hheader)).trans (if_pos (by simpa [wrongSlot] using hwrong))

variable (hright : ¬ wrongSlot w fr s)
include hright

theorem rxExclusive_late (hlate : close ≤ fr.finish.toNat) :
    rxExclusive n w fr close s = violation n .STAR_BR_VIOL_LATE (frameRepeated n fr true s) := by
  by_cases hheader : close ≤ fr.start.toNat + 2000
  · exact rxExclusive_late_in_header hlate hheader
  · exact (if_neg (by simp [hheader])).trans ((if_neg (by simpa [wrongSlot] using hright)).trans (if_pos (by simp [hlate])))

/-- R239, R240: a whole frame of the window's slot and cycle is repeated, counted and delivered. -/
theorem rxExclusive_delivered (hintime : fr.finish.toNat < close) (hformed : fr.wellFormed = true)
    (hwhole : starLen (starRecord fr) ≠ 255) :
    rxExclusive n w fr close s =
      let u := rxCount n fr.crcOk (frameRepeated n fr false s)
      starDeliver (starRecord fr) fr.crcOk fr.start (if fr.crcOk then ackRx n (starRecord fr) fr.finish.toNat u else u) := by
  have hnotLate : ¬ close ≤ fr.finish.toNat := Nat.not_le.mpr hintime
  exact (if_neg (by simp [hnotLate])).trans ((if_neg (by simpa [wrongSlot] using hright)).trans ((if_neg (by simp [hnotLate])).trans
    (if_neg (by simp [hformed, hwhole]))))

end exclusive

/-! ### Echoes (R250) -/

theorem exec_echoRequestSend_due {s : State} {n : Fin 24} (hrun : running s = true) (hdue : echoDue s n = true) :
    exec (.echoRequestSend n) s = .next (say (.star n (starHeader 0x3FE (bcNum s) 0 0) (BitVec.ofNat 64 (tBc s + (firstFree s).getD 0)))
      (setBr n { brOf s n with echoBc := s.star.absBc + 1, echoWait := true } s)) := by
  rw [exec_echoRequestSend_eq, execEchoRequestSend, if_pos (by simp [hrun, hdue])]

section echoResponse
variable {s : State} {n : Fin 24} {rt ta : Nat} (hrun : running s = true) (hstar : starRunning s = true)
  (hmeasures : brState s n = 1 ∨ brState s n = 2)
include hrun hstar hmeasures

theorem exec_echoResponseRx_invalid : exec (.echoResponseRx n rt ta false) s = .next (count32 .STAR_BR_RX_CRC 0 n s) := by
  rw [exec_echoResponseRx_eq, execEchoResponseRx, if_neg (by simpa [hrun, hstar, or_iff_not_imp_left] using hmeasures)]
  simp

/-- R250: the awaited response in time joins the values; the eighth has them judged. -/
theorem exec_echoResponseRx_joins (hsoon : ta ≤ 10000) (hwait : (brOf (count32 .STAR_BR_RX_OK 0 n s) n).echoWait = true)
    (hundue : (brOf (count32 .STAR_BR_RX_OK 0 n s) n).due = 0)
    (hfew : (brOf (count32 .STAR_BR_RX_OK 0 n s) n).echoes.length + 1 < 8) :
    exec (.echoResponseRx n rt ta true) s =
      let u := count32 .STAR_BR_RX_OK 0 n s
      .next (setBr n { brOf u n with echoes := (brOf u n).echoes ++ [(rt : Int) - ta], echoWait := false }
        (if brState u n = 1 then setBrState n 2 u else u)) := by
  rw [exec_echoResponseRx_eq, execEchoResponseRx, if_neg (by simpa [hrun, hstar, or_iff_not_imp_left] using hmeasures)]
  simp only [if_true]
  rw [if_neg (by simp [Nat.not_lt.mpr hsoon, hwait, hundue]), if_pos (by simpa using hfew)]

end echoResponse

/-- Settles O39: one law for each bit of a write of STAR_BR_CTRL, for each end of a received frame, and for the echoes. The readmission
at the next T_bc is log 31's, the echo to an ISOLATED branch log 62's. -/
theorem starBranches : Obligations.StarBranches := by
  refine ⟨?control, ?media, ?exclusive⟩
  case control =>
    intro s m v hwrites n old u
    refine ⟨exec_branchEnable hwrites, exec_branchDisable hwrites, exec_branchReadmit hwrites, exec_branchRemeasure hwrites,
      exec_branchQuarSet hwrites, exec_branchQuarClear hwrites, starBrWrite_idle, fun hbranch hstar hsame => ?running,
      fun hbranch hstar hen hwas hreadmit hmeasure hoff => ?enabled⟩
    case running =>
      rw [starBrWrite_running hbranch hstar, enableStep_same hsame]
      refine ⟨fun hquar hwas hreadmit hmeasure hoff hfree => ?_, fun hquar hwas hreadmit hmeasure hisolated => ?_,
        fun hquar hwas hreadmit hmeasure hisolated => ?_, fun hquar hwas hreadmit hmeasure hstate => ?_⟩
      · rw [quarStep_set hquar hwas hoff hfree, readmitStep_unasked hreadmit, remeasureStep_unasked hmeasure]
      · rw [quarStep_clear hquar hwas hisolated, readmitStep_unasked hreadmit, remeasureStep_unasked hmeasure]
      · rw [quarStep_same (hquar.trans hwas.symm), readmitStep_isolated hreadmit hisolated hquar, remeasureStep_unasked hmeasure]
      · rw [quarStep_same (hquar.trans hwas.symm), readmitStep_unasked hreadmit, remeasureStep_measured hmeasure hstate]
    case enabled =>
      intro w
      rw [starBrWrite_running hbranch hstar]
      refine ⟨fun hquar hquarWas => ?_, fun hquar hquarWas => ?_⟩
      all_goals rw [quarStep_same (hquar.trans hquarWas.symm), readmitStep_unasked hreadmit, remeasureStep_unasked hmeasure]
      · exact enableStep_listen hen hwas hoff hquar
      · exact enableStep_isolated hen hwas hoff hquar
  case media =>
    intro s n hrun hstar
    refine ⟨exec_guardianOpen_inside hrun hstar, exec_guardianClose_outside hrun, fun fr hbranch => ?frame,
      exec_echoRequestSend_due hrun, fun rt ta hmeasures => ⟨exec_echoResponseRx_invalid hrun hstar hmeasures, ?echo⟩⟩
    case frame =>
      intro w? early
      refine ⟨fun hnone hearly => ?_, fun hnone hearly hfirst => ?_, fun w hwin => ?_⟩
      · exact (exec_starFrameRx_outside hrun hstar hbranch hnone).trans (congrArg _ (if_pos hearly))
      · exact (exec_starFrameRx_outside hrun hstar hbranch hnone).trans
          (congrArg _ ((if_neg (Bool.eq_false_iff.mp hearly)).trans (if_neg (Bool.eq_false_iff.mp hfirst))))
      · intro close u
        rw [exec_starFrameRx_inside hrun hstar hbranch hwin]
        exact ⟨fun harb => congrArg _ (if_pos harb), fun hexclusive => congrArg _ (if_neg hexclusive)⟩
    case echo =>
      exact fun hsoon hwait hundue hfew => exec_echoResponseRx_joins hrun hstar hmeasures hsoon hwait hundue hfew
  case exclusive =>
    intro s n w close fr l rep wrong
    refine ⟨rxExclusive_late_in_header, rxExclusive_wrong_slot, fun hlate hright => rxExclusive_late hright hlate,
      fun hintime hright hformed hwhole => ⟨fun hcrc => ?_, fun hcrc => ?_⟩⟩
    all_goals rw [rxExclusive_delivered hright hintime hformed hwhole, hcrc]; rfl

end Sys2Proof.Machine

/-! Programmable I/O (O41, O42): one law for each case of each instruction of a machine, then the control of machines, their FIFOs and
frame settings, and the pins as a machine reads them and as the device drives them. -/

namespace Sys2Proof.Machine

section arms
variable (s : State) (b : Fin 12) (m : Fin 4)

theorem exec_pioFetch_eq : exec (.pioFetch b m) s = execPioFetch b m s := rfl
theorem exec_pioJump_eq : exec (.pioJump b m) s = execPioJump b m s := rfl
theorem exec_pioAwait_eq : exec (.pioAwait b m) s = execPioAwait b m s := rfl
theorem exec_pioShin_eq : exec (.pioShin b m) s = execPioShin b m s := rfl
theorem exec_pioShout_eq : exec (.pioShout b m) s = execPioShout b m s := rfl
theorem exec_pioTake_eq : exec (.pioTake b m) s = execPioTake b m s := rfl
theorem exec_pioGive_eq : exec (.pioGive b m) s = execPioGive b m s := rfl
theorem exec_pioCopy_eq : exec (.pioCopy b m) s = execPioCopy b m s := rfl
theorem exec_pioDrive_eq : exec (.pioDrive b m) s = execPioDrive b m s := rfl
theorem exec_pioSignal_eq : exec (.pioSignal b m) s = execPioSignal b m s := rfl
theorem exec_pioNoOperation_eq : exec (.pioNoOperation b m) s = execPioNoOperation b m s := rfl

end arms

/-! ### Completing and fetching (R272) -/

section complete
variable (s : State) (b m : Nat) (target : Option Nat)

@[simp] theorem smOf_smDone_latch : (smOf (smDone b m target s) b m).latch = none := by simp [smDone]
@[simp] theorem smOf_smDone_step : (smOf (smDone b m target s) b m).step = 0 := by simp [smDone]
@[simp] theorem smOf_smDone_stall : (smOf (smDone b m target s) b m).stall = 0 := by simp [smDone]

@[simp] theorem smOf_smDone_hold : (smOf (smDone b m target s) b m).hold = smFld ((smOf s b m).latch.getD 0) 19 16 := by
  simp [smDone]

/-- No other machine changes. -/
theorem smDone_frame : smDone b m target s = setSm b m (smOf (smDone b m target s) b m) s := by
  simp only [smDone, smOf_setSm_same]

theorem smOf_smDone_pc_taken (a : Nat) : (smOf (smDone b m (some a) s) b m).pc = BitVec.ofNat 6 a := by
  simp [smDone]

/-- After the ring's last address the machine goes on at its base. -/
theorem smOf_smDone_pc_wraps
    (hlast : (smOf s b m).pc.toNat = (fld (rd s .SM_RING m b) 5 0 + fld (rd s .SM_RING m b) 13 8) % 64) :
    (smOf (smDone b m none s) b m).pc = BitVec.ofNat 6 (fld (rd s .SM_RING m b) 5 0) := by
  simp [smDone, hlast]

theorem smOf_smDone_pc_next
    (hinside : (smOf s b m).pc.toNat ≠ (fld (rd s .SM_RING m b) 5 0 + fld (rd s .SM_RING m b) 13 8) % 64) :
    (smOf (smDone b m none s) b m).pc = (smOf s b m).pc + 1 := by
  simp only [smDone, smOf_setSm_same, if_neg hinside]
  exact BitVec.eq_of_toNat_eq (by simp)

end complete

theorem exec_pioFetch_free {s : State} {b : Fin 12} {m : Fin 4} (hrun : running s = true) (hruns : (smOf s b m).running = true)
    (hfree : (smOf s b m).latch = none) (hhold : (smOf s b m).hold = 0) :
    exec (.pioFetch b m) s = .next (setSm b m { smOf s b m with latch := some (pioWord s b (smOf s b m).pc.toNat) } s) := by
  rw [exec_pioFetch_eq, execPioFetch, if_pos hrun, smFetch, if_pos (by simp [hruns, hfree, hhold])]

/-! ### The row of the latched opcode (R268, R269) -/

theorem smCycle_noOperation {s : State} {b m : Nat} {w : BitVec 24} (hlatch : (smOf s b m).latch = some w)
    (hop : 9 ≤ smFld w 23 20) (flags : BitVec 8) : smCycle b m flags s = (smDone b m none s, none, none) := by
  simp only [smCycle, hlatch]
  split
  case h_10 => rfl
  all_goals omega

section latched
variable {s : State} {b : Fin 12} {m : Fin 4} {w : BitVec 24}
variable (hrun : running s = true) (hruns : (smOf s b m).running = true) (hlatch : (smOf s b m).latch = some w)
include hrun hruns hlatch

/-- The row that names the latched opcode makes the machine cycle, and its flags change at the end. -/
theorem smRow_of_latched {ops : Nat → Bool} (hop : ops (smFld w 23 20) = true) :
    smRow ops b m s = .next (flagChange b (smCycle b m (blkOf s b).seen s).2.2.toList (smCycle b m (blkOf s b).seen s).2.1.toList
      (smCycle b m (blkOf s b).seen s).1) := by
  rw [smRow, if_pos (by simp [hrun, hruns, hlatch, hop])]

theorem exec_pioJump (hop : smFld w 23 20 = 0) : exec (.pioJump b m) s = .next (flagChange b [] [] (smJump b m w s)) := by
  rw [exec_pioJump_eq, execPioJump, smRow_of_latched hrun hruns hlatch (decide_eq_true hop)]
  simp only [smCycle, hlatch, hop]
  rfl

theorem exec_pioAwait (hop : smFld w 23 20 = 1) :
    exec (.pioAwait b m) s =
      .next (flagChange b (smAwait b m w (blkOf s b).seen s).2.toList [] (smAwait b m w (blkOf s b).seen s).1) := by
  rw [exec_pioAwait_eq, execPioAwait, smRow_of_latched hrun hruns hlatch (decide_eq_true hop)]
  simp only [smCycle, hlatch, hop]
  rfl

theorem exec_pioShin (hop : smFld w 23 20 = 2) : exec (.pioShin b m) s = .next (flagChange b [] [] (smShin b m w s)) := by
  rw [exec_pioShin_eq, execPioShin, smRow_of_latched hrun hruns hlatch (decide_eq_true hop)]
  simp only [smCycle, hlatch, hop]
  rfl

theorem exec_pioShout (hop : smFld w 23 20 = 3) : exec (.pioShout b m) s = .next (flagChange b [] [] (smShout b m w s)) := by
  rw [exec_pioShout_eq, execPioShout, smRow_of_latched hrun hruns hlatch (decide_eq_true hop)]
  simp only [smCycle, hlatch, hop]
  rfl

theorem exec_pioTake (hop : smFld w 23 20 = 4) : exec (.pioTake b m) s = .next (flagChange b [] [] (smTake b m w s)) := by
  rw [exec_pioTake_eq, execPioTake, smRow_of_latched hrun hruns hlatch (decide_eq_true hop)]
  simp only [smCycle, hlatch, hop]
  rfl

theorem exec_pioGive (hop : smFld w 23 20 = 5) : exec (.pioGive b m) s = .next (flagChange b [] [] (smGive b m w s)) := by
  rw [exec_pioGive_eq, execPioGive, smRow_of_latched hrun hruns hlatch (decide_eq_true hop)]
  simp only [smCycle, hlatch, hop]
  rfl

theorem exec_pioCopy (hop : smFld w 23 20 = 6) :
    exec (.pioCopy b m) s = .next (flagChange b [] [] (smCopy b m w (blkOf s b).seen s)) := by
  rw [exec_pioCopy_eq, execPioCopy, smRow_of_latched hrun hruns hlatch (decide_eq_true hop)]
  simp only [smCycle, hlatch, hop]
  rfl

theorem exec_pioDrive (hop : smFld w 23 20 = 7) : exec (.pioDrive b m) s = .next (flagChange b [] [] (smDrive b m w s)) := by
  rw [exec_pioDrive_eq, execPioDrive, smRow_of_latched hrun hruns hlatch (decide_eq_true hop)]
  simp only [smCycle, hlatch, hop]
  rfl

theorem exec_pioSignal (hop : smFld w 23 20 = 8) :
    exec (.pioSignal b m) s = .next (flagChange b (smSignal b m w (blkOf s b).seen s).2.2.toList
      (smSignal b m w (blkOf s b).seen s).2.1.toList (smSignal b m w (blkOf s b).seen s).1) := by
  rw [exec_pioSignal_eq, execPioSignal, smRow_of_latched hrun hruns hlatch (decide_eq_true hop)]
  simp only [smCycle, hlatch, hop]

/-- R269: the opcodes 0x9 to 0xF only complete. -/
theorem exec_pioNoOperation (hop : 9 ≤ smFld w 23 20) :
    exec (.pioNoOperation b m) s = .next (flagChange b [] [] (smDone b m none s)) := by
  rw [exec_pioNoOperation_eq, execPioNoOperation, smRow_of_latched hrun hruns hlatch (decide_eq_true hop), smCycle_noOperation hlatch hop]
  rfl

end latched

/-! ### JUMP (Table 10.1) -/

section instructions
variable {s : State} {b m : Nat} {w : BitVec 24}

theorem smJump_always (hif : smFld w 15 13 = 0) : smJump b m w s = smDone b m (some (smFld w 5 0)) s := by
  simp [smJump, hif]

/-- A counter that is not 0 counts down and jumps; at 0 it stays and the jump is not taken. -/
theorem smJump_c0 (hif : smFld w 15 13 = 1) :
    smJump b m w s = if (smOf s b m).c0 = 0 then smDone b m none (setSm b m { smOf s b m with c0 := 0 } s)
      else smDone b m (some (smFld w 5 0)) (setSm b m { smOf s b m with c0 := (smOf s b m).c0 - 1 } s) := by
  by_cases hzero : (smOf s b m).c0 = 0#16 <;> simp [smJump, hif, hzero]

theorem smJump_c1 (hif : smFld w 15 13 = 2) :
    smJump b m w s = if (smOf s b m).c1 = 0 then smDone b m none (setSm b m { smOf s b m with c1 := 0 } s)
      else smDone b m (some (smFld w 5 0)) (setSm b m { smOf s b m with c1 := (smOf s b m).c1 - 1 } s) := by
  by_cases hzero : (smOf s b m).c1 = 0#16 <;> simp [smJump, hif, hzero]

theorem smJump_s_zero (hif : smFld w 15 13 = 3) :
    smJump b m w s = smDone b m (if (smOf s b m).s = 0 then some (smFld w 5 0) else none) s := by
  simp [smJump, hif]

theorem smJump_s_nonzero (hif : smFld w 15 13 = 4) :
    smJump b m w s = smDone b m (if (smOf s b m).s = 0 then none else some (smFld w 5 0)) s := by
  by_cases hzero : (smOf s b m).s = 0 <;> simp [smJump, hif, hzero]

theorem smJump_pin_high (hif : smFld w 15 13 = 5) :
    smJump b m w s = smDone b m (if pinLevel s (smFld w 12 6) = true then some (smFld w 5 0) else none) s := by
  simp [smJump, hif]

theorem smJump_pin_low (hif : smFld w 15 13 = 6) :
    smJump b m w s = smDone b m (if pinLevel s (smFld w 12 6) = true then none else some (smFld w 5 0)) s := by
  cases hlevel : pinLevel s (smFld w 12 6) <;> simp [smJump, hif, hlevel]

theorem smJump_sent (hif : smFld w 15 13 = 7) :
    smJump b m w s = smDone b m (if (smOf s b m).tRem = 0 then some (smFld w 5 0) else none) s := by
  simp [smJump, hif]

/-! ### AWAIT (Table 10.2, R280) -/

section await
variable {flags : BitVec 8}

theorem smAwait_pin (hof : smFld w 14 13 = 0) :
    smAwait b m w flags s =
      (if pinLevel s (smFld w 12 6) = w.getLsbD 15 then smDone b m none s else smStall b m 3 s, none) := by
  simp only [smAwait, hof]
  split <;> rfl

/-- An edge counts once the machine has begun to wait for it. -/
theorem smAwait_edge (hof : smFld w 14 13 = 1) (hbegan : (smOf s b m).began = true) (hedge : (smOf s b m).edge = true) :
    smAwait b m w flags s = (smDone b m none s, none) := by
  simp [smAwait, hof, hbegan, hedge]

/-- A flag with the level completes the instruction, and a set one is cleared. -/
theorem smAwait_flag (hof : smFld w 14 13 = 2) (hlevel : flags.getLsbD (smFld w 12 6 % 8) = w.getLsbD 15) :
    smAwait b m w flags s = (smDone b m none s, if w.getLsbD 15 then some (smFld w 12 6 % 8) else none) := by
  simp only [smAwait, hof, if_pos hlevel]

theorem smAwait_flag_stalls (hof : smFld w 14 13 = 2) (hlevel : flags.getLsbD (smFld w 12 6 % 8) ≠ w.getLsbD 15) :
    smAwait b m w flags s = (smStall b m 3 s, none) := by
  simp only [smAwait, hof, if_neg hlevel]

end await

/-! ### SHIN and SHOUT (R270) -/

/-- Without delivery a step of SHIN from a pin moves one bit into RW. -/
theorem smShin_pin (hsource : smFld w 15 13 = 0) (hretry : (smOf s b m).stall ≠ 2) (hdeliver : bit (rd s .SM_FRAME m b) 14 = false) :
    smShin b m w s =
      let k := smOf s b m
      let r := shiftIn k.rw k.rFill (rxFrame s b m) (bit (rd s .SM_FRAME m b) 13) (pinLevel s (smFld w 12 6))
      let u := setSm b m { k with rw := r.1, rFill := r.2, step := k.step + 1 } s
      if smFld w 5 0 ≤ k.step then smDone b m none u else setSm b m { smOf u b m with stall := 0 } u := by
  simp only [smShin, if_neg hretry]
  simp [hsource, hdeliver]

/-- While bits of the frame are left a step of SHOUT moves one bit of TW to the pin. -/
theorem smShout_pin (hdest : smFld w 15 13 = 0) (hleft : (smOf s b m).tRem ≠ 0) :
    smShout b m w s =
      let k := smOf s b m
      let v : W32 := if k.tw.getLsbD (if bit (rd s .SM_FRAME m b) 5 then txFrame s b m - k.tRem else k.tRem - 1) then 1 else 0
      let u := putPins b false [smFld w 12 6] v (setSm b m { k with tRem := k.tRem - 1, step := k.step + 1, stall := 0 } s)
      if smFld w 5 0 + 1 ≤ (smOf u b m).step then smDone b m none u else u := by
  simp [smShout, hdest, hleft]

/-! ### TAKE and GIVE (Table 10.1, R278) -/

theorem smTake_word {v : W32} {r : List W32} (hword : (smOf s b m).txf = v :: r) :
    smTake b m w s = smDone b m none (setSm b m { smOf s b m with tw := v, txf := r, tRem := txFrame s b m } s) := by
  simp [smTake, loadTw, hword]

theorem smTake_stalls (hempty : (smOf s b m).txf = []) (hblock : w.getLsbD 15 = true) : smTake b m w s = smStall b m 1 s := by
  simp [smTake, hempty, hblock]

theorem smTake_errs (hempty : (smOf s b m).txf = []) (hgo : w.getLsbD 15 = false) :
    smTake b m w s =
      smDone b m none (fifoErr b m 1 (setSm b m { smOf s b m with tw := (smOf s b m).s, tRem := txFrame s b m } s)) := by
  simp only [smTake, hempty, hgo, List.isEmpty_nil, Bool.not_true, Bool.false_eq_true, if_false]

theorem smGive_word (hroom : rxFull s b m = false) :
    smGive b m w s =
      smDone b m none (setSm b m { smOf s b m with rxf := (smOf s b m).rxf ++ [(smOf s b m).rw], rw := 0, rFill := 0 } s) := by
  simp [smGive, pushRw, hroom]

theorem smGive_stalls (hfull : rxFull s b m = true) (hblock : w.getLsbD 15 = true) : smGive b m w s = smStall b m 2 s := by
  simp [smGive, hfull, hblock]

theorem smGive_errs (hfull : rxFull s b m = true) (hgo : w.getLsbD 15 = false) :
    smGive b m w s = smDone b m none (fifoErr b m 0 (setSm b m { smOf s b m with rw := 0, rFill := 0 } s)) := by
  simp only [smGive, hfull, hgo, Bool.not_true, Bool.false_eq_true, if_false]

/-! ### COPY and DRIVE (Table 10.1) -/

section copy
variable {flags : BitVec 8} (hsource : smFld w 11 8 = 1)
include hsource

theorem smCopy_pins (hdest : smFld w 15 12 = 0) :
    smCopy b m w flags s = smDone b m none (putPins b false (lanes s b m) (copyOp (smFld w 7 6) (smOf s b m).s) s) := by
  simp only [smCopy, hsource, hdest]

theorem smCopy_s (hdest : smFld w 15 12 = 1) :
    smCopy b m w flags s = smDone b m none (setSm b m { smOf s b m with s := copyOp (smFld w 7 6) (smOf s b m).s } s) := by
  simp only [smCopy, hsource, hdest]

theorem smCopy_c0 (hdest : smFld w 15 12 = 2) :
    smCopy b m w flags s =
      smDone b m none (setSm b m { smOf s b m with c0 := (copyOp (smFld w 7 6) (smOf s b m).s).setWidth 16 } s) := by
  simp only [smCopy, hsource, hdest]

theorem smCopy_rw (hdest : smFld w 15 12 = 4) :
    smCopy b m w flags s =
      smDone b m none (setSm b m { smOf s b m with rw := copyOp (smFld w 7 6) (smOf s b m).s, rFill := 0 } s) := by
  simp only [smCopy, hsource, hdest]

theorem smCopy_tw (hdest : smFld w 15 12 = 5) :
    smCopy b m w flags s =
      smDone b m none (setSm b m { smOf s b m with tw := copyOp (smFld w 7 6) (smOf s b m).s, tRem := txFrame s b m } s) := by
  simp only [smCopy, hsource, hdest]

theorem smCopy_pc (hdest : smFld w 15 12 = 7) :
    smCopy b m w flags s = smDone b m (some ((copyOp (smFld w 7 6) (smOf s b m).s).toNat % 64)) s := by
  simp only [smCopy, hsource, hdest]

end copy

theorem smDrive_pins (hdest : smFld w 15 13 = 0) :
    smDrive b m w s = smDone b m none (putPins b false (lanes s b m) (BitVec.ofNat 32 (smFld w 11 0)) s) := by
  simp only [smDrive, hdest]

theorem smDrive_dirs (hdest : smFld w 15 13 = 1) :
    smDrive b m w s = smDone b m none (putPins b true (lanes s b m) (BitVec.ofNat 32 (smFld w 11 0)) s) := by
  simp only [smDrive, hdest]

theorem smDrive_c0 (hdest : smFld w 15 13 = 2) :
    smDrive b m w s =
      smDone b m none (setSm b m { smOf s b m with c0 := (BitVec.ofNat 32 (smFld w 11 0)).setWidth 16 } s) := by
  simp only [smDrive, hdest]

theorem smDrive_c1 (hdest : smFld w 15 13 = 3) :
    smDrive b m w s =
      smDone b m none (setSm b m { smOf s b m with c1 := (BitVec.ofNat 32 (smFld w 11 0)).setWidth 16 } s) := by
  simp only [smDrive, hdest]

theorem smDrive_s (hdest : smFld w 15 13 = 4) :
    smDrive b m w s = smDone b m none (setSm b m { smOf s b m with s := BitVec.ofNat 32 (smFld w 11 0) } s) := by
  simp only [smDrive, hdest]

/-! ### SIGNAL (R280) -/

section signal
variable {flags : BitVec 8}

theorem smSignal_sets (hop : smFld w 15 14 = 0) :
    smSignal b m w flags s =
      (smDone b m none (raiseIf (w.getLsbD 13 && !(smOf s b m).began) (224 + b) s), some (smFld w 2 0), none) := by
  simp only [smSignal, hop]

theorem smSignal_clears (hop : smFld w 15 14 = 1) :
    smSignal b m w flags s =
      (smDone b m none (raiseIf (w.getLsbD 13 && !(smOf s b m).began) (224 + b) s), none, some (smFld w 2 0)) := by
  simp only [smSignal, hop]

end signal
end instructions

/-- Settles O41: the row of the latched opcode makes the machine cycle, by one law for each case of each instruction. The next PC
is taken at completion (log 32). -/
theorem pioInstructions : Obligations.PioInstructions := by
  refine ⟨?completes, ?_⟩
  case completes =>
    intro s b m target k ring u
    refine ⟨smDone_frame s b m target, smOf_smDone_latch .., smOf_smDone_step .., smOf_smDone_stall .., smOf_smDone_hold .., ?_, ?_, ?_⟩
    · rintro a rfl
      exact smOf_smDone_pc_taken s b m a
    · rintro rfl
      exact smOf_smDone_pc_wraps s b m
    · rintro rfl
      exact smOf_smDone_pc_next s b m
  intro s b m hrun hruns k done wait
  refine ⟨exec_pioFetch_free hrun hruns, fun w hlatch =>
    ⟨?jump, ?await, ?shin, ?shout, ?take, ?give, ?copy, ?drive, ?signal, exec_pioNoOperation hrun hruns hlatch⟩⟩
  case jump =>
    intro hop x t
    rw [exec_pioJump hrun hruns hlatch hop]
    refine ⟨fun hif => by rw [smJump_always hif], fun hif hcount => by rw [smJump_c0 hif, if_neg hcount],
      fun hif hcount => by rw [smJump_c0 hif, if_pos hcount], fun hif hcount => by rw [smJump_c1 hif, if_neg hcount],
      fun hif hcount => by rw [smJump_c1 hif, if_pos hcount], fun hif => by rw [smJump_s_zero hif],
      fun hif => by rw [smJump_s_nonzero hif], fun hif => by rw [smJump_pin_high hif], fun hif => by rw [smJump_pin_low hif],
      fun hif => by rw [smJump_sent hif]⟩
  case await =>
    intro hop pol idx
    rw [exec_pioAwait hrun hruns hlatch hop]
    refine ⟨fun hof => ?pin, fun hof hbegan hedge => by rw [smAwait_edge hof hbegan hedge]; rfl, ?flag⟩
    case pin =>
      rw [smAwait_pin hof]
      exact ⟨fun hlevel => by rw [if_pos hlevel]; rfl, fun hlevel => by rw [if_neg hlevel]; rfl⟩
    case flag =>
      intro hof f
      refine ⟨fun hlevel hset => ?_, fun hlevel hset => ?_, fun hlevel => by rw [smAwait_flag_stalls hof hlevel]; rfl⟩
      · rw [smAwait_flag hof hlevel, if_pos hset]; rfl
      · rw [smAwait_flag hof hlevel, if_neg (Bool.eq_false_iff.mp hset)]; rfl
  case shin =>
    intro hop hsource hretry hdeliver r u
    rw [exec_pioShin hrun hruns hlatch hop, smShin_pin hsource hretry hdeliver]
    exact ⟨fun hlast => by rw [if_pos hlast], fun hmore => by rw [if_neg (Nat.not_le.mpr hmore)]⟩
  case shout =>
    intro hop hdest hleft v u
    rw [exec_pioShout hrun hruns hlatch hop, smShout_pin hdest hleft]
    exact ⟨fun hlast => by rw [if_pos hlast], fun hmore => by rw [if_neg (Nat.not_le.mpr hmore)]⟩
  case take =>
    intro hop
    rw [exec_pioTake hrun hruns hlatch hop]
    exact ⟨fun v r hword => by rw [smTake_word hword], fun hempty hblock => by rw [smTake_stalls hempty hblock],
      fun hempty hgo => by rw [smTake_errs hempty hgo]⟩
  case give =>
    intro hop
    rw [exec_pioGive hrun hruns hlatch hop]
    exact ⟨fun hroom => by rw [smGive_word hroom], fun hfull hblock => by rw [smGive_stalls hfull hblock],
      fun hfull hgo => by rw [smGive_errs hfull hgo]⟩
  case copy =>
    intro hop hsource v
    rw [exec_pioCopy hrun hruns hlatch hop]
    exact ⟨fun hdest => by rw [smCopy_pins hsource hdest], fun hdest => by rw [smCopy_s hsource hdest],
      fun hdest => by rw [smCopy_c0 hsource hdest], fun hdest => by rw [smCopy_rw hsource hdest],
      fun hdest => by rw [smCopy_tw hsource hdest], fun hdest => by rw [smCopy_pc hsource hdest]⟩
  case drive =>
    intro hop v
    rw [exec_pioDrive hrun hruns hlatch hop]
    exact ⟨fun hdest => by rw [smDrive_pins hdest], fun hdest => by rw [smDrive_dirs hdest],
      fun hdest => by rw [smDrive_c0 hdest], fun hdest => by rw [smDrive_c1 hdest], fun hdest => by rw [smDrive_s hdest]⟩
  case signal =>
    intro hop u
    rw [exec_pioSignal hrun hruns hlatch hop]
    exact ⟨fun hset => by rw [smSignal_sets hset]; rfl, fun hclear => by rw [smSignal_clears hclear]; rfl⟩

/-! ### Control of the machines (R275, R276) -/

section controlArms
variable (s : State) (i : Fin 64) (v : W32)

theorem exec_pioHalt_eq : exec (.pioHalt i v) s = execPioHalt i v s := rfl
theorem exec_pioRestart_eq : exec (.pioRestart i v) s = execPioRestart i v s := rfl
theorem exec_pioPhaseRestart_eq : exec (.pioPhaseRestart i v) s = execPioPhaseRestart i v s := rfl
theorem exec_pioStart_eq : exec (.pioStart i v) s = execPioStart i v s := rfl
theorem exec_pioGstartLoWrite_eq : exec (.pioGstartLoWrite i v) s = execPioGstartLoWrite i v s := rfl
theorem exec_pioGstart_eq : exec (.pioGstart i v) s = execPioGstart i v s := rfl

end controlArms

section accessArms
variable (s : State) (via : Via) (m : Fin 4) (v : W32) (blocking : Bool)

theorem exec_pioTxFifoWrite_eq : exec (.pioTxFifoWrite via m v blocking) s = execPioTxFifoWrite via m v blocking s := rfl
theorem exec_pioRxFifoRead_eq : exec (.pioRxFifoRead via m blocking) s = execPioRxFifoRead via m blocking s := rfl
theorem exec_pioFlagWrite_eq (set clear : BitVec 8) : exec (.pioFlagWrite via set clear) s = execPioFlagWrite via set clear s := rfl
theorem exec_imemWrite_eq (a : Fin 64) : exec (.imemWrite via a v) s = execImemWrite via a v s := rfl
theorem exec_smFrameWrite_eq : exec (.smFrameWrite via m v) s = execSmFrameWrite via m v s := rfl
theorem exec_fioPinEdge_eq (n : Fin 128) (level : Bool) : exec (.fioPinEdge n level) s = execFioPinEdge n level s := rfl

end accessArms

section control
variable {s : State} {i : Fin 64} {v : W32}

/-- A write of PIO_CTRL that names what its row does acts as the register. -/
theorem pioCtrlRow_of_writes (hwrites : writes i .PIO_CTRL s) {lo : Nat} (hnames : fld v (lo + 3) lo ≠ 0) :
    pioCtrlRow lo i v s = .next (pioCtrlWrite (chanOf .PIO_CTRL i s) v s) := by
  rw [pioCtrlRow, if_pos hnames, withWrite_of_writes hwrites]

/-- A single bit of PIO_CTRL halts, restarts, clears the phase of or starts its one machine. -/
theorem pioCtrlWrite_oneBit (b : Nat) (m : Fin 4) (s : State) :
    pioCtrlWrite b (oneBit m) s = smRun b m false s ∧ pioCtrlWrite b (oneBit (4 + m)) s = smRestart b m s ∧
      pioCtrlWrite b (oneBit (8 + m)) s = smPhase b m s ∧ pioCtrlWrite b (oneBit (12 + m)) s = smRun b m true s := by
  fin_cases m <;> exact ⟨rfl, rfl, rfl, rfl⟩

/-- R276: of both bits for one machine the halt acts first. -/
theorem pioCtrlWrite_halt_start (b : Nat) (m : Fin 4) (s : State) :
    pioCtrlWrite b (oneBit m ||| oneBit (12 + m)) s = smRun b m true (smRun b m false s) := by
  fin_cases m <;> rfl

/-- R275: what a restart leaves in its machine. -/
theorem smOf_smRestart (s : State) (b m : Nat) :
    smOf (smRestart b m s) b m =
      { smOf s b m with
        running := false, stall := 0, latch := none, step := 0, hold := 0, tw := 0, tRem := 0, rw := 0, rFill := 0, txf := [],
        rxf := [], evt := 0, began := false, edge := false, pc := BitVec.ofNat 6 (fld (rd s .SM_RING m b) 21 16) } :=
  smOf_setSm_same ..

theorem exec_pioGstartLoWrite (hwrites : writes i .PIO_GSTART_LO s) :
    exec (.pioGstartLoWrite i v) s = .next (gstartLoWrite v s) := by
  rw [exec_pioGstartLoWrite_eq, execPioGstartLoWrite, withWrite_of_writes hwrites]

theorem exec_pioGstart (hwrites : writes i .PIO_GSTART_HI s) : exec (.pioGstart i v) s = .next (gstartWrite v s) := by
  rw [exec_pioGstart_eq, execPioGstart, withWrite_of_writes hwrites]

end control

/-! ### FIFOs (R277, R278) -/

section fifos
variable {s : State} {b m : Nat} {v : W32}

theorem txfEnter_full (hfull : txFull s b m = true) : txfEnter b m v s = fifoErr b m 3 s := if_pos hfull

theorem txfEnter_room (hroom : txFull s b m = false) :
    txfEnter b m v s = setSm b m { smOf s b m with txf := (smOf s b m).txf ++ [v] } s :=
  if_neg (Bool.eq_false_iff.mp hroom)

theorem rxfRead_empty (hempty : (smOf s b m).rxf = []) : rxfRead b m s = (0, fifoErr b m 2 s) := by
  simp only [rxfRead, hempty]

theorem rxfRead_word {r : List W32} (hword : (smOf s b m).rxf = v :: r) :
    rxfRead b m s = (v, setSm b m { smOf s b m with rxf := r } s) := by
  simp only [rxfRead, hword]

end fifos

/-- Of two entries listed under falling keys, a walk over the keys below `n` meets the lower key first. -/
theorem flatMap_filter_swapped {α : Type} {i j : Nat} (hlt : i < j) (x y : α) (n : Nat) :
    (List.range n).flatMap (fun k => [(j, x), (i, y)].filter (·.1 = k)) =
      (if i < n then [(i, y)] else []) ++ (if j < n then [(j, x)] else []) := by
  induction n with
  | zero => rfl
  | succ n ih =>
    rw [List.range_succ, List.flatMap_append, ih, List.flatMap_singleton]
    simp only [List.filter_cons, List.filter_nil, decide_eq_true_eq]
    grind

/-- R277: of two words of one cycle the lower identity's enters first. -/
theorem txfSettle_two {s : State} {i j k l : Nat} {w x : W32} (hlt : i < j) (hj : j < 64)
    (htwo : s.pio.txIn = [(j, k, w), (i, l, x)]) :
    txfSettle s = txfEnter (k / 4) (k % 4) w (txfEnter (l / 4) (l % 4) x { s with pio := { s.pio with txIn := [] } }) := by
  simp only [txfSettle, htwo, flatMap_filter_swapped hlt, if_pos hj, if_pos (hlt.trans hj), List.cons_append, List.nil_append,
    List.foldl_cons, List.foldl_nil]

/-! ### Accesses by register and by port (R273, R277, R279, R280, R282) -/

section access
variable {s : State} {i : Fin 64} {t : Fin 97} {m : Fin 4} {v : W32} {w : Bool}

theorem thBlock_engine (hengine : t.val < 96) : thBlock t = some (t.val / 8) := if_pos hengine

theorem exec_pioTxFifoWrite_reg (hwrites : writes i .SM_TXF s) :
    exec (.pioTxFifoWrite (.reg i) m v w) s = .next (txfWrite i (chanOf .SM_TXF i s) m v s) := by
  simp only [exec_pioTxFifoWrite_eq, execPioTxFifoWrite, withWrite_of_writes hwrites]

theorem exec_pioRxFifoRead_reg (hreads : reads i .SM_RXF s) :
    exec (.pioRxFifoRead (.reg i) m w) s =
      .next (reply i (rxfRead (chanOf .SM_RXF i s) m s).1 (rxfRead (chanOf .SM_RXF i s) m s).2) := by
  simp only [exec_pioRxFifoRead_eq, execPioRxFifoRead, withRead_of_reads hreads]

/-- Setting flags writes PIO_FLAG_SET alone. -/
theorem exec_pioFlagWrite_reg (hwrites : writes i .PIO_FLAG_SET s) {set : BitVec 8} (hset : set ≠ 0) :
    exec (.pioFlagWrite (.reg i) set 0) s = .next (flagWrite (chanOf .PIO_FLAG_SET i s) set 0 s) := by
  simp only [exec_pioFlagWrite_eq, execPioFlagWrite, withWrite_of_writes hwrites, if_neg hset, if_true]

theorem exec_imemWrite_reg (hwrites : writes i .PIO_IMEM s) (a : Fin 64) :
    exec (.imemWrite (.reg i) a v) s = .next (pioImemWrite (chanOf .PIO_IMEM i s) a v s) := by
  simp only [exec_imemWrite_eq, execImemWrite, withWrite_of_writes hwrites]

theorem exec_smFrameWrite_reg (hwrites : writes i .SM_FRAME s) :
    exec (.smFrameWrite (.reg i) m v) s = .next (smFrameWrite (chanOf .SM_FRAME i s) m v s) := by
  simp only [exec_smFrameWrite_eq, execSmFrameWrite, withWrite_of_writes hwrites]

section port
variable (hengine : t.val < 96)
include hengine

/-- A blocking write of a full FIFO waits. -/
theorem exec_pioTxFifoWrite_waits (hblocking : w = true) (hfull : txfBusy s (t.val / 8) m = true) :
    exec (.pioTxFifoWrite (.port t) m v w) s = .next s := by
  simp [exec_pioTxFifoWrite_eq, execPioTxFifoWrite, thBlock_engine hengine, hblocking, hfull]

/-- A blocking read of an empty FIFO waits. -/
theorem exec_pioRxFifoRead_waits (hblocking : w = true) (hempty : (smOf s (t.val / 8) m).rxf = []) :
    exec (.pioRxFifoRead (.port t) m w) s = .next s := by
  simp [exec_pioRxFifoRead_eq, execPioRxFifoRead, thBlock_engine hengine, hblocking, hempty]

variable (hrun : running s = true)
include hrun

theorem exec_pioTxFifoWrite_port (hserved : w = false ∨ txfBusy s (t.val / 8) m = false) :
    exec (.pioTxFifoWrite (.port t) m v w) s = .next (txfWrite (thMaster t) (t.val / 8) m v s) := by
  have hnow : (w && txfBusy s (t.val / 8) m) = false := Bool.and_eq_false_iff.mpr hserved
  simp [exec_pioTxFifoWrite_eq, execPioTxFifoWrite, thBlock_engine hengine, hrun, hnow]

theorem exec_pioRxFifoRead_port (hserved : w = false ∨ (smOf s (t.val / 8) m).rxf ≠ []) :
    exec (.pioRxFifoRead (.port t) m w) s =
      .next (reply (thMaster t) (rxfRead (t.val / 8) m s).1 (rxfRead (t.val / 8) m s).2) := by
  have hnow : (w && (smOf s (t.val / 8) m).rxf.isEmpty) = false :=
    Bool.and_eq_false_iff.mpr (hserved.imp_right List.isEmpty_eq_false_iff.mpr)
  simp [exec_pioRxFifoRead_eq, execPioRxFifoRead, thBlock_engine hengine, hrun, hnow]

theorem exec_pioFlagWrite_port (set clear : BitVec 8) :
    exec (.pioFlagWrite (.port t) set clear) s = .next (flagWrite (t.val / 8) set clear s) := by
  simp [exec_pioFlagWrite_eq, execPioFlagWrite, thBlock_engine hengine, hrun]

theorem exec_imemWrite_port (a : Fin 64) : exec (.imemWrite (.port t) a v) s = .next (pioImemWrite (t.val / 8) a v s) := by
  simp [exec_imemWrite_eq, execImemWrite, thBlock_engine hengine, hrun]

theorem exec_smFrameWrite_port : exec (.smFrameWrite (.port t) m v) s = .next (smFrameWrite (t.val / 8) m v s) := by
  simp [exec_smFrameWrite_eq, execSmFrameWrite, thBlock_engine hengine, hrun]

end port
end access

/-! ### Frame settings (R279) -/

/-- R279: the depth of the transmit FIFO that a write of `v` names, at most 8. -/
def namedTx (v : W32) : Nat := min 8 (fld v 19 16)

/-- R279: the depth of the receive FIFO that a write of `v` names, at most what the transmit FIFO leaves. -/
def namedRx (v : W32) : Nat := min (fld v 23 20) (8 - namedTx v)

section frame
variable (b m : Nat) (v : W32) (s : State)

/-- R279: the write names other depths than the machine has. -/
def depthsChange : Bool :=
  namedTx v ≠ fld (rd s .SM_FRAME m b) 19 16 || namedRx v ≠ fld (rd s .SM_FRAME m b) 23 20

theorem depthsChange_eq_false_iff :
    depthsChange b m v s = false ↔
      namedTx v = fld (rd s .SM_FRAME m b) 19 16 ∧ namedRx v = fld (rd s .SM_FRAME m b) 23 20 := by
  simp [depthsChange]

/-- The depths of a running machine stay; a stopped one's FIFOs empty when they change. -/
theorem smFrameWrite_eq :
    smFrameWrite b m v s =
      let put := plainWrite .SM_FRAME m b
        (if depthsChange b m v s && (smOf s b m).running then
          putFld (putFld v 19 16 (fld (rd s .SM_FRAME m b) 19 16)) 23 20 (fld (rd s .SM_FRAME m b) 23 20)
        else putFld (putFld v 19 16 (namedTx v)) 23 20 (namedRx v)) s
      if depthsChange b m v s && !(smOf s b m).running then
        txInDrop b m (setSm b m { smOf s b m with txf := [], rxf := [] } put)
      else put := rfl

variable {b m v s}

theorem smFrameWrite_same (hsame : depthsChange b m v s = false) :
    smFrameWrite b m v s = plainWrite .SM_FRAME m b (putFld (putFld v 19 16 (namedTx v)) 23 20 (namedRx v)) s := by
  simp [smFrameWrite_eq, hsame]

theorem smFrameWrite_stopped (hchange : depthsChange b m v s = true) (hhalted : (smOf s b m).running = false) :
    smFrameWrite b m v s = txInDrop b m (setSm b m { smOf s b m with txf := [], rxf := [] }
      (plainWrite .SM_FRAME m b (putFld (putFld v 19 16 (namedTx v)) 23 20 (namedRx v)) s)) := by
  simp [smFrameWrite_eq, hchange, hhalted]

theorem smFrameWrite_running (hchange : depthsChange b m v s = true) (hruns : (smOf s b m).running = true) :
    smFrameWrite b m v s = plainWrite .SM_FRAME m b
      (putFld (putFld v 19 16 (fld (rd s .SM_FRAME m b) 19 16)) 23 20 (fld (rd s .SM_FRAME m b) 23 20)) s := by
  simp [smFrameWrite_eq, hchange, hruns]

end frame

/-! ### Pins (R265, R438 to R440) -/

/-- Noting an edge changes the machines alone. -/
theorem noteEdge_frame (before s : State) (k : Nat) :
    ∃ sms : NMap Sm, noteEdge before s k = { s with pio := { s.pio with sms := sms } } := by
  simp only [noteEdge]
  split
  · exact ⟨s.pio.sms, rfl⟩
  · split
    · exact ⟨_, rfl⟩
    · exact ⟨s.pio.sms, rfl⟩

/-- Beside its own effect a change of levels changes the machines alone. -/
theorem withPins_frame (f : State → State) (s : State) :
    ∃ sms : NMap Sm, withPins f s = { f s with pio := { (f s).pio with sms := sms } } := by
  refine List.foldlRecOn (motive := fun t => ∃ sms : NMap Sm, t = { f s with pio := { (f s).pio with sms := sms } }) _ _
    ⟨(f s).pio.sms, rfl⟩ ?_
  rintro _ ⟨sms, rfl⟩ k -
  exact noteEdge_frame _ _ k

theorem getLsbD_bvPut {w : Nat} (v : BitVec w) {n : Nat} (hn : n < w) (x : Bool) (k : Nat) :
    (bvPut v n x).getLsbD k = if k = n then x else v.getLsbD k := by
  by_cases hk : k < w
  · have hone : (BitVec.ofNat w (2 ^ n)).getLsbD k = decide (n = k) := by
      rw [BitVec.getLsbD_ofNat, Nat.testBit_two_pow, decide_eq_true hk, Bool.true_and]
    have hput : (bvPut v n x).getLsbD k = bif x then v.getLsbD k || decide (n = k) else v.getLsbD k && !decide (n = k) := by
      cases x <;> simp only [bvPut, if_true, if_false, Bool.false_eq_true, BitVec.getLsbD_and, BitVec.getLsbD_or,
        BitVec.getLsbD_not, hone, hk, decide_true, Bool.true_and, cond_true, cond_false]
    rw [hput]
    cases x <;> grind
  · have hne : k ≠ n := by omega
    simp [hne, BitVec.getLsbD_of_ge _ _ (Nat.le_of_not_lt hk)]

/-- An edge at a pin sets its external level, and beside it changes the machines alone. -/
theorem exec_fioPinEdge (s : State) (n : Fin 128) (level : Bool) :
    ∃ sms : NMap Sm, exec (.fioPinEdge n level) s =
      .next { s with pio := { s.pio with pinIn := bvPut s.pio.pinIn n level, sms := sms } } := by
  obtain ⟨sms, hframe⟩ := withPins_frame (fun s => { s with pio := { s.pio with pinIn := bvPut s.pio.pinIn n level } }) s
  exact ⟨sms, congrArg Host.Outcome.next hframe⟩

section levels
variable {s : State} {n : Nat}

/-- sync_byp: the pad at once. -/
theorem pinLevel_bypassed (hbyp : bit (rd s .PAD_FIO n 0) 9 = true) :
    pinLevel s n = ((pinDriven s n).getD (s.pio.pinIn.getLsbD n) != bit (rd s .PAD_FIO n 0) 7) := by
  simp only [pinLevel, if_pos hbyp, padLevel]

/-- Without sync_byp what left the synchroniser. -/
theorem pinLevel_synchronised (hsync : bit (rd s .PAD_FIO n 0) 9 = false) :
    pinLevel s n = (s.pio.pinSeen.getLsbD n != bit (rd s .PAD_FIO n 0) 7) := by
  simp only [pinLevel, hsync, Bool.false_eq_true, if_false]

/-- A pin that belongs to no block has its external level. -/
theorem padLevel_of_no_block (hnone : 12 ≤ fld (rd s .PAD_FIO n 0) 3 0) : padLevel s n = s.pio.pinIn.getLsbD n := by
  simp [padLevel, pinDriven, Nat.not_lt.mpr hnone]

theorem flagsSeen_one {b : Nat} (hone : s.pio.blocks = [(b, blkOf s b)]) :
    (blkOf (flagsSeen s) b).seen = (blkOf s b).flags := by
  simp only [flagsSeen, hone, List.foldl_cons, List.foldl_nil, blkOf_setBlk_same]

end levels

section drive
variable {s : State} {p : OutPin}

theorem pinDrive_off (hoff : s.pwr.st = .off) : pinDrive s p = none := by
  simp [pinDrive, hoff]

theorem pinDrive_midwinter (hwinter : s.pwr.st = .midwinter) (hbank : p.inBankF = false) : pinDrive s p = none := by
  simp [pinDrive, hwinter, hbank]

/-- IRQ_N lies in bank IO_F: it stands in every power state but OFF. -/
theorem pinDrive_irqN (hpower : s.pwr.st ≠ .off) : pinDrive s .irqN = if irqLow s then some false else none := by
  simp [pinDrive, hpower, OutPin.inBankF, pinOwn]

theorem irqLow_iff (s : State) :
    irqLow s = true ↔ ∃ k, k < 320 ∧ bit (rd s .EVT_ROUTE k 0) 5 = true ∧ bit (rd s .EVT_PEND (k / 32) 0) (k % 32) = true := by
  simp [irqLow]

end drive

/-- Settles O42: one law for each case of the control, the accesses, the frame settings and the pins. A word that waits for the
cycle's end and a depth above 8 taken as 8 are log 32, the levels of the output pins log 50. -/
theorem pioControl : Obligations.PioControl := by
  refine ⟨?control, ?restart, ?globalStart, ?fifos, ?accesses, ?frames, ?edge, ?levels, ?drive⟩
  case control =>
    intro s i v hwrites b
    refine ⟨pioCtrlRow_of_writes hwrites, pioCtrlRow_of_writes hwrites, pioCtrlRow_of_writes hwrites, pioCtrlRow_of_writes hwrites,
      fun m => ?_⟩
    obtain ⟨hhalt, hrestart, hphase, hstart⟩ := pioCtrlWrite_oneBit b m s
    exact ⟨hhalt, hrestart, hphase, hstart, pioCtrlWrite_halt_start b m s⟩
  case restart =>
    intro s b m
    simp only [smOf_smRestart, and_self]
  case globalStart =>
    exact fun s i v => ⟨exec_pioGstartLoWrite, exec_pioGstart⟩
  case fifos =>
    exact fun s b m v => ⟨txfEnter_full, txfEnter_room, fun i j k l w x => txfSettle_two, rxfRead_empty, fun x r => rxfRead_word⟩
  case accesses =>
    intro s i t m v w a set clear hrun b
    have hroom {b : Nat} : (smOf s b m).txf.length + (s.pio.txIn.filter (·.2.1 = 4 * b + m)).length < txDepth s b m ↔
        txfBusy s b m = false := by simp [txfBusy]
    refine ⟨exec_pioTxFifoWrite_reg, ⟨fun hengine hserved => ?sent, fun hengine hblocking hfull => ?waits⟩, exec_pioRxFifoRead_reg,
      fun hengine => exec_pioRxFifoRead_port hengine hrun, fun hengine => exec_pioRxFifoRead_waits hengine,
      fun hengine => exec_pioFlagWrite_port hengine hrun set clear, fun hwrites => exec_pioFlagWrite_reg hwrites,
      fun hwrites => exec_imemWrite_reg hwrites a, fun hengine => exec_imemWrite_port hengine hrun a, exec_smFrameWrite_reg,
      fun hengine => exec_smFrameWrite_port hengine hrun⟩
    case sent => exact exec_pioTxFifoWrite_port hengine hrun (hserved.imp_right hroom.mp)
    case waits => exact exec_pioTxFifoWrite_waits hengine hblocking (Bool.eq_true_of_not_eq_false (mt hroom.mpr hfull))
  case frames =>
    intro s b m v old tx rx same put
    have hkept : depthsChange b m v s = false ↔ same := depthsChange_eq_false_iff b m v s
    have hchange : ¬ same → depthsChange b m v s = true := fun hother => Bool.eq_true_of_not_eq_false (mt hkept.mp hother)
    exact ⟨fun hsame _ => smFrameWrite_same (hkept.mpr hsame), fun hother => smFrameWrite_stopped (hchange hother),
      fun hother => smFrameWrite_running (hchange hother)⟩
  case edge =>
    intro s n level
    obtain ⟨sms, hexec⟩ := exec_fioPinEdge s n level
    refine ⟨_, hexec, ?_, fun k hk => ?_, rfl⟩
    · rw [getLsbD_bvPut _ n.isLt, if_pos rfl]
    · rw [getLsbD_bvPut _ n.isLt, if_neg hk]
  case levels =>
    exact fun s n => ⟨pinLevel_bypassed, pinLevel_synchronised, rfl, fun _ => padLevel_of_no_block, fun b => flagsSeen_one⟩
  case drive =>
    refine fun s p => ⟨pinDrive_off, pinDrive_midwinter, fun hpower => ?_⟩
    rw [pinDrive_irqN hpower, ← irqLow_iff]
    refine ⟨fun hlow => if_pos hlow, fun hquiet => if_neg fun hlow => ?_⟩
    obtain ⟨k, hk, hmsix, hpending⟩ := (irqLow_iff s).mp hlow
    exact absurd hpending (Bool.eq_false_iff.mp (hquiet k hk hmsix))

end Sys2Proof.Machine

/-! The threads of a protocol engine (O44): their budgets, the registers that reach their memories and state, their memory operations,
waits and timers, and the CRC unit; one law for each case of each meaning. -/

namespace Sys2Proof.Machine

section arms
variable (s : State)

theorem exec_budgetPeriodStart_eq : exec .budgetPeriodStart s = execBudgetPeriodStart s := rfl
theorem exec_engTBudgetWrite_eq (m : Fin 64) (v : W32) : exec (.engTBudgetWrite m v) s = execEngTBudgetWrite m v s := rfl
theorem exec_engImemDataWrite_eq (m : Fin 64) (v : W32) : exec (.engImemDataWrite m v) s = execEngImemDataWrite m v s := rfl
theorem exec_engLmemDataAccess_eq (m : Fin 64) (w : Option W32) :
    exec (.engLmemDataAccess m w) s = execEngLmemDataAccess m w s := rfl
theorem exec_engTGdataWrite_eq (m : Fin 64) (pc : Bool) (v : W32) :
    exec (.engTGdataWrite m pc v) s = execEngTGdataWrite m pc v s := rfl
theorem exec_memoryOpComplete_eq (t : Fin 97) (k : Nat) : exec (.memoryOpComplete t k) s = execMemoryOpComplete t k s := rfl
theorem exec_waittDone_eq (t : Fin 97) : exec (.waittDone t) s = execWaittDone t s := rfl
theorem exec_waiteDone_eq (t : Fin 97) : exec (.waiteDone t) s = execWaiteDone t s := rfl
theorem exec_waitqDone_eq (t : Fin 97) : exec (.waitqDone t) s = execWaitqDone t s := rfl
theorem exec_waitTimeout_eq (t : Fin 97) : exec (.waitTimeout t) s = execWaitTimeout t s := rfl
theorem exec_timeoutArm_eq (t : Fin 97) (v : W32) : exec (.timeoutArm t v) s = execTimeoutArm t v s := rfl
theorem exec_timeoutDisarm_eq (t : Fin 97) : exec (.timeoutDisarm t) s = execTimeoutDisarm t s := rfl
theorem exec_crcInit_eq (t : Fin 97) (v : W32) : exec (.crcInit t v) s = execCrcInit t v s := rfl
theorem exec_crcFeed_eq (t : Fin 97) (port : Fin 3) (v : W32) : exec (.crcFeed t port v) s = execCrcFeed t port v s := rfl
theorem exec_localTimerStart_eq (t : Fin 96) (v : W32) : exec (.localTimerStart t v) s = execLocalTimerStart t v s := rfl
theorem exec_localTimerExpiry_eq (t : Fin 96) : exec (.localTimerExpiry t) s = execLocalTimerExpiry t s := rfl

end arms

/-! ### Budgets (R286) -/

section budgets
variable {s : State}

theorem exec_budgetPeriodStart_due (hrun : running s = true) (hdue : budgetDue s = true) :
    exec .budgetPeriodStart s = .next (budgetPeriod s) := by
  rw [exec_budgetPeriodStart_eq, execBudgetPeriodStart, if_pos (by rw [hrun, hdue]; rfl)]

theorem exec_engTBudgetWrite {m : Fin 64} (hwrites : writes m .ENG_T_BUDGET s) (v : W32) :
    exec (.engTBudgetWrite m v) s = .next (budgetWrite (tSel s m) v s) := by
  rw [exec_engTBudgetWrite_eq, execEngTBudgetWrite, withWrite_of_writes hwrites]

variable {t : Nat} {v : W32}

/-- A budget of 0, which is no budget, or one that the count has not passed. -/
theorem budgetWrite_within (hwithin : fld v 19 0 = 0 ∨ (thOf s t).used ≤ fld v 19 0) :
    budgetWrite t v s = setTh t { thOf s t with overQuota := false } (plainWrite .ENG_T_BUDGET 0 t v s) := by
  have hpast : (decide (fld v 19 0 ≠ 0) && decide (fld v 19 0 < (thOf s t).used)) = false := by
    simpa [Classical.or_iff_not_imp_left] using hwithin
  simp only [budgetWrite, hpast, Bool.false_eq_true, if_false]

theorem budgetWrite_past (hsome : fld v 19 0 ≠ 0) (hpast : fld v 19 0 < (thOf s t).used) :
    budgetWrite t v s = engCause (t / 4) (8 + t % 4)
      (setTh t { thOf s t with overQuota := true } (plainWrite .ENG_T_BUDGET 0 t v s)) := by
  simp [budgetWrite, hsome, hpast]

end budgets

/-! ### Memories and thread state through registers (R288, R308, R309) -/

section registers
variable {s : State} {m : Fin 64} {v : W32}

theorem exec_engImemDataWrite (hwrites : writes m .ENG_IMEM_DATA s) :
    exec (.engImemDataWrite m v) s = .next (imemDataWrite m v s) := by
  rw [exec_engImemDataWrite_eq, execEngImemDataWrite, withWrite_of_writes hwrites]

theorem exec_engLmemDataAccess_write (hwrites : writes m .ENG_LMEM_DATA s) :
    exec (.engLmemDataAccess m (some v)) s = .next (lmemDataWrite m v s) := by
  rw [exec_engLmemDataAccess_eq, execEngLmemDataAccess, withWrite_of_writes hwrites]

theorem exec_engLmemDataAccess_read (hreads : reads m .ENG_LMEM_DATA s) :
    exec (.engLmemDataAccess m none) s = .next (replyOf m (lmemDataRead m s)) := by
  rw [exec_engLmemDataAccess_eq, execEngLmemDataAccess, withRead_of_reads hreads, replyOf]

theorem exec_engTGdataWrite {pc : Bool} (hwrites : writes m (if pc then .ENG_T_PC else .ENG_T_GDATA) s) :
    exec (.engTGdataWrite m pc v) s = .next (gDataWrite m pc v s) := by
  rw [exec_engTGdataWrite_eq, execEngTGdataWrite, withWrite_of_writes hwrites]

/-- Where an access of ENG_IMEM_DATA goes: the word of the instruction memories that the master's address names (R288). -/
def imemAt (s : State) (m : Nat) : Nat :=
  chanOf .ENG_IMEM_DATA m s * 0x10000 + (rd s .ENG_IMEM_ADDR 0 (partOf .ENG_IMEM_ADDR m s)).toNat

theorem imemDataWrite_same (hbusy : engBusy s (chanOf .ENG_IMEM_DATA m s) = true) (hsame : memWord s.stores.engI (imemAt s m) = v) :
    imemDataWrite m v s = s := by
  rw [imemDataWrite, if_pos hbusy]
  exact if_pos hsame

theorem imemDataWrite_changing (hbusy : engBusy s (chanOf .ENG_IMEM_DATA m s) = true)
    (hchange : memWord s.stores.engI (imemAt s m) ≠ v) :
    imemDataWrite m v s = setB .ENG_STAT 0 (chanOf .ENG_IMEM_DATA m s) 0x10000 s := by
  rw [imemDataWrite, if_pos hbusy]
  exact if_neg hchange

theorem imemDataWrite_off (hoff : engBusy s (chanOf .ENG_IMEM_DATA m s) = false) :
    imemDataWrite m v s = engAddrNext .ENG_IMEM_ADDR m
      (engIWrite (chanOf .ENG_IMEM_DATA m s) (rd s .ENG_IMEM_ADDR 0 (partOf .ENG_IMEM_ADDR m s)).toNat [v] s) := by
  rw [imemDataWrite, if_neg (Bool.eq_false_iff.mp hoff)]

theorem gDataWrite_off (hoff : fbState (thOf s (tSel s m)).fb = 0) (pc : Bool) :
    gDataWrite m pc v s = setTh (tSel s m)
      (if pc then { thOf s (tSel s m) with pc := pcMask (tSel s m) v } else gDataSet (gSel s m) v (thOf s (tSel s m))) s := by
  rw [gDataWrite, if_neg (not_not.mpr hoff)]

/-- A write of ENG_T_GDATA while the thread is not OFF: without effect, or an error where it would change the register. -/
theorem gDataWrite_on (hon : fbState (thOf s (tSel s m)).fb ≠ 0) :
    gDataWrite m false v s =
      if gDataSet (gSel s m) v (thOf s (tSel s m)) = thOf s (tSel s m) then s else setB .ENG_STAT 0 (tSel s m / 4) 0x20000 s := by
  simp [gDataWrite, hon]

end registers

/-! ### Memory operations (R287, R291, R294) -/

section operations
variable {s : State} {t : Nat} {o : MemOp} {rest : List MemOp}

theorem exec_memoryOpComplete_running (hrun : running s = true) (t : Fin 97) (k : Nat) :
    exec (.memoryOpComplete t k) s = .next (opRun t k s) := by
  rw [exec_memoryOpComplete_eq, execMemoryOpComplete, opServed, hrun, Bool.true_or, if_pos rfl]

/-- Only an operation on a bank waits for a thaw. -/
theorem opThaws_of_local (hlocal : dataSpace t o.addr = some 0) : opThaws t o s = none := by
  simp [opThaws, hlocal]

/-- The oldest operation of a thread waits for no other one. -/
theorem opFree_oldest (o : MemOp) (rest : List MemOp) : opFree (o :: rest) 0 = true := rfl

theorem opRun_local (hops : (thOf s t).ops = o :: rest) (hlocal : dataSpace t o.addr = some 0) :
    opRun t 0 s = opLocal t o (setTh t { thOf s t with ops := rest } s) := by
  simp [opRun, hops, opFree_oldest, opThaws_of_local hlocal, hlocal]

theorem opRun_shared (hops : (thOf s t).ops = o :: rest) (hawake : opThaws t o s = none) (hbank : dataSpace t o.addr = some 1) :
    opRun t 0 s = opShared t o (setTh t { thOf s t with ops := rest } s) := by
  simp [opRun, hops, opFree_oldest, hawake, hbank]

theorem opLocal_load (hengine : t < 96) (hload : o.kind = .load) :
    opLocal t o s = opReturn t o (loadValue o (memReadN s.stores.engL (t / 4 * 0x20000 + o.addr.toNat) o.width))
      (eccCorrect t false o.addr.toNat o.width s) := by
  simp [opLocal, hload, hengine.ne]

/-- A store of less than a word corrects the word that it meets, and writes its bytes. -/
theorem opLocal_narrowStore (hengine : t < 96) (hstore : o.kind = .store) (hpush : o.isPop = false) (hnarrow : o.width < 4) :
    opLocal t o s =
      let c := eccCorrect t false o.addr.toNat o.width s
      { c with stores := { c.stores with
          engL := memWriteN s.stores.engL (t / 4 * 0x20000 + o.addr.toNat) (leBytes o.width o.data.toNat) } } := by
  simp [opLocal, opReturn, storeBytes, hstore, hpush, hnarrow, hengine.ne]

theorem opShared_store (hstore : o.kind = .store) :
    opShared t o s =
      let x := shWrite (.thread t) (o.addr.toNat - 0x40000000) (leBytes o.width o.data.toNat) s
      if x.1 = memOk ∨ x.1 = memLost then x.2 else opFault t o x.1 x.2 := by
  simp [opShared, storeBytes, hstore]

end operations

/-! ### Waits and their timeouts (R297 to R300) -/

section waits
variable {s : State} {t : Fin 97}

theorem exec_timeoutArm_running (hrun : running s = true) (v : W32) :
    exec (.timeoutArm t v) s = .next (setTh t { thOf s t with timeout := some v } s) := by
  rw [exec_timeoutArm_eq, execTimeoutArm, if_pos hrun, timeoutArm]

theorem exec_timeoutDisarm_running (hrun : running s = true) :
    exec (.timeoutDisarm t) s = .next (setTh t { thOf s t with timeout := none } s) := by
  rw [exec_timeoutDisarm_eq, execTimeoutDisarm, if_pos hrun, timeoutDisarm]

variable (hrun : running s = true)
include hrun

theorem exec_waittDone_reached {v : W32} (hwait : (thOf s t).wait = .waitt v) (hreached : atOrAfter (s.time.now.setWidth 32) v = true) :
    exec (.waittDone t) s = .next (waitDone t false s) := by
  simp [exec_waittDone_eq, execWaittDone, hwait, hrun, hreached]

theorem exec_waiteDone_taken {mask : W64} {rd : Nat} {u : State} (hwait : (thOf s t).wait = .waite mask rd)
    (htaken : waiteTry t mask rd s = some u) : exec (.waiteDone t) s = .next (waitDone t true u) := by
  simp [exec_waiteDone_eq, execWaiteDone, hwait, hrun, htaken]

theorem exec_waitqDone_taken {rd : Nat} {u : State} (hwait : (thOf s t).wait = .waitq rd) (htaken : waitqTry t rd s = some u) :
    exec (.waitqDone t) s = .next (waitDone t true u) := by
  simp [exec_waitqDone_eq, execWaitqDone, hwait, hrun, htaken]

variable (hdue : timeoutDue s t = true)
include hdue

theorem exec_waitTimeout_waite {mask : W64} {rd : Nat} (hwait : (thOf s t).wait = .waite mask rd)
    (hnone : waiteTry t mask rd s = none) :
    exec (.waitTimeout t) s = .next (waitDone t true (waitWrite t rd 0 (t.val = 96) s)) := by
  simp [exec_waitTimeout_eq, execWaitTimeout, hrun, hdue, hwait, hnone]

theorem exec_waitTimeout_waitq {rd : Nat} (hwait : (thOf s t).wait = .waitq rd) (hnone : waitqTry t rd s = none) :
    exec (.waitTimeout t) s = .next (waitDone t true (waitWrite t rd 0 false s)) := by
  simp [exec_waitTimeout_eq, execWaitTimeout, hrun, hdue, hwait, hnone]

end waits

/-! ### The CRC unit (R303) and the local timer (R296) -/

section units
variable {s : State} (hrun : running s = true)
include hrun

theorem exec_crcInit_running (t : Fin 97) (v : W32) : exec (.crcInit t v) s = .next (setTh t { thOf s t with crcReg := v } s) := by
  rw [exec_crcInit_eq, execCrcInit, if_pos hrun, crcInit]

theorem exec_crcFeed_byte (t : Fin 97) (v : W32) :
    exec (.crcFeed t 0 v) s = .next (setTh t (crcRun (thOf s t) (crcBits (thOf s t) (BitVec.ofNat 8 v.toNat))) s) := by
  rw [exec_crcFeed_eq, execCrcFeed, if_pos hrun]
  rfl

theorem exec_crcFeed_word (t : Fin 97) (v : W32) :
    exec (.crcFeed t 1 v) s = .next (setTh t (crcRun (thOf s t) ((leBytes 4 v.toNat).flatMap (crcBits (thOf s t)))) s) := by
  rw [exec_crcFeed_eq, execCrcFeed, if_pos hrun]
  rfl

/-- Port 0x607 takes its bits from bit 31 down. -/
theorem exec_crcFeed_bits (t : Fin 97) {v : W32} (hsome : fld v 4 0 ≠ 0) (hmax : fld v 4 0 ≤ 24) :
    exec (.crcFeed t 2 v) s =
      .next (setTh t (crcRun (thOf s t) ((List.range (fld v 4 0)).map fun k => bit v (31 - k))) s) := by
  rw [exec_crcFeed_eq, execCrcFeed, if_pos hrun]
  simp [crcFeed, hsome, hmax]

theorem exec_localTimerStart_running (t : Fin 96) (v : W32) :
    exec (.localTimerStart t v) s = .next (setTh t { thOf s t with tmrNext := some v } s) := by
  rw [exec_localTimerStart_eq, execLocalTimerStart, if_pos hrun, timerStart]

theorem exec_localTimerExpiry_due {t : Fin 96} (hdue : timerDue s t = true) :
    exec (.localTimerExpiry t) s = .next (setTh t { thOf s t with
      tmrCount := min 255 ((thOf s t).tmrCount + 1),
      tmrNext := if (thOf s t).tmrPeriod = 0 then none else (thOf s t).tmrNext.map (· + (thOf s t).tmrPeriod) } s) := by
  rw [exec_localTimerExpiry_eq, execLocalTimerExpiry, if_pos (by rw [hrun, hdue]; rfl)]

end units

/-- Settles O44: one law for each case of budgets, of the registers that reach memories and thread state, of memory operations,
waits, timers and the CRC unit. That an address register moves on only after an access that takes effect is log 46, that a debug write
of TSR sets every field but the fault code log 34, and that an operation acts when it completes log 36. -/
theorem engineThreads : Obligations.EngineThreads := by
  refine ⟨fun s => exec_budgetPeriodStart_due, ?registers, ?operations, ?waits, ?timers⟩
  case registers =>
    intro s m v
    refine ⟨fun hwrites => ?budget, fun hwrites => ?imem, ⟨exec_engLmemDataAccess_write, exec_engLmemDataAccess_read⟩,
      fun hwrites hoff => ?gdata, fun hwrites hoff => ?pc, fun hwrites hon => ?gdataOn⟩
    case budget =>
      rw [exec_engTBudgetWrite hwrites]
      exact ⟨fun hwithin => by rw [budgetWrite_within hwithin], fun hsome hpast => by rw [budgetWrite_past hsome hpast]⟩
    case imem =>
      rw [exec_engImemDataWrite hwrites]
      exact ⟨fun hbusy hchange => by rw [imemDataWrite_changing hbusy hchange],
        fun hbusy hsame => by rw [imemDataWrite_same hbusy hsame], fun hoff => by rw [imemDataWrite_off hoff]⟩
    case gdata => exact (exec_engTGdataWrite hwrites).trans (congrArg Host.Outcome.next (gDataWrite_off hoff false))
    case pc => exact (exec_engTGdataWrite hwrites).trans (congrArg Host.Outcome.next (gDataWrite_off hoff true))
    case gdataOn =>
      rw [exec_engTGdataWrite hwrites, gDataWrite_on hon]
      exact ⟨fun hchange => congrArg Host.Outcome.next (if_neg hchange), fun hsame => congrArg Host.Outcome.next (if_pos hsame)⟩
  case operations =>
    intro s t o rest hrun hops u base
    rw [exec_memoryOpComplete_running hrun]
    refine ⟨fun hengine hlocal => ?_, fun hbank hawake hstore => ?_⟩
    · rw [opRun_local hops hlocal]
      refine ⟨fun hload => by rw [opLocal_load hengine hload], fun hstore hpush hnarrow => ?_⟩
      rw [opLocal_narrowStore hengine hstore hpush hnarrow]
    · rw [opRun_shared hops hawake hbank, opShared_store hstore]
      exact ⟨fun hdone => congrArg Host.Outcome.next (if_pos hdone),
        fun hok hlost => congrArg Host.Outcome.next (if_neg (not_or.mpr ⟨hok, hlost⟩))⟩
  case waits =>
    exact fun s t hrun => ⟨fun v => exec_waittDone_reached hrun, fun mask rd u => exec_waiteDone_taken hrun,
      fun rd u => exec_waitqDone_taken hrun, fun mask rd hwait hdue => exec_waitTimeout_waite hrun hdue hwait,
      fun rd hwait hdue => exec_waitTimeout_waitq hrun hdue hwait, fun v => ⟨exec_timeoutArm_running hrun v,
        exec_timeoutDisarm_running hrun, exec_crcInit_running hrun t v, exec_crcFeed_byte hrun t v, exec_crcFeed_word hrun t v,
        exec_crcFeed_bits hrun t⟩⟩
  case timers => exact fun s t v hrun => ⟨exec_localTimerStart_running hrun t v, exec_localTimerExpiry_due hrun⟩

end Sys2Proof.Machine

/-! Instruction words (O50): the fields of a word that a format spells, a word as its fields, and the agreement of the decoder with the
words of Tables 12.3 to 12.13. -/

namespace Sys2Proof.Machine

/-! ### The fields of a spelled word (Table 12.3) -/

theorem val_rF (w : W32) (lo : Nat) : (rF w lo).val = w.toNat / 2 ^ lo % 32 := by
  simp [rF, fld, show lo + 4 + 1 - lo = 5 by omega]

theorem bit_eq_decide (w : W32) (n : Nat) : bit w n = decide (w.toNat / 2 ^ n % 2 = 1) := by
  simp [bit, BitVec.getLsbD, Nat.testBit_eq_decide_div_mod_eq]

section wordR
variable {op rd ra rb fn : Nat} (hop : op < 64) (hrd : rd < 32) (hra : ra < 32) (hlow : rb * 2048 + fn < 65536)
include hop hrd hra hlow

theorem toNat_wordR : (wordR op rd ra rb fn).toNat = op * 67108864 + rd * 2097152 + ra * 65536 + (rb * 2048 + fn) := by
  simp only [wordR, BitVec.toNat_ofNat, Nat.reducePow]
  omega

theorem op_wordR : fld (wordR op rd ra rb fn) 31 26 = op := by
  simp only [fld, toNat_wordR hop hrd hra hlow, Nat.reducePow, Nat.reduceAdd, Nat.reduceSub]
  omega

theorem odd_wordR : fld (wordR op rd ra rb fn) 26 26 = op % 2 := by
  simp only [fld, toNat_wordR hop hrd hra hlow, Nat.reducePow, Nat.reduceAdd, Nat.reduceSub]
  omega

theorem rd_wordR : rF (wordR op rd ra rb fn) 21 = Fin.ofNat 32 rd := by
  refine Fin.ext ?_
  simp only [val_rF, toNat_wordR hop hrd hra hlow, Fin.val_ofNat, Nat.reducePow]
  omega

theorem ra_wordR : rF (wordR op rd ra rb fn) 16 = Fin.ofNat 32 ra := by
  refine Fin.ext ?_
  simp only [val_rF, toNat_wordR hop hrd hra hlow, Fin.val_ofNat, Nat.reducePow]
  omega

/-- The low half word of a control word (group 1A) above its six bits of function. -/
theorem code_wordR : fld (wordR op rd ra rb fn) 15 6 = (rb * 2048 + fn) / 64 := by
  simp only [fld, toNat_wordR hop hrd hra hlow, Nat.reducePow, Nat.reduceAdd, Nat.reduceSub]
  omega

theorem sub_wordR : fld (wordR op rd ra rb fn) 5 0 = fn % 64 := by
  simp only [fld, toNat_wordR hop hrd hra hlow, Nat.reducePow, Nat.reduceAdd, Nat.reduceSub]
  omega

theorem length_wordR : rF (wordR op rd ra rb fn) 6 = Fin.ofNat 32 (fn / 64) := by
  refine Fin.ext ?_
  simp only [val_rF, toNat_wordR hop hrd hra hlow, Fin.val_ofNat, Nat.reducePow]
  omega

theorem pair_wordR : bit (wordR op rd ra rb fn) 6 = decide (fn / 64 % 2 = 1) := by
  rw [bit_eq_decide, toNat_wordR hop hrd hra hlow, decide_eq_decide]
  omega

variable (hfn : fn < 2048)
include hfn

theorem rb_wordR : rF (wordR op rd ra rb fn) 11 = Fin.ofNat 32 rb := by
  refine Fin.ext ?_
  simp only [val_rF, toNat_wordR hop hrd hra hlow, Fin.val_ofNat, Nat.reducePow]
  omega

theorem fn_wordR : fld (wordR op rd ra rb fn) 10 0 = fn := by
  simp only [fld, toNat_wordR hop hrd hra hlow, Nat.reducePow, Nat.reduceAdd, Nat.reduceSub]
  omega

theorem unused_wordR : fld (wordR op rd ra rb fn) 10 7 = fn / 128 := by
  simp only [fld, toNat_wordR hop hrd hra hlow, Nat.reducePow, Nat.reduceAdd, Nat.reduceSub]
  omega

end wordR

section wordI
variable {op rd ra : Nat} (hop : op < 64) (hrd : rd < 32) (hra : ra < 32) (imm : BitVec 16)
include hop hrd hra

theorem toNat_wordI : (wordI op rd ra imm).toNat = op * 67108864 + rd * 2097152 + ra * 65536 + imm.toNat := by
  simp only [wordI, BitVec.toNat_ofNat, Nat.reducePow]
  omega

theorem op_wordI : fld (wordI op rd ra imm) 31 26 = op := by
  simp only [fld, toNat_wordI hop hrd hra, Nat.reducePow, Nat.reduceAdd, Nat.reduceSub]
  omega

theorem rd_wordI : rF (wordI op rd ra imm) 21 = Fin.ofNat 32 rd := by
  refine Fin.ext ?_
  simp only [val_rF, toNat_wordI hop hrd hra, Fin.val_ofNat, Nat.reducePow]
  omega

theorem ra_wordI : rF (wordI op rd ra imm) 16 = Fin.ofNat 32 ra := by
  refine Fin.ext ?_
  simp only [val_rF, toNat_wordI hop hrd hra, Fin.val_ofNat, Nat.reducePow]
  omega

theorem imm_wordI : immF (wordI op rd ra imm) = imm := by
  refine BitVec.eq_of_toNat_eq ?_
  simp only [immF, BitVec.toNat_setWidth, toNat_wordI hop hrd hra, Nat.reducePow]
  omega

/-- The count of LOOPI stands in both register fields. -/
theorem count_wordI : fld (wordI op rd ra imm) 25 16 = rd * 32 + ra := by
  simp only [fld, toNat_wordI hop hrd hra, Nat.reducePow, Nat.reduceAdd, Nat.reduceSub]
  omega

end wordI

section wordJ
variable {op : Nat} (hop : op < 64) (off : BitVec 26)
include hop

theorem toNat_wordJ : (wordJ op off).toNat = op * 67108864 + off.toNat := by
  simp only [wordJ, BitVec.toNat_ofNat, Nat.reducePow]
  omega

theorem op_wordJ : fld (wordJ op off) 31 26 = op := by
  simp only [fld, toNat_wordJ hop, Nat.reducePow, Nat.reduceAdd, Nat.reduceSub]
  omega

theorem off_wordJ : (wordJ op off).setWidth 26 = off := by
  refine BitVec.eq_of_toNat_eq ?_
  simp only [BitVec.toNat_setWidth, toNat_wordJ hop, Nat.reducePow]
  omega

end wordJ

/-! ### A word as its fields -/

section fields
variable {w : W32} {op rd ra rb fn : Nat}

theorem eq_wordR (hop : fld w 31 26 = op) (hrd : (rF w 21).val = rd) (hra : (rF w 16).val = ra) (hrb : (rF w 11).val = rb)
    (hfn : fld w 10 0 = fn) : w = wordR op rd ra rb fn := by
  have hfits := w.isLt
  subst hop hrd hra hrb hfn
  refine BitVec.eq_of_toNat_eq ?_
  simp only [wordR, val_rF, fld, BitVec.toNat_ofNat, Nat.reducePow, Nat.reduceAdd, Nat.reduceSub]
  omega

theorem eq_wordI (hop : fld w 31 26 = op) (hrd : (rF w 21).val = rd) (hra : (rF w 16).val = ra) : w = wordI op rd ra (immF w) := by
  have hfits := w.isLt
  subst hop hrd hra
  refine BitVec.eq_of_toNat_eq ?_
  simp only [wordI, immF, val_rF, fld, BitVec.toNat_ofNat, BitVec.toNat_setWidth, Nat.reducePow, Nat.reduceAdd, Nat.reduceSub]
  omega

theorem eq_wordJ (hop : fld w 31 26 = op) : w = wordJ op (w.setWidth 26) := by
  have hfits := w.isLt
  subst hop
  refine BitVec.eq_of_toNat_eq ?_
  simp only [wordJ, fld, BitVec.toNat_ofNat, BitVec.toNat_setWidth, Nat.reducePow, Nat.reduceAdd, Nat.reduceSub]
  omega

theorem fld_lt (w : W32) (hi lo : Nat) : fld w hi lo < 2 ^ (hi + 1 - lo) := Nat.mod_lt _ (Nat.two_pow_pos _)

theorem fn_eq_length_sub (w : W32) : fld w 10 0 = (rF w 6).val * 64 + fld w 5 0 := by
  simp only [val_rF, fld, Nat.reducePow, Nat.reduceAdd, Nat.reduceSub]
  omega

theorem fn_eq_pair_sub (hunused : fld w 10 7 = 0) : fld w 10 0 = ofBool (bit w 6) * 64 + fld w 5 0 := by
  rw [bit_eq_decide, ofBool]
  simp only [fld, decide_eq_true_eq, Nat.reducePow, Nat.reduceAdd, Nat.reduceSub] at *
  split <;> omega

/-- A control word with its register fields. -/
theorem eq_wordR_code (hop : fld w 31 26 = op) (hrd : (rF w 21).val = rd) (hra : (rF w 16).val = ra)
    (hsub : fld w 15 6 * 64 + fld w 5 0 = fn) : w = wordR op rd ra 0 fn := by
  have hfits := w.isLt
  subst hop hrd hra hsub
  refine BitVec.eq_of_toNat_eq ?_
  simp only [wordR, val_rF, fld, BitVec.toNat_ofNat, Nat.reducePow, Nat.reduceAdd, Nat.reduceSub]
  omega

/-- The low bit of the operation tells group 01 from group 02. -/
theorem fld_odd (w : W32) : fld w 26 26 = fld w 31 26 % 2 := by
  simp only [fld, Nat.reducePow, Nat.reduceAdd, Nat.reduceSub]
  omega

theorem eq_wordI_count (hop : fld w 31 26 = op) {count : BitVec 10} (hcount : BitVec.ofNat 10 (fld w 25 16) = count) :
    w = wordI op (count.toNat / 32) (count.toNat % 32) (immF w) := by
  subst hcount
  refine eq_wordI hop ?_ ?_ <;>
  · simp only [val_rF, fld, BitVec.toNat_ofNat, Nat.reducePow, Nat.reduceAdd, Nat.reduceSub]
    omega

end fields

/-! ### A spelled word decodes to its instruction -/

theorem mul64_add_div (n k : Nat) (hk : k < 64) : (n * 64 + k) / 64 = n := by omega

section spelled
variable (t : Fin 97)

theorem ezDecode_loop (ra : Fin 32) {len : BitVec 16} (hlen : len ≠ 0) :
    ezDecode t (wordI 0x1C ra 0 len) = some (exec (.loop t ra len)) := by
  simp (disch := omega) only [ezDecode, op_wordI]
  simp (disch := omega) only [rd_wordI, ra_wordI, imm_wordI, Fin.ofNat_val_eq_self]
  exact if_pos (by simpa using hlen)

theorem ezDecode_loopi (count : BitVec 10) {len : BitVec 16} (hlen : len ≠ 0) :
    ezDecode t (wordI 0x1D (count.toNat / 32) (count.toNat % 32) len) = some (exec (.loopi t count len)) := by
  simp (disch := omega) only [ezDecode, op_wordI]
  simp (disch := omega) only [imm_wordI, count_wordI, Nat.div_add_mod', BitVec.ofNat_toNat, BitVec.setWidth_eq]
  exact if_pos hlen

theorem ezDecode_sys (code : BitVec 10) : ezDecode t (wordR 0x1A 0 0 0 (code.toNat * 64 + 0x20)) = some (exec (.sys t code)) := by
  simp (disch := omega) only [ezDecode, op_wordR]
  simp (disch := omega) [decControl, rd_wordR, ra_wordR, sub_wordR, code_wordR, mul64_add_div]
  rfl

theorem ezDecode_atomic (rd ra rb : Fin 32) (w : Bool) :
    ezDecode t (wordR 0x2C rd ra rb (ofBool w * 64)) = some (exec (.aadd t rd ra rb w)) ∧
      ezDecode t (wordR 0x2C rd ra rb (ofBool w * 64 + 1)) = some (exec (.aswp t rd ra rb w)) := by
  cases w <;> constructor <;>
  · simp (disch := omega) only [ezDecode, ofBool, op_wordR, if_true, Bool.false_eq_true, if_false, Nat.reduceMul, Nat.reduceAdd]
    simp (disch := omega) [decAtomic, rd_wordR, ra_wordR, rb_wordR, sub_wordR, unused_wordR, pair_wordR]
    rfl

theorem ezDecode_of_ezWord (i : Instr) (t : Fin 97) (w : W32) (h : ezWord i = some (t, w)) : ezDecode t w = some (exec i) := by
  unfold ezWord at h
  split at h
  case h_75 => contradiction
  case h_59 t ra len =>
    obtain ⟨hlen, h⟩ := Option.ite_none_left_eq_some.mp h
    obtain ⟨rfl, rfl⟩ := Prod.mk.inj (Option.some.inj h)
    exact ezDecode_loop t ra hlen
  case h_60 t count len =>
    obtain ⟨hlen, h⟩ := Option.ite_none_left_eq_some.mp h
    obtain ⟨rfl, rfl⟩ := Prod.mk.inj (Option.some.inj h)
    exact ezDecode_loopi t count hlen
  all_goals obtain ⟨rfl, rfl⟩ := Prod.mk.inj (Option.some.inj h)
  case h_72 t code => exact ezDecode_sys t code
  case h_73 t rd ra rb w => exact (ezDecode_atomic t rd ra rb w).1
  case h_74 t rd ra rb w => exact (ezDecode_atomic t rd ra rb w).2
  all_goals
    simp (disch := omega) only [ezDecode, op_wordR, op_wordI, op_wordJ]
    simp (disch := omega) only [decAlu, decMulShift, decBits, decControl, odd_wordR, rd_wordR, ra_wordR, rb_wordR, fn_wordR,
      code_wordR, sub_wordR, length_wordR, rd_wordI, ra_wordI, imm_wordI, off_wordJ, Fin.ofNat_val_eq_self, Nat.mul_add_mod',
      mul64_add_div, Nat.reduceMod, Nat.reduceDiv, Nat.reduceMul, Nat.reduceAdd]
    rfl

end spelled

/-! ### A word that decodes is spelled -/

/-- Word `w` is the word of an instruction whose meaning is `f`. -/
def Spells (t : Fin 97) (w : W32) (f : State → Res) : Prop := ∃ i, ezWord i = some (t, w) ∧ f = exec i

section spells
variable {t : Fin 97} {w : W32} {f : State → Res}

/-- A word equal to that of an instruction spells it. -/
theorem spells_of {v : W32} (i : Instr) (hi : ezWord i = some (t, v)) (hw : w = v) (hf : some (exec i) = some f) : Spells t w f :=
  ⟨i, hw ▸ hi, (Option.some.inj hf).symm⟩

/-- A word that is that of an instruction where a check of its unused fields passes. -/
theorem spells_of_checked {v : W32} {p : Prop} [Decidable p] (i : Instr) (hi : ezWord i = some (t, v)) (hw : p → w = v)
    (hf : (if p then some (exec i) else none) = some f) : Spells t w f := by
  obtain ⟨hp, hf⟩ := Option.ite_none_right_eq_some.mp hf
  exact spells_of i hi (hw hp) hf

theorem spells_decAlu (hop : fld w 31 26 = 0) (h : decAlu t w = some f) : Spells t w f := by
  have three {fn : Nat} (hfn : fld w 10 0 = fn) : w = wordR 0 (rF w 21) (rF w 16) (rF w 11) fn := eq_wordR hop rfl rfl rfl hfn
  have two {fn : Nat} (hfn : fld w 10 0 = fn) (hrb : rF w 11 = 0) : w = wordR 0 (rF w 21) (rF w 16) 0 fn :=
    eq_wordR hop rfl rfl (congrArg Fin.val hrb) hfn
  unfold decAlu at h
  split at h
  case h_1 hfn => exact spells_of (.add t ..) rfl (three hfn) h
  case h_2 hfn => exact spells_of (.sub t ..) rfl (three hfn) h
  case h_3 hfn => exact spells_of (.andd t ..) rfl (three hfn) h
  case h_4 hfn => exact spells_of (.orr t ..) rfl (three hfn) h
  case h_5 hfn => exact spells_of (.xor t ..) rfl (three hfn) h
  case h_6 hfn => exact spells_of (.ezMin t ..) rfl (three hfn) h
  case h_7 hfn => exact spells_of (.ezMax t ..) rfl (three hfn) h
  case h_8 hfn => exact spells_of (.tdif t ..) rfl (three hfn) h
  case h_9 hfn => exact spells_of_checked (.neg t ..) rfl (two hfn) h
  case h_10 hfn => exact spells_of_checked (.abs t ..) rfl (two hfn) h
  case h_11 hfn => exact spells_of_checked (.clz t ..) rfl (two hfn) h
  case h_12 hfn => exact spells_of_checked (.popc t ..) rfl (two hfn) h
  case h_13 hfn => exact spells_of (.sll t ..) rfl (three hfn) h
  case h_14 hfn => exact spells_of (.srl t ..) rfl (three hfn) h
  case h_15 hfn => exact spells_of (.sra t ..) rfl (three hfn) h
  case h_16 hfn => exact spells_of (.ror t ..) rfl (three hfn) h
  case h_17 => contradiction

theorem spells_decMulShift (hop : fld w 31 26 = 1 ∨ fld w 31 26 = 2) (h : decMulShift t w = some f) : Spells t w f := by
  have hodd := fld_odd w
  have mul {fn : Nat} (hone : fld w 26 26 = 1) (hfn : fld w 10 0 = fn) : w = wordR 1 (rF w 21) (rF w 16) (rF w 11) fn :=
    eq_wordR (by omega) rfl rfl rfl hfn
  have shift {fn : Nat} (hzero : fld w 26 26 = 0) (hfn : fld w 10 0 = fn) : w = wordR 2 (rF w 21) (rF w 16) (rF w 11) fn :=
    eq_wordR (by omega) rfl rfl rfl hfn
  unfold decMulShift at h
  split at h
  case h_1 hone hfn => exact spells_of (.mul t ..) rfl (mul hone hfn) h
  case h_2 hone hfn => exact spells_of (.mulhs t ..) rfl (mul hone hfn) h
  case h_3 hone hfn => exact spells_of (.mulhu t ..) rfl (mul hone hfn) h
  case h_4 hone hfn => exact spells_of (.divs t ..) rfl (mul hone hfn) h
  case h_5 hone hfn => exact spells_of (.divu t ..) rfl (mul hone hfn) h
  case h_6 hone hfn => exact spells_of (.rems t ..) rfl (mul hone hfn) h
  case h_7 hone hfn => exact spells_of (.remu t ..) rfl (mul hone hfn) h
  case h_8 hzero hfn => exact spells_of (.slli t ..) rfl (shift hzero hfn) h
  case h_9 hzero hfn => exact spells_of (.srli t ..) rfl (shift hzero hfn) h
  case h_10 hzero hfn => exact spells_of (.srai t ..) rfl (shift hzero hfn) h
  case h_11 hzero hfn => exact spells_of (.rori t ..) rfl (shift hzero hfn) h
  case h_12 => contradiction

theorem spells_decBits (hop : fld w 31 26 = 3) (h : decBits t w = some f) : Spells t w f := by
  have field {k : Nat} (hsub : fld w 5 0 = k) : w = wordR 3 (rF w 21) (rF w 16) (rF w 11) ((rF w 6).val * 64 + k) :=
    eq_wordR hop rfl rfl rfl (by rw [fn_eq_length_sub, hsub])
  unfold decBits at h
  split at h
  case h_1 hsub => exact spells_of (.bfx t ..) rfl (field hsub) h
  case h_2 hsub => exact spells_of (.bfxs t ..) rfl (field hsub) h
  case h_3 hsub => exact spells_of (.bfi t ..) rfl (field hsub) h
  case h_4 => contradiction

/-- A control word whose unused fields are 0: `d` and `a` say which of its register fields its assembler form names. -/
theorem eq_wordR_control (hop : fld w 31 26 = 0x1A) {fn : Nat} (hsub : fld w 5 0 = fn) {d a : Bool}
    (hchk : ((d || decide (rF w 21 = 0)) && (a || decide (rF w 16 = 0)) && decide (fld w 15 6 = 0)) = true) :
    w = wordR 0x1A (if d then rF w 21 else 0) (if a then rF w 16 else 0) 0 fn := by
  simp only [Bool.and_eq_true, Bool.or_eq_true, decide_eq_true_eq] at hchk
  obtain ⟨⟨hd, ha⟩, hcode⟩ := hchk
  refine eq_wordR_code hop ?_ ?_ (by rw [hcode, hsub, Nat.zero_mul, Nat.zero_add])
  · cases d <;> simp_all
  · cases a <;> simp_all

theorem spells_decControl (hop : fld w 31 26 = 0x1A) (h : decControl t w = some f) : Spells t w f := by
  have word {fn : Nat} (hsub : fld w 5 0 = fn) (d a : Bool) := @eq_wordR_control w hop fn hsub d a
  unfold decControl at h
  split at h
  case h_1 hsub => exact spells_of_checked (.ezNop t) rfl (word hsub false false) h
  case h_2 hsub => exact spells_of_checked (.yield t) rfl (word hsub false false) h
  case h_3 hsub => exact spells_of_checked (.halt t) rfl (word hsub false false) h
  case h_4 hsub => exact spells_of_checked (.jr t _) rfl (word hsub false true) h
  case h_5 hsub => exact spells_of_checked (.callr t _) rfl (word hsub false true) h
  case h_6 hsub => exact spells_of_checked (.ret t) rfl (word hsub false false) h
  case h_7 hsub => exact spells_of_checked (.leave t) rfl (word hsub false false) h
  case h_8 hsub => exact spells_of_checked (.waitt t _) rfl (word hsub false true) h
  case h_9 hsub => exact spells_of_checked (.waite t ..) rfl (word hsub true true) h
  case h_10 hsub => exact spells_of_checked (.waitq t _) rfl (word hsub true false) h
  case h_11 hsub =>
    refine spells_of_checked (.sys t _) rfl (fun hchk => ?_) h
    obtain ⟨hrd, hra⟩ := Bool.and_eq_true_iff.mp hchk
    refine eq_wordR_code hop (congrArg Fin.val (of_decide_eq_true hrd)) (congrArg Fin.val (of_decide_eq_true hra)) ?_
    rw [hsub, BitVec.toNat_ofNat, Nat.mod_eq_of_lt (fld_lt w 15 6)]
  case h_12 hsub => exact spells_of_checked (.eret t) rfl (word hsub false false) h
  case h_13 => contradiction

theorem spells_decAtomic (hop : fld w 31 26 = 0x2C) (h : decAtomic t w = some f) : Spells t w f := by
  unfold decAtomic at h
  obtain ⟨hused, h⟩ := Option.ite_none_left_eq_some.mp h
  have hfn := fn_eq_pair_sub (not_not.mp hused)
  split at h
  case h_1 hsub => exact spells_of (.aadd t ..) rfl (eq_wordR hop rfl rfl rfl (by rw [hfn, hsub, Nat.add_zero])) h
  case h_2 hsub => exact spells_of (.aswp t ..) rfl (eq_wordR hop rfl rfl rfl (by rw [hfn, hsub])) h
  case h_3 => contradiction

theorem spells_ezDecode (h : ezDecode t w = some f) : Spells t w f := by
  have imm {op : Nat} (hop : fld w 31 26 = op) : w = wordI op (rF w 21) (rF w 16) (immF w) := eq_wordI hop rfl rfl
  have imm1 {op : Nat} (hop : fld w 31 26 = op) (hra : rF w 16 = 0) : w = wordI op (rF w 21) 0 (immF w) :=
    eq_wordI hop rfl (congrArg Fin.val hra)
  unfold ezDecode at h
  split at h
  case h_1 hop => exact spells_decAlu hop h
  case h_2 hop => exact spells_decMulShift (.inl hop) h
  case h_3 hop => exact spells_decMulShift (.inr hop) h
  case h_4 hop => exact spells_decBits hop h
  case h_5 hop => exact spells_of (.addi t ..) rfl (imm hop) h
  case h_6 hop => exact spells_of (.andi t ..) rfl (imm hop) h
  case h_7 hop => exact spells_of (.ori t ..) rfl (imm hop) h
  case h_8 hop => exact spells_of (.xori t ..) rfl (imm hop) h
  case h_9 hop => exact spells_of_checked (.lui t ..) rfl (imm1 hop) h
  case h_10 hop => exact spells_of (.bperm t ..) rfl (imm hop) h
  case h_11 hop => exact spells_of (.beq t ..) rfl (imm hop) h
  case h_12 hop => exact spells_of (.bne t ..) rfl (imm hop) h
  case h_13 hop => exact spells_of (.blt t ..) rfl (imm hop) h
  case h_14 hop => exact spells_of (.bge t ..) rfl (imm hop) h
  case h_15 hop => exact spells_of (.bltu t ..) rfl (imm hop) h
  case h_16 hop => exact spells_of (.bgeu t ..) rfl (imm hop) h
  case h_17 hop => exact spells_of (.jmp t _) rfl (eq_wordJ hop) h
  case h_18 hop => exact spells_of (.call t _) rfl (eq_wordJ hop) h
  case h_19 hop => exact spells_decControl hop h
  case h_20 hop =>
    obtain ⟨hchk, h⟩ := Option.ite_none_right_eq_some.mp h
    obtain ⟨hra, hlen⟩ := Bool.and_eq_true_iff.mp hchk
    exact spells_of (.loop t ..) (if_neg (of_decide_eq_true hlen)) (imm1 hop (of_decide_eq_true hra)) h
  case h_21 hop =>
    obtain ⟨hlen, h⟩ := Option.ite_none_right_eq_some.mp h
    exact spells_of (.loopi t ..) (if_neg hlen) (eq_wordI_count hop rfl) h
  case h_22 hop => exact spells_of (.ldb t ..) rfl (imm hop) h
  case h_23 hop => exact spells_of (.ldbu t ..) rfl (imm hop) h
  case h_24 hop => exact spells_of (.ldh t ..) rfl (imm hop) h
  case h_25 hop => exact spells_of (.ldhu t ..) rfl (imm hop) h
  case h_26 hop => exact spells_of (.ldw t ..) rfl (imm hop) h
  case h_27 hop => exact spells_of (.stb t ..) rfl (imm hop) h
  case h_28 hop => exact spells_of (.sth t ..) rfl (imm hop) h
  case h_29 hop => exact spells_of (.stw t ..) rfl (imm hop) h
  case h_30 hop => exact spells_decAtomic hop h
  case h_31 hop => exact spells_of (.inPort t ..) rfl (imm hop) h
  case h_32 hop => exact spells_of (.outPort t ..) rfl (imm hop) h
  case h_33 hop => exact spells_of_checked (.inSpecial t ..) rfl (imm1 hop) h
  case h_34 hop => exact spells_of_checked (.outSpecial t ..) rfl (imm1 hop) h
  case h_35 hop => exact spells_of (.ldc t ..) rfl (imm hop) h
  case h_36 hop => exact spells_of (.stc t ..) rfl (imm hop) h
  case h_37 => contradiction

end spells

/-- Settles O50: a spelled word reads back field by field, and a word that decodes is put together from its fields again. -/
theorem wordsAndInstructionsAgree : Obligations.WordsAndInstructionsAgree := by
  refine ⟨ezDecode_of_ezWord, fun t w f => spells_ezDecode, fun t w => ⟨fun hnone i hi => ?_, fun hnone => ?_⟩⟩
  · rw [ezDecode_of_ezWord i t w hi] at hnone
    contradiction
  · refine Option.eq_none_iff_forall_ne_some.mpr fun f hf => ?_
    obtain ⟨i, hi, -⟩ := spells_ezDecode hf
    exact hnone i hi

end Sys2Proof.Machine

/-! Arithmetic, logic and shifts of the Eztiel processors (O45, O46, O47): what an issue leaves alone, how an instruction that issues
ends, and the values of Tables 12.5 to 12.7. -/

namespace Sys2Proof.Machine

/-! ### An issue (R284, R289): it is counted, and registers, PC and modes stay -/

section issue
variable (t u : Nat) (s : State)

/-- A thread changed in other fields keeps its general registers. -/
theorem g_setTh {h : Thread} (hg : h.g = (thOf s u).g) : (thOf (setTh u h s) t).g = (thOf s t).g := by
  by_cases hut : t = u
  · rw [hut, thOf_setTh_same, hg]
  · rw [thOf_setTh_ne _ _ _ _ hut]

theorem eccCorrect_pol (instr : Bool) (a n : Nat) : (eccCorrect t instr a n s).pol = s.pol := keepIf State.pol rfl rfl

theorem eccCorrect_threads (instr : Bool) (a n : Nat) : (eccCorrect t instr a n s).eng.threads = s.eng.threads :=
  keepIf (·.eng.threads) rfl rfl

theorem thOf_eccCorrect (instr : Bool) (a n : Nat) : thOf (eccCorrect t instr a n s) u = thOf s u := by
  rw [thOf, thOf, eccCorrect_pol, eccCorrect_threads]

theorem issueCount_pol : issueCount 96 s = s := if_pos rfl

theorem g_issueCount : (thOf (issueCount t s) u).g = (thOf s u).g := by
  refine keepIf (fun x : State => (thOf x u).g) rfl ?_
  refine (foldl_keeps (fun x : State => (thOf x u).g) _ (fun x k => ?_) _ _).trans (g_setTh _ _ _ rfl)
  exact keepIf (fun x : State => (thOf x u).g) (g_setTh _ _ _ rfl) rfl

theorem gR_countIssue (r : Nat) : gR (thOf (countIssue t s) u) r = gR (thOf s u) r := by
  rw [gR, gR, countIssue, g_issueCount, thOf_eccCorrect]

theorem countIssue_pol : (countIssue 96 s).pol = s.pol := by rw [countIssue, issueCount_pol, eccCorrect_pol]

end issue

/-! ### How an instruction that issues ends -/

section issued
variable {t : Nat} {uses : List Nat} {body : Thread → State → Flow × State} {s u : State}

/-- An instruction that issues ends as its body says, on the state in which the issue is counted. -/
theorem ezIssue_flow (h : issues t uses s) {f : Flow} (hbody : body (thOf (countIssue t s) t) (countIssue t s) = (f, u))
    (hf : f ≠ .stall) : ezIssue t uses body s = ezFlow t f u := by
  obtain ⟨hready, hreturned, hfetch, hloops⟩ := h
  simp only [ezIssue, hready, hreturned, hfetch, hloops, Bool.not_true, Bool.or_self, Bool.false_eq_true, if_false, hbody]

theorem ezIssue_seq (h : issues t uses s) (hbody : body (thOf (countIssue t s) t) (countIssue t s) = (.seq, u)) :
    ezIssue t uses body s = advanced t u := ezIssue_flow h hbody (by simp)

theorem ezIssue_goto (h : issues t uses s) {a : W32}
    (hbody : body (thOf (countIssue t s) t) (countIssue t s) = (.goto a, u)) :
    ezIssue t uses body s = jumped t a u := ezIssue_flow h hbody (by simp)

theorem ezIssue_fault (h : issues t uses s) {code : Nat} {a : W32}
    (hbody : body (thOf (countIssue t s) t) (countIssue t s) = (.fault code a, u)) :
    ezIssue t uses body s = thFault t code a u := ezIssue_flow h hbody (by simp)

theorem ezIssue_stay (h : issues t uses s) (hbody : body (thOf (countIssue t s) t) (countIssue t s) = (.stay, u)) :
    ezIssue t uses body s = u := ezIssue_flow h hbody (by simp)

end issued

/-! ### Results (Tables 12.5 to 12.7) -/

section results
variable {t rd ra rb : Nat} {s : State}

theorem ezR3_issued (h : issues t [rd, ra, rb] s) (f : W32 → W32 → W32) (ov : W32 → W32 → Bool) :
    ezR3 t rd ra rb f ov s =
      retired t rd (f (gR (thOf s t) ra) (gR (thOf s t) rb)) (ov (gR (thOf s t) ra) (gR (thOf s t) rb)) false s := by
  rw [← gR_countIssue t t s ra, ← gR_countIssue t t s rb]
  exact ezIssue_seq h rfl

theorem ezR2_issued (h : issues t [rd, ra] s) (f : W32 → W32) (ov : W32 → Bool) :
    ezR2 t rd ra f ov s = retired t rd (f (gR (thOf s t) ra)) (ov (gR (thOf s t) ra)) false s := by
  rw [← gR_countIssue t t s ra]
  exact ezIssue_seq h rfl

theorem ezRD_issued (h : issues t [rd, ra] s) (f : W32 → W32 → W32) :
    ezRD t rd ra f s = retired t rd (f (gR (thOf s t) rd) (gR (thOf s t) ra)) false false s := by
  rw [← gR_countIssue t t s rd, ← gR_countIssue t t s ra]
  exact ezIssue_seq h rfl

end results

/-! ### Sums, differences, negation and absolute value (R315) -/

theorem outS32_eq (x : Int) : outS32 x = decide (x < -2 ^ 31 ∨ 2 ^ 31 ≤ x) := (Bool.decide_or _ _).symm

/-- The wrapped sum of two words is that of the integers they are. -/
theorem ofInt_toInt_add (a b : W32) : BitVec.ofInt 32 (a.toInt + b.toInt) = a + b := by
  rw [BitVec.ofInt_add, BitVec.ofInt_toInt, BitVec.ofInt_toInt]

theorem ofInt_toInt_sub (a b : W32) : BitVec.ofInt 32 (a.toInt - b.toInt) = a - b := by
  rw [Int.sub_eq_add_neg, BitVec.ofInt_add, BitVec.ofInt_toInt, BitVec.ofInt_neg, BitVec.ofInt_toInt, BitVec.sub_eq_add_neg]

section arms
variable (t : Fin 97) (rd ra rb : Fin 32) (imm : BitVec 16) (s : State)

theorem exec_add_eq : exec (.add t rd ra rb) s = .next (ezR3 t rd ra rb (· + ·) addOv s) := rfl
theorem exec_sub_eq : exec (.sub t rd ra rb) s = .next (ezR3 t rd ra rb (· - ·) subOv s) := rfl
theorem exec_tdif_eq : exec (.tdif t rd ra rb) s = .next (ezR3 t rd ra rb (· - ·) noOv s) := rfl
theorem exec_addi_eq : exec (.addi t rd ra imm) s = .next (ezR2 t rd ra (· + sext16 imm) (addOv · (sext16 imm)) s) := rfl
theorem exec_neg_eq : exec (.neg t rd ra) s = .next (ezR2 t rd ra (0 - ·) negOv s) := rfl
theorem exec_abs_eq : exec (.abs t rd ra) s = .next (ezR2 t rd ra absV negOv s) := rfl

end arms

theorem negOv_iff (a : W32) : negOv a = true ↔ a = 0x80000000 := decide_eq_true_iff

/-- Settles O45: the value and the flag of each instruction, at the source registers as they stood before the issue. -/
theorem sumsAndTheirOverflow : Obligations.SumsAndTheirOverflow := by
  refine fun s t rd ra rb imm => ⟨fun h => ⟨?add, ?sub, ?tdif⟩, fun h => ⟨?addi, fun hmin => ⟨?negMin, ?absMin⟩, fun hother => ⟨?neg, ?abs⟩⟩⟩
  case add => rw [exec_add_eq, ezR3_issued h, addOv, outS32_eq, ofInt_toInt_add]
  case sub => rw [exec_sub_eq, ezR3_issued h, subOv, outS32_eq, ofInt_toInt_sub]
  case tdif => rw [exec_tdif_eq, ezR3_issued h, noOv, ofInt_toInt_sub]
  case addi => rw [exec_addi_eq, ezR2_issued h, addOv, outS32_eq, ofInt_toInt_add, sext16]
  case negMin => rw [exec_neg_eq, ezR2_issued h, hmin]; rfl
  case absMin => rw [exec_abs_eq, ezR2_issued h, hmin]; rfl
  case neg => rw [exec_neg_eq, ezR2_issued h, Bool.eq_false_iff.mpr (mt (negOv_iff _).mp hother), zero_sub]
  case abs => rw [exec_abs_eq, ezR2_issued h, Bool.eq_false_iff.mpr (mt (negOv_iff _).mp hother), absV, zero_sub]

/-! ### Division and remainder (R316) -/

section divArms
variable (t : Fin 97) (rd ra rb : Fin 32) (s : State)

theorem exec_divs_eq : exec (.divs t rd ra rb) s = .next (ezDiv t rd ra rb divsV divOv s) := rfl
theorem exec_divu_eq : exec (.divu t rd ra rb) s = .next (ezDiv t rd ra rb divuV noOv s) := rfl
theorem exec_rems_eq : exec (.rems t rd ra rb) s = .next (ezDiv t rd ra rb remsV noOv s) := rfl
theorem exec_remu_eq : exec (.remu t rd ra rb) s = .next (ezDiv t rd ra rb remuV noOv s) := rfl

end divArms

section division
variable {t rd ra rb : Nat} {s : State} (f : W32 → W32 → W32) (ov : W32 → W32 → Bool)

/-- A division by zero that does not trap. -/
theorem ezDiv_zero (h : issues t [rd, ra, rb] s) (hstays : t ≠ 96 ∨ s.pol.mode.getLsbD 5 = false) (hzero : gR (thOf s t) rb = 0) :
    ezDiv t rd ra rb f ov s = retired t rd (f (gR (thOf s t) ra) 0) false true s := by
  have hmode : (decide (t = 96) && (countIssue t s).pol.mode.getLsbD 5) = false := by
    by_cases ht : t = 96
    · subst ht
      rw [countIssue_pol, hstays.resolve_left (absurd rfl), Bool.and_false]
    · rw [decide_eq_false ht, Bool.false_and]
  refine ezIssue_seq h ?_
  rw [gR_countIssue, gR_countIssue, hzero]
  simp only [hmode, Bool.false_eq_true, if_false, if_true]
  rfl

theorem ezDiv_nonzero (h : issues t [rd, ra, rb] s) (hsome : gR (thOf s t) rb ≠ 0) :
    ezDiv t rd ra rb f ov s =
      retired t rd (f (gR (thOf s t) ra) (gR (thOf s t) rb)) (ov (gR (thOf s t) ra) (gR (thOf s t) rb)) false s := by
  refine ezIssue_seq h ?_
  rw [gR_countIssue, gR_countIssue]
  simp only [if_neg hsome]
  rfl

end division

section quotients
variable {a b : W32} (hb : b ≠ 0)
include hb

theorem divsV_nonzero : divsV a b = BitVec.ofInt 32 (a.toInt.tdiv b.toInt) := if_neg hb
theorem divuV_nonzero : divuV a b = BitVec.ofNat 32 (a.toNat / b.toNat) := if_neg hb

/-- The remainder is what the quotient leaves of the dividend. -/
theorem remsV_nonzero : remsV a b = a - divsV a b * b := by
  rw [remsV, if_neg hb, divsV_nonzero hb, Int.tmod_def, Int.sub_eq_add_neg, BitVec.ofInt_add, BitVec.ofInt_neg, BitVec.ofInt_toInt,
    Int.mul_comm, BitVec.ofInt_mul, BitVec.ofInt_toInt, BitVec.sub_eq_add_neg]

theorem remuV_nonzero : remuV a b = a - divuV a b * b := by
  rw [remuV, if_neg hb, divuV_nonzero hb]
  refine eq_sub_of_add_eq ?_
  calc BitVec.ofNat 32 (a.toNat % b.toNat) + BitVec.ofNat 32 (a.toNat / b.toNat) * b
      = BitVec.ofNat 32 (a.toNat % b.toNat + a.toNat / b.toNat * b.toNat) := by
        rw [BitVec.ofNat_add, BitVec.ofNat_mul, BitVec.ofNat_toNat, BitVec.setWidth_eq]
    _ = a := by rw [Nat.mod_add_div', BitVec.ofNat_toNat, BitVec.setWidth_eq]

theorem toNat_divuV : (divuV a b).toNat = a.toNat / b.toNat := by
  rw [divuV_nonzero hb, BitVec.toNat_ofNat, Nat.mod_eq_of_lt ((Nat.div_le_self _ _).trans_lt a.isLt)]

theorem toInt_divsV (hfits : ¬ (a = 0x80000000 ∧ b = 0xFFFFFFFF)) : (divsV a b).toInt = a.toInt.tdiv b.toInt := by
  rw [divsV_nonzero hb, BitVec.toInt_ofInt, ← BitVec.toInt_sdiv]
  exact BitVec.toInt_sdiv_of_ne_or_ne a b (not_and_or.mp hfits)

end quotients

/-- Settles O46: a division by zero has its fixed results, and every other one the quotient and what that leaves. -/
theorem divisionFollowsR316 : Obligations.DivisionFollowsR316 := by
  intro s t rd ra rb h hstays
  refine ⟨fun ha hb => ?least, fun hb => ?zero, fun hb hfits => ⟨_, toInt_divsV hb hfits, ?signed⟩,
    fun hb => ⟨_, toNat_divuV hb, ?unsigned⟩⟩
  case least =>
    have hsome : gR (thOf s t) rb ≠ 0 := by rw [hb]; decide
    rw [exec_divs_eq, exec_rems_eq, ezDiv_nonzero _ _ h hsome, ezDiv_nonzero _ _ h hsome, ha, hb]
    exact ⟨rfl, rfl⟩
  case zero =>
    simp only [exec_divs_eq, exec_divu_eq, exec_rems_eq, exec_remu_eq, ezDiv_zero _ _ h hstays hb]
    exact ⟨rfl, rfl, rfl, rfl⟩
  case signed =>
    have hov : divOv (gR (thOf s t) ra) (gR (thOf s t) rb) = false := by simpa [divOv] using hfits
    rw [exec_divs_eq, exec_rems_eq, ezDiv_nonzero _ _ h hb, ezDiv_nonzero _ _ h hb, hov, remsV_nonzero hb]
    exact ⟨rfl, rfl⟩
  case unsigned =>
    rw [exec_divu_eq, exec_remu_eq, ezDiv_nonzero _ _ h hb, ezDiv_nonzero _ _ h hb, remuV_nonzero hb]
    exact ⟨rfl, rfl⟩

/-! ### Logic, shifts, products and bit fields (Tables 12.5 to 12.7) -/

section logicArms
variable (t : Fin 97) (rd ra rb n : Fin 32) (imm : BitVec 16) (s : State)

theorem exec_andd_eq : exec (.andd t rd ra rb) s = .next (ezR3 t rd ra rb (· &&& ·) noOv s) := rfl
theorem exec_orr_eq : exec (.orr t rd ra rb) s = .next (ezR3 t rd ra rb (· ||| ·) noOv s) := rfl
theorem exec_xor_eq : exec (.xor t rd ra rb) s = .next (ezR3 t rd ra rb (· ^^^ ·) noOv s) := rfl
theorem exec_ezMin_eq : exec (.ezMin t rd ra rb) s = .next (ezR3 t rd ra rb sMin noOv s) := rfl
theorem exec_ezMax_eq : exec (.ezMax t rd ra rb) s = .next (ezR3 t rd ra rb sMax noOv s) := rfl
theorem exec_sll_eq : exec (.sll t rd ra rb) s = .next (ezR3 t rd ra rb (fun a n => sllV a n.toNat) noOv s) := rfl
theorem exec_srl_eq : exec (.srl t rd ra rb) s = .next (ezR3 t rd ra rb (fun a n => srlV a n.toNat) noOv s) := rfl
theorem exec_sra_eq : exec (.sra t rd ra rb) s = .next (ezR3 t rd ra rb (fun a n => sraV a n.toNat) noOv s) := rfl
theorem exec_ror_eq : exec (.ror t rd ra rb) s = .next (ezR3 t rd ra rb (fun a n => rorV a n.toNat) noOv s) := rfl
theorem exec_mul_eq : exec (.mul t rd ra rb) s = .next (ezR3 t rd ra rb (· * ·) mulOv s) := rfl
theorem exec_mulhs_eq : exec (.mulhs t rd ra rb) s = .next (ezR3 t rd ra rb mulhsV noOv s) := rfl
theorem exec_mulhu_eq : exec (.mulhu t rd ra rb) s = .next (ezR3 t rd ra rb mulhuV noOv s) := rfl
theorem exec_clz_eq : exec (.clz t rd ra) s = .next (ezR2 t rd ra clzV noOv1 s) := rfl
theorem exec_popc_eq : exec (.popc t rd ra) s = .next (ezR2 t rd ra popcV noOv1 s) := rfl
theorem exec_slli_eq : exec (.slli t rd ra n) s = .next (ezR2 t rd ra (sllV · n) noOv1 s) := rfl
theorem exec_srli_eq : exec (.srli t rd ra n) s = .next (ezR2 t rd ra (srlV · n) noOv1 s) := rfl
theorem exec_srai_eq : exec (.srai t rd ra n) s = .next (ezR2 t rd ra (sraV · n) noOv1 s) := rfl
theorem exec_rori_eq : exec (.rori t rd ra n) s = .next (ezR2 t rd ra (rorV · n) noOv1 s) := rfl
theorem exec_andi_eq : exec (.andi t rd ra imm) s = .next (ezR2 t rd ra (· &&& zext16 imm) noOv1 s) := rfl
theorem exec_ori_eq : exec (.ori t rd ra imm) s = .next (ezR2 t rd ra (· ||| zext16 imm) noOv1 s) := rfl
theorem exec_xori_eq : exec (.xori t rd ra imm) s = .next (ezR2 t rd ra (· ^^^ zext16 imm) noOv1 s) := rfl
theorem exec_bperm_eq : exec (.bperm t rd ra imm) s = .next (ezRD t rd ra (bpermV · · imm) s) := rfl
theorem exec_bfx_eq : exec (.bfx t rd ra rb n) s = .next (ezR2 t rd ra (bfxV · rb n) noOv1 s) := rfl
theorem exec_bfxs_eq : exec (.bfxs t rd ra rb n) s = .next (ezR2 t rd ra (bfxsV · rb n) noOv1 s) := rfl
theorem exec_bfi_eq : exec (.bfi t rd ra rb n) s = .next (ezRD t rd ra (bfiV · · rb n) s) := rfl

theorem exec_lui_issued (h : issues t [rd] s) :
    exec (.lui t rd imm) s = .next (retired t rd (imm.setWidth 32 <<< 16) false false s) :=
  congrArg Host.Outcome.next (ezIssue_seq h rfl)

end logicArms

/-! #### Shifts (R317) -/

section shifts
variable (a : W32) (n : Nat)

theorem sllV_eq : sllV a n = if n < 32 then a <<< n else 0 := by
  rw [sllV]
  split
  case isTrue hn => rw [Nat.min_eq_left hn.le]
  case isFalse hn => rw [Nat.min_eq_right (not_lt.mp hn)]; exact BitVec.shiftLeft_eq_zero (le_refl 32)

theorem srlV_eq : srlV a n = if n < 32 then a >>> n else 0 := by
  rw [srlV]
  split
  case isTrue hn => rw [Nat.min_eq_left hn.le]
  case isFalse hn => rw [Nat.min_eq_right (not_lt.mp hn)]; exact BitVec.ushiftRight_eq_zero (le_refl 32)

theorem rorV_eq : rorV a n = a.rotateRight n := BitVec.rotateRight_def.symm

theorem rotateRight_mod : a.rotateRight (n % 32) = a.rotateRight n := by
  rw [BitVec.rotateRight_def, BitVec.rotateRight_def, Nat.mod_mod]

end shifts

/-! #### Bit fields (R319) -/

/-- A word with a field replaced, bit by bit. -/
theorem getLsbD_putFld (v : W32) {hi lo x k : Nat} (hlo : lo ≤ hi) (hk : k < 32) :
    (putFld v hi lo x).getLsbD k = if lo ≤ k ∧ k ≤ hi then x.testBit (k - lo) else v.getLsbD k := by
  simp only [putFld, maskOf, BitVec.getLsbD_or, BitVec.getLsbD_and, BitVec.getLsbD_not, BitVec.getLsbD_ofNat, Nat.testBit_mul_two_pow,
    Nat.testBit_two_pow_sub_one, Nat.testBit_mod_two_pow, hk, decide_true, Bool.true_and]
  split
  case isTrue hin => simp [hin.1, show k - lo < hi + 1 - lo by omega]
  case isFalse hout =>
    by_cases h : lo ≤ k
    · simp [h, show ¬ k - lo < hi + 1 - lo by omega]
    · simp [h]

theorem getLsbD_bfiV (d a : W32) (p n : Fin 32) {k : Nat} (hk : k < 32) :
    (bfiV d a p n).getLsbD k =
      if p.val ≤ k ∧ k < p.val + min (n.val + 1) (32 - p.val) then a.getLsbD (k - p) else d.getLsbD k := by
  have hbits : 0 < bfBits p n := by rw [bfBits]; omega
  rw [bfiV, getLsbD_putFld d (by omega) hk]
  refine if_ctx_congr (by rw [← bfBits]; omega) (fun hin => ?_) fun _ => rfl
  rw [Nat.testBit_mod_two_pow, decide_eq_true (by rw [bfBits]; omega), Bool.true_and]
  rfl

/-! #### General registers (R310) -/

theorem gR_gW_same (h : Thread) {r : Nat} (hr : r ≠ 0) (v : W32) : gR (gW r v h) r = v := by simp [gR, gW, hr]

theorem gR_gW_ne (h : Thread) {q r : Nat} (hqr : q ≠ r) (v : W32) : gR (gW r v h) q = gR h q := by
  by_cases hr : r = 0
  · rw [hr]; rfl
  · simp only [gR, gW, if_neg hr, nmGet_nmSet_ne _ _ _ _ _ _ hqr]

/-- Settles O47: each instruction writes the value of its table, at the registers as they stood before the issue. -/
theorem logicShiftsAndFields : Obligations.LogicShiftsAndFields := by
  refine ⟨fun s t rd ra rb => ⟨fun h => ?three, fun n p imm h => ?two, fun imm => exec_lui_issued t rd imm s⟩, by decide, by decide,
    fun d a p n k => getLsbD_bfiV d a p n, fun h v r q => ⟨rfl, rfl, fun hr => ⟨gR_gW_same h hr v, fun hqr => gR_gW_ne h hqr v⟩⟩⟩
  case three =>
    simp only [exec_andd_eq, exec_orr_eq, exec_xor_eq, exec_ezMin_eq, exec_ezMax_eq, exec_sll_eq, exec_srl_eq, exec_sra_eq, exec_ror_eq,
      exec_mul_eq, exec_mulhs_eq, exec_mulhu_eq, ezR3_issued h, sllV_eq, srlV_eq, rorV_eq, rotateRight_mod, mulOv, outS32_eq]
    and_intros <;> trivial
  case two =>
    simp only [exec_clz_eq, exec_popc_eq, exec_slli_eq, exec_srli_eq, exec_srai_eq, exec_rori_eq, exec_andi_eq, exec_ori_eq, exec_xori_eq,
      exec_bperm_eq, exec_bfx_eq, exec_bfxs_eq, exec_bfi_eq, ezR2_issued h, ezRD_issued h, sllV_eq, srlV_eq, rorV_eq, sraV, n.isLt,
      Nat.min_eq_left n.isLt.le, if_true]
    and_intros <;> trivial

end Sys2Proof.Machine

/-! Control transfer of the Eztiel processors (O48): branches, calls and returns, hardware loops, thread control, and the end-of-body step. -/

namespace Sys2Proof.Machine

theorem exec_illegal_eq (t : Fin 97) (w : W32) (s : State) : exec (.illegal t w) s = execIllegal t w s := rfl

/-! ### Branches and jumps (R311) -/

/-- A branch that issues, by whether its condition holds at the registers. -/
theorem ezBranch_issued {t ra rb : Nat} {s : State} (h : issues t [ra, rb] s) (off : BitVec 16) {cond : W32 → W32 → Bool} {taken : Bool}
    (hcond : cond (gR (thOf (countIssue t s) t) ra) (gR (thOf (countIssue t s) t) rb) = taken) :
    ezBranch t ra rb off cond s =
      if taken then jumped t ((thOf (countIssue t s) t).pc + offB off) (countIssue t s) else advanced t (countIssue t s) := by
  cases taken with
  | true => refine ezIssue_goto h ?_; exact Prod.ext (if_pos hcond) rfl
  | false => refine ezIssue_seq h ?_; exact Prod.ext (if_neg (Bool.eq_false_iff.mp hcond)) rfl

/-! ### Calls and returns (R321, R322) -/

section calls
variable {t : Nat} {h : Thread} {s u : State} {target : W32}

theorem ezCall_free (hfree : h.lvalid = false) : ezCall t target h s = linkTo t target s := by simp [ezCall, hfree]

theorem ezCall_deep (hlinked : h.lvalid = true) (hdeep : h.sdepth = 255) : ezCall t target h s = (.fault 0x0D 0, s) := by
  simp [ezCall, hlinked, hdeep]

/-- A call that has spilled the valid link below sp. -/
theorem ezCall_spilled (hlinked : h.lvalid = true) (hdepth : h.sdepth ≠ 255)
    (hspill : dataOp t ⟨.store, gR h 29 - 4, 4, false, 0, h.lk.setWidth 64, false, h.pc⟩ [3] s = (.seq, u)) :
    ezCall t target h s = linkTo t target (setTh t (gW 29 (gR h 29 - 4) { thOf u t with sdepth := (thOf u t).sdepth + 1 }) u) := by
  simp only [ezCall, hlinked, Bool.not_true, Bool.false_eq_true, if_false, if_neg hdepth, hspill]

theorem ezRet_free (hfree : h.lvalid = false) : ezRet t h s = (.goto h.lk, s) := by simp [ezRet, hfree]

theorem ezRet_last (hlinked : h.lvalid = true) (hlast : h.sdepth = 0) :
    ezRet t h s = (.goto h.lk, setTh t { h with lvalid := false } s) := by simp [ezRet, hlinked, hlast]

/-- A return that pops the link spilled last, and waits for it. -/
theorem ezRet_popped (hlinked : h.lvalid = true) (hdepth : h.sdepth ≠ 0)
    (hpop : dataOp t ⟨.load, gR h 29, 4, false, 0, 0, true, h.pc⟩ [2] s = (.seq, u)) :
    ezRet t h s = (.goto (thOf u t).lk,
      setTh t (gW 29 (gR h 29 + 4) { thOf u t with sdepth := (thOf u t).sdepth - 1, wait := .pop }) u) := by
  simp only [ezRet, hlinked, Bool.not_true, Bool.false_eq_true, if_false, if_neg hdepth, hpop]

end calls

/-! ### Hardware loops (R324 to R327) -/

section loops
variable {t : Nat} {k : W32} {len : BitVec 16} (hlen : len ≠ 0) {h : Thread} {s : State}
include hlen

theorem ezLoop_skips (hzero : k = 0) : ezLoop t k len h s = (.goto (h.pc + 4 + len.setWidth 32 * 4), s) := by
  rw [ezLoop, if_neg hlen, if_pos hzero, zext16]

theorem ezLoop_deep (hsome : k ≠ 0) (hdeep : 3 ≤ h.ldepth) : ezLoop t k len h s = (.fault 0x0B 0, s) := by
  rw [ezLoop, if_neg hlen, if_neg hsome, if_pos hdeep]

theorem ezLoop_pushes (hsome : k ≠ 0) (hroom : h.ldepth < 3) :
    ezLoop t k len h s = (.seq, setTh t { h with
      loops := h.loops.set h.ldepth ⟨pcMask t (h.pc + 4), pcMask t (h.pc + len.setWidth 32 * 4), k⟩,
      ldepth := h.ldepth + 1 } s) := by
  rw [ezLoop, if_neg hlen, if_neg hsome, if_neg (not_le.mpr hroom), zext16]

end loops

/-! ### The end-of-body step (R325) -/

section endOfBody
variable {t d : Nat} {pc : W32} {l : List LoopCtx}

theorem endBody_inBody (hin : pcMask t (l.getD d ⟨0, 0, 0⟩).stop ≠ pc) : endBody t pc (d + 1) l = (pcMask t (pc + 4), d + 1, l) :=
  if_neg hin

variable (hend : pcMask t (l.getD d ⟨0, 0, 0⟩).stop = pc)
include hend

theorem endBody_again (hagain : (l.getD d ⟨0, 0, 0⟩).count ≠ 1) :
    endBody t pc (d + 1) l = (pcMask t (l.getD d ⟨0, 0, 0⟩).start, d + 1,
      l.set d { l.getD d ⟨0, 0, 0⟩ with count := (l.getD d ⟨0, 0, 0⟩).count - 1 }) := by
  rw [endBody, if_pos hend]
  exact if_pos (sub_ne_zero.mpr hagain)

/-- The last pass of the only context. -/
theorem endBody_last (hlast : (l.getD d ⟨0, 0, 0⟩).count = 1) (honly : d = 0) :
    endBody t pc (d + 1) l = (pcMask t (pc + 4), 0, l.set 0 { l.getD d ⟨0, 0, 0⟩ with count := 0 }) := by
  rw [endBody, if_pos hend, hlast, honly]
  rfl

end endOfBody

theorem ezAdvance_of_endBody {t d : Nat} {pc : W32} {l : List LoopCtx} {s : State}
    (h : endBody t (thOf s t).pc (thOf s t).ldepth (thOf s t).loops = (pc, d, l)) :
    ezAdvance t s = setTh t { thOf s t with pc := pc, ldepth := d, loops := l } s := by
  simp only [ezAdvance, h]

/-- Settles O48: one law for each way that an instruction ends, on the state in which its issue is counted. That HALT moves the PC on, and
that a LOOP which passes its body makes no end-of-body step, is log 35. -/
theorem eztielControlTransfer : Obligations.EztielControlTransfer := by
  refine ⟨fun s t ra rb off j => ?branches, fun s t ra j => ?calls, fun s t ra n len => ?loops, fun s t d => ?advance⟩
  case branches =>
    refine ⟨fun h => ?_, fun h => ⟨?_, ?_, ?_, ?_, fun ht => ?_, fun w hw => ?_⟩, fun h => ?_⟩
    · intro a b
      refine ⟨?_, ?_, ?_, ?_, ?_, ?_⟩ <;> refine congrArg Host.Outcome.next (ezBranch_issued h off ?_)
      · exact beq_eq_decide ..
      · exact decide_not.symm
      · exact BitVec.slt_eq_decide ..
      · rw [BitVec.slt_eq_decide, ← decide_not, decide_eq_decide, not_lt]
      · rfl
      · rw [BitVec.ult, ← decide_not, decide_eq_decide, not_lt]
    · exact congrArg Host.Outcome.next (ezIssue_goto h rfl)
    · exact congrArg Host.Outcome.next (ezIssue_seq h rfl)
    · exact congrArg Host.Outcome.next (ezIssue_seq h rfl)
    · exact congrArg Host.Outcome.next (ezIssue_seq h rfl)
    · exact congrArg Host.Outcome.next (ezIssue_seq h (Prod.ext rfl (if_neg ht.ne)))
    · rw [exec_illegal_eq, execIllegal, hw]
      exact congrArg Host.Outcome.next (ezIssue_fault h rfl)
    · exact congrArg Host.Outcome.next (ezIssue_goto h rfl)
  case calls =>
    refine ⟨fun h => ⟨fun hfree => ?_, fun hlinked hdeep => ?_, fun u hlinked hdepth hspill => ?_⟩, fun h hfree => ?_,
      fun h => ⟨fun hfree => ?_, fun hlinked hlast => ?_, fun u hlinked hdepth hpop => ?_⟩⟩
    · exact congrArg Host.Outcome.next (ezIssue_goto h (ezCall_free hfree))
    · exact congrArg Host.Outcome.next (ezIssue_fault h (ezCall_deep hlinked hdeep))
    · exact congrArg Host.Outcome.next (ezIssue_goto h (ezCall_spilled hlinked hdepth hspill))
    · exact congrArg Host.Outcome.next (ezIssue_goto h (ezCall_free hfree))
    · exact congrArg Host.Outcome.next (ezIssue_goto h (ezRet_free hfree))
    · exact congrArg Host.Outcome.next (ezIssue_goto h (ezRet_last hlinked hlast))
    · exact congrArg Host.Outcome.next (ezIssue_goto h (ezRet_popped hlinked hdepth hpop))
  case loops =>
    intro c h body push hlen
    refine ⟨fun h => ⟨fun hzero => ?_, fun hsome hdeep => ?_, fun hsome hroom => ?_⟩,
      fun h => ⟨fun hzero => ?_, fun hsome hdeep => ?_, fun hsome hroom => ?_⟩⟩
    · exact congrArg Host.Outcome.next (ezIssue_goto h (ezLoop_skips hlen hzero))
    · exact congrArg Host.Outcome.next (ezIssue_fault h (ezLoop_deep hlen hsome hdeep))
    · exact congrArg Host.Outcome.next (ezIssue_seq h (ezLoop_pushes hlen hsome hroom))
    · exact congrArg Host.Outcome.next (ezIssue_goto h (ezLoop_skips hlen hzero))
    · exact congrArg Host.Outcome.next (ezIssue_fault h (ezLoop_deep hlen hsome hdeep))
    · exact congrArg Host.Outcome.next (ezIssue_seq h (ezLoop_pushes hlen hsome hroom))
  case advance =>
    intro h x hdepth
    refine ⟨fun hin => ?_, fun hend hagain => ?_, fun hend hlast honly => ?_⟩
    · exact ezAdvance_of_endBody (hdepth ▸ endBody_inBody hin)
    · exact ezAdvance_of_endBody (hdepth ▸ endBody_again hend hagain)
    · exact ezAdvance_of_endBody (hdepth ▸ endBody_last hend hlast honly)

end Sys2Proof.Machine

/-! Memory, ports, special registers, waits and exceptions of the Eztiel processors (O49): the checks of a data access, one law for each
way that an instruction ends, and what the taking of an exception saves. -/

namespace Sys2Proof.Machine

/-! ### Data accesses (R287, R291, R329, R342; the order of the checks is log 34) -/

section access
variable {t sp : Nat} {o : MemOp} {need : List Nat} {s : State}

theorem dataOp_unmapped (hnone : dataSpace t o.addr = none) : dataOp t o need s = (.fault 1 o.addr, s) := by
  simp only [dataOp, hnone]

variable (hspace : dataSpace t o.addr = some sp)
include hspace

theorem dataOp_misaligned (hodd : o.addr.toNat % o.width ≠ 0) : dataOp t o need s = (.fault 2 o.addr, s) := by
  simp only [dataOp, hspace, if_pos hodd]

variable (haligned : o.addr.toNat % o.width = 0)
include haligned

theorem dataOp_protected {code : Nat} (hfault : mpuFault s t false need o.addr = some code) :
    dataOp t o need s = (.fault code o.addr, s) := by
  simp only [dataOp, hspace, haligned, ne_eq, not_true_eq_false, if_false, hfault]

/-- An access that passes joins the thread's operations. -/
theorem dataOp_joins (hallowed : mpuFault s t false need o.addr = none) (hgood : sp = 0 → localPoisoned s t o.addr = false)
    (hroom : sp = 1 → inFlight t (thOf s t) < 16) :
    dataOp t o need s = (.seq, setTh t { thOf s t with ops := (thOf s t).ops ++ [o] } s) := by
  have hpoison : (decide (sp = 0) && localPoisoned s t o.addr) = false := by simpa using hgood
  have hfull : (decide (sp = 1) && decide (16 ≤ inFlight t (thOf s t))) = false := by simpa using hroom
  simp only [dataOp, hspace, haligned, ne_eq, not_true_eq_false, if_false, hallowed, hpoison, hfull, Bool.false_and, Bool.false_eq_true]

end access

/-- An instruction that makes a data access: it ends with the access, or faults as the access does. -/
theorem ezData_issued {t : Nat} {uses : List Nat} {body : Thread → State → Flow × State} {s : State} (h : issues t uses s) {o : MemOp}
    {need : List Nat} (hbody : body (thOf (countIssue t s) t) (countIssue t s) = dataOp t o need (countIssue t s)) :
    (∀ u, dataOp t o need (countIssue t s) = (.seq, u) → Host.Outcome.next (ezIssue t uses body s) =
      (.next (advanced t u) : Host.Outcome State Fault Refusal)) ∧
    (∀ code a u, dataOp t o need (countIssue t s) = (.fault code a, u) → Host.Outcome.next (ezIssue t uses body s) =
      (.next (thFault t code a u) : Host.Outcome State Fault Refusal)) :=
  ⟨fun _ hop => congrArg _ (ezIssue_seq h (hbody.trans hop)), fun _ _ _ hop => congrArg _ (ezIssue_fault h (hbody.trans hop))⟩

/-! ### Taking an exception (R335, R337), and EVENT (R340) -/

theorem excTake_double {s : State} (hexl : s.pol.mode.getLsbD 4 = true) (imp : Bool) (code : Nat) (eval epc : W32) :
    excTake imp code eval epc s = restartCounted 7 (raise 265 (thStop 96 (setB .POL_STAT 0 0 0x20 s))) := by
  rw [excTake]
  exact if_pos hexl

/-- The modes of an exception: supervisor, with the ones before it saved. -/
def excMode (m : BitVec 6) : BitVec 6 :=
  BitVec.ofNat 6 (1 + ofBool (m.getLsbD 0) * 2 + ofBool (m.getLsbD 2) * 8 + 16 + ofBool (m.getLsbD 5) * 32)

theorem excTake_first {s : State} (hexl : s.pol.mode.getLsbD 4 = false) (imp : Bool) (code : Nat) (eval epc : W32) :
    excTake imp code eval epc s = { s with pol := { s.pol with
      th := { cancelWait s.pol.th with pc := s.pol.vbase }, mode := excMode s.pol.mode, epc := epc, eval := eval,
      ecause := BitVec.ofNat 32 (code + ofBool imp * 256) } } := by
  rw [excTake]
  exact if_neg (Bool.eq_false_iff.mp hexl)

theorem excMode_bits : ∀ m : BitVec 6, (excMode m).getLsbD 0 = true ∧ (excMode m).getLsbD 1 = m.getLsbD 0 ∧ (excMode m).getLsbD 2 = false ∧
    (excMode m).getLsbD 3 = m.getLsbD 2 ∧ (excMode m).getLsbD 4 = true ∧ (excMode m).getLsbD 5 = m.getLsbD 5 := by
  decide

/-- The modes that ERET restores. -/
def eretMode (m : BitVec 6) : BitVec 6 :=
  BitVec.ofNat 6 (ofBool (m.getLsbD 1) + ofBool (m.getLsbD 1) * 2 + ofBool (m.getLsbD 3) * 4 + ofBool (m.getLsbD 3) * 8 +
    ofBool (m.getLsbD 5) * 32)

theorem eretMode_bits : ∀ m : BitVec 6, (eretMode m).getLsbD 0 = m.getLsbD 1 ∧ (eretMode m).getLsbD 2 = m.getLsbD 3 ∧
    (eretMode m).getLsbD 4 = false ∧ (eretMode m).getLsbD 5 = m.getLsbD 5 := by
  decide

/-! ### Ports and special registers (R330; that an access of the mailboxes and locks waits for the next cycle is log 33) -/

section fenced
variable {t : Nat} {uses : List Nat} {body : Thread → State → Flow × State} {s u : State} (h : issues t uses s)
  (hops : (thOf (countIssue t s) t).ops = [])
include h hops

theorem ezFenced_seq (hbody : body (thOf (countIssue t s) t) (countIssue t s) = (.seq, u)) :
    ezFenced t uses body s = advanced t u :=
  ezIssue_seq h ((if_pos (List.isEmpty_iff.mpr hops)).trans hbody)

theorem ezFenced_fault {code : Nat} {a : W32} (hbody : body (thOf (countIssue t s) t) (countIssue t s) = (.fault code a, u)) :
    ezFenced t uses body s = thFault t code a u :=
  ezIssue_fault h ((if_pos (List.isEmpty_iff.mpr hops)).trans hbody)

end fenced

section held
variable {isIn : Bool} {p : Nat} {v x : W32} {u : State}

theorem portHeld_done (hfree : mbxRank isIn p v = none) : portHeld isIn p v (.done x u) = .done x u := by simp [portHeld, hfree]

theorem portHeld_ranked (hranked : mbxRank isIn p v ≠ none) : portHeld isIn p v (.done x u) = .wait :=
  if_pos (Option.isSome_iff_ne_none.mpr hranked)

end held

section ports
variable {t : Fin 97} {rd ra : Fin 32} {imm : BitVec 16} {s u : State} {x : W32} {r : PortRes}
  (h : issues t [rd, ra] s) (hops : (thOf (countIssue t s) t).ops = [])
include h hops

/-- How an IN that issues ends, by what its port answers. -/
theorem exec_inPort_issued (hport : portIn t (portNum (thOf (countIssue t s) t) ra imm) (countIssue t s) = r) {f : Flow}
    (hend : ezPort t true (portNum (thOf (countIssue t s) t) ra imm) rd 0
      (portHeld true (portNum (thOf (countIssue t s) t) ra imm) 0 r) (countIssue t s) = (f, u)) (hf : f ≠ .stall) :
    exec (.inPort t rd ra imm) s = .next (ezFlow t f u) := by
  subst hport
  exact congrArg _ (ezIssue_flow h ((if_pos (List.isEmpty_iff.mpr hops)).trans hend) hf)

/-- How an OUT that issues ends. -/
theorem exec_outPort_issued
    (hport : portOut t (portNum (thOf (countIssue t s) t) ra imm) (gR (thOf (countIssue t s) t) rd) (countIssue t s) = r) {f : Flow}
    (hend : ezPort t false (portNum (thOf (countIssue t s) t) ra imm) 0 (gR (thOf (countIssue t s) t) rd)
      (portHeld false (portNum (thOf (countIssue t s) t) ra imm) (gR (thOf (countIssue t s) t) rd) r) (countIssue t s) = (f, u))
    (hf : f ≠ .stall) : exec (.outPort t rd ra imm) s = .next (ezFlow t f u) := by
  subst hport
  exact congrArg _ (ezIssue_flow h ((if_pos (List.isEmpty_iff.mpr hops)).trans hend) hf)

end ports

section special
variable {t : Fin 97} {rd : Fin 32} {s : State} (h : issues t [rd] s) (hops : (thOf (countIssue t s) t).ops = []) (ht : t.val = 96)
include h hops ht

/-- VBASE is written in supervisor mode only. -/
theorem exec_outSpecial_vbase (hsup : supMode (countIssue t s) = true) :
    exec (.outSpecial t rd 0x14) s = .next (advanced t
      { countIssue t s with pol := { (countIssue t s).pol with vbase := gR (thOf (countIssue t s) t) rd &&& 0x7FF00 } }) := by
  refine congrArg _ (ezFenced_seq h hops ?_)
  simp [ht, spPol, spPolSet, show supMode (countIssue 96 s) = true from ht ▸ hsup]

theorem exec_outSpecial_vbase_user (huser : supMode (countIssue t s) = false) :
    exec (.outSpecial t rd 0x14) s = .next (thFault t 0x11 0 (countIssue t s)) := by
  refine congrArg _ (ezFenced_fault h hops ?_)
  simp [ht, spPol, show supMode (countIssue 96 s) = false from ht ▸ huser]

end special

/-! ### Instruction space (R331) -/

section instructionSpace
variable {t : Fin 97} {rd ra : Fin 32} {imm : BitVec 16} {s : State} (h : issues t [rd, ra] s)
include h

theorem exec_ldc_reads (hfault : imemFault (countIssue t s) t [2] (gR (thOf (countIssue t s) t) ra + sext16 imm) = none)
    (hgood : instrPoisoned (countIssue t s) t (gR (thOf (countIssue t s) t) ra + sext16 imm) = false) :
    exec (.ldc t rd ra imm) s = .next (advanced t (setTh t
      (gW rd (instrWord (countIssue t s) t (gR (thOf (countIssue t s) t) ra + sext16 imm))
        { thOf (countIssue t s) t with ov := (thOf (countIssue t s) t).ov || false })
      (eccCorrect t true (gR (thOf (countIssue t s) t) ra + sext16 imm).toNat 4 (countIssue t s)))) := by
  refine congrArg _ (ezIssue_seq h ?_)
  simp only [hfault, hgood, Bool.false_eq_true, if_false, putRes, thOf_eccCorrect]

theorem exec_stc_writes (ht : t.val = 96) (hsup : supMode (countIssue t s) = true)
    (hfault : imemFault (countIssue t s) t [3] (gR (thOf (countIssue t s) t) ra + sext16 imm) = none) :
    exec (.stc t rd ra imm) s = .next (advanced t
      (polIWrite (gR (thOf (countIssue t s) t) ra + sext16 imm).toNat [gR (thOf (countIssue t s) t) rd] (countIssue t s))) := by
  refine congrArg _ (ezIssue_seq h ((if_neg (not_not.mpr ht)).trans ((if_neg (by simp [hsup])).trans ?_)))
  simp only [hfault]

end instructionSpace

/-! ### Waits (R297, R332) -/

theorem ezWait_done {t : Nat} {w : Wait} {r : Option State} {s u : State} (hr : r = some u) :
    ezWait t w r s = (.seq, setTh t { thOf u t with timeout := none } u) := by rw [hr]; rfl

theorem ezWait_waits {t : Nat} {w : Wait} {r : Option State} {s : State} (hr : r = none) :
    ezWait t w r s = (.stay, setTh t { thOf s t with wait := w } s) := by rw [hr]; rfl

/-- On an engine, WAITE waits for the latches of its mask and for the timer, bit 16. -/
theorem ezWaite_engine {t : Fin 97} (hengine : t.val < 96) {rd ra : Fin 32} {s u : State} {f : Flow}
    (h : issues t ([rd.val, ra.val] ++ if t.val = 96 then [rd.val + 1, ra.val + 1] else []) s)
    (hend : ezWait t (.waite ((gR (thOf (countIssue t s) t) ra &&& 0x1FFFF).setWidth 64) rd)
      (waiteTry t ((gR (thOf (countIssue t s) t) ra &&& 0x1FFFF).setWidth 64) rd (countIssue t s)) (countIssue t s) = (f, u))
    (hf : f ≠ .stall) : exec (.waite t rd ra) s = .next (ezFlow t f u) := by
  refine congrArg _ (ezIssue_flow h ?_ hf)
  simp only [hengine.ne, decide_false, Bool.false_and, Bool.false_eq_true, if_false, hend]

/-! ### ERET (R338) -/

section eret
variable {t : Fin 97} {s : State} (h : issues t [] s) (ht : t.val = 96)
include h ht

theorem exec_eret_user (huser : supMode (countIssue t s) = false) : exec (.eret t) s = .next (thFault t 0x11 0 (countIssue t s)) := by
  exact congrArg _ (ezIssue_fault h ((if_neg (not_not.mpr ht)).trans (if_pos (by simp [huser]))))

theorem exec_eret_returns (hsup : supMode (countIssue t s) = true) :
    exec (.eret t) s = .next (jumped t (countIssue t s).pol.epc
      { countIssue t s with pol := { (countIssue t s).pol with mode := eretMode (countIssue t s).pol.mode } }) := by
  exact congrArg _ (ezIssue_goto h ((if_neg (not_not.mpr ht)).trans (if_neg (by simp [hsup]))))

end eret

/-- Settles O49: a law for each check of a data access, for each way that an instruction ends, and for what an exception saves. The order
of the checks of an access, and BAD_PORT before PRIVILEGE, are log 34. -/
theorem eztielMemoryPortsAndExceptions : Obligations.EztielMemoryPortsAndExceptions := by
  refine ⟨fun s t o need => ?access, fun s t rd ra rb imm => ?issued, fun s imp code eval epc => ?exception, fun s => ?event⟩
  case access =>
    refine ⟨dataOp_unmapped, fun sp hspace => ⟨dataOp_misaligned hspace, fun haligned => ⟨fun code => dataOp_protected hspace haligned, ?_⟩⟩⟩
    exact fun hallowed hgood hroom => dataOp_joins hspace haligned hallowed hgood hroom
  case exception =>
    refine ⟨fun hexl => excTake_double hexl imp code eval epc, fun hexl => ⟨excMode s.pol.mode, excTake_first hexl imp code eval epc, ?_⟩⟩
    exact excMode_bits s.pol.mode
  case event =>
    refine ⟨fun n hdue => ?_, fun hrun hon => ?_⟩
    · exact congrArg Host.Outcome.next (by simp only [hdue])
    · exact congrArg Host.Outcome.next (if_pos (by rw [hrun, decide_eq_true hon]; rfl))
  case issued =>
    intro c h a does load store
    refine ⟨fun hi => ⟨ezData_issued hi rfl, ezData_issued hi rfl, ezData_issued hi rfl, ezData_issued hi rfl, ezData_issued hi rfl,
        ezData_issued hi rfl, ezData_issued hi rfl, ezData_issued hi rfl, fun hfault hgood => ?ldc, fun ht hsup hfault => ?stc,
        fun ht => ?stcEngine, fun hops => ?ports⟩,
      fun hi => ⟨ezData_issued hi rfl, ezData_issued hi rfl⟩, fun hi => ⟨fun hodd => ?oddPair, fun hrd hrb => ?pair⟩,
      fun hi hops => ⟨⟨?tsr, ?lk, ?setLk⟩, fun ht hsup => ?vbase, fun ht huser => ?vbaseUser⟩,
      fun hi => ⟨fun u htaken => ?waitq, fun hnone => ?waitqWaits, fun hreached => ?waitt, fun hahead => ?waittWaits⟩,
      fun ht hi => ⟨fun u htaken => ?waite, fun hnone => ?waiteWaits⟩,
      fun code hi => ⟨fun ht => ?sys, fun ht => ⟨?sysEngine, ?eretEngine⟩, fun ht huser => ?eretUser, fun ht hsup => ?eret⟩⟩
    case ldc => exact exec_ldc_reads hi hfault hgood
    case stc => exact exec_stc_writes hi ht hsup hfault
    case stcEngine => exact congrArg _ (ezIssue_fault hi (if_pos ht))
    case ports =>
      refine ⟨fun x u hdone hfree => ?_, fun x u hdone hranked => ?_, fun hbad => ?_, fun hpriv => ?_, fun hwait => ?_,
        fun x u hdone hfree => ?_, fun x u hdone hranked => ?_, fun hwait => ?_⟩
      · exact exec_inPort_issued (f := .seq) hi hops hdone (by rw [portHeld_done hfree]; rfl) (by simp)
      · exact exec_inPort_issued (f := .stay) hi hops hdone (by rw [portHeld_ranked hranked]; rfl) (by simp)
      · exact exec_inPort_issued (f := .fault ..) hi hops hbad rfl (by simp)
      · exact exec_inPort_issued (f := .fault ..) hi hops hpriv rfl (by simp)
      · exact exec_inPort_issued (f := .stay) hi hops hwait rfl (by simp)
      · exact exec_outPort_issued (f := .seq) hi hops hdone (by rw [portHeld_done hfree]; rfl) (by simp)
      · exact exec_outPort_issued (f := .stay) hi hops hdone (by rw [portHeld_ranked hranked]; rfl) (by simp)
      · exact exec_outPort_issued (f := .stay) hi hops hwait rfl (by simp)
    case oddPair => exact congrArg _ (ezIssue_fault hi (if_pos (by simpa using hodd)))
    case pair =>
      have heven : ¬ (true && (decide (rd.val % 2 = 1) || decide (rb.val % 2 = 1))) = true := by simp [hrd, hrb]
      exact ⟨ezData_issued hi (if_neg heven), ezData_issued hi (if_neg heven)⟩
    case tsr => exact congrArg _ (ezFenced_seq hi hops rfl)
    case lk => exact congrArg _ (ezFenced_seq hi hops rfl)
    case setLk => exact congrArg _ (ezFenced_seq hi hops rfl)
    case vbase => exact exec_outSpecial_vbase hi hops ht hsup
    case vbaseUser => exact exec_outSpecial_vbase_user hi hops ht huser
    case waitq => exact congrArg _ (ezIssue_seq hi (ezWait_done htaken))
    case waitqWaits => exact congrArg _ (ezIssue_stay hi (ezWait_waits hnone))
    case waitt => exact congrArg _ (ezIssue_seq hi (if_pos hreached))
    case waittWaits => exact congrArg _ (ezIssue_stay hi (if_neg (Bool.eq_false_iff.mp hahead)))
    case waite => exact ezWaite_engine (f := .seq) ht hi (ezWait_done htaken) (by simp)
    case waiteWaits => exact ezWaite_engine (f := .stay) ht hi (ezWait_waits hnone) (by simp)
    case sys =>
      refine congrArg _ (ezIssue_flow (f := .sys code.toNat) hi ?_ (by simp))
      exact Prod.ext (if_pos ht) rfl
    case sysEngine => exact congrArg _ (ezIssue_fault hi (Prod.ext (if_neg ht) rfl))
    case eretEngine => exact congrArg _ (ezIssue_fault hi (if_pos ht))
    case eretUser => exact exec_eret_user hi ht huser
    case eret => exact ⟨eretMode c.pol.mode, exec_eret_returns hi ht hsup, eretMode_bits c.pol.mode⟩

end Sys2Proof.Machine

/-! One step (O1, O2, O3): the command at the front of the queue, the tick on an empty one, and the next state of every command. -/

namespace Sys2Proof.Machine

/-- Settles O1: a step is defined by the queue. -/
theorem stepRunsFrontCommand : Obligations.StepRunsFrontCommand := fun s c rest h => by rw [step, h]

theorem step_idle {s : State} (hidle : s.pending = []) : step s = .next (tick s) := by rw [step, hidle]

/-- Without power only the count of the ticks moves. -/
theorem tick_unpowered {s : State} (hoff : s.pwr.st = .off) : tick s = { s with ticks := s.ticks + 1 } := if_pos hoff

/-- Without a slew a tick adds the increment, as one number of 64 bits of nanoseconds and 32 of their fraction. -/
theorem clockTick_unslewed (s : State) : (clockTick { s with time := { s.time with slew := none } }).time.now =
    BitVec.ofNat 64 ((s.time.now.toNat * 2 ^ 32 + s.time.frac.toNat + s.time.incr.toNat) / 2 ^ 32) := by
  rw [← BitVec.ofInt_natCast, Int.natCast_ediv]
  simp only [clockTick, setTime_time, add_zero]
  rfl

/-- Settles O2: the carry of the fraction goes into the nanoseconds. -/
theorem idleStepTicks : Obligations.IdleStepTicks := by
  refine ⟨fun s => step_idle, fun s => tick_unpowered, fun s => ?_⟩
  rw [clockTick_unslewed, BitVec.toNat_ofNat, Nat.add_assoc, Nat.mul_comm, Nat.mul_add_div (by decide)]

/-- Settles O3: every meaning is a next state. -/
theorem everyCommandGoesOn : Obligations.EveryCommandGoesOn := by
  intro c s
  cases c <;> exact ⟨_, rfl⟩

end Sys2Proof.Machine

/-! Mailboxes, doorbells and locks (O56): operations of a bound party and of a stranger, accesses by register and by port, the timeout of a
message, locks and bindings. -/

namespace Sys2Proof.Machine

section arms
variable (s : State) (via : Via) (m : Fin 64) (v : W32)

theorem exec_mailboxTimeout_eq (ch : Fin 80) : exec (.mailboxTimeout ch) s = execMailboxTimeout ch s := rfl
theorem exec_mailboxQuery_eq (t : Fin 97) (ch : Fin 80) : exec (.mailboxQuery t ch) s = execMailboxQuery t ch s := rfl
theorem exec_doorbellPost_eq (ch : Fin 64) : exec (.doorbellPost via ch v) s = execDoorbellPost via ch v s := rfl
theorem exec_doorbellTake_eq (ch : Fin 64) : exec (.doorbellTake via ch) s = execDoorbellTake via ch s := rfl
theorem exec_mailboxCancel_eq (ch : Fin 80) : exec (.mailboxCancel via ch) s = execMailboxCancel via ch s := rfl
theorem exec_blockWordWrite_eq (w : Fin 16) : exec (.blockWordWrite via w v) s = execBlockWordWrite via w v s := rfl
theorem exec_blockPost_eq (tmo : Nat) : exec (.blockPost via tmo) s = execBlockPost via tmo s := rfl
theorem exec_blockTake_eq : exec (.blockTake via) s = execBlockTake via s := rfl
theorem exec_lockRead_eq (k : Fin 32) : exec (.lockRead via k) s = execLockRead via k s := rfl
theorem exec_lockRelease_eq (k : Fin 32) : exec (.lockRelease via k v) s = execLockRelease via k v s := rfl
theorem exec_lockForce_eq : exec (.lockForce m v) s = execLockForce m v s := rfl
theorem exec_mbxBindWrite_eq : exec (.mbxBindWrite m v) s = execMbxBindWrite m v s := rfl
theorem exec_mbxBindLockWrite_eq : exec (.mbxBindLockWrite m v) s = execMbxBindLockWrite m v s := rfl

end arms

/-! ### Operations on a channel (R386 to R388, R391) -/

section channel
variable {via : Via} {ch : Nat} {s : State}

theorem mbxBound_party {ok : Nat → Bool} (hbound : ok (viaMaster via) = true) (f : State → State) :
    mbxBound via ch ok f s = f (mbxOverdue ch s) := if_pos hbound

theorem mbxBound_stranger {ok : Nat → Bool} (hstranger : ok (viaMaster via) = false) (f : State → State) :
    mbxBound via ch ok f s = mbxPut via ch mbNotBound (mbxUnbound (viaMaster via) ch s) := if_neg (Bool.eq_false_iff.mp hstranger)

section sender
variable (hsender : isSender s ch (viaMaster via) = true) (hfull : (mbxOf (mbxOverdue ch s) ch).full = true)
include hsender hfull

theorem mbxPost_full (tmo : Nat) (words : List W32 → List W32) :
    mbxPost via ch tmo words s = mbxPut via ch mbFull (mbxOverdue ch s) := (mbxBound_party hsender _).trans (if_pos hfull)

theorem blockWrite_full (w : Nat) (v : W32) : blockWrite via ch w v s = mbxPut via ch mbFull (mbxOverdue ch s) :=
  (mbxBound_party hsender _).trans (if_pos hfull)

theorem mbxCancel_full : mbxCancel via ch s = mbxPut via ch mbOk
    (setMbx ch { mbxOf (mbxOverdue ch s) ch with full := false, timeout := false, stale := false, orphan := false, due := none }
      (mbxOverdue ch s)) := by
  rw [mbxCancel, mbxBound_party hsender]
  simp only [hfull, if_true]

end sender

section sender
variable (hsender : isSender s ch (viaMaster via) = true) (hempty : (mbxOf (mbxOverdue ch s) ch).full = false)
include hsender hempty

theorem mbxPost_empty (tmo : Nat) (words : List W32 → List W32) :
    mbxPost via ch tmo words s = raise (postSource ch) (mbxPut via ch mbOk (setMbx ch
      { mbxOf (mbxOverdue ch s) ch with
        words := words (mbxOf (mbxOverdue ch s) ch).words, full := true, timeout := false, stale := false, orphan := false,
        due := some ((mbxOverdue ch s).time.now + BitVec.ofNat 64 (mbxTmo (mbxOverdue ch s) ch tmo * 1000)) } (mbxOverdue ch s))) :=
  (mbxBound_party hsender _).trans (if_neg (Bool.eq_false_iff.mp hempty))

theorem blockWrite_empty (w : Nat) (v : W32) :
    blockWrite via ch w v s = mbxPut via ch mbOk (setMbx ch
      { mbxOf (mbxOverdue ch s) ch with
        words := trimZeros (((List.range 16).map (wordAt (mbxOf (mbxOverdue ch s) ch).words)).set w v) } (mbxOverdue ch s)) :=
  (mbxBound_party hsender _).trans (if_neg (Bool.eq_false_iff.mp hempty))

theorem mbxCancel_empty : mbxCancel via ch s = mbxPut via ch mbTooLate
    (setMbx ch { mbxOf (mbxOverdue ch s) ch with full := false, timeout := false, stale := false, orphan := false, due := none }
      (mbxOverdue ch s)) := by
  rw [mbxCancel, mbxBound_party hsender]
  simp only [hempty, Bool.false_eq_true, if_false]

end sender

theorem mbxTake_stranger (hstranger : isReceiver s ch (viaMaster via) = false) :
    mbxTake via ch s = (0, mbxPut via ch mbNotBound (mbxUnbound (viaMaster via) ch s)) := by simp [mbxTake, hstranger]

theorem blockRead_stranger (hstranger : isReceiver s ch (viaMaster via) = false) (w : Nat) :
    blockRead via ch w s = (0, mbxPut via ch mbNotBound (mbxUnbound (viaMaster via) ch s)) := by simp [blockRead, hstranger]

section receiver
variable (hreceiver : isReceiver s ch (viaMaster via) = true)
include hreceiver

theorem blockRead_receiver (w : Nat) : blockRead via ch w s = (wordAt (mbxOf s ch).words w, s) := by simp [blockRead, hreceiver]

theorem mbxTake_empty (hempty : (mbxOf (mbxOverdue ch s) ch).full = false) :
    mbxTake via ch s = (0, mbxPut via ch mbEmpty (mbxOverdue ch s)) := by simp [mbxTake, hreceiver, hempty]

theorem mbxTake_full (hfull : (mbxOf (mbxOverdue ch s) ch).full = true) :
    mbxTake via ch s =
      let k := mbxOf (mbxOverdue ch s) ch
      (wordAt k.words 0, mbxPut via ch (if k.stale && k.orphan then 7 else if k.stale then 5 else if k.orphan then 6 else 0)
        (setMbx ch { k with full := false, stale := false, orphan := false, due := none } (mbxOverdue ch s))) := by
  simp [mbxTake, hreceiver, hfull]

end receiver

/-! ### A message that is overdue (R390) -/

theorem mbxOverdue_none (hnone : (mbxOf s ch).due = none) : mbxOverdue ch s = s := by simp only [mbxOverdue, hnone]

theorem mbxOverdue_early {d : W64} (hdue : (mbxOf s ch).due = some d) (hearly : s.time.now < d) : mbxOverdue ch s = s := by
  simp only [mbxOverdue, hdue, decide_eq_false (BitVec.not_le.mpr hearly), Bool.and_false, Bool.false_eq_true, if_false]

theorem mbxOverdue_due {d : W64} (hdue : (mbxOf s ch).due = some d) (hfull : (mbxOf s ch).full = true) (hpast : d ≤ s.time.now) :
    mbxOverdue ch s = raise 298 (setMbx ch { mbxOf s ch with timeout := true, due := none } s) := by
  simp only [mbxOverdue, hdue, hfull, decide_eq_true hpast, Bool.and_true, if_true]

end channel

/-! ### Accesses by register and by port (Table 15.2) -/

section access
variable {via : Via} {r : Reg} {s : State}

theorem mbxWr_served (h : writesVia via r s) (i : Nat) (v : W32) (f : State → State) : mbxWr via r i v f s = f s := by
  cases via with
  | reg m => exact withWrite_of_writes h i v f
  | port t => exact if_pos h

theorem mbxRd_served (h : readsVia via r s) (i : Nat) (f : State → W32 × State) :
    mbxRd via r i f s = reply (viaMaster via) (f s).1 (f s).2 := by
  cases via with
  | reg m => simp only [mbxRd]; rw [withRead_of_reads h]
  | port t => exact if_pos h

end access

/-! ### Locks (R394, R395, R397) -/

section locks
variable {m k : Nat} {v : W32} {s : State}

theorem lockTake_free (hfree : lockOf s k = none) : lockTake m k s = (0, setLock k (some m) s) := by simp only [lockTake, hfree]

theorem lockTake_held {h : Nat} (hheld : lockOf s k = some h) : lockTake m k s = (BitVec.ofNat 32 (0x80 + h), s) := by
  simp only [lockTake, hheld]

theorem lockWrite_release (hzero : fld v 7 0 = 0) (hholder : lockOf s k = some m) : lockWrite m k v s = setLock k none s :=
  if_pos (by simp [hzero, hholder])

theorem lockWrite_misuse (hmisuse : fld v 7 0 ≠ 0 ∨ lockOf s k ≠ some m) : lockWrite m k v s = mbxUnbound m (0x80 + k) s :=
  if_neg (by simpa [imp_iff_not_or] using hmisuse)

/-- A force of one lock. -/
theorem lockForce_oneBit (k : Fin 32) (s : State) :
    lockForce (oneBit k) s = if (lockOf s k).isSome then lockBreak k s else s := by
  have hbit : ∀ j k : Fin 32, bit (oneBit k) j = decide (j = k) := by decide
  have hothers (u : State) (j : Nat) (hj : j ∈ List.range 32) (hjk : j ≠ k) :
      (if bit (oneBit k) j && (lockOf u j).isSome then lockBreak j u else u) = u :=
    if_neg (by simp [hbit ⟨j, List.mem_range.mp hj⟩ k, Fin.ext_iff, hjk])
  rw [lockForce, foldl_of_one_moving List.nodup_range (List.mem_range.mpr k.isLt) (hothers s) (hothers _), hbit k k,
    decide_eq_true rfl, Bool.true_and]

end locks

/-! ### Bindings (R384, R385) -/

section bindings
variable {ch : Nat} {v : W32} {s : State}

theorem mbxBindWrite_refused (hno : bit (rd s .MBX_BIND_LOCK 0 0) 0 = true ∨ 35 < fld v 5 0 ∨ 35 < fld v 13 8) :
    mbxBindWrite ch v s = setB .MBX_STAT 0 ch 0x100 s := if_pos (by simpa [or_assoc] using hno)

theorem mbxBindWrite_bound (hyes : ¬ (bit (rd s .MBX_BIND_LOCK 0 0) 0 = true ∨ 35 < fld v 5 0 ∨ 35 < fld v 13 8)) :
    mbxBindWrite ch v s = plainWrite .MBX_BIND 0 ch v s := if_neg (by simpa [or_assoc] using hyes)

theorem bindLockWrite_again (hwritten : s.mbx.bindLockWritten = true) : bindLockWrite v s = s := if_pos hwritten

theorem bindLockWrite_first (hfirst : s.mbx.bindLockWritten = false) :
    bindLockWrite v s =
      let u : State := { s with mbx := { s.mbx with bindLockWritten := true } }
      if bit v 0 then raise 303 (wr .MBX_BIND_LOCK 0 0 1 u) else u := if_neg (Bool.eq_false_iff.mp hfirst)

end bindings

/-- Settles O56: one law for each operation of a party and of a stranger, for each access, and for the locks and bindings. That a message
is judged overdue before any operation, that WRONG_KIND comes before the binding, and that a read of a block leaves the status, are log
33. -/
theorem mailboxesAndLocks : Obligations.MailboxesAndLocks := by
  refine ⟨fun s via ch tmo words => ?operations, fun s ch => ?timeout, fun s via v => ?access, fun s m v => ?control⟩
  case operations =>
    intro m u k stranger due
    refine ⟨fun hstranger => ⟨mbxBound_stranger hstranger _, mbxBound_stranger hstranger _, fun w v => mbxBound_stranger hstranger _⟩,
      fun hsender hfull => ⟨mbxPost_full hsender hfull tmo words, blockWrite_full hsender hfull, mbxCancel_full hsender hfull⟩,
      fun hsender hempty => ⟨mbxPost_empty hsender hempty tmo words, blockWrite_empty hsender hempty, mbxCancel_empty hsender hempty⟩,
      fun hstranger => ⟨mbxTake_stranger hstranger, blockRead_stranger hstranger⟩,
      fun hreceiver => ⟨blockRead_receiver hreceiver, mbxTake_empty hreceiver, mbxTake_full hreceiver⟩⟩
  case timeout =>
    intro k
    simp only [exec_mailboxTimeout_eq, execMailboxTimeout]
    refine ⟨fun d hrun hdue hfull hpast => ?_, fun d hrun hdue hearly => ?_, fun hrun hnone => ?_, fun t hrun => ?_⟩
    · rw [if_pos hrun, mbxOverdue_due hdue hfull hpast]
    · rw [if_pos hrun, mbxOverdue_early hdue hearly]
    · rw [if_pos hrun, mbxOverdue_none hnone]
    · rw [exec_mailboxQuery_eq, execMailboxQuery, if_pos hrun]
  case access =>
    intro m
    refine ⟨fun ch hsel => ⟨fun h => ?post, fun h => ?take⟩, fun ch hsel h => ?cancel,
      ⟨fun w h => ?blockWrite, fun h => ⟨fun hblock => ?block, fun hdoorbell => ?doorbell⟩⟩,
      fun k => ⟨fun h => ?lockRead, fun h => ?lockWrite⟩⟩
    case post => rw [exec_doorbellPost_eq, execDoorbellPost, if_pos hsel, mbxWr_served h, dbPost, if_pos ch.isLt]
    case take => rw [exec_doorbellTake_eq, execDoorbellTake, if_pos hsel, mbxRd_served h, dbTake, if_pos ch.isLt]
    case cancel => rw [exec_mailboxCancel_eq, execMailboxCancel, if_pos hsel, mbxWr_served h, mbxCmd]
    case blockWrite =>
      rw [exec_blockWordWrite_eq, execBlockWordWrite, mbxWr_served h]
      exact ⟨fun hblock => congrArg _ (if_neg (not_lt.mpr hblock)), fun hdoorbell => congrArg _ (if_pos hdoorbell)⟩
    case block =>
      simp only [exec_blockTake_eq, execBlockTake, exec_blockPost_eq, execBlockPost, mbxWr_served h, mbxCmd, if_neg (not_lt.mpr hblock)]
      exact ⟨trivial, fun _ => trivial⟩
    case doorbell =>
      simp only [exec_blockTake_eq, execBlockTake, exec_blockPost_eq, execBlockPost, mbxWr_served h, mbxCmd, if_pos hdoorbell]
      exact ⟨trivial, fun _ => trivial⟩
    case lockRead =>
      rw [exec_lockRead_eq, execLockRead, mbxRd_served h]
      exact ⟨fun hfree => by rw [lockTake_free hfree], fun holder hheld => by rw [lockTake_held hheld]⟩
    case lockWrite =>
      rw [exec_lockRelease_eq, execLockRelease, mbxWr_served h]
      exact ⟨fun hzero hholder => by rw [lockWrite_release hzero hholder], fun hmisuse => by rw [lockWrite_misuse hmisuse]⟩
  case control =>
    refine ⟨fun h => ⟨?_, fun k hv => ?_⟩, fun h => ?_, fun h => ?_⟩
    · rw [exec_lockForce_eq, execLockForce, withWrite_of_writes h]
    · rw [hv, lockForce_oneBit]
      exact ⟨fun hfree => if_neg (by simp [hfree]), fun hheld => if_pos (Option.isSome_iff_ne_none.mpr hheld)⟩
    · rw [exec_mbxBindWrite_eq, execMbxBindWrite, withWrite_of_writes h]
      exact ⟨fun hno => by rw [mbxBindWrite_refused hno], fun hyes => by rw [mbxBindWrite_bound hyes]⟩
    · rw [exec_mbxBindLockWrite_eq, execMbxBindLockWrite, withWrite_of_writes h]
      refine ⟨fun hwritten => by rw [bindLockWrite_again hwritten], fun hfirst hset => ?_, fun hfirst hclear => ?_⟩
      · rw [bindLockWrite_first hfirst]; exact congrArg _ (if_pos hset)
      · rw [bindLockWrite_first hfirst]; exact congrArg _ (if_neg (Bool.eq_false_iff.mp hclear))

end Sys2Proof.Machine

/-! The policy core (O51): its enable and its start, POL_LOAD and POL_ENVELOPE, its timer and privileged ports, the watchdog's kick
and the window of its tables. -/

namespace Sys2Proof.Machine

section arms
variable (s : State) (m : Fin 64) (v : W32) (ring : Fin 10) (slot : Nat) (data : List W32)

theorem exec_polEnable_eq : exec (.polEnable m v) s = execPolEnable m v s := rfl
theorem exec_polDisable_eq : exec (.polDisable m v) s = execPolDisable m v s := rfl
theorem exec_polLoad_eq : exec (.polLoad ring slot data) s = execPolLoad ring slot data s := rfl
theorem exec_polEnvelope_eq : exec (.polEnvelope ring slot data) s = execPolEnvelope ring slot data s := rfl
theorem exec_wdt3Kick_eq : exec (.wdt3Kick m) s = execWdt3Kick m s := rfl
theorem exec_polTblRead_eq : exec (.polTblRead m) s = execPolTblRead m s := rfl

end arms

/-! ### Enable and start (R346, R347) -/

section enable
variable {m : Fin 64} {v : W32} {s : State} (h : writes m .POL_CTRL s)
include h

theorem exec_polEnable_set (hv : bit v 0 = true) : exec (.polEnable m v) s = .next (polCtrlWrite v s) := by
  rw [exec_polEnable_eq, execPolEnable, if_pos hv, withWrite_of_writes h]

theorem exec_polDisable_clear (hv : bit v 0 = false) : exec (.polDisable m v) s = .next (polCtrlWrite v s) := by
  rw [exec_polDisable_eq, execPolDisable, if_neg (Bool.eq_false_iff.mp hv), withWrite_of_writes h]

end enable

section polCtrlWrite
variable (v : W32) (s u : State) (hu : u = plainWrite .POL_CTRL 0 0 v s)
include hu

theorem polCtrlWrite_enables (hv : bit v 0 = true) (hfree : ¬(u.pol.th.fb = 0 ∧ levelsBlocked u = true)) :
    polCtrlWrite v s = setTh 96 { u.pol.th with fb := fbEnable u.pol.th.fb } u := by
  subst hu
  simp only [polCtrlWrite, if_pos hv]
  rw [enableHeld, if_neg fun hbarred => hfree ((Bool.and_eq_true_iff.mp hbarred).imp_left of_decide_eq_true)]

/-- An OFF core whose levels are held stays OFF (log 42). -/
theorem polCtrlWrite_barred (hv : bit v 0 = true) (hoff : u.pol.th.fb = 0) (hblocked : levelsBlocked u = true) :
    polCtrlWrite v s = u := by
  subst hu
  simp only [polCtrlWrite, if_pos hv]
  rw [enableHeld, if_pos (Bool.and_eq_true_iff.mpr ⟨decide_eq_true hoff, hblocked⟩), ← hoff]
  rfl

theorem polCtrlWrite_disables (hv : bit v 0 = false) :
    polCtrlWrite v s = setTh 96 (cancelWait { u.pol.th with fb := fbDisable u.pol.th.fb }) u := by
  subst hu
  exact if_neg (Bool.eq_false_iff.mp hv)

end polCtrlWrite

/-- After STARTING g29 alone may hold another value than 0. -/
theorem gR_polInit (s : State) {n : Nat} (hn : n ≠ 29) : gR (polInit s).pol.th n = 0 := by
  by_cases h0 : n = 0
  · exact if_pos h0
  · exact (if_neg h0).trans (nmGet_nmSet_ne 0 0 [] 29 n _ hn)

theorem gR_polInit_stack (s : State) : gR (polInit s).pol.th 29 = rd s .POL_START_SP 0 0 :=
  gR_gW_same (r := 29) _ (by decide) (rd s .POL_START_SP 0 0)

/-! ### POL_LOAD and POL_ENVELOPE (R347, R371) -/

theorem polLoadBad_iff (w : List W32) : polLoadBad w = true ↔
    (1 < cmdByte w 8 ∨ (wordAt w 3).toNat % 4 ≠ 0 ∨ (wordAt w 4).toNat % 4 ≠ 0 ∨ (wordAt w 4).toNat < 4 ∨
      (if cmdByte w 8 = 0 then 0x80000 else 0x200000) < (wordAt w 3).toNat + (wordAt w 4).toNat) := by
  simp [polLoadBad, or_assoc]

section load
variable {s : State} {ring : Fin 10} {slot : Nat} {c : Cmd} (data : List W32) (h : cmdStarts s ring slot 0x38 c)
include h

theorem exec_polLoad_bad (hbad : polLoadBad c.words = true) :
    exec (.polLoad ring slot data) s = .next (complete ⟨ring, slot, c.tag, 0x38⟩ stBadParam 0 (begunCmd ring c.tag s)) := by
  rw [exec_polLoad_eq, execPolLoad, startCmd_of_bad h hbad]

variable (hgood : ¬ polLoadBad c.words = true)
include hgood

theorem exec_polLoad_busy (hbusy : (begunCmd ring c.tag s).pol.th.fb ≠ 0 ∨
      (bit (wordAt c.words 7) 0 = true ∧ levelsBlocked (begunCmd ring c.tag s) = true)) :
    exec (.polLoad ring slot data) s = .next (complete ⟨ring, slot, c.tag, 0x38⟩ stBusy 0 (begunCmd ring c.tag s)) := by
  rw [exec_polLoad_eq, execPolLoad, startCmd_of_starts h (Bool.eq_false_iff.mpr hgood)]
  exact congrArg Host.Outcome.next (if_pos (by simpa using hbusy))

variable (hfree : ¬((begunCmd ring c.tag s).pol.th.fb ≠ 0 ∨
      (bit (wordAt c.words 7) 0 = true ∧ levelsBlocked (begunCmd ring c.tag s) = true)))
include hfree

theorem exec_polLoad_writes (hgo : bit (wordAt c.words 7) 0 = false) :
    exec (.polLoad ring slot data) s = .next (complete ⟨ring, slot, c.tag, 0x38⟩ stOk 0
      (polMemWrite (cmdByte c.words 8) (wordAt c.words 3).toNat (hostWords ((wordAt c.words 4).toNat / 4) false data)
        (begunCmd ring c.tag s))) := by
  rw [exec_polLoad_eq, execPolLoad, startCmd_of_starts h (Bool.eq_false_iff.mpr hgood)]
  exact congrArg Host.Outcome.next ((if_neg (by simpa using hfree)).trans (if_pos (by simp [hgo])))

theorem exec_polLoad_starts (hgo : bit (wordAt c.words 7) 0 = true) :
    exec (.polLoad ring slot data) s = .next (polCtrlWrite 1
      (let u := wr .POL_START_SP 0 0 (wordAt c.words 9) (plainWrite .POL_START_PC 0 0 (wordAt c.words 8)
        (polMemWrite (cmdByte c.words 8) (wordAt c.words 3).toNat (hostWords ((wordAt c.words 4).toNat / 4) false data)
          (begunCmd ring c.tag s)))
       { u with pol := { u.pol with loadCmd := some ⟨ring, slot, c.tag, 0x38⟩ } })) := by
  rw [exec_polLoad_eq, execPolLoad, startCmd_of_starts h (Bool.eq_false_iff.mpr hgood)]
  exact congrArg Host.Outcome.next ((if_neg (by simpa using hfree)).trans (if_neg (by simp [hgo])))

end load

/-- Entries 0 and 15 hold nothing; every other entry's words stay within their bits and their limits in order. -/
theorem envBad_iff (a : Nat) (e : List W32) : envBad a e = true ↔
    (a = 0 ∨ a = 15) ∧ (∃ w ∈ e, w ≠ 0) ∨ ¬ (a = 0 ∨ a = 15) ∧ (wordAt e 0 &&& ~~~0xFF01 ≠ 0 ∨ wordAt e 3 &&& ~~~(envScope a) ≠ 0 ∨
      (a ∈ [1, 2, 3, 4, 9, 10, 11, 12] ∧ (wordAt e 2).toNat < (wordAt e 1).toNat) ∨
      (a = 9 ∧ ((wordAt e 1).toNat < 32 ∨ 320 < (wordAt e 2).toNat))) := by
  by_cases hempty : a = 0 ∨ a = 15
  · simp [envBad, hempty]
  · simp only [envBad, hempty, Bool.or_eq_true, Bool.and_eq_true, decide_eq_true_eq, if_false, false_and, not_false_eq_true, true_and,
      false_or, or_assoc]

section envelope
variable {s : State} {ring : Fin 10} {slot : Nat} {c : Cmd} (data : List W32) (h : cmdStarts s ring slot 0x39 c)
include h

theorem exec_polEnvelope_bad
    (hbad : ∃ a ∈ List.range 16, envBad a (((hostWords 64 false data).drop (4 * a)).take 4) = true) :
    exec (.polEnvelope ring slot data) s = .next (complete ⟨ring, slot, c.tag, 0x39⟩ stBadParam 0 (begunCmd ring c.tag s)) := by
  rw [exec_polEnvelope_eq, execPolEnvelope]
  exact congrArg Host.Outcome.next (startCmd_of_bad (bad := fun _ => (List.range 16).any fun a =>
    envBad a (((hostWords 64 false data).drop (4 * a)).take 4)) h (List.any_eq_true.mpr hbad) _)

theorem exec_polEnvelope_switch
    (hgood : ¬ ∃ a ∈ List.range 16, envBad a (((hostWords 64 false data).drop (4 * a)).take 4) = true) :
    exec (.polEnvelope ring slot data) s =
      let g := begunCmd ring c.tag s
      let u : State := { g with pol := { g.pol with envelope := envEntries (hostWords 64 false data) } }
      .next (complete ⟨ring, slot, c.tag, 0x39⟩ stOk s.time.now
        (raise 269 (wr .POL_ENV_GEN 0 0 (rd u .POL_ENV_GEN 0 0 + 1) (wr64 .POL_ENV_TICK_LO .POL_ENV_TICK_HI 0 0 (now s) u)))) := by
  rw [exec_polEnvelope_eq, execPolEnvelope]
  exact congrArg Host.Outcome.next (startCmd_of_starts (bad := fun _ => (List.range 16).any fun a =>
    envBad a (((hostWords 64 false data).drop (4 * a)).take 4)) h (Bool.eq_false_iff.mpr fun hany => hgood (List.any_eq_true.mp hany)) _)

end envelope

/-! ### Timer, privileged ports and kicks (R349, R378, R423) -/

section timer
variable {s : State} (hrun : running s = true)
include hrun

theorem exec_policyTimerExpiry_due (hdue : polTimerDue s = true) : exec .policyTimerExpiry s = .next (polTimerExpire s) :=
  congrArg Host.Outcome.next (if_pos (by rw [hrun, hdue]; rfl))

omit hrun in
theorem exec_policyTimerExpiry_early (hdue : polTimerDue s = false) : exec .policyTimerExpiry s = .next s :=
  congrArg Host.Outcome.next (if_neg (by simp [hdue]))

theorem exec_decisionRecord_sup (hsup : supMode s = true) (v : W32) : exec (.decisionRecord v) s = .next (decisionRecord s) :=
  congrArg Host.Outcome.next (if_pos (by rw [hrun, hsup]; rfl))

theorem exec_wdt4Kick_sup (hsup : supMode s = true) : exec .wdt4Kick s = .next (wdt4Kick s) :=
  congrArg Host.Outcome.next (if_pos (by rw [hrun, hsup]; rfl))

end timer

theorem polTimerExpire_sync {s : State} (hsync : s.pol.bcSync = true) (hstar : starRunning s = true) :
    polTimerExpire s = polLine 63 { s with pol := { s.pol with bcSeen := some s.star.tbc } } := by
  simp [polTimerExpire, hsync, hstar]

theorem polTimerExpire_own {s : State} {v : W32} (hsync : s.pol.bcSync = false) (hnext : s.pol.tmrNext = some v) :
    polTimerExpire s = polLine 63 { s with
      pol := { s.pol with tmrNext := if s.pol.tmrPeriod = 0 then none else some (v + s.pol.tmrPeriod) } } := by
  simp [polTimerExpire, hsync, hnext]

theorem polTimerDue_own {s : State} {v : W32} (hsync : s.pol.bcSync = false) (hnext : s.pol.tmrNext = some v) :
    polTimerDue s = atOrAfter (s.time.now.setWidth 32) v := by
  simp [polTimerDue, hsync, hnext]

theorem wdt4Kick_started {s : State} {t : W64} (ht : s.pwr.wdt4At = some t) :
    wdt4Kick s = { s with pwr := { s.pwr with wdt4At := some (BitVec.ofNat 64 s.ticks) } } := by
  rw [wdt4Kick, ht]; rfl

theorem wdt4Kick_idle {s : State} (hidle : s.pwr.wdt4At = none) : wdt4Kick s = s := by
  rw [wdt4Kick, hidle, Option.map_none, ← hidle]

theorem wdt3Kick_started {s : State} {t : W64} (ht : s.pwr.wdt3At = some t) :
    wdt3Kick s = { s with pwr := { s.pwr with wdt3At := some (BitVec.ofNat 64 s.ticks) } } := by
  rw [wdt3Kick, ht]; rfl

theorem wdt3Kick_idle {s : State} (hidle : s.pwr.wdt3At = none) : wdt3Kick s = s := by
  rw [wdt3Kick, hidle, Option.map_none, ← hidle]

theorem exec_wdt3Kick_writes {m : Fin 64} {s : State} (h : writes m .GLB_WDT3_KICK s) (hreport : m = 3 → instancesReport s = true) :
    exec (.wdt3Kick m) s = .next (wdt3Kick s) := by
  rw [exec_wdt3Kick_eq, execWdt3Kick, if_neg, withWrite_of_writes h]
  simpa using hreport

theorem exec_wdt3Kick_silent {m : Fin 64} {s : State} (hm : m = 3) (hsilent : instancesReport s = false) :
    exec (.wdt3Kick m) s = .next s :=
  congrArg Host.Outcome.next (if_pos (by simp [hm, hsilent]))

/-! ### The window of tables 0x0D to 0x0F -/

theorem exec_polTblRead_writes {m : Fin 64} {s : State} (h : writes m .POL_TBL_CTRL s) :
    exec (.polTblRead m) s = .next (polTblRead m s) := by
  rw [exec_polTblRead_eq, execPolTblRead, withWrite_of_writes h]

theorem polTblRead_bad {m : Nat} {s : State} (hbad : fld (rd s .POL_TBL_SEL 0 m) 23 16 < 13 ∨ 15 < fld (rd s .POL_TBL_SEL 0 m) 23 16 ∨
      tblCount (fld (rd s .POL_TBL_SEL 0 m) 23 16) ≤ fld (rd s .POL_TBL_SEL 0 m) 12 0) :
    polTblRead m s = setF .POL_TBL_CTRL 0 m 9 8 2 s := by
  refine if_pos ?_
  simp only [Bool.or_eq_true, Bool.not_eq_true', Bool.and_eq_false_iff, decide_eq_true_eq, decide_eq_false_iff_not]
  omega

theorem polTblRead_copies {m : Nat} {s : State} (hlo : 13 ≤ fld (rd s .POL_TBL_SEL 0 m) 23 16)
    (hhi : fld (rd s .POL_TBL_SEL 0 m) 23 16 ≤ 15)
    (hcount : fld (rd s .POL_TBL_SEL 0 m) 12 0 < tblCount (fld (rd s .POL_TBL_SEL 0 m) 23 16)) :
    polTblRead m s =
      let sel := rd s .POL_TBL_SEL 0 m
      let e := nmGet [] (if bit sel 24 then s.cfg.shadow else s.cfg.active) (tblKey (fld sel 23 16) (fld sel 12 0))
      setF .POL_TBL_CTRL 0 m 9 8 0 ((List.range 8).foldl (fun s k => wr .POL_TBL_W k m (wordAt e k) s) s) := by
  refine if_neg ?_
  simp only [Bool.or_eq_true, Bool.not_eq_true', Bool.and_eq_false_iff, decide_eq_true_eq, decide_eq_false_iff_not]
  omega

/-- Settles O51. An enable barred while the levels are held is log 42's, POL_LOAD's BUSY and entry 9's bounds log 18's, and the words of
the decision record log 39's. -/
theorem policyCore : Obligations.PolicyCore := by
  unfold Obligations.PolicyCore
  refine ⟨fun s m v h => ⟨fun hv hfree => ?enable, fun hv hoff hblocked => ?barred, fun hv => ?disable⟩, fun s => ?start,
    fun s ring slot c data h => ?load, fun s ring slot c data h => ?envelope, envBad_iff, fun s hrun => ?timer, fun s m => ?kicks⟩
  case enable => rw [exec_polEnable_set h hv, polCtrlWrite_enables v s _ rfl hv hfree]
  case barred => rw [exec_polEnable_set h hv, polCtrlWrite_barred v s _ rfl hv hoff hblocked]
  case disable => rw [exec_polDisable_clear h hv, polCtrlWrite_disables v s _ rfl hv]
  case start =>
    exact ⟨rfl, rfl, rfl, rfl, gR_polInit_stack s, fun n _ hn => gR_polInit s hn, rfl, rfl, rfl, rfl, rfl, rfl, rfl⟩
  case load =>
    intro g w k space off len bad go busy put
    have hiff : polLoadBad w = true ↔ bad := polLoadBad_iff w
    exact ⟨fun hbad => exec_polLoad_bad data h (hiff.mpr hbad), fun hgood => exec_polLoad_busy data h (mt hiff.mp hgood),
      fun hgood => exec_polLoad_writes data h (mt hiff.mp hgood), fun hgood => exec_polLoad_starts data h (mt hiff.mp hgood)⟩
  case envelope => exact ⟨exec_polEnvelope_bad data h, exec_polEnvelope_switch data h⟩
  case timer =>
    refine ⟨fun hdue hsync hstar => ?sync, fun v hsync hnext hafter => ?own, exec_policyTimerExpiry_early,
      fun hsup => exec_decisionRecord_sup hrun hsup, fun t hsup ht => ?kick, fun hsup hidle => ?idle⟩
    case sync => rw [exec_policyTimerExpiry_due hrun hdue, polTimerExpire_sync hsync hstar]
    case own =>
      rw [exec_policyTimerExpiry_due hrun ((polTimerDue_own hsync hnext).trans hafter), polTimerExpire_own hsync hnext]
    case kick => rw [exec_wdt4Kick_sup hrun hsup, wdt4Kick_started ht]
    case idle => rw [exec_wdt4Kick_sup hrun hsup, wdt4Kick_idle hidle]
  case kicks =>
    refine ⟨fun t h hreport ht => ?kick, fun h hreport hidle => ?idle, exec_wdt3Kick_silent, fun h => ?window⟩
    case kick => rw [exec_wdt3Kick_writes h hreport, wdt3Kick_started ht]
    case idle => rw [exec_wdt3Kick_writes h hreport, wdt3Kick_idle hidle]
    case window =>
      rw [exec_polTblRead_writes h]
      exact ⟨fun hbad => congrArg Host.Outcome.next (polTblRead_bad hbad),
        fun hlo hhi hcount => congrArg Host.Outcome.next (polTblRead_copies hlo hhi hcount)⟩

end Sys2Proof.Machine

/-! Restarts, boot and firmware update (O58): expired watchdogs, counted and uncounted restarts, the load of a slot at a restart and at a
cold boot, the end of a restart, and the commands and registers of the update. -/

namespace Sys2Proof.Machine

section arms
variable (s : State) (m : Fin 64) (v : W32) (ring : Fin 10) (slot : Nat) (data : List W32) (img : BootIn)

theorem exec_swLevelRestart_eq : exec (.swLevelRestart m v) s = execSwLevelRestart m v s := rfl
theorem exec_fwuConfirm_eq : exec (.fwuConfirm m v) s = execFwuConfirm m v s := rfl
theorem exec_coldBoot_eq : exec (.coldBoot img) s = execColdBoot img s := rfl
theorem exec_fwWrite_eq : exec (.fwWrite ring slot data) s = execFwWrite ring slot data s := rfl
theorem exec_fwActivate_eq : exec (.fwActivate ring slot) s = execFwActivate ring slot s := rfl
theorem exec_fwWriteDone_eq (ok : Bool) : exec (.fwWriteDone ok) s = execFwWriteDone ok s := rfl

end arms

/-! ### Watchdogs and the beginning of a restart (R422, R423, R425) -/

theorem exec_watchdogExpiry_due {s : State} {level : Bool} (hrun : running s = true) (hdue : wdtDue s level = true) :
    exec (.watchdogExpiry level) s = .next (wdtExpire level s) :=
  congrArg Host.Outcome.next (if_pos (by rw [hrun, hdue]; rfl))

theorem exec_watchdogExpiry_early {s : State} {level : Bool} (hdue : wdtDue s level = false) :
    exec (.watchdogExpiry level) s = .next s :=
  congrArg Host.Outcome.next (if_neg (by simp [hdue]))

section restart
variable (cause : Nat) (s : State)

/-- The state in which a restart's cause is recorded. -/
def causeRecorded : State := setB .GLB_RST_CAUSE 0 0 (oneBit cause) s

/-- The instants of counted restarts, with this one. -/
def timesCounted : List W64 := restartsCounted (causeRecorded cause s) ++ [BitVec.ofNat 64 (causeRecorded cause s).ticks]

/-- The state in which a restart is counted. -/
def restartTimed : State :=
  { causeRecorded cause s with pwr := { (causeRecorded cause s).pwr with restartTimes := timesCounted cause s } }

/-- The failures of the slot on trial, with this one. -/
def trialFails : Nat := min 15 ((restartTimed cause s).pwr.ctl.trialFail.toNat + 1)

/-- The state in which the restart counts against the slot on trial. -/
def trialRecorded : State :=
  setCtl { (restartTimed cause s).pwr.ctl with trialFail := BitVec.ofNat 4 (trialFails cause s) } (restartTimed cause s)

variable {cause : Nat} {s : State}

theorem restartPlain_busy (hbusy : restartBusy (causeRecorded cause s) = true) : restartPlain cause s = causeRecorded cause s :=
  if_pos hbusy

theorem restartPlain_free (hfree : restartBusy (causeRecorded cause s) = false) :
    restartPlain cause s = restartStep1 (causeRecorded cause s) := if_neg (Bool.eq_false_iff.mp hfree)

theorem restartCounted_busy (hbusy : restartBusy (causeRecorded cause s) = true) :
    restartCounted cause s = causeRecorded cause s := if_pos hbusy

variable (hfree : restartBusy (causeRecorded cause s) = false)
include hfree

theorem restartCounted_ordinary (htrial : (restartTimed cause s).pwr.ctl.trial = false) :
    restartCounted cause s = if restartLimit (restartTimed cause s) ≤ (timesCounted cause s).length then
      levelsHold (restartTimed cause s) else restartStep1 (restartTimed cause s) :=
  (if_neg (Bool.eq_false_iff.mp hfree)).trans (if_neg (Bool.eq_false_iff.mp htrial))

section trial
variable (htrial : (restartTimed cause s).pwr.ctl.trial = true)
include htrial

theorem restartCounted_fallback (hlimit : restartLimit (restartTimed cause s) ≤ trialFails cause s ∨
      restartLimit (restartTimed cause s) ≤ (timesCounted cause s).length) :
    restartCounted cause s = restartStep1 { trialRecorded cause s with
      pwr := { (trialRecorded cause s).pwr with restartOther := true, restartFail := some 10 } } := by
  refine (if_neg (Bool.eq_false_iff.mp hfree)).trans ((if_pos htrial).trans (if_pos ?_))
  exact Bool.or_eq_true_iff.mpr (hlimit.imp decide_eq_true decide_eq_true)

theorem restartCounted_trial (hbelow : ¬(restartLimit (restartTimed cause s) ≤ trialFails cause s ∨
      restartLimit (restartTimed cause s) ≤ (timesCounted cause s).length)) :
    restartCounted cause s = restartStep1 (trialRecorded cause s) := by
  refine (if_neg (Bool.eq_false_iff.mp hfree)).trans ((if_pos htrial).trans (if_neg fun hlimit => hbelow ?_))
  exact (Bool.or_eq_true_iff.mp hlimit).imp of_decide_eq_true of_decide_eq_true

end trial

end restart

/-! ### Registers of restart and update (R422, R436) -/

section levelRestart
variable {m : Fin 64} {v : W32} {s : State} (h : writes m .GLB_RST_CTRL s) (hlevel : bit v 16 = false)
include h hlevel

theorem exec_swLevelRestart_writes : exec (.swLevelRestart m v) s = .next (rstCtrlWrite v s) := by
  rw [exec_swLevelRestart_eq, execSwLevelRestart, if_neg (Bool.eq_false_iff.mp hlevel), withWrite_of_writes h]

theorem exec_swLevelRestart_keyed (hkey : fld v 15 0 = 0xA5C3) (hset : bit v 17 = true) :
    exec (.swLevelRestart m v) s = .next (restartPlain 8 s) := by
  rw [exec_swLevelRestart_writes h hlevel]
  simp only [rstCtrlWrite, hkey, hlevel, hset, ne_eq, not_true_eq_false, Bool.false_eq_true, if_false, if_true]

theorem exec_swLevelRestart_idle (hidle : fld v 15 0 ≠ 0xA5C3 ∨ bit v 17 = false) :
    exec (.swLevelRestart m v) s = .next s := by
  rw [exec_swLevelRestart_writes h hlevel]
  rcases hidle with hkey | hclear
  · simp only [rstCtrlWrite, hkey, ne_eq, not_false_eq_true, if_true]
  · simp only [rstCtrlWrite, hlevel, hclear, Bool.false_eq_true, if_false, ite_self]

end levelRestart

section confirm
variable {m : Fin 64} {v : W32} {s : State}

theorem exec_fwuConfirm_writes (h : writes m .FWU_CONFIRM s) : exec (.fwuConfirm m v) s = .next (fwuConfirm v s) := by
  rw [exec_fwuConfirm_eq, execFwuConfirm, withWrite_of_writes h]

theorem fwuConfirm_clear (hv : bit v 0 = false) : fwuConfirm v s = s := by simp [fwuConfirm, hv]

variable (hv : bit v 0 = true) {u : State} (hu : u = if s.pwr.ctl.trial then setCtl { s.pwr.ctl with trial := false } s else s)
include hv hu

theorem fwuConfirm_set : fwuConfirm v s = { u with
    pwr := { u.pwr with otp := if u.pwr.otp.toNat < u.pwr.imageRollback.toNat then u.pwr.imageRollback else u.pwr.otp } } := by
  subst hu
  simp only [fwuConfirm, hv, Bool.not_true, Bool.false_eq_true, if_false]

theorem fwuConfirm_fuses (hlow : u.pwr.otp.toNat < u.pwr.imageRollback.toNat) :
    fwuConfirm v s = { u with pwr := { u.pwr with otp := u.pwr.imageRollback } } := by
  rw [fwuConfirm_set hv hu, if_pos hlow]

theorem fwuConfirm_keeps (hhigh : u.pwr.imageRollback.toNat ≤ u.pwr.otp.toNat) : fwuConfirm v s = u := by
  rw [fwuConfirm_set hv hu, if_neg (Nat.not_lt.mpr hhigh)]

end confirm

/-! ### Boot at a restart (R424, R428 to R430) -/

section step2
variable {s : State} (img : BootIn)

theorem exec_softwareLevelRestart_off (hrun : running s = true) (hpending : s.pwr.restartPending = true) (hoff : levelsOff s = true) :
    exec (.softwareLevelRestart img) s = .next (restartStep2 img s) :=
  congrArg Host.Outcome.next (if_pos (by rw [hrun, hpending, hoff]; rfl))

theorem exec_softwareLevelRestart_waits (hwaits : s.pwr.restartPending = false ∨ levelsOff s = false) :
    exec (.softwareLevelRestart img) s = .next s :=
  congrArg Host.Outcome.next (if_neg (by rcases hwaits with h | h <;> simp [h]))

theorem restartStep2_taken (htaken : areaTaken s = true) : restartStep2 img s = levelsHold (restartEnd 9 s) := if_pos htaken

/-- What the boot of a restart loads: the other slot when FW_ACTIVATE or a failed trial asks for it. -/
def restartLoad (s : State) : Option Bool × Option Nat × State :=
  let old := s.pwr.ctl.active
  let w := if s.pwr.restartOther && s.pwr.restartFail = some 10 then fwFallback 10 old s else s
  bootLoad img (if w.pwr.restartOther then !old else old) (enginesZero w)

/-- A restart that boot could not load: it ends, and the device is in recovery. -/
def restartLost (failed : Option Nat) (s : State) : State :=
  let e := restartEnd (failed.getD 8) s
  { e with pwr := { e.pwr with recovery := true } }

/-- A restart whose slot is loaded: the policy core starts, the framework's placement is due. -/
def restartBoot (b : Bool) (failed : Option Nat) (s : State) : State :=
  let c := restartCtl b failed s
  let fail : Option (BitVec 8) := if c.pwr.restartCmd.isSome then failed.map (BitVec.ofNat 8) else none
  polBoot { c with
    pwr := { c.pwr with restartPending := false, restartLoaded := true, placePending := true, restartOther := false, restartFail := fail,
                        recovery := false },
    pol := { c.pol with placement := img.placement } }

theorem restartStep2_free (hfree : areaTaken s = false) : restartStep2 img s = match (restartLoad img s).1 with
    | none => restartLost (restartLoad img s).2.1 (restartLoad img s).2.2
    | some b => restartBoot img b (restartLoad img s).2.1 (restartLoad img s).2.2 :=
  if_neg (Bool.eq_false_iff.mp hfree)

theorem restartStep2_lost (hfree : areaTaken s = false) (hnone : (restartLoad img s).1 = none) :
    restartStep2 img s = restartLost (restartLoad img s).2.1 (restartLoad img s).2.2 := by
  rw [restartStep2_free img hfree, hnone]

theorem restartStep2_loaded (hfree : areaTaken s = false) {b : Bool} (hsome : (restartLoad img s).1 = some b) :
    restartStep2 img s = restartBoot img b (restartLoad img s).2.1 (restartLoad img s).2.2 := by
  rw [restartStep2_free img hfree, hsome]

end step2

/-! ### The end of a restart (R424, R434) -/

section complete
variable {s a : State}

/-- Step 3 is over: the policy core is ON and all that is placed is started or left out. -/
def restartEnded (s : State) : Prop :=
  s.pwr.restartLoaded = true ∧ fbState s.pol.th.fb = 2 ∧ s.pwr.placePending = false ∧ s.pwr.starting = []

theorem exec_restartComplete_running (hrun : running s = true) : exec .restartComplete s = .next (fwStep s) :=
  congrArg Host.Outcome.next (if_pos hrun)

theorem fwStep_ended (ha : a = fwAdvance (causeApply s)) (hended : restartEnded a) : fwStep s = restartDone a := by
  obtain ⟨hloaded, hon, hplaced, hstarted⟩ := hended
  subst ha
  exact if_pos (by simp [hloaded, hon, hplaced, hstarted])

theorem fwStep_open (ha : a = fwAdvance (causeApply s)) (hopen : ¬ restartEnded a) : fwStep s = a := by
  subst ha
  exact if_neg (by simpa [restartEnded, and_assoc] using hopen)

/-- Source 7 has fired: the restart is over. -/
def restartOver (s : State) : State := raise 7 { s with pwr := { s.pwr with restartLoaded := false } }

/-- The restart's command is about to complete. -/
def restartAnswered (s : State) : State :=
  { restartOver s with pwr := { (restartOver s).pwr with restartCmd := none, restartFail := none } }

theorem restartDone_unasked (hnone : (restartOver s).pwr.restartCmd = none) : restartDone s = restartOver s := by
  unfold restartDone
  rw [restartOver] at hnone ⊢
  simp only [hnone]

variable {c : CmdRef} (hcmd : (restartOver s).pwr.restartCmd = some c)
include hcmd

theorem restartDone_ok (hok : (restartOver s).pwr.restartFail = none) : restartDone s =
    complete c stOk (BitVec.ofNat 64 (ofBool (restartAnswered s).pwr.ctl.active * 256)) (restartAnswered s) := by
  unfold restartDone restartAnswered
  rw [restartOver] at hcmd hok ⊢
  simp only [hcmd, hok]

theorem restartDone_failed {r : BitVec 8} (hfail : (restartOver s).pwr.restartFail = some r) :
    restartDone s = complete c stFailed (r.setWidth 64) (restartAnswered s) := by
  unfold restartDone restartAnswered
  rw [restartOver] at hcmd hfail ⊢
  simp only [hcmd, hfail]

end complete

/-! ### Cold boot (R426 to R431) -/

section cold
variable {s : State} (img : BootIn)

theorem exec_coldBoot_late (hlate : s.pwr.booted = true ∨ s.mem.test.isSome = true) : exec (.coldBoot img) s = .next s := by
  rw [exec_coldBoot_eq, execColdBoot, if_pos (by rcases hlate with h | h <;> simp [h])]

section early
variable (hrun : running s = true) (hbooted : s.pwr.booted = false) (htest : s.mem.test = none)
include hrun hbooted htest

theorem execColdBoot_early : exec (.coldBoot img) s =
    .next (if s.pwr.strapBoot = 1 && !s.pwr.marched then bootMarch s else coldBoot img s) := by
  rw [exec_coldBoot_eq, execColdBoot, if_neg (by simp [hrun, hbooted, htest])]

theorem exec_coldBoot_marches (hstrap : s.pwr.strapBoot = 1) (hmarched : s.pwr.marched = false) :
    exec (.coldBoot img) s = .next (bootMarch s) := by
  rw [execColdBoot_early img hrun hbooted htest, if_pos (by simp [hstrap, hmarched])]

theorem exec_coldBoot_boots (hready : s.pwr.strapBoot ≠ 1 ∨ s.pwr.marched = true) :
    exec (.coldBoot img) s = .next (coldBoot img s) := by
  rw [execColdBoot_early img hrun hbooted htest, if_neg fun hmarch => ?_]
  obtain ⟨hstrap, hmarched⟩ := Bool.and_eq_true_iff.mp hmarch
  rcases hready with hother | hdone
  · exact hother (of_decide_eq_true hstrap)
  · simp [hdone] at hmarched

end early

/-- The boot control record that boot finds. -/
def ctlFound : Option BootCtl := ctlPick (ctlOf img.ctlA) (ctlOf img.ctlB)

/-- The state before boot looks for a slot: keys, owners and the recorder are set. -/
def bootPrepared (s : State) : State :=
  recBoot img.recMap (ownersTake (img.sect6.owners ++ ((img.stored.map (·.owners)).getD [])) (areaOwn (keysUnwrap img.badKeys
    (causeDue { s with pwr := { s.pwr with booted := true, ctl := (ctlFound img).getD State.reset.pwr.ctl } }))))

/-- What the cold boot loads. -/
def bootLoaded (s : State) : Option Bool × Option Nat × State :=
  bootLoad img (trialCount (bootPrepared img s)).pwr.ctl.active (trialCount (bootPrepared img s))

theorem coldBoot_recovers (hbad : ctlFound img = none ∨ (bootPrepared img s).pwr.strapBoot = 2) :
    coldBoot img s = enterRecovery (bootPrepared img s) := by
  refine if_pos (Bool.or_eq_true_iff.mpr (hbad.imp (fun hnone => ?_) decide_eq_true))
  exact Option.isNone_iff_eq_none.mpr hnone

section record
variable {c : BootCtl} (hfound : ctlFound img = some c) (hstrap : (bootPrepared img s).pwr.strapBoot ≠ 2)
include hfound hstrap

theorem coldBoot_record : coldBoot img s = match (bootLoaded img s).1 with
    | none => enterRecovery (bootLoaded img s).2.2
    | some _ => bootStart img (bootLoaded img s).2.2 := by
  refine (if_neg fun hbad => ?_).trans ?_
  · rcases Bool.or_eq_true_iff.mp hbad with hnone | htwo
    · exact absurd (hfound.symm.trans (Option.isNone_iff_eq_none.mp hnone)) (by simp)
    · exact hstrap (of_decide_eq_true htwo)
  · change (match bootLoaded img s with
      | (none, _, u) => enterRecovery u
      | (some _, _, u) => bootStart img u) = _
    obtain ⟨_ | _, _, _⟩ := bootLoaded img s <;> rfl

theorem coldBoot_lost (hlost : (bootLoaded img s).1 = none) : coldBoot img s = enterRecovery (bootLoaded img s).2.2 := by
  rw [coldBoot_record img hfound hstrap, hlost]

theorem coldBoot_starts (hloaded : (bootLoaded img s).1 ≠ none) : coldBoot img s = bootStart img (bootLoaded img s).2.2 := by
  obtain ⟨b, hb⟩ := Option.ne_none_iff_exists'.mp hloaded
  rw [coldBoot_record img hfound hstrap, hb]

end record

end cold

/-! ### Commands of the update (R432, R434) -/

section fwWrite
variable {s : State} {ring : Fin 10} {slot : Nat} {c : Cmd} (data : List W32)

theorem fwWriteBad_iff (mib : Nat) (w : List W32) : fwWriteBad mib w = true ↔
    ((wordAt w 2).toNat % 256 ≠ 0 ∨ (wordAt w 3).toNat % 256 ≠ 0 ∨ (wordAt w 3).toNat = 0 ∨ 65536 < (wordAt w 3).toNat ∨
      mib * 0x100000 < (wordAt w 2).toNat + (wordAt w 3).toNat) := by
  simp [fwWriteBad, or_assoc]

variable (h : cmdStarts s ring slot 0x40 c)
include h

theorem exec_fwWrite_bad (hbad : fwWriteBad s.pwr.ctl.slotMib c.words = true) : exec (.fwWrite ring slot data) s =
    .next (complete ⟨ring, slot, c.tag, 0x40⟩ stBadParam 0 (begunCmd ring c.tag s)) := by
  rw [exec_fwWrite_eq, execFwWrite, startCmd_of_bad h hbad]

variable (hgood : ¬ fwWriteBad s.pwr.ctl.slotMib c.words = true)
include hgood

theorem exec_fwWrite_busy (hbusy : fwBusy (begunCmd ring c.tag s) = true) : exec (.fwWrite ring slot data) s =
    .next (complete ⟨ring, slot, c.tag, 0x40⟩ stBusy 0 (begunCmd ring c.tag s)) := by
  rw [exec_fwWrite_eq, execFwWrite, startCmd_of_starts h (Bool.eq_false_iff.mpr hgood)]
  exact congrArg Host.Outcome.next (if_pos hbusy)

theorem exec_fwWrite_writes (hfree : fwBusy (begunCmd ring c.tag s) = false) : exec (.fwWrite ring slot data) s =
    let g := begunCmd ring c.tag s
    .next (say (.fwWrite (!g.pwr.ctl.active) (bit (wordAt c.words 6) 0) (wordAt c.words 2).toNat
        (bytesOfWords (hostWords ((wordAt c.words 3).toNat / 4) false data)))
      { g with pwr := { g.pwr with fwWrite := some ⟨ring, slot, c.tag, 0x40⟩ } }) := by
  rw [exec_fwWrite_eq, execFwWrite, startCmd_of_starts h (Bool.eq_false_iff.mpr hgood)]
  exact congrArg Host.Outcome.next (if_neg (Bool.eq_false_iff.mp hfree))

end fwWrite

section fwActivate
variable {s : State} {ring : Fin 10} {slot : Nat} {c : Cmd} (h : cmdStarts s ring slot 0x41 c)
include h

theorem exec_fwActivate_writing (hbusy : fwBusy (begunCmd ring c.tag s) = true) : exec (.fwActivate ring slot) s =
    .next (complete ⟨ring, slot, c.tag, 0x41⟩ stBusy 0 (begunCmd ring c.tag s)) := by
  rw [exec_fwActivate_eq, execFwActivate, startCmd_of_starts h rfl]
  exact congrArg Host.Outcome.next (if_pos hbusy)

variable (hfree : fwBusy (begunCmd ring c.tag s) = false)
include hfree

theorem exec_fwActivate_restarting (hbusy : restartBusy (begunCmd ring c.tag s) = true) : exec (.fwActivate ring slot) s =
    .next (complete ⟨ring, slot, c.tag, 0x41⟩ stBusy 0 (setB .GLB_RST_CAUSE 0 0 0x200 (begunCmd ring c.tag s))) := by
  rw [exec_fwActivate_eq, execFwActivate, startCmd_of_starts h rfl]
  exact congrArg Host.Outcome.next ((if_neg (Bool.eq_false_iff.mp hfree)).trans (if_pos hbusy))

theorem exec_fwActivate_restarts (hidle : restartBusy (begunCmd ring c.tag s) = false) : exec (.fwActivate ring slot) s =
    let g := begunCmd ring c.tag s
    .next (restartPlain 9 { g with
      pwr := { g.pwr with restartCmd := some ⟨ring, slot, c.tag, 0x41⟩, restartOther := true, restartFail := none } }) := by
  rw [exec_fwActivate_eq, execFwActivate, startCmd_of_starts h rfl]
  exact congrArg Host.Outcome.next ((if_neg (Bool.eq_false_iff.mp hfree)).trans (if_neg (Bool.eq_false_iff.mp hidle)))

end fwActivate

theorem exec_fwWriteDone_pending {s : State} (hrun : running s = true) {c : CmdRef} (hc : s.pwr.fwWrite = some c) (ok : Bool) :
    exec (.fwWriteDone ok) s =
      .next (raise 313 (complete c (if ok then stOk else stFailed) 0 { s with pwr := { s.pwr with fwWrite := none } })) := by
  rw [exec_fwWriteDone_eq, execFwWriteDone]
  simp only [hc, hrun, if_true]

theorem exec_fwWriteDone_none {s : State} (hnone : s.pwr.fwWrite = none) (ok : Bool) : exec (.fwWriteDone ok) s = .next s := by
  rw [exec_fwWriteDone_eq, execFwWriteDone]
  simp only [hnone]

/-- Settles O58. That FW_ACTIVATE waits for no restart in progress, and what a restart that ends without levels 3 and 4 leaves, are
log 42's; the key of an image is log 41's. -/
theorem restartsBootAndUpdate : Obligations.RestartsBootAndUpdate := by
  unfold Obligations.RestartsBootAndUpdate
  refine ⟨fun s level => ⟨exec_watchdogExpiry_due, exec_watchdogExpiry_early⟩, fun s cause => ?begins,
    fun s m v => ⟨fun h hlevel => ?level, fun h => ?confirm⟩,
    fun s img => ⟨fun hrun hpending hoff => ?step2, exec_softwareLevelRestart_waits img, fun hrun => ?ends,
      fun hrun hbooted htest hready => ?boots, exec_coldBoot_marches img, exec_coldBoot_late img⟩,
    fun s ring slot c data h => ?write, fun s ring slot c h => ?activate,
    fun s ok hrun => ⟨fun c hc => exec_fwWriteDone_pending hrun hc ok, fun hnone => exec_fwWriteDone_none hnone ok⟩⟩
  case begins =>
    refine ⟨fun hbusy => ⟨restartCounted_busy hbusy, restartPlain_busy hbusy⟩, fun hfree => ⟨restartPlain_free hfree,
      fun htrial hlimit => ?held, fun htrial hbelow => ?counted, fun htrial hlimit => ?fallback, fun htrial hbelow => ?trial⟩⟩
    case held => exact (restartCounted_ordinary hfree htrial).trans (if_pos hlimit)
    case counted => exact (restartCounted_ordinary hfree htrial).trans (if_neg (Nat.not_le.mpr hbelow))
    case fallback => exact restartCounted_fallback hfree htrial hlimit
    case trial => exact restartCounted_trial hfree htrial hbelow
  case level => exact ⟨exec_swLevelRestart_keyed h hlevel, exec_swLevelRestart_idle h hlevel⟩
  case confirm =>
    rw [exec_fwuConfirm_writes h]
    exact ⟨fun hv => congrArg Host.Outcome.next (fwuConfirm_clear hv),
      fun hv hlow => congrArg Host.Outcome.next (fwuConfirm_fuses hv rfl hlow),
      fun hv hhigh => congrArg Host.Outcome.next (fwuConfirm_keeps hv rfl hhigh)⟩
  case step2 =>
    rw [exec_softwareLevelRestart_off img hrun hpending hoff]
    exact ⟨fun htaken => congrArg Host.Outcome.next (restartStep2_taken img htaken),
      fun hfree hnone => congrArg Host.Outcome.next (restartStep2_lost img hfree hnone),
      fun slot hfree hsome => congrArg Host.Outcome.next (restartStep2_loaded img hfree hsome)⟩
  case ends =>
    rw [exec_restartComplete_running hrun]
    exact ⟨fun hopen => congrArg Host.Outcome.next (fwStep_open rfl hopen),
      fun hended hnone => congrArg Host.Outcome.next ((fwStep_ended rfl hended).trans (restartDone_unasked hnone)),
      fun c hended hcmd => ⟨fun hok => congrArg Host.Outcome.next ((fwStep_ended rfl hended).trans (restartDone_ok hcmd hok)),
        fun r hfail => congrArg Host.Outcome.next ((fwStep_ended rfl hended).trans (restartDone_failed hcmd hfail))⟩⟩
  case boots =>
    rw [exec_coldBoot_boots img hrun hbooted htest hready]
    exact ⟨fun hbad => congrArg Host.Outcome.next (coldBoot_recovers img hbad),
      fun c hfound hstrap => ⟨fun hlost => congrArg Host.Outcome.next (coldBoot_lost img hfound hstrap hlost),
        fun hloaded => congrArg Host.Outcome.next (coldBoot_starts img hfound hstrap hloaded)⟩⟩
  case write =>
    intro g w k off len bad
    have hiff : fwWriteBad s.pwr.ctl.slotMib w = true ↔ bad := fwWriteBad_iff _ w
    exact ⟨fun hbad => exec_fwWrite_bad data h (hiff.mpr hbad), fun hgood => exec_fwWrite_busy data h (mt hiff.mp hgood),
      fun hgood => exec_fwWrite_writes data h (mt hiff.mp hgood)⟩
  case activate =>
    exact ⟨exec_fwActivate_writing h, exec_fwActivate_restarting h, exec_fwActivate_restarts h⟩

end Sys2Proof.Machine

/-! Power states and resets (O59): requests for Frost and Midwinter, wake sources, the end of Thaw, dozing, the real-time clock, the
PLLs, what a reset leaves, and the TAP. -/

namespace Sys2Proof.Machine

section arms
variable (s : State) (m : Fin 64) (v : W32)

theorem exec_frostRequest_eq : exec (.frostRequest m v) s = execFrostRequest m v s := rfl
theorem exec_midwinterRequest_eq : exec (.midwinterRequest m v) s = execMidwinterRequest m v s := rfl
theorem exec_swDeviceReset_eq : exec (.swDeviceReset m v) s = execSwDeviceReset m v s := rfl

end arms

/-! ### Requests (R415) -/

section request
variable {m : Fin 64} {v : W32} {s : State}

theorem exec_frostRequest_writes (h : writes m .CLK_PWR_REQ s) (hfrost : fld v 1 0 = 1) :
    exec (.frostRequest m v) s = .next (pwrReqWrite v s) := by
  rw [exec_frostRequest_eq, execFrostRequest, if_pos hfrost, withWrite_of_writes h]

theorem exec_midwinterRequest_writes (h : writes m .CLK_PWR_REQ s) (hmidwinter : fld v 1 0 = 2) :
    exec (.midwinterRequest m v) s = .next (pwrReqWrite v s) := by
  rw [exec_midwinterRequest_eq, execMidwinterRequest, if_pos hmidwinter, withWrite_of_writes h]

theorem pwrReqWrite_no_key (hkey : fld v 31 16 ≠ 0x0C1D) : pwrReqWrite v s = s := if_pos (by simp [hkey])

theorem pwrReqWrite_keyed (hkey : fld v 31 16 = 0x0C1D) (hreq : fld v 1 0 = 1 ∨ fld v 1 0 = 2) :
    pwrReqWrite v s = match pwrReason s with
      | some why => raise 11 (setF .CLK_PWR_STAT 0 0 15 12 why (setB .CLK_PWR_STAT 0 0 0x100 s))
      | none => setPwr (if fld v 1 0 = 1 then .entering else .enteringMidwinter) (raise 9 s) :=
  if_neg (by rcases hreq with h | h <;> simp [hkey, h])

end request

/-! ### Wake sources (R417 to R420) -/

section wake
variable {s : State}

/-- The state in which wake source `k` is latched. -/
def wakeLatched (k : Nat) (s : State) : State := withWakeOut (setB .CLK_WAKE_CAUSE 0 0 (oneBit k)) s

theorem wakeLatched_pwr (k : Nat) : (wakeLatched k s).pwr = s.pwr := keepIf State.pwr rfl rfl

variable {k : Fin 19}

theorem exec_wakeDetect_pin (hrun : s.pwr.st = .run) (hlo : 12 ≤ k.val) (hhi : k.val < 16) :
    exec (.wakeDetect k) s = .next (raise (315 + (k - 12)) s) :=
  congrArg Host.Outcome.next ((if_pos (decide_eq_true hrun)).trans (if_pos (by simp [hlo, hhi])))

theorem exec_wakeDetect_run (hrun : s.pwr.st = .run) (hother : k.val < 12 ∨ 16 ≤ k.val) :
    exec (.wakeDetect k) s = .next s := by
  refine congrArg Host.Outcome.next ((if_pos (decide_eq_true hrun)).trans (if_neg ?_))
  simp only [Bool.and_eq_true, decide_eq_true_eq]
  omega

theorem exec_wakeDetect_off (hoff : s.pwr.st = .off) : exec (.wakeDetect k) s = .next s :=
  congrArg Host.Outcome.next ((if_neg (by simp [running, hoff])).trans (if_pos hoff))

theorem exec_wakeDetect_asleep (hrun : s.pwr.st ≠ .run) (hoff : s.pwr.st ≠ .off) :
    exec (.wakeDetect k) s = .next (wakeDetect k s) :=
  congrArg Host.Outcome.next ((if_neg (by simpa [running] using hrun)).trans (if_neg hoff))

theorem wakeDetect_disabled {k : Nat} (hdisabled : bit (rd (wakeLatched k s) .CLK_WAKE_EN 0 0) k = false) :
    wakeDetect k s = wakeLatched k s := if_pos (by rw [wakeLatched] at hdisabled; rw [hdisabled]; rfl)

section enabled
variable {k : Nat} (henabled : bit (rd (wakeLatched k s) .CLK_WAKE_EN 0 0) k = true)
include henabled

theorem wakeDetect_enabled : wakeDetect k s = match s.pwr.st with
    | .entering | .frost => setPwr .thaw (raise (wakeSource k) (wakeLatched k s))
    | .thaw => raise (wakeSource k) (wakeLatched k s)
    | .enteringMidwinter =>
      { raise (wakeSource k) (wakeLatched k s) with
        pwr := { (raise (wakeSource k) (wakeLatched k s)).pwr with wakePend := true } }
    | .midwinter => deviceReset 3 (raise (wakeSource k) (wakeLatched k s))
    | _ => wakeLatched k s := by
  rw [← wakeLatched_pwr k]
  refine (if_neg (by rw [wakeLatched] at henabled; rw [henabled]; simp)).trans ?_
  rfl

theorem wakeDetect_frost (hst : s.pwr.st = .frost ∨ s.pwr.st = .entering) :
    wakeDetect k s = setPwr .thaw (raise (wakeSource k) (wakeLatched k s)) := by
  rw [wakeDetect_enabled henabled]
  rcases hst with h | h <;> rw [h]

theorem wakeDetect_thaw (hst : s.pwr.st = .thaw) : wakeDetect k s = raise (wakeSource k) (wakeLatched k s) := by
  rw [wakeDetect_enabled henabled, hst]

theorem wakeDetect_enteringMidwinter (hst : s.pwr.st = .enteringMidwinter) :
    wakeDetect k s = { raise (wakeSource k) (wakeLatched k s) with
      pwr := { (raise (wakeSource k) (wakeLatched k s)).pwr with wakePend := true } } := by
  rw [wakeDetect_enabled henabled, hst]

theorem wakeDetect_midwinter (hst : s.pwr.st = .midwinter) :
    wakeDetect k s = deviceReset 3 (raise (wakeSource k) (wakeLatched k s)) := by
  rw [wakeDetect_enabled henabled, hst]

end enabled

end wake

/-! ### The end of Thaw, the alarm, the PLLs and dozing (R413, R418, R421) -/

section thaw
variable {s : State}

theorem exec_thawComplete_elsewhere (hst : s.pwr.st ≠ .thaw) : exec .thawComplete s = .next s :=
  congrArg Host.Outcome.next (if_neg hst)

/-- The banks and the PLLs are back. -/
def thawed (s : State) : State :=
  wr .CLK_PLL_STAT 0 0 0xF ((List.range 384).foldl (fun s b => setBank b (bankThawed s b) s) (setPwr .run s))

theorem exec_thawComplete_thaw (hst : s.pwr.st = .thaw) : exec .thawComplete s =
    .next (causeApply (causeDue (raise 10 (if bit (rd (thawed s) .TIME_CTRL 0 0) 0 then thawed s else clockReload (thawed s))))) :=
  congrArg Host.Outcome.next (if_pos hst)

end thaw

section alarm
variable {s : State}

theorem exec_rtcAlarm_idle (hidle : rd s .CLK_RTC_ALARM 0 0 = 0 ∨ rd s .CLK_RTC_S 0 0 ≠ rd s .CLK_RTC_ALARM 0 0) :
    exec .rtcAlarm s = .next s :=
  congrArg Host.Outcome.next (if_pos (by rcases hidle with h | h <;> simp [h]))

variable (hset : rd s .CLK_RTC_ALARM 0 0 ≠ 0) (hnow : rd s .CLK_RTC_S 0 0 = rd s .CLK_RTC_ALARM 0 0)
include hset hnow

theorem alarmReady (hoff : s.pwr.st ≠ .off) :
    ¬ (decide (s.pwr.st = .off) || decide (rd s .CLK_RTC_ALARM 0 0 = 0) ||
      decide (rd s .CLK_RTC_S 0 0 ≠ rd s .CLK_RTC_ALARM 0 0)) = true := by
  simpa only [hnow, ne_eq, not_true_eq_false, decide_false, Bool.or_false, Bool.or_eq_true, decide_eq_true_eq, not_or]
    using ⟨hoff, hset⟩

theorem exec_rtcAlarm_run (hrun : s.pwr.st = .run) : exec .rtcAlarm s = .next (raise 13 (wr .CLK_RTC_ALARM 0 0 0 s)) :=
  congrArg Host.Outcome.next
    ((if_neg (alarmReady hset hnow (by simp [hrun]))).trans (if_pos (decide_eq_true hrun)))

variable (hrun : s.pwr.st ≠ .run) (hoff : s.pwr.st ≠ .off)
include hrun hoff

theorem exec_rtcAlarm_asleep : exec .rtcAlarm s =
    let u := wr .CLK_RTC_ALARM 0 0 0 s
    .next (if bit (rd u .CLK_WAKE_EN 0 0) 16 then wakeDetect 16 u else wakeDetect 16 (raise 13 u)) :=
  congrArg Host.Outcome.next
    ((if_neg (alarmReady hset hnow hoff)).trans (if_neg fun h => hrun (of_decide_eq_true h)))

end alarm

section clocks
variable {s : State} (hrun : running s = true)
include hrun

theorem exec_pllLockLoss_locked {pll : Fin 4} (hlocked : bit (rd s .CLK_PLL_STAT 0 0) pll = true) :
    exec (.pllLockLoss pll) s = .next (raise 15 (clrB .CLK_PLL_STAT 0 0 (oneBit pll) s)) :=
  congrArg Host.Outcome.next (if_pos (by rw [hrun, hlocked]; rfl))

theorem exec_pllLockLoss_open {pll : Fin 4} (hopen : bit (rd s .CLK_PLL_STAT 0 0) pll = false) :
    exec (.pllLockLoss pll) s = .next s :=
  congrArg Host.Outcome.next (if_neg (by rw [hrun, hopen]; simp))

theorem exec_dozeEnter_idle {d : Fin 28} (hidle : canDoze s d = true) (hlet : bit (rd s .CLK_DOZE_DIS 0 0) d = false) :
    exec (.dozeEnter d) s = .next { s with pwr := { s.pwr with dozing := s.pwr.dozing ||| BitVec.ofNat 28 (2 ^ d.val) } } :=
  congrArg Host.Outcome.next (if_pos (by rw [hrun, hidle, hlet]; rfl))

omit hrun in
theorem exec_dozeEnter_busy {d : Fin 28} (hbusy : canDoze s d = false ∨ bit (rd s .CLK_DOZE_DIS 0 0) d = true) :
    exec (.dozeEnter d) s = .next s :=
  congrArg Host.Outcome.next (if_neg (by rcases hbusy with h | h <;> rw [h] <;> simp))

theorem exec_dozeExit_running (d : Fin 28) :
    exec (.dozeExit d) s = .next { s with pwr := { s.pwr with dozing := s.pwr.dozing &&& ~~~BitVec.ofNat 28 (2 ^ d.val) } } :=
  congrArg Host.Outcome.next (if_pos hrun)

theorem exec_pcieHotReset_running : exec .pcieHotReset s = .next (partyReset 0 s) := congrArg Host.Outcome.next (if_pos hrun)

end clocks

/-! ### Resets (R422, R442 to R445) -/

section resets
variable {s : State} {straps : BitVec 16} {ns : Nat}

theorem exec_resetN_long (hlong : 1000 ≤ ns) (hon : s.pwr.st ≠ .off) :
    exec (.resetN straps ns) s = .next (sampleStraps straps (deviceReset 1 s)) := by
  have hpulse : resetPulse ns = true := by
    rw [resetPulse, if_neg (by omega), if_neg (by omega)]
  exact congrArg Host.Outcome.next (if_neg (by simp [hon, hpulse]))

theorem exec_resetN_short (hshort : ns < 100) : exec (.resetN straps ns) s = .next s :=
  congrArg Host.Outcome.next (if_pos (by simp [resetPulse, hshort]))

theorem exec_resetN_off (hoff : s.pwr.st = .off) : exec (.resetN straps ns) s = .next s :=
  congrArg Host.Outcome.next (if_pos (by simp [hoff]))

section software
variable {m : Fin 64} {v : W32} (h : writes m .GLB_RST_CTRL s) (hdevice : bit v 16 = true)
include h hdevice

theorem exec_swDeviceReset_writes : exec (.swDeviceReset m v) s = .next (rstCtrlWrite v s) := by
  rw [exec_swDeviceReset_eq, execSwDeviceReset, if_pos hdevice, withWrite_of_writes h]

theorem exec_swDeviceReset_keyed (hkey : fld v 15 0 = 0xA5C3) : exec (.swDeviceReset m v) s = .next (deviceReset 2 s) := by
  rw [exec_swDeviceReset_writes h hdevice, rstCtrlWrite, if_neg (by simp [hkey]), if_pos hdevice]

theorem exec_swDeviceReset_no_key (hkey : fld v 15 0 ≠ 0xA5C3) : exec (.swDeviceReset m v) s = .next s := by
  rw [exec_swDeviceReset_writes h hdevice, rstCtrlWrite, if_pos hkey]

end software

/-- After the bare reset a device reset changes the registers, the recorder, the clock, the events and the pins alone. -/
theorem deviceReset_frame (n : Nat) (s : State) : let t := deviceReset n s
    t.pwr = { (bareReset s).pwr with devReset := true } ∧ t.pol = (bareReset s).pol ∧ t.eng = (bareReset s).eng ∧ t.cfg = (bareReset s).cfg ∧
    t.stores = (bareReset s).stores ∧ t.cry = (bareReset s).cry ∧ t.rings = (bareReset s).rings ∧ t.mem = (bareReset s).mem := by
  simp [deviceReset, clockReload, evtPinsLow]

end resets

/-! ### The TAP (R439) -/

section tap
variable {s : State} (hon : s.pwr.st ≠ .off) (tms tdi : Bool)
include hon

theorem exec_jtagTckEdge_reset (rising : Bool) : exec (.jtagTckEdge rising tms tdi false) s =
    .next { s with pwr := { s.pwr with tap := 15, tapIr := 1, tdo := none } } :=
  congrArg Host.Outcome.next ((if_neg hon).trans (if_pos rfl))

theorem exec_jtagTckEdge_rise : exec (.jtagTckEdge true tms tdi true) s = .next (tapRise tms tdi s) :=
  congrArg Host.Outcome.next ((if_neg hon).trans ((if_neg (by simp)).trans (if_pos rfl)))

theorem exec_jtagTckEdge_fall : exec (.jtagTckEdge false tms tdi true) s = .next (tapFall s) :=
  congrArg Host.Outcome.next ((if_neg hon).trans ((if_neg (by simp)).trans (if_neg (by simp))))

end tap

section tapRise
variable (tms tdi : Bool) {s : State}

theorem tapRise_tapIr (s : State) : (tapRise tms tdi s).pwr.tapIr = s.pwr.tapIr := by
  simp only [tapRise]
  split_ifs <;> rfl

theorem tapRise_captureDr (h : s.pwr.tap = 6) : (tapRise tms tdi s).pwr.tapDr = tapCapture s := by simp [tapRise, h]

theorem tapRise_captureIr (h : s.pwr.tap = 14) : (tapRise tms tdi s).pwr.tapIrShift = 1 := by simp [tapRise, h]

theorem tapRise_shiftDr (h : s.pwr.tap = 2) : (tapRise tms tdi s).pwr.tapDr =
    BitVec.ofNat 128 (s.pwr.tapDr.toNat / 2 + ofBool tdi * 2 ^ (tapLen s.pwr.tapIr - 1)) := by simp [tapRise, h, shiftDown]

theorem tapRise_shiftIr (h : s.pwr.tap = 10) : (tapRise tms tdi s).pwr.tapIrShift =
    BitVec.ofNat 4 (s.pwr.tapIrShift.toNat / 2 + ofBool tdi * 2 ^ 3) := by simp [tapRise, h, shiftDown]

end tapRise

section tapFall
variable {s : State}

theorem tapFall_updateIr (h : s.pwr.tap = 13) : tapFall s = { s with pwr := { s.pwr with tapIr := s.pwr.tapIrShift, tdo := none } } := by
  simp only [tapFall, show s.pwr.tap.toNat = 13 from congrArg BitVec.toNat h]

theorem tapFall_shiftDr (h : s.pwr.tap = 2) : tapFall s = tdoShift (s.pwr.tapDr.getLsbD 0) s := by
  simp only [tapFall, show s.pwr.tap.toNat = 2 from congrArg BitVec.toNat h]

theorem tapFall_shiftIr (h : s.pwr.tap = 10) : tapFall s = tdoShift (s.pwr.tapIrShift.getLsbD 0) s := by
  simp only [tapFall, show s.pwr.tap.toNat = 10 from congrArg BitVec.toNat h]

end tapFall

/-- Settles O59. The TAP's state codes, instruction register and IDCODE are log 40's, the PLLs' locks and the idle domains log 45's, and a
wake while Midwinter is entered log 30's. -/
theorem powerStatesAndResets : Obligations.PowerStatesAndResets := by
  unfold Obligations.PowerStatesAndResets
  refine ⟨fun s m v h => ⟨exec_frostRequest_writes h, exec_midwinterRequest_writes h, pwrReqWrite_no_key, fun hkey hreq => ?request⟩,
    fun s k => ⟨exec_wakeDetect_pin, exec_wakeDetect_run, exec_wakeDetect_off, fun hrun hoff => ?wake⟩,
    fun s => ⟨exec_thawComplete_elsewhere, fun hst => ?thaw,
      ⟨exec_rtcAlarm_idle, exec_rtcAlarm_run, fun hset hnow hrun hoff => ?alarm⟩,
      fun pll hrun => ⟨exec_pllLockLoss_locked hrun, exec_pllLockLoss_open hrun⟩⟩,
    fun s d hrun => ⟨exec_dozeEnter_idle hrun, exec_dozeEnter_busy, exec_dozeExit_running hrun d⟩,
    fun s straps ns m v => ⟨rfl, exec_resetN_long, exec_resetN_short, exec_resetN_off,
      fun h hdevice => ⟨exec_swDeviceReset_keyed h hdevice, exec_swDeviceReset_no_key h hdevice⟩, exec_pcieHotReset_running, rfl⟩,
    fun s n => ?reset, fun s tms tdi hon => ⟨exec_jtagTckEdge_reset hon tms tdi, ?rise, ?update, ?shiftDr, ?shiftIr⟩⟩
  case request =>
    rw [pwrReqWrite_keyed hkey hreq]
    exact ⟨fun why hwhy => by rw [hwhy], fun hnone => by rw [hnone]⟩
  case wake =>
    rw [exec_wakeDetect_asleep hrun hoff]
    exact ⟨fun he => congrArg Host.Outcome.next (wakeDetect_disabled he),
      fun he hst => congrArg Host.Outcome.next (wakeDetect_frost he hst),
      fun he hst => congrArg Host.Outcome.next (wakeDetect_thaw he hst),
      fun he hst => congrArg Host.Outcome.next (wakeDetect_enteringMidwinter he hst),
      fun he hst => congrArg Host.Outcome.next (wakeDetect_midwinter he hst)⟩
  case thaw =>
    rw [exec_thawComplete_thaw hst]
    exact ⟨fun hclock => by rw [if_pos (show bit (rd (thawed s) .TIME_CTRL 0 0) 0 = true from hclock)]; rfl,
      fun hclock => by rw [if_neg (Bool.eq_false_iff.mp (show bit (rd (thawed s) .TIME_CTRL 0 0) 0 = false from hclock))]; rfl⟩
  case alarm =>
    rw [exec_rtcAlarm_asleep hset hnow hrun hoff]
    exact ⟨fun hwake => congrArg Host.Outcome.next (if_pos hwake),
      fun hwake => congrArg Host.Outcome.next (if_neg (Bool.eq_false_iff.mp hwake))⟩
  case reset =>
    obtain ⟨hpwr, hpol, heng, hcfg, hstores, hcry, hrings, hmem⟩ := deviceReset_frame n s
    simp only [hpwr, hpol, heng, hcfg, hstores, hcry, hrings, hmem]
    and_intros <;> rfl
  case rise =>
    exact ⟨exec_jtagTckEdge_rise hon tms tdi, rfl, tapRise_tapIr tms tdi s, tapRise_captureDr tms tdi, tapRise_captureIr tms tdi,
      tapRise_shiftDr tms tdi, tapRise_shiftIr tms tdi⟩
  case update => exact fun htap => (exec_jtagTckEdge_fall hon tms tdi).trans (congrArg _ (tapFall_updateIr htap))
  case shiftDr => exact fun htap => (exec_jtagTckEdge_fall hon tms tdi).trans (congrArg _ (tapFall_shiftDr htap))
  case shiftIr => exact fun htap => (exec_jtagTckEdge_fall hon tms tdi).trans (congrArg _ (tapFall_shiftIr htap))

end Sys2Proof.Machine

/-! The framework and its instances (O54): the stored set, the placement of instances, their start, the requests of their peers and their
reports. -/

namespace Sys2Proof.Machine

theorem exec_statusReport_eq (inst : Nat) (x : StatusIn) (s : State) : exec (.statusReport inst x) s = execStatusReport inst x s := rfl

/-! ### The framework at work (R431, R452; log 42) -/

section advance
variable {s : State}

theorem fwAdvance_core_off (hoff : fbState s.pol.th.fb ≠ 2) : fwAdvance s = s := if_pos hoff

variable (hon : fbState s.pol.th.fb = 2)
include hon

theorem fwAdvance_core_on : fwAdvance s = match s.pwr.storedSet with
    | some c => if s.cfg.armed.isNone && s.cfg.stager.isNone then storedStage c s else s
    | none =>
      if storedArmed s then s
      else
        let s := if s.pwr.placePending then frameworkStart s else s
        let s := s.pwr.starting.foldl startInstance s
        if s.pwr.starting.isEmpty && s.pwr.booted then setB .GLB_STAT 0 0 1 s else s :=
  if_neg (not_not_intro hon)

section stored
variable {c : ConfigSet} (hstored : s.pwr.storedSet = some c)
include hstored

theorem fwAdvance_stages (harmed : s.cfg.armed = none) (hstager : s.cfg.stager = none) : fwAdvance s = storedStage c s := by
  rw [fwAdvance_core_on hon, hstored]
  exact if_pos (by simp [harmed, hstager])

theorem fwAdvance_waits (hother : s.cfg.armed ≠ none ∨ s.cfg.stager ≠ none) : fwAdvance s = s := by
  rw [fwAdvance_core_on hon, hstored]
  exact if_neg (by simpa [imp_iff_not_or] using hother)

end stored

section taken
variable (htaken : s.pwr.storedSet = none)
include htaken

theorem fwAdvance_armed (harmed : storedArmed s = true) : fwAdvance s = s := by
  rw [fwAdvance_core_on hon, htaken]
  exact if_pos harmed

/-- The framework has placed the instances and started those that can start. -/
def fwPlaced (s : State) : State :=
  let u := if s.pwr.placePending = true then frameworkStart s else s
  u.pwr.starting.foldl startInstance u

theorem fwAdvance_places (harmed : storedArmed s = false) : fwAdvance s =
    if (fwPlaced s).pwr.starting = [] ∧ (fwPlaced s).pwr.booted = true then setB .GLB_STAT 0 0 1 (fwPlaced s) else fwPlaced s := by
  rw [fwAdvance_core_on hon, htaken]
  refine (if_neg (Bool.eq_false_iff.mp harmed)).trans ?_
  exact if_congr (by simp [fwPlaced]) rfl rfl

end taken

end advance

section stage
variable {s : State} {c : ConfigSet} {new : NMap (List W32)} (hnew : new = entriesOver c.entries s.cfg.shadow)
include hnew

theorem storedStage_bad (hbad : setCheck (raise 33 { s with pwr := { s.pwr with storedSet := none } }) new ≠ none) :
    storedStage c s = let u := raise 33 { s with pwr := { s.pwr with storedSet := none } }
      { u with cfg := { u.cfg with shadow := u.cfg.active, stager := none, check := none } } := by
  subst hnew
  exact if_pos (Option.isSome_iff_ne_none.mpr hbad)

theorem storedStage_good (hgood : setCheck (raise 33 { s with pwr := { s.pwr with storedSet := none } }) new = none) :
    storedStage c s =
      let u := raise 33 { s with pwr := { s.pwr with storedSet := none } }
      let v := routesTake c.routes { u with cfg := { u.cfg with shadow := new, stager := some 3, check := some u.time.now } }
      arm none (some (BitVec.ofNat 64 (nextMicro v (now v)))) none v := by
  subst hnew
  exact if_neg (by rw [hgood]; simp)

end stage

/-! ### Placement and start (R376, R377, R382, R383) -/

section place
variable {s : State} {i : Nat} {p : Placement}

theorem plHand_holds {b : Nat} (hholds : plHolds p s b = true) : plHand p b s = s := if_pos hholds

theorem plHand_hands {b : Nat} (hother : plHolds p s b = false) : plHand p b s =
    memOwnWrite 3 (BitVec.ofNat 32 (2 ^ 31 + (16 + p.engine) * 65536)) (wr .MEM_CHSEL 0 3 (BitVec.ofNat 32 b) s) :=
  if_neg (Bool.eq_false_iff.mp hother)

theorem placeInstance_none (hnone : s.pol.placement[i]? = none) : placeInstance s i = s := by
  simp only [placeInstance, hnone]

theorem startInstance_none (hnone : s.pol.placement[i]? = none) :
    startInstance s i = { s with pwr := { s.pwr with starting := s.pwr.starting.filter (· ≠ i) } } := by
  simp only [startInstance, hnone]

variable (hp : s.pol.placement[i]? = some p)
include hp

theorem placeInstance_bad (hbad : plOk s i p = false) : placeInstance s i = plReport i p 5 s := by
  simp only [placeInstance, hp, hbad, Bool.not_false, if_true]

/-- The handovers of an entry's banks have started. -/
def banksHanded (p : Placement) (s : State) : State := (plBanks p).foldl (fun s b => plHand p b s) s

section handed
variable (hok : plOk s i p = true)
include hok

theorem placeInstance_ok : placeInstance s i =
    if (plBanks p).any fun b => countedOwner (bankOf (banksHanded p s) b) ≠ BitVec.ofNat 8 (16 + p.engine) then
      plReport i p 5 (banksHanded p s)
    else { banksHanded p s with pwr := { (banksHanded p s).pwr with starting := (banksHanded p s).pwr.starting ++ [i] } } := by
  simp only [placeInstance, hp, hok, Bool.not_true, Bool.false_eq_true, if_false]
  rfl

theorem placeInstance_kept
    (hkept : ¬ ∀ b ∈ plBanks p, countedOwner (bankOf (banksHanded p s) b) = BitVec.ofNat 8 (16 + p.engine)) :
    placeInstance s i = plReport i p 5 (banksHanded p s) := by
  rw [placeInstance_ok hp hok, if_pos (by simpa using hkept)]

theorem placeInstance_waits
    (htheirs : ∀ b ∈ plBanks p, countedOwner (bankOf (banksHanded p s) b) = BitVec.ofNat 8 (16 + p.engine)) :
    placeInstance s i =
      { banksHanded p s with pwr := { (banksHanded p s).pwr with starting := (banksHanded p s).pwr.starting ++ [i] } } := by
  rw [placeInstance_ok hp hok, if_neg (by simpa using htheirs)]

end handed

theorem startInstance_waits (hother : ∃ b ∈ plBanks p, plHolds p s b = false) : startInstance s i = s := by
  simp only [startInstance, hp]
  exact if_pos (by simpa using hother)

theorem startInstance_starts (htheirs : ∀ b ∈ plBanks p, plHolds p s b = true) : startInstance s i =
    let u := { s with pwr := { s.pwr with starting := s.pwr.starting.filter (· ≠ i) },
                      pol := { s.pol with conns := s.pol.conns.filter (·.1 / 16 ≠ i), refused := nmErase s.pol.refused i } }
    let v := if bit (rd u .MBX_BIND_LOCK 0 0) 0 then u
      else wr .MBX_BIND 0 p.doorbell (BitVec.ofNat 32 (2 ^ 31 + (8 + p.engine) * 256 + p.sender)) u
    plReport i p 1 ((plEngines p).foldl (fun s e =>
      if envEngine s e then [0, 1, 2, 3].foldl (fun s k => thEnable true (4 * e + k) s) s else s) (invalidate p v)) := by
  simp only [startInstance, hp]
  exact if_neg (by simpa using htheirs)

end place

/-! ### Requests of peers (R375; log 61) -/

section ask
variable {inst : Nat} {kinds : List (Nat × Nat × Bool)} {q : ConnReq} {s : State}

theorem connAsk_no_kind (hkind : kinds[q.kind]? = none) : connAsk inst kinds q s = s := by simp only [connAsk, hkind]

/-- A personality counts `k` things of a kind. -/
def connsSet (inst kind k : Nat) (s : State) : State :=
  { s with pol := { s.pol with conns := nmSet 0 s.pol.conns (inst * 16 + kind) k } }

variable {most size : Nat} {con : Bool} (hkind : kinds[q.kind]? = some (most, size, con))
include hkind

theorem connAsk_close (hclose : q.close = true) : connAsk inst kinds q s = connsSet inst q.kind (connsOf s inst q.kind - 1) s := by
  simp only [connAsk, hkind, hclose, if_true]
  rfl

theorem connAsk_refused (hopen : q.close = false) (hbeyond : most ≤ connsOf s inst q.kind ∨ size ≠ 0 ∧ size < q.size) :
    connAsk inst kinds q s =
      { s with pol := { s.pol with refused := nmSet 0 s.pol.refused inst (min 0xFFFFFFFF (nmGet 0 s.pol.refused inst + 1)) } } := by
  simp only [connAsk, hkind, hopen, Bool.false_eq_true, if_false]
  exact if_pos (by simpa using hbeyond)

theorem connAsk_accepted (hopen : q.close = false) (hwithin : ¬(most ≤ connsOf s inst q.kind ∨ size ≠ 0 ∧ size < q.size)) :
    connAsk inst kinds q s = connsSet inst q.kind (connsOf s inst q.kind + 1) s := by
  simp only [connAsk, hkind, hopen, Bool.false_eq_true, if_false]
  exact if_neg (by simpa using hwithin)

end ask

/-! ### Reports (R379; log 43) -/

theorem wordAt_statusBlock_rest (s : State) (inst : Nat) (p : Placement) (words : List W32) {k : Nat} (hk : 10 ≤ k) :
    wordAt (statusBlock s inst p words) k = 0 := by
  rw [wordAt, statusBlock, List.getD_append_right _ _ _ _ hk, List.getD_eq_getElem?_getD]
  exact List.getElem?_getD_replicate_default_eq _ _ _

section report
variable {s : State} {inst : Nat} {p : Placement}

theorem statusWrite_no_bank {ws : List W32} (hbanks : p.banks = 0) : statusWrite inst p ws s = s := if_pos hbanks

theorem statusWrite_awake {ws : List W32} (hbanks : p.banks ≠ 0) (hawake : (shWriteRun (.thread (4 * p.engine))
      (p.bank * 0x40000 + Config.statusPlace inst % 4096 * 64) (bytesOfWords ws) s).2.mem.stall = none) :
    statusWrite inst p ws s = (shWriteRun (.thread (4 * p.engine)) (p.bank * 0x40000 + Config.statusPlace inst % 4096 * 64)
      (bytesOfWords ws) s).2 :=
  (if_neg hbanks).trans (throughThaw_awake hawake)

theorem exec_statusReport_none (hnone : s.pol.placement[inst]? = none) (x : StatusIn) : exec (.statusReport inst x) s = .next s := by
  rw [exec_statusReport_eq, execStatusReport, hnone]

/-- A personality has served its requests and written its block, and the framework keeps it. -/
def statusKept (inst : Nat) (p : Placement) (x : StatusIn) (s : State) : State :=
  let v := x.reqs.foldl (fun s q => connAsk inst (connKinds p.code) q s) s
  let ws := statusBlock v inst p x.words
  let x := statusWrite inst p ws v
  say (.report ws) { x with pol := { x.pol with reports := nmSet [] x.pol.reports inst ws } }

/-- The blocks of a report leave on queue `q`. -/
def reportSent (q : Nat) (blocks : List (List Byte)) (s : State) : State :=
  blocks.foldl (fun s l => if l.isEmpty then s else throughThaw (rxDeliver q (fwPacket l s) false) 385 s) s

section placed
variable (hp : s.pol.placement[inst]? = some p) (hfw : fwRuns s = true) (hgw : gwRuns s p.engine = true) (x : StatusIn)
include hp hfw hgw

theorem exec_statusReport_placed : exec (.statusReport inst x) s = .next (match reportQueue (statusKept inst p x s) with
      | none => statusKept inst p x s
      | some q => reportSent q [bytesOfWords (statusBlock (x.reqs.foldl (fun s q => connAsk inst (connKinds p.code) q s) s) inst p x.words),
          statsBytes (statusKept inst p x s)] (statusKept inst p x s)) := by
  rw [exec_statusReport_eq, execStatusReport, hp]
  exact congrArg Host.Outcome.next (if_neg (by simp [hfw, hgw]))

theorem exec_statusReport_kept (hnone : reportQueue (statusKept inst p x s) = none) :
    exec (.statusReport inst x) s = .next (statusKept inst p x s) := by
  rw [exec_statusReport_placed hp hfw hgw, hnone]

theorem exec_statusReport_sent {q : Nat} (hq : reportQueue (statusKept inst p x s) = some q) : exec (.statusReport inst x) s =
    .next (reportSent q [bytesOfWords (statusBlock (x.reqs.foldl (fun s q => connAsk inst (connKinds p.code) q s) s) inst p x.words),
      statsBytes (statusKept inst p x s)] (statusKept inst p x s)) := by
  rw [exec_statusReport_placed hp hfw hgw, hq]

end placed

end report

/-- Settles O54. How the stored set is staged is log 42's choice, the place of the status block and of the counted words log 43's, and
the kinds of connections and their closing log 61's. -/
theorem instancesStartAndReport : Obligations.InstancesStartAndReport := by
  unfold Obligations.InstancesStartAndReport
  refine ⟨⟨fun s => ⟨fwAdvance_core_off, fun c hon hstored => ⟨fwAdvance_stages hon hstored, fwAdvance_waits hon hstored⟩,
        fun hon htaken => ⟨fwAdvance_armed hon htaken, fwAdvance_places hon htaken⟩⟩,
      fun s c => ⟨storedStage_bad rfl, storedStage_good rfl⟩, fun s => rfl,
      fun s i p hp => ⟨placeInstance_bad hp, placeInstance_kept hp, placeInstance_waits hp⟩,
      fun s p b => ⟨plHand_holds, plHand_hands⟩, fun s i p hp => ⟨startInstance_waits hp, startInstance_starts hp⟩,
      fun s i hnone => ⟨placeInstance_none hnone, startInstance_none hnone⟩, fun s i p state => rfl⟩,
    fun inst kinds q s => ⟨connAsk_no_kind, fun most size con hkind => ⟨connAsk_close hkind, connAsk_refused hkind, connAsk_accepted hkind⟩⟩,
    ?kinds, fun s inst p words k => ?block, fun s inst reqs words p hp hfw hgw => ?report,
    fun inst p ws s => ⟨statusWrite_no_bank, statusWrite_awake⟩, fun s inst reqs words hnone => exec_statusReport_none hnone _⟩
  case kinds => and_intros <;> rfl
  case block =>
    refine ⟨rfl, ?_, wordAt_statusBlock_rest s inst p words, rfl, rfl, rfl, rfl, rfl, rfl⟩
    rintro (rfl | rfl | rfl) <;> rfl
  case report => exact ⟨exec_statusReport_kept hp hfw hgw ⟨reqs, words⟩, fun q => exec_statusReport_sent hp hfw hgw ⟨reqs, words⟩⟩

end Sys2Proof.Machine

/-! The framework and the gateway (O53): wake rules and the rules of a wake cause, holds that pass, adaptation periods, map switches and
recirculated records. -/

namespace Sys2Proof.Machine

theorem exec_mapSwitch_eq (inst : Nat) (s : State) : exec (.mapSwitch inst) s = execMapSwitch inst s := rfl

/-! ### Wake rules (R355, R356; log 43) -/

section wakeRules
variable {s : State}

theorem exec_wakeRuleApply_runs (hfw : fwRuns s = true) (g : Fin 8) (i : Nat) :
    exec (.wakeRuleApply g i) s = .next (wakeApply (wakeRules s g i) s) :=
  congrArg Host.Outcome.next (if_neg (by simp [hfw]))

/-- The rules that wake channel `c`. -/
def wakesChannel (rs : List (List W32)) (c : Nat) : List (List W32) := rs.filter fun e => bit (wordAt e 1) c

/-- The channels that the rules name are woken, each with the longest hold. -/
def channelsWoken (rs : List (List W32)) (s : State) : State := (List.range 32).foldl (fun s c =>
  if wakesChannel rs c = [] then s else wakeChannel (longestHold ((wakesChannel rs c).map fun e => fld (wordAt e 3) 15 0)) c s) s

theorem wakeApply_eq (rs : List (List W32)) (s : State) : wakeApply rs s = (List.range 24).foldl
    (fun s n => if ∃ e ∈ rs, bit (wordAt e 2) n = true then wakeBranch n s else s) (channelsWoken rs s) := by
  have hchannel : ∀ (s : State) (c : Nat), (match rs.filter fun e => bit (wordAt e 1) c with
      | [] => s
      | l => wakeChannel (longestHold (l.map fun e => fld (wordAt e 3) 15 0)) c s) =
      if wakesChannel rs c = [] then s
      else wakeChannel (longestHold ((wakesChannel rs c).map fun e => fld (wordAt e 3) 15 0)) c s := by
    intro s c
    rw [wakesChannel]
    cases rs.filter fun e => bit (wordAt e 1) c <;> rfl
  calc wakeApply rs s
      = (List.range 24).foldl (fun s n => if rs.any fun e => bit (wordAt e 2) n then wakeBranch n s else s) (channelsWoken rs s) :=
        congrArg (List.foldl (fun s n => if rs.any fun e => bit (wordAt e 2) n then wakeBranch n s else s) · (List.range 24))
          (congrArg (List.foldl · s (List.range 32)) (funext fun s => funext (hchannel s)))
    _ = _ := by simp only [List.any_eq_true]

theorem causeApply_due (hdue : s.pwr.causeDue = true) (hfw : fwRuns s = true) : causeApply s =
    wakeApply ((causeTriggers s).flatMap fun x => wakeRules s x.1 x.2) { s with pwr := { s.pwr with causeDue := false } } :=
  if_neg (by simp [hdue, hfw])

theorem causeApply_idle (hidle : s.pwr.causeDue = false ∨ fwRuns s = false) : causeApply s = s :=
  if_pos (by rcases hidle with h | h <;> simp [h])

/-- A latched wake cause stands for the trigger of its channel, branch or pin. -/
theorem mem_causeTriggers {k : Nat} (hk : k < 19) (hlatched : bit (rd s .CLK_WAKE_CAUSE 0 0) k = true) {x : Nat × Nat}
    (hx : x ∈ if k < 8 then [(1, k)] else if k < 12 then [(2, k - 8)] else if k < 16 then [(3, k - 12)] else []) :
    x ∈ causeTriggers s := by
  refine List.mem_dedup.mpr (List.mem_flatMap.mpr ⟨k, List.mem_range.mpr hk, ?_⟩)
  rw [if_neg (by simp [hlatched])]
  exact List.mem_append_left _ hx

theorem wakeChannel_may {hold c : Nat} (hmay : mayGovern .CAN_SLEEP c (putFld (rd s .CAN_SLEEP 0 c) 1 0 2) s = true) :
    wakeChannel hold c s =
      let v := putFld (rd s .CAN_SLEEP 0 c) 1 0 2
      let u := withWrite 3 .CAN_SLEEP 0 v (sleepWrite c v) (wr .CAN_CHSEL 0 3 (BitVec.ofNat 32 c) s)
      { u with pol := { u.pol with wakeHold := nmSet (0, 0) u.pol.wakeHold c (hold, u.time.now) } } := if_pos hmay

theorem wakeChannel_barred {hold c : Nat} (hbarred : mayGovern .CAN_SLEEP c (putFld (rd s .CAN_SLEEP 0 c) 1 0 2) s = false) :
    wakeChannel hold c s =
      let v := putFld (rd s .CAN_SLEEP 0 c) 1 0 2
      withWrite 3 .CAN_SLEEP 0 v (sleepWrite c v) (wr .CAN_CHSEL 0 3 (BitVec.ofNat 32 c) s) := if_neg (Bool.eq_false_iff.mp hbarred)

theorem exec_wakeRuleHoldExpiry_early {c : Fin 32} (hearly : holdPassed s c = false) : exec (.wakeRuleHoldExpiry c) s = .next s :=
  congrArg Host.Outcome.next (if_neg (Bool.eq_false_iff.mp hearly))

theorem exec_wakeRuleHoldExpiry_passed {c : Fin 32} (hpassed : holdPassed s c = true) :
    exec (.wakeRuleHoldExpiry c) s = .next (holdSleep c s) := congrArg Host.Outcome.next (if_pos hpassed)

end wakeRules

/-! ### Adaptation periods (R373, R374, R378) -/

section period
variable {s : State}

theorem exec_adaptationPeriod_runs (hfw : fwRuns s = true) (acts : List AdaptAct) : exec (.adaptationPeriod acts) s =
    let u := (actOrder acts).foldl adaptTake (measureAll s)
    .next { u with pol := { u.pol with periods := u.pol.periods + 1 } } := congrArg Host.Outcome.next (if_pos hfw)

section measure
variable {r : Reg} {key : Nat} (hreg : allRegs.find? (fun x => x.ctorIdx = key % 1024) = some r)
include hreg

theorem measure1_other (hother : measured r = false) : measure1 s key = s := by
  simp only [measure1, hreg, hother, Bool.not_false, if_true]

theorem measure1_counter (hmeasured : measured r = true) (hnarrow : ∀ k < 4, (c64Reg k).1 ≠ r) : measure1 s key =
    let u := wr r (key / 1024 % 1024) (key / 2 ^ 20) 0 s
    let total := if r.desc.per = 0 then key % 2 ^ 20 else key
    let n := (rd s r (key / 1024 % 1024) (key / 2 ^ 20)).toNat
    { u with pol := { u.pol with stats := nmSet 0 u.pol.stats total ((nmGet 0 u.pol.stats total + n) % 2 ^ 64) } } := by
  have hnone : ([0, 1, 2, 3].find? fun k => (c64Reg k).1 = r) = none := by
    refine List.find?_eq_none.mpr fun k hk => ?_
    have hlt : k < 4 := by simp at hk; omega
    simpa using hnarrow k hlt
  simp only [measure1, hreg, hmeasured, counterTake, hnone, Bool.not_true, Bool.false_eq_true, if_false]
  rfl

end measure

end period

/-! ### Map switches (R382) -/

theorem exec_mapSwitch_rung {s : State} {inst : Nat} {p : Placement} (hp : s.pol.placement[inst]? = some p) (hrun : running s = true)
    (hbell : p.doorbell < 64) (hfull : (mbxOf s p.doorbell).full = true)
    (hon : fbState (thOf s (Fin.ofNat 97 (4 * p.engine))).fb = 2) : exec (.mapSwitch inst) s =
      let d := dbTake (.port (Fin.ofNat 97 (4 * p.engine))) p.doorbell s
      let sel := ofBool (bit d.1 0)
      .next (throughThaw (fun u => (shWriteRun (.thread (4 * p.engine)) (p.bank * 0x40000 + 16) (leBytes 4 sel) u).2) 385
        { d.2 with pol := { d.2.pol with mapSel := nmSet 0 d.2.pol.mapSel inst sel } }) := by
  rw [exec_mapSwitch_eq, execMapSwitch, hp]
  exact congrArg Host.Outcome.next (if_neg (by rw [hrun, hon, hfull]; simp [hbell]))

/-! ### Recirculation (R362) -/

section recirculation
variable {q : Fin 4096} {s : State}

/-- What the recirculator takes from queue `q`. -/
def recircGot (q : Fin 4096) (s : State) : Option (List Byte × Bool × BitVec 128) × State :=
  takePacket .fabric (qUse s q + 1) q 0x5A [] false none s

/-- A recirculated record that cannot be tagged is counted and dropped. -/
def recircDrop (s : State) : State := raise 280 (count32 .CRY_RECIRC_DROP 0 0 s)

/-- The record under the profile that its descriptor names. -/
def recircTag (l : List Byte) (d : BitVec 128) (s : State) : Nat × List Byte × State :=
  tagRecord (fld (dWord d 3) 23 16) userHw l s.time.now s.time.now s

/-- The tagged record returns at F26. -/
def recircBack (q : Fin 4096) (l : List Byte) (d : BitVec 128) (s : State) : State :=
  fabTake (queueFrame q (recircTag l d s).2.1 d (recircTag l d s).2.2) (some (fld (dWord d 1) 15 13)) false none (recircTag l d s).2.2

/-- One act of the recirculator. -/
def recirc (q : Fin 4096) (s : State) : State :=
  match recircGot q s with
  | (none, u) => u
  | (some (l, bad, d), u) => if bad || (recircTag l d u).1 ≠ crOk then recircDrop u else recircBack q l d u

theorem recirc_empty (hnone : (recircGot q s).1 = none) : recirc q s = (recircGot q s).2 := by
  rw [recirc, show recircGot q s = (none, (recircGot q s).2) from Prod.ext hnone rfl]

section taken
variable {l : List Byte} {bad : Bool} {d : BitVec 128} (hsome : (recircGot q s).1 = some (l, bad, d))
include hsome

theorem recirc_taken : recirc q s = if bad || (recircTag l d (recircGot q s).2).1 ≠ crOk then recircDrop (recircGot q s).2
    else recircBack q l d (recircGot q s).2 := by
  rw [recirc, show recircGot q s = (some (l, bad, d), (recircGot q s).2) from Prod.ext hsome rfl]

theorem recirc_drops (hbad : bad = true ∨ (recircTag l d (recircGot q s).2).1 ≠ crOk) : recirc q s = recircDrop (recircGot q s).2 := by
  rw [recirc_taken hsome, if_pos (by simpa using hbad)]

theorem recirc_returns (hgood : bad = false) (htagged : (recircTag l d (recircGot q s).2).1 = crOk) :
    recirc q s = recircBack q l d (recircGot q s).2 := by
  rw [recirc_taken hsome, if_neg (by simp [hgood, htagged])]

end taken

variable (hrun : running s = true) (hbound : qConsumer s q = 0x5A)
include hrun hbound

theorem exec_recircPacket_bound : exec (.recircPacket q) s = .next (unlessAsleep (recirc q) s) :=
  congrArg Host.Outcome.next (if_neg (by simp [hrun, hbound]))

theorem exec_recircPacket_awake {u : State} (hu : recirc q s = u) (hawake : u.mem.stall = none) :
    exec (.recircPacket q) s = .next u := by
  subst hu
  rw [exec_recircPacket_bound hrun hbound, unlessAsleep_awake hawake]

theorem exec_recircPacket_asleep {b : Nat} (hasleep : (recirc q s).mem.stall = some b) :
    exec (.recircPacket q) s = .next (bankTouch b s) := by
  rw [exec_recircPacket_bound hrun hbound, unlessAsleep_asleep hasleep]

end recirculation

/-- Settles O53. The counters that a period measures and their totals, the order of the acts, and the wake actions through CAN_SLEEP and
STAR_BR_CTRL are log 43's choices. -/
theorem gatewayAndFramework : Obligations.GatewayAndFramework := by
  unfold Obligations.GatewayAndFramework
  refine ⟨fun s g i hfw => ?rules, fun s => ⟨causeApply_due, causeApply_idle, fun k hk hlatched => ?channel,
      fun k hk => ⟨fun hlatched => ?branch, fun hlatched => ?pin⟩⟩,
    fun s hold c => ⟨wakeChannel_may, wakeChannel_barred⟩, fun s n => rfl,
    fun s c => ⟨exec_wakeRuleHoldExpiry_early, exec_wakeRuleHoldExpiry_passed⟩, fun s acts hfw => exec_adaptationPeriod_runs hfw acts,
    fun s r key hreg => ⟨measure1_other hreg, measure1_counter hreg⟩, fun s a => rfl,
    fun s inst p hp hrun hbell hfull hon => exec_mapSwitch_rung hp hrun hbell hfull hon, fun s q hrun hbound => ?recirc,
    fun f s n => ⟨throughThaw_awake, fun b => throughThaw_asleep⟩⟩
  case rules =>
    rw [exec_wakeRuleApply_runs hfw, wakeApply_eq]
    rfl
  case channel => exact mem_causeTriggers (by omega) hlatched (by simp [hk])
  case branch => exact mem_causeTriggers (by omega) hlatched (by rw [if_neg (by omega), if_pos (by omega)]; simp)
  case pin => exact mem_causeTriggers (by omega) hlatched (by rw [if_neg (by omega), if_neg (by omega), if_pos (by omega)]; simp)
  case recirc =>
    refine ⟨fun hnone hawake => exec_recircPacket_awake hrun hbound (recirc_empty hnone) hawake, fun b hnone hasleep => ?asleep,
      fun l bad d hsome => ⟨fun hbad hawake => exec_recircPacket_awake hrun hbound (recirc_drops hsome hbad) hawake,
        fun hgood htagged hawake => exec_recircPacket_awake hrun hbound (recirc_returns hsome hgood htagged) hawake⟩⟩
    exact exec_recircPacket_asleep hrun hbound ((congrArg (·.mem.stall) (recirc_empty hnone)).trans hasleep)

end Sys2Proof.Machine

/-! Signal routes (O52): the bits of a field, the source payload of a route, what a source frame and a packet taken from a queue do, the
PDUs that leave, cyclic sends and deadlines. -/

namespace Sys2Proof.Machine

theorem exec_signalSourceFrame_eq (r : Fin 8192) (n : Fin 24) (q : Fin 4096) (s : State) :
    exec (.signalSourceFrame r n q) s = execSignalSourceFrame r n q s := rfl

/-! ### Bits of a field (R350) -/

section bits
variable (f : Nat → Bool)

theorem testBit_ofBool (b : Bool) (j : Nat) : (ofBool b).testBit j = (decide (j = 0) && b) := by
  cases b with
  | false => simp [ofBool]
  | true => cases j <;> simp [ofBool, Nat.testBit_add_one]

/-- Bits summed at their powers stand in their order. -/
theorem testBit_sumBits (n j : Nat) :
    ((List.range n).foldl (fun v i => v + ofBool (f i) * 2 ^ i) 0).testBit j = (decide (j < n) && f j) := by
  induction n generalizing j with
  | zero => simp
  | succ n ih =>
    have hlt : (List.range n).foldl (fun v i => v + ofBool (f i) * 2 ^ i) 0 < 2 ^ n :=
      Nat.lt_pow_two_of_testBit _ fun k hk => by simp [ih, Nat.not_lt.mpr hk]
    rw [List.range_succ, List.foldl_concat, Nat.add_comm, Nat.mul_comm, Nat.testBit_two_pow_mul_add _ hlt, ih, testBit_ofBool]
    rcases Nat.lt_trichotomy j n with hj | rfl | hj
    · simp [hj, Nat.lt_succ_of_lt hj]
    · simp
    · simp [Nat.not_lt.mpr hj.le, Nat.sub_ne_zero_of_lt hj, Nat.not_lt.mpr (Nat.succ_le_of_lt hj)]

/-- Bits shifted in one after another stand in the reverse of their order. -/
theorem testBit_shiftBits (n j : Nat) :
    ((List.range n).foldl (fun v i => v * 2 + ofBool (f i)) 0).testBit j = (decide (j < n) && f (n - 1 - j)) := by
  induction n generalizing j with
  | zero => simp
  | succ n ih =>
    have hlt : ofBool (f n) < 2 ^ 1 := by cases f n <;> simp [ofBool]
    rw [List.range_succ, List.foldl_concat, Nat.mul_comm, ← Nat.pow_one 2, Nat.testBit_two_pow_mul_add _ hlt, ih, testBit_ofBool]
    cases j with
    | zero => simp
    | succ j => simp [Nat.sub_sub, Nat.add_comm 1]

theorem sigGet_short {big : Bool} {l : List Byte} {a n : Nat} (hshort : l.length * 8 < a + n) : sigGet big l a n = none := if_pos hshort

/-- The payload bit that holds bit `i` of a field. -/
def fieldBit (big : Bool) (l : List Byte) (a n i : Nat) : Bool :=
  if big then (byteAt l ((a + n - 1 - i) / 8)).getLsbD (7 - (a + n - 1 - i) % 8) else (byteAt l ((a + i) / 8)).getLsbD ((a + i) % 8)

theorem sigGet_long {big : Bool} {l : List Byte} {a n : Nat} (hlong : a + n ≤ l.length * 8) (hn : n ≤ 32) :
    ∃ v, sigGet big l a n = some v ∧ ∀ i, v.getLsbD i = (decide (i < n) && fieldBit big l a n i) := by
  refine ⟨_, if_neg (Nat.not_lt.mpr hlong), fun i => ?_⟩
  rw [BitVec.getLsbD_ofNat]
  cases big with
  | false =>
    simp only [Bool.false_eq_true, if_false, testBit_sumBits, sigBit, fieldBit]
    by_cases hi : i < n
    · simp [hi, Nat.lt_of_lt_of_le hi hn]
    · simp [hi]
  | true =>
    simp only [if_true, testBit_shiftBits, sigBit, fieldBit]
    by_cases hi : i < n
    · rw [show a + (n - 1 - i) = a + n - 1 - i by omega]
      simp [hi, Nat.lt_of_lt_of_le hi hn]
    · simp [hi]

end bits

/-! ### Source frames (R350 to R354) -/

section sources
variable {s : State} {r : Nat} {e : List W32} {payload : List Byte} {stamp : W64}

theorem sgUpdate_short (hshort : sigGet (sgBig e) payload (fld (wordAt e 2) 13 0) (sgLen e) = none) :
    sgUpdate payload stamp r e s = (false, gwBump (sgEngine e) true s) := by simp only [sgUpdate, hshort]

theorem sgUpdate_places {v : W32} (hfield : sigGet (sgBig e) payload (fld (wordAt e 2) 13 0) (sgLen e) = some v) :
    sgUpdate payload stamp r e s =
      ((sgState s r).substituted || decide ((sgState s r).value ≠ v), setSig r ⟨v, true, false, stamp⟩ s) := by
  simp only [sgUpdate, hfield]

section payload
variable {port ptag : Nat} {l : List Byte}

theorem sgPayload_eth (hmedium : fld (wordAt e 0) 1 0 = 0) : sgPayload e port ptag l =
    if (port < 16 ∨ 20 ≤ port) ∧ ptag = fld (wordAt e 1) 28 0 % 0x10000 then some (l.drop (ethL3 l)) else none := by
  simp only [sgPayload, hmedium, Bool.and_eq_true, Bool.or_eq_true, decide_eq_true_eq]

theorem sgPayload_can (hmedium : fld (wordAt e 0) 1 0 = 1) : sgPayload e port ptag l =
    if (16 ≤ port ∧ port ≠ 18) ∧ canIde l = bit (wordAt e 0) 2 ∧ canId l = fld (wordAt e 1) 28 0 then some (canData l) else none := by
  simp only [sgPayload, hmedium, Bool.and_eq_true, decide_eq_true_eq, and_assoc]

theorem sgPayload_star (hmedium : fld (wordAt e 0) 1 0 = 2) : sgPayload e port ptag l =
    if 18 ≤ port ∧ starSlot l = fld (wordAt e 1) 28 0 % 1024 then some (slice l 4 (starLen l)) else none := by
  simp only [sgPayload, hmedium, Bool.and_eq_true, decide_eq_true_eq]

end payload

/-- Of one route: an update of a route that the frame names, and the route itself when that is a change on which it sends. -/
def sgStep (port ptag : Nat) (l : List Byte) (stamp : W64) (k : List (Nat × List W32) × State) (x : Nat × List W32) :
    List (Nat × List W32) × State :=
  match sgPayload x.2 port ptag l with
  | none => k
  | some payload =>
    let w := sgUpdate payload stamp x.1 x.2 k.2
    (if w.1 && sgRule x.2 0 then k.1 ++ [x] else k.1, w.2)

/-- The routes of engine `n` on queue `q`. -/
def sgOn (n q : Nat) (routes : List (Nat × List W32)) : List (Nat × List W32) :=
  routes.filter fun x => sgEngine x.2 = n && sgSrc x.2 = q

variable {n q port ptag : Nat} {l : List Byte}

theorem sgFrame_eq : sgFrame n q port ptag l stamp s =
    let u := (sgOn n q (sgRoutes s stamp)).foldl (sgStep port ptag l stamp) ([], s)
    sendPdus (sgRoutes s stamp) u.1 u.2 := rfl

/-- No route is due to send. -/
theorem sendPdus_nil (routes : List (Nat × List W32)) (s : State) : sendPdus routes [] s = s := rfl

theorem sendPdus_one (routes : List (Nat × List W32)) (x : Nat × List W32) (s : State) : sendPdus routes [x] s =
    let k := sgTemplate x.2
    let q := fld (wordAt x.2 3) 27 16
    throughThaw (putPdu (sgEngine x.2) k q (pduOf s k routes)) 385 (say (.pdu q (pduOf s k routes)) s) := by
  simp only [sendPdus, List.map_cons, List.map_nil, (List.nodup_singleton _).dedup, List.foldl_cons, List.foldl_nil, List.find?_cons,
    decide_true]

section one
variable {x : Nat × List W32} (hone : sgOn n q (sgRoutes s stamp) = [x])
include hone

theorem sgFrame_unnamed (hnone : sgPayload x.2 port ptag l = none) : sgFrame n q port ptag l stamp s = s := by
  simp only [sgFrame_eq, hone, List.foldl_cons, List.foldl_nil, sgStep, hnone, sendPdus_nil]

section named
variable {payload : List Byte} (hpayload : sgPayload x.2 port ptag l = some payload)
include hpayload

theorem sgFrame_silent (hsilent : ((sgUpdate payload stamp x.1 x.2 s).1 && sgRule x.2 0) = false) :
    sgFrame n q port ptag l stamp s = (sgUpdate payload stamp x.1 x.2 s).2 := by
  simp only [sgFrame_eq, hone, List.foldl_cons, List.foldl_nil, sgStep, hpayload, hsilent, Bool.false_eq_true, if_false, sendPdus_nil]

theorem sgFrame_sends (hsends : ((sgUpdate payload stamp x.1 x.2 s).1 && sgRule x.2 0) = true) :
    sgFrame n q port ptag l stamp s = sendPdus (sgRoutes s stamp) [x] (sgUpdate payload stamp x.1 x.2 s).2 := by
  simp only [sgFrame_eq, hone, List.foldl_cons, List.foldl_nil, sgStep, hpayload, hsends, if_true, List.nil_append]

end named

end one

end sources

/-! ### Packets taken from a queue (05 R127; log 44) -/

section take
variable {s : State} {n q : Nat}

/-- What engine `n` takes from queue `q`. -/
def sgGot (n q : Nat) (s : State) : Option (List Byte × Bool × BitVec 128) × State :=
  takePacket (.thread (4 * n + 3)) (qUse s q + 1) q (8 + n) [] false none s

/-- The descriptors of what was taken are freed, unless the queue flushes. -/
def sgFreed (n q : Nat) (s : State) : State := if qFlushMode s q = true then s else (qRelease q (8 + n) s).2

theorem sgTake_empty (hnone : (sgGot n q s).1 = none) : sgTake n q s = (sgGot n q s).2 := by
  rw [sgTake, ← sgGot, show sgGot n q s = (none, (sgGot n q s).2) from Prod.ext hnone rfl]

variable {l : List Byte} {d : BitVec 128}

theorem sgTake_taken {bad : Bool} (hsome : (sgGot n q s).1 = some (l, bad, d)) : sgTake n q s =
    let free := sgFreed n q (sgGot n q s).2
    if bad then free else sgFrame n q (fld (dWord d 1) 10 6) (fld (dWord d 3) 31 16) l (widenStamp free (dWord d 2)) free := by
  rw [sgTake, ← sgGot, show sgGot n q s = (some (l, bad, d), (sgGot n q s).2) from Prod.ext hsome rfl]
  rfl

section frame
variable {r : Fin 8192} {n : Fin 24} {q : Fin 4096}

theorem sgNames_iff {r n q : Nat} : sgNames s r n q = true ↔
    ((sgValid (tbl s 13 r) = true ∧ sgEngine (tbl s 13 r) = n ∧ sgSrc (tbl s 13 r) = q) ∨
      ∃ x ∈ s.pol.sigPrev, sgValid (nmGet [] x.2 (tblKey 13 r)) = true ∧ sgEngine (nmGet [] x.2 (tblKey 13 r)) = n ∧
        sgSrc (nmGet [] x.2 (tblKey 13 r)) = q) := by
  simp only [sgNames, Bool.or_eq_true, Bool.and_eq_true, decide_eq_true_eq, List.any_eq_true, and_assoc]

theorem exec_signalSourceFrame_named (hnamed : sgNames s r n q = true) (hgw : gwRuns s n = true) :
    exec (.signalSourceFrame r n q) s = .next (throughThaw (sgTake n q) 385 s) := by
  rw [exec_signalSourceFrame_eq, execSignalSourceFrame, if_pos (by rw [hnamed, hgw]; rfl)]

theorem exec_signalSourceFrame_idle (hidle : ¬ sgNames s r n q = true ∨ gwRuns s n = false) :
    exec (.signalSourceFrame r n q) s = .next s := by
  rw [exec_signalSourceFrame_eq, execSignalSourceFrame, if_neg (by rcases hidle with h | h <;> simp [h])]

end frame

end take

/-! ### Cyclic sends and deadlines (R352, R353) -/

section deadline
variable {s : State} {r : Fin 8192}

theorem exec_signalCyclicSend_early (hearly : cyclicDue s (tbl s 13 r) = false) : exec (.signalCyclicSend r) s = .next s := by
  refine congrArg Host.Outcome.next (?_ : cyclicSends [(r.val, tbl s 13 r)] s = s)
  simp only [cyclicSends, List.filter_cons, hearly, Bool.false_eq_true, if_false, List.filter_nil, sendPdus_nil]

theorem exec_signalCyclicSend_due (hdue : cyclicDue s (tbl s 13 r) = true) :
    exec (.signalCyclicSend r) s = .next (sendPdus (sgRoutes s s.time.now) [(r.val, tbl s 13 r)] s) := by
  refine congrArg Host.Outcome.next (?_ : cyclicSends [(r.val, tbl s 13 r)] s = _)
  simp only [cyclicSends, List.filter_cons, hdue, if_true, List.filter_nil]

theorem exec_signalDeadline_early (hearly : sgLate s r (tbl s 13 r) = false) : exec (.signalDeadline r) s = .next s :=
  congrArg Host.Outcome.next (if_pos (by rw [hearly]; rfl))

/-- Route `r` has entered substitution. -/
def sgSubstituted (r : Nat) (e : List W32) (s : State) : State :=
  gwBump (sgEngine e) false (setSig r { sgState s r with substituted := true } s)

theorem exec_signalDeadline_late (hlate : sgLate s r (tbl s 13 r) = true) : exec (.signalDeadline r) s =
    let u := sgSubstituted r (tbl s 13 r) s
    .next (if sgRule (tbl s 13 r) 0 then sendPdus (sgRoutes u u.time.now) [(r.val, tbl s 13 r)] u else u) :=
  congrArg Host.Outcome.next (if_neg (by rw [hlate]; simp))

end deadline

/-- Settles O52. That one row serves all routes of a frame and the tick of a cyclic send are log 44's choices, the place of a PDU is
log 58's. -/
theorem signalRoutes : Obligations.SignalRoutes := by
  unfold Obligations.SignalRoutes
  refine ⟨fun big l a n => ⟨sigGet_short, fun hlong hn => ?field⟩, fun s r e payload stamp => ⟨sgUpdate_short, fun v => sgUpdate_places⟩,
    fun e port ptag l => ⟨sgPayload_eth, sgPayload_can, sgPayload_star⟩,
    fun s n q port ptag l stamp => ⟨fun x hone => ⟨sgFrame_unnamed hone, fun payload hpayload =>
      ⟨sgFrame_silent hone hpayload, sgFrame_sends hone hpayload⟩⟩, sgFrame_eq⟩,
    fun s n q => ⟨sgTake_empty, fun l d => sgTake_taken, fun l d => sgTake_taken⟩, fun s r n q => ?frame,
    fun s routes x => sendPdus_one routes x s, fun s e k q l => rfl,
    fun s r => ⟨exec_signalCyclicSend_early, exec_signalCyclicSend_due, exec_signalDeadline_early,
      fun hlate hsilent => ?silent, fun hlate hsends => ?sends⟩⟩
  case field =>
    obtain ⟨v, hget, hbits⟩ := sigGet_long (big := big) hlong hn
    exact ⟨v, hget, fun i hi => by simp [hbits, Nat.not_lt.mpr hi], fun i hi => by rw [hbits, decide_eq_true hi]; rfl⟩
  case frame =>
    intro names named
    have hiff : sgNames s r n q = true ↔ named := sgNames_iff
    exact ⟨fun hnamed hgw hawake =>
        (exec_signalSourceFrame_named (hiff.mpr hnamed) hgw).trans (congrArg Host.Outcome.next (throughThaw_awake hawake)),
      fun hnamed => exec_signalSourceFrame_named (hiff.mpr hnamed),
      fun hother => exec_signalSourceFrame_idle (.inl (mt hiff.mp hother)), fun hgw => exec_signalSourceFrame_idle (.inr hgw)⟩
  case silent =>
    exact (exec_signalDeadline_late hlate).trans (congrArg Host.Outcome.next (if_neg (Bool.eq_false_iff.mp hsilent)))
  case sends => exact (exec_signalDeadline_late hlate).trans (congrArg Host.Outcome.next (if_pos hsends))

end Sys2Proof.Machine
